-- ==== Sys2Proof/Word.lean ====
section
/-! DEFINITION. The words of the machine (R45, R53, R64) and the one sparse table in which the state keeps every
large collection. The operations on the table stand in `Machine/Tab.lean`. -/
namespace Sys2Proof

/-- One byte (R7: multi-byte values are little-endian). -/
abbrev Byte := BitVec 8

/-- The 64-bit word: an instruction word (R45), a scalar register (R64), a token payload (R23). -/
abbrev W64 := BitVec 64

/-- One 32-bit lane of a lane register (R64). -/
abbrev Lane := BitVec 32

/-- A sparse table: pairs of a key and a value, keys strictly rising. A key that is not listed stands for the
table's default. -/
abbrev Tab (α : Type) := List (Nat × α)

end Sys2Proof
end

