-- ==== Sys2Proof/Syntax.lean ====
section
/-! DEFINITION. The instruction set as data: one constructor of `Instr` for each row of the table of operations and
events. The first 152 constructors are the instructions of R57 and R58, with their operands already taken apart
(R48, R51, R54); the others are the events, the part's other indivisible steps, with the parameters that name what
they act on. The guard and the predicate update of a word (R45) are not part of `Instr`; they stand in `Guard` and
`Upd`. -/
namespace Sys2Proof

/-- The special operand values (R29), in the order of their codes. -/
inductive Special where
  | zero | one | lane | elid | stnid | nstn | dieid | ndie | invix | cyc | pst
  deriving DecidableEq, Repr

abbrev VReg := Fin 32
abbrev SReg := Fin 16
/-- A channel number: input channels C0-C7, output channels O0-O7. -/
abbrev Chan := Fin 8

/-- An operand code (R48). `c ch k` reads channel `ch` under sticky selector K`k`. -/
inductive Src where
  | v (n : VReg)
  | s (n : SReg)
  | c (ch : Chan) (k : Fin 4)
  | sp (x : Special)
  | imm (i : BitVec 7)
  deriving DecidableEq, Repr

/-- A destination code (R51). `k n` is the sticky count K`n+1`. -/
inductive Dst where
  | v (n : VReg)
  | s (n : SReg)
  | o (n : Chan)
  | discard
  | p (n : Fin 8)
  | k (n : Fin 3)
  | pst
  | lm
  deriving DecidableEq, Repr

/-- Integer types (R53): `i` signed, `n` without sign. -/
inductive IntTy where
  | i8 | n8 | i16 | n16 | i32 | n32 | i64 | n64
  deriving DecidableEq, Repr

/-- Floating types of the lane instructions (R53). -/
inductive FTy where
  | fp16 | bf16 | fp32
  deriving DecidableEq, Repr

/-- The two FP8 types (R53). -/
inductive F8 where
  | e4m3 | e5m2
  deriving DecidableEq, Repr

/-- Any defined type code (R53). -/
inductive Ty where
  | int (t : IntTy)
  | f8 (t : F8)
  | fl (t : FTy)
  deriving DecidableEq, Repr

inductive Cond where
  | eq | ne | lt | le | gt | ge
  deriving DecidableEq, Repr

inductive FCond where
  | eq | ne | lt | le | gt | ge | un | ord
  deriving DecidableEq, Repr

/-- Rounding modes (R54). -/
inductive Rnd where
  | rne | rtz | rdn | rup
  deriving DecidableEq, Repr

/-- Element widths 8, 16, 32 and 64 (R334). -/
inductive Width where
  | w8 | w16 | w32 | w64
  deriving DecidableEq, Repr

/-- Scopes (R167). -/
inductive Scope where
  | region | die | package | system
  deriving DecidableEq, Repr

/-- Token tags (R23). -/
inductive Tag where
  | dat | eoi | ord | usr
  deriving DecidableEq, Repr

/-- ATOM's operations (R331). -/
inductive AtomOp where
  | add | and | or | xor | swap | min | max
  deriving DecidableEq, Repr

/-- FATOM's operations (R362). -/
inductive FAtomOp where
  | add | min | max
  deriving DecidableEq, Repr

/-- Reduction operations (R410). -/
inductive RedOp where
  | add | min | max
  deriving DecidableEq, Repr

/-- Signal conditions (R422). -/
inductive SigCond where
  | ge | eq | ne | lt | all | any
  deriving DecidableEq, Repr

/-- Junction data formats (R124). -/
inductive JFmt where
  | e4m3 | e5m2 | fp16 | bf16 | i8
  deriving DecidableEq, Repr

/-- Access sizes of LDG and STG (R382). -/
inductive Size where
  | natural | b1 | b2 | b4
  deriving DecidableEq, Repr

/-- System registers (R65), in the order of their numbers. -/
inductive SysReg where
  | cause | faddr | ivec | oor | epc | status | prio | nstn | rsdepth | rspill | rslimit | migth | part
  deriving DecidableEq, Repr

/-- WAIT's kinds (R447). -/
inductive WaitKind where
  | cyc | land | dcnt
  deriving DecidableEq, Repr

/-- Predicate update (R45, R17). -/
inductive Upd where
  | none
  | set (n : Fin 8)
  | clear (n : Fin 8)
  | toggle (n : Fin 8)
  deriving DecidableEq, Repr

/-- The guard of a word (R45, R15): `test` is the tag test, when TEN = 1. -/
structure Guard where
  care : BitVec 8
  val : BitVec 8
  test : Option (Chan × Tag)
  deriving DecidableEq, Repr

/-! ### The loader's input: a graph as Polesh source describes it (R72, R73) -/

/-- One destination of an `.arc` line, with its inbox floor (R24, R85). `rel` is a relative station. -/
structure ArcDst where
  rel : Nat
  el : Nat
  ch : Nat
  floor : Nat
  deriving DecidableEq, Repr

/-- An `.arc` line: output channel `o` bound to one to four destinations. -/
structure ArcDecl where
  o : Nat
  dsts : List ArcDst
  deriving DecidableEq, Repr

/-- A `.data` line (R72). -/
inductive DataInit where
  | v (n : Nat) (lanes : List Lane)
  | s (n : Nat) (val : W64)
  | sBlock (n : Nat) (block : Nat)      -- the handle of the station's block number `block`
  | p (n : Nat) (b : Bool)
  | lm (mask : BitVec 128)
  deriving DecidableEq, Repr

/-- An element section (R72, R73). For a sequenced unit, `lo` to `hi - 1` are the words of its own section. -/
structure ElemDecl where
  en : Nat
  fuse : Nat
  seq : Bool
  entry : Nat
  lo : Nat
  hi : Nat
  slots : List W64
  floor : Option Nat
  certs : List (List (Nat × Nat))       -- each: the units after the cover, as (relative station, element)
  arcs : List ArcDecl
  sticky : List (Nat × Nat)
  data : List DataInit
  deriving DecidableEq, Repr

/-- A `.block` or `.timetable` line: 2^k granules filled from their lowest byte (R72, R148). -/
structure BlockDecl where
  k : Nat
  words : List Lane
  timetable : Bool
  deriving DecidableEq, Repr

/-- A station section (R72). -/
structure StnDecl where
  rel : Nat
  quota : Nat
  blocks : List BlockDecl
  elems : List ElemDecl
  store : List W64
  deriving DecidableEq, Repr

/-- A configuration (graph). `code` and `entry` serve a DEPOT graph only. -/
structure Graph where
  gid : Nat
  n : Nat
  line : Bool
  depot : Bool
  stations : List StnDecl
  code : List W64
  entry : Nat
  deriving DecidableEq, Repr

/-- A context descriptor (R59, R186, R190): its partition, table root, firmware mark, range entries (word 0, word 1)
and the graphs that its records may name. -/
structure CtxDesc where
  part : Nat
  root : Nat
  firmware : Bool
  ranges : List (W64 × W64)
  graphs : List Graph
  deriving DecidableEq, Repr

/-! ### Parameters of events -/

/-- How the pager serves a fault record (R196): it maps a free frame; posts the record to the host; or denies it. `nodes`
are free frames that it may take for missing table nodes. Frames are given by number: their address divided by 64 KiB. -/
inductive PagerAct where
  | map (frame : Nat) (nodes : List Nat)
  | host (nodes : List Nat)
  | deny
  deriving DecidableEq, Repr

/-- Host snoops (R295, R297). -/
inductive Snoop where
  | data | inv | cur
  deriving DecidableEq, Repr

/-- What the host grants to a device's read of a host line (R297). -/
inductive HostGrant where
  | shared | exclusive | modified
  deriving DecidableEq, Repr

/-- What a collective's data flit carries besides a value: the descriptor fields that must agree at every rank (R346),
the element, whether the value is a result on its way back, and whether the flit is the collective's first. -/
structure CollHdr where
  ranks : Nat
  op : Nat
  ty : Nat
  count : Nat
  elem : Nat
  result : Bool
  deriving DecidableEq, Repr

/-- Which register block a register write goes to: the management block of BAR0 with the queue descriptors (R299), or
the dispatch block (R225). -/
inductive RegBlock where
  | bar0
  | dispatch
  deriving DecidableEq, Repr

/-- What a bring-up finds out of order (R322): the rails do not rise; a station, a depot core, a pseudo-channel of the
package or the lanes of a main-line port fail their training or self-test. -/
inductive Failing where
  | rails
  | station (n : Nat)
  | core (c : Nat)
  | channel (n : Nat)
  | lanes (port : Nat) (bad : BitVec 8)
  deriving DecidableEq, Repr

/-- One constructor for each row of the table of operations and events. -/
inductive Instr where
  | nop
  | add (t : IntTy) (sat : Bool) (d : Dst) (a b : Src)
  | sub (t : IntTy) (sat : Bool) (d : Dst) (a b : Src)
  | mul (t : IntTy) (sat : Bool) (d : Dst) (a b : Src)
  | mulh (t : IntTy) (d : Dst) (a b : Src)
  | mad (t : IntTy) (sat : Bool) (d : Dst) (a b : Src)
  | div (t : IntTy) (sat : Bool) (d : Dst) (a b : Src)
  | rem (t : IntTy) (d : Dst) (a b : Src)
  | abs (t : IntTy) (sat : Bool) (d : Dst) (a : Src)
  | min (t : IntTy) (d : Dst) (a b : Src)
  | max (t : IntTy) (d : Dst) (a b : Src)
  | and (t : IntTy) (d : Dst) (a b : Src)
  | or (t : IntTy) (d : Dst) (a b : Src)
  | xor (t : IntTy) (d : Dst) (a b : Src)
  | shl (t : IntTy) (sat : Bool) (d : Dst) (a b : Src)
  | shr (t : IntTy) (d : Dst) (a b : Src)
  | sra (t : IntTy) (d : Dst) (a b : Src)
  | rot (t : IntTy) (d : Dst) (a b : Src)
  | clz (t : IntTy) (d : Dst) (a : Src)
  | popc (t : IntTy) (d : Dst) (a : Src)
  | sel (t : IntTy) (d : Dst) (a b : Src)
  | cmp (t : IntTy) (cond : Cond) (d : Dst) (a b : Src)
  | fadd (t : FTy) (r : Rnd) (d : Dst) (a b : Src)
  | fsub (t : FTy) (r : Rnd) (d : Dst) (a b : Src)
  | fmul (t : FTy) (r : Rnd) (d : Dst) (a b : Src)
  | fma (t : FTy) (r : Rnd) (d : Dst) (a b : Src)
  | fmin (t : FTy) (d : Dst) (a b : Src)
  | fmax (t : FTy) (d : Dst) (a b : Src)
  | fabs (t : FTy) (d : Dst) (a : Src)
  | fneg (t : FTy) (d : Dst) (a : Src)
  | fcmp (t : FTy) (cond : FCond) (d : Dst) (a b : Src)
  | fdiv (t : FTy) (r : Rnd) (d : Dst) (a b : Src)
  | fsqrt (t : FTy) (r : Rnd) (d : Dst) (a : Src)
  | frcp (t : FTy) (r : Rnd) (d : Dst) (a : Src)
  | frsq (t : FTy) (r : Rnd) (d : Dst) (a : Src)
  | fexp2 (t : FTy) (r : Rnd) (d : Dst) (a : Src)
  | flog2 (t : FTy) (r : Rnd) (d : Dst) (a : Src)
  | cvt (dt : Ty) (r : Rnd) (st : Ty) (sat : Bool) (d : Dst) (a : Src)
  | qcvt (ft : F8) (r : Rnd) (d : Dst) (a scale : Src)
  | pack (t : IntTy) (sat : Bool) (d a b : VReg)
  | unpk (t : IntTy) (hi : Bool) (d a : VReg)
  | mov (d : Dst) (a : Src)
  | movi (d : Dst) (imm : BitVec 22)
  | movh (d : Dst) (imm : BitVec 22)
  | shfl (w : Width) (d a : VReg) (b : Src)
  | bcst (w : Width) (d : Dst) (a : VReg) (idx : Src)
  | rdce (ty : Ty) (op : RedOp) (sat : Bool) (r : Rnd) (d : Dst) (a : VReg)
  | scan (ty : Ty) (op : RedOp) (sat : Bool) (r : Rnd) (d a : VReg)
  | extl (w : Width) (sx : Bool) (d : Dst) (a : VReg) (idx : Src)
  | insl (w : Width) (d : VReg) (a idx : Src)
  | pset (a : Src)
  | pclr (a : Src)
  | pld (all : Bool) (p : Fin 8) (a : VReg)
  | pread (d : Dst) (a : Src)
  | send (o : Chan) (a mask : Src)
  | drop (c : Chan)
  | fwd (d : Dst) (a : Src)
  | mark (d : Dst)
  | retag (tag : Tag) (d : Dst) (a : Src)
  | steer (o : Chan) (a slc : Src)
  | merge (o ca cb : Chan)
  | alloc (d : Dst) (k n : Src)
  | alloct (d : Dst) (k n : Src)
  | release (h : Src)
  | retain (h m : Src)
  | bsize (d : Dst) (h : Src)
  | ldb (d : Dst) (h : Src)
  | stb (h src : Src)
  | ldbx (sc : Fin 4) (d : VReg) (h : Src) (vi : VReg)
  | stbx (sc : Fin 4) (vs : VReg) (h : Src) (vi : VReg)
  | ldt (d : VReg) (sn : SReg) (idx : Src)
  | stt (vs : VReg) (sn : SReg) (idx : Src)
  | tmap (d : Dst) (sn : SReg) (idx : Src)
  | sigset (h v : Src)
  | sigclr (h : Src)
  | sigwait (cond : SigCond) (h v : Src)
  | sigtest (cond : SigCond) (d : Dst) (h v : Src)
  | sigadd (h v : Src)
  | gjoin (g : Src)
  | gleave (g : Src)
  | gbar (scope : Scope) (g : Src)
  | prio (cls : Src)
  | ldg (sz : Size) (sx : Bool) (d : Dst) (addr : Src)
  | stg (sz : Size) (addr src : Src)
  | gath (ew : Width) (sx : Bool) (sc : Fin 4) (d : VReg) (base : Src) (vi : VReg)
  | scat (ew : Width) (sc : Fin 4) (vs : VReg) (base : Src) (vi : VReg)
  | pref (addr n : Src)
  | order (scope : Scope) (o : Chan)
  | fence (scope : Scope)
  | atom (op : AtomOp) (w : Bool) (scope : Scope) (d : Dst) (addr v : Src)
  | cas (w : Bool) (scope : Scope) (d : Dst) (addr : Src) (sn : SReg)
  | fatom (ty : FTy) (op : FAtomOp) (scope : Scope) (d : Dst) (addr v : Src)
  | strm (o : Chan) (desc : Src)
  | copy (desc ch : Src)
  | wptr (d : Dst) (ch : Src)
  | mcast (desc : Src)
  | fill (sn : SReg) (cnt : Src)
  | pin (d : Dst) (addr n : Src)
  | unpin (addr n : Src)
  | clean (addr n : Src)
  | invl (addr n : Src)
  | wload (fmt : JFmt) (h scale : Src)
  | wswap
  | mma (fmt : JFmt) (h ctl : Src)
  | accrd (h slot : Src)
  | accwr (slot h : Src)
  | accclr (slot : Src)
  | ttload (h : Src)
  | ring (arm : Src)
  | tinj (home desc : Src)
  | rstat (d : Dst) (slc : Src)
  | turn (o : Chan) (a : VReg)
  | statc (d : Dst)
  | coll (d : Dst) (desc : Src)
  | cwait (d : Dst) (ticket : Src)
  | enq (rec : Src)
  | jdec (d : Dst) (ctr rec : Src)
  | yield
  | done
  | pfxm (probe : Bool) (d : Dst) (seq prompt : Src)
  | pfxi (d : Dst) (seq prompt : Src)
  | kvapp (d : Dst) (list start : Src)
  | kvtrunc (d : Dst) (seq len : Src)
  | kvrel (d : Dst) (seq : Src)
  | kvpin (unpin : Bool) (d : Dst) (grp : Src)
  | kvmap (d : Dst) (seq slc : Src)
  | rng (g : Fin 4) (d : Dst)
  | rngset (g : Fin 4) (img : Src)
  | rngget (g : Fin 4) (img : Src)
  | br (imm : BitVec 22)
  | bri (a : Src)
  | call (imm : BitVec 22)
  | calli (a : Src)
  | ret
  | loop (sn : SReg) (imm : BitVec 22)
  | trap (n : BitVec 6)
  | eret
  | sysrd (reg : SysReg) (d : SReg)
  | syswr (reg : SysReg) (a : Src)
  | halt
  | bkpt (n : BitVec 6)
  | wait (kind : WaitKind) (a : Src)
  | vld (loc : Bool) (d : VReg) (sa : SReg)
  | vst (loc : Bool) (sa : SReg) (vs : VReg)
  | vgath (d : VReg) (sn : SReg) (vt : VReg)
  | kvwalk (d sdesc ssel : SReg)
  | triple (wide async : Bool) (va : VReg) (sn : SReg)
  | mbxrd (m : Fin 8) (d : SReg)
  | ptewr (d : Dst) (pa val : Src)
  | tlbinv (page slc : Src)
  | migr (page slc : Src)
  | cntrd (d : SReg) (page slc : Src)
  -- the events: the steps that no instruction word names
  /-- R18: A multi-cycle instruction's interval ends and its results are written. -/
  | issueIntervalEnd (u : Nat)
  /-- R20: A unit with no ready slot and no blocked request for 16 cycles is clock-gated. -/
  | clockGate (u : Nat)
  /-- R24: A token copy reaches its destination inbox, waking a gated unit. -/
  | tokenArrival (i : Nat)
  /-- R162: A mailbox line forwards a received copy to the destination inbox in order. -/
  | mailboxForward (i : Nat)
  /-- R88: A waiting allocation or emission is granted from its floor or as head of its pool order. -/
  | platformGrant (stn entry : Nat)
  /-- R88: A platform request that waited 2^16 station cycles is promoted one class. -/
  | requestPromotion (stn entry : Nat)
  /-- R32: An EOI emission held by the serial-order limit proceeds once the commit index advances. -/
  | invixWaitEnd (u : Nat)
  /-- R178: A port performs a committed held event at its home slice in acceptance order. -/
  | heldEventPerform (stn port : Nat)
  /-- R355: All completion conditions hold, the region becomes idle and its quota is returned. -/
  | recordComplete (rg : Nat)
  /-- R94: The allocation watchdog count reaches its limit and raises ALLOC_STALL. -/
  | allocationWatchdog (rg : Nat)
  /-- R208: The host writes a queue's TAIL, or breaks the queue with an invalid value. -/
  | doorbellWrite (part j : Nat) (val : BitVec 64)
  /-- R206: Setting EN reads the queue descriptor and opens the queue, or refuses it. -/
  | queueEnable (part j : Nat)
  /-- R213: Clearing EN discards unstarted records and faults waiting enqueuers. -/
  | queueDisable (part j : Nat)
  /-- R208: The signal box fetches a ring record into the queue and advances HEAD. -/
  | ringFetch (q : Nat)
  /-- R214: A withheld siding access reaches the fault-service limit and raises SPILL_FAULT. -/
  | spillFaultTimeout (q : Nat)
  /-- R212: A waiting enqueuer's record enters the window or siding when room appears. -/
  | enqueueWaitServed (q : Nat)
  /-- R212: A waiting enqueuer is promoted after 2^16 die cycles in a class. -/
  | enqueueWaiterPromotion (q i : Nat)
  /-- R216: A waiting record's class falls by one every 2^24 die cycles. -/
  | recordPromotion (q i : Nat)
  /-- R217: The signal box chooses a record by class and deficit round robin and places a region. -/
  | scheduleDecision (die part : Nat)
  /-- R221: A region reaches its tile-task boundary and is switched out and saved. -/
  | tileTaskBoundary (rg : Nat)
  /-- R223: A saved region resumes on its stations and its state is restored. -/
  | regionResume (rg : Nat)
  /-- R224: A write of LCMD submits a launch list to a queue or refuses it. -/
  | launchListSubmit (part : Nat) (val : BitVec 64)
  /-- R224: A waiting launch list enters its queue whole once room exists. -/
  | launchListEntry (part : Nat)
  /-- R224: Firmware arms a wake register, which fires at once if its condition holds. -/
  | wakeArm (part w : Nat) (val : BitVec 64)
  /-- R197: A withheld access reaches the fault-service limit and the region is discarded or frozen. -/
  | serviceTimeout (u : Nat)
  /-- R193: The signal box swaps the pager into its station when a fault or migration record waits. -/
  | pagerSwapIn (part : Nat)
  /-- R193: The pager is swapped out after 2^20 die cycles with both queues empty. -/
  | pagerSwapOut (part : Nat)
  /-- R196: The pager maps, forwards to the host or denies a fault record. -/
  | pagerServe (part i : Nat) (act : PagerAct)
  /-- R196: A release reaches the port, which repeats its withheld accesses for the page. -/
  | faultRelease (part i : Nat)
  /-- R201: The pager moves a hot host page to a device frame under the write-block bit. -/
  | pageMigration (part : Nat) (frame : Option Nat)
  /-- R303: A host request is posted to the request ring once it has room. -/
  | hostRequestPost (part : Nat)
  /-- R303: The host answers a page request, mapping or denying it. -/
  | hanswer (part : Nat) (val : BitVec 64)
  /-- R154: DRAM data returns to a fill entry and merged readers are served. -/
  | fillReturn (key : Nat)
  /-- R158: A district acknowledges a replica invalidation sent by a home write. -/
  | invalidationAck (i : Nat)
  /-- R297: A host snoop acts on a host line at its home slice. -/
  | hostSnoop (part line : Nat) (kind : Snoop)
  /-- R298: The host reads a partition's stack through its CXL.mem window. -/
  | hostMemRead (part o n : Nat)
  /-- R298: The host writes a partition's stack through its CXL.mem window. -/
  | hostMemWrite (part o : Nat) (data : List (BitVec 8))
  /-- R270: An uncorrectable frame is poisoned and its group and sequences are marked. -/
  | poisonWalk (part frame : Nat)
  /-- R268: The eviction engine tries to claim and remove a childless tree node. -/
  | evictionTry (part node : Nat)
  /-- R268: The eviction engine retries a faulting step-3 or step-4 access every 2^16 die cycles. -/
  | evictionRetry (part : Nat)
  /-- R125: A wavefront's contributions are applied to the accumulator 264 cycles after entry. -/
  | wavefrontApply (stn : Nat)
  /-- R126: A weight bank fill completes and waiting WSWAP or WLOAD proceed. -/
  | bankFillComplete (stn : Nat)
  /-- R128: All tiles of an armed loop line advance and each junction decides for arriving tiles. -/
  | lineBeat (die row : Nat)
  /-- R135: A running task's bank load begins once its tiles are in hand and the bank is free. -/
  | lineTaskStart (stn : Nat)
  /-- R140: A deferred entry's tiles are fetched from their homes and its task runs. -/
  | recoveryFetch (stn : Nat)
  /-- R348: A copy's last event is performed and its signal or token is produced. -/
  | copyComplete (stn ch : Nat)
  /-- R390: Every destination write of a multicast is performed and completion is signalled. -/
  | mcastComplete (i : Nat)
  /-- R434: The stream engine writes the next row once its slot is released and emits its token. -/
  | strmRow (u : Nat)
  /-- R287: An asynchronous triple's block and token are delivered and DCOUNT lands in S14. -/
  | tripleDelivery (core i : Nat)
  /-- R279: Firmware sends a message to a depot core's mailbox register. -/
  | mailboxSend (core n : Nat) (payload : BitVec 64) (land : Bool)
  /-- R219: A DEPOT record starts on the lowest idle in-service core. -/
  | depotDispatch (stack : Nat)
  /-- R276: The signal box requests pre-emption of a running depot kernel. -/
  | depotPreempt (stack : Nat)
  /-- R277: A pre-empted kernel stops at an instruction boundary and saving begins. -/
  | depotStop (core : Nat)
  /-- R278: A kernel's state is copied into a save slot and the core becomes idle. -/
  | depotSaveComplete (core : Nat)
  /-- R278: A saved kernel resumes on an idle core of its stack. -/
  | depotResume (stack : Nat)
  /-- R317: A failing depot core discards its kernel and the record restarts elsewhere. -/
  | depotCoreFailure (core : Nat)
  /-- R307: A collective data flit arrives and the rank forms, writes or forwards results. -/
  | collDataFlit (port cid : Nat) (fromPrev : Bool) (hdr : CollHdr) (val : BitVec 32)
  /-- R308: An abandon flit arrives and the rank abandons the collective. -/
  | collAbandonFlit (port cid : Nat) (fromPrev : Bool)
  /-- R305: A main-line flit is accepted in order or refused and replayed. -/
  | flitReceive (port lane : Nat) (ok : Bool)
  /-- R305: SEQ reaches its limit and the port advances its epoch count and key. -/
  | epochRollover (port : Nat)
  /-- R316: A main-line port below four lanes goes down and abandons its collectives. -/
  | portDown (port : Nat)
  /-- R241: The host resumes a stopped region or replays a saved one. -/
  | ctxcmdResume (part ctx : Nat)
  /-- R241: The host kills a context and its regions drain. -/
  | ctxcmdKill (part ctx : Nat)
  /-- R220: The host requests a context switch of a context. -/
  | ctxcmdSwitchOut (part ctx : Nat)
  /-- R244: A draining region's occupancy reaches zero and its resources are freed. -/
  | regionRelease (rg : Nat)
  /-- R245: A context whose regions and kernels are all gone is removed. -/
  | contextRemoval (ctx : Nat)
  /-- R300: The host reads or writes a stopped unit's registers through the window. -/
  | registerWindowAccess (part off : Nat) (wr : Option (BitVec 64))
  /-- R301: A write of WDLIMIT or FSLIMIT applies a new limit or is refused. -/
  | partitionSettingWrite (part off : Nat) (val : BitVec 64)
  /-- R312: A write of ATTCMD produces a signed attestation report. -/
  | attestationReport (part : Nat) (val : BitVec 64)
  /-- R311: A memory key is installed and the partition's stacks are scrubbed. -/
  | keyInstallMemory (part : Nat) (ok : Bool)
  /-- R310: A main-line key is installed for the next epoch. -/
  | keyInstallMainLine (part : Nat) (ok : Bool)
  /-- R311: The IDE keys of the logical device are installed. -/
  | keyInstallIde (part : Nat) (ok : Bool)
  /-- R311: A partition's keys are revoked and every context drains. -/
  | keyRevoke (part : Nat)
  /-- R311: The scrub under a new memory key completes and the key becomes active. -/
  | scrubComplete (part : Nat)
  /-- R299: A write to a register without behaviour of its own stores the value. -/
  | registerWrite (blk : RegBlock) (part off : Nat) (val : BitVec 64)
  /-- R309: Firmware creates a partition from free adjacent districts. -/
  | partitionCreate (part : Nat) (districts : List Nat) (pager : Nat)
  /-- R309: Firmware destroys a partition whose contexts and queues are gone. -/
  | partitionDestroy (part : Nat)
  /-- R313: Firmware retires a failing station once no region is on it. -/
  | stationRetire (stn : Nat) (uncorrectable : Bool)
  /-- R315: A pseudo-channel is retired and its lines move to the remaining channels. -/
  | pseudoChannelRetire (stack ch : Nat)
  /-- R318: Firmware refreshes the wear indicators and spares instances at end of life. -/
  | wearRefresh (part which : Nat) (val : BitVec 64)
  /-- R321: Thermal or power limits slow the fabric or depot clock. -/
  | thermalThrottle (depotClock : Bool) (level : Nat)
  /-- R324: A die at critical temperature makes firmware drain all partitions and remove core power. -/
  | criticalTemperature (die : Nat)
  /-- R322: Power-on brings the module up through boot, training and self-tests. -/
  | powerOnReset (verified : Bool) (failing : List Failing)
  /-- R323: A conventional reset destroys every partition and zeroes every key. -/
  | conventionalReset (verified : Bool) (failing : List Failing)
  /-- R323: A function-level reset revokes one partition while others run on. -/
  | functionLevelReset (part : Nat)
  /-- R186: The dispatch firmware creates a context, writing its table root and firmware mark, or refuses a misplaced root. -/
  | contextCreate (ctx : Nat) (desc : CtxDesc)
  /-- R311: The host sets up the IDE streams and they begin to carry traffic, moving the IDE key state from installed to active. -/
  | ideStreamActive (part : Nat)
  /-- R173: A request packet arrives at its home slice, allocator or signal unit and is performed there in arrival order. -/
  | meshRequestArrival (i : Nat)
  /-- R161: A response packet returns to a memory port or unit, writing a load's value or acknowledging a performed access. -/
  | meshResponseArrival (i : Nat)
  /-- R297: The host answers a device RdShared or RdOwn and the home slice takes the host line in S, E or M. -/
  | hostCacheResponse (key : Nat) (grant : HostGrant)
  /-- R125: An activation vector enters the junction array as a wavefront tagged with the active bank, unblocking its MMA after the last one. -/
  | wavefrontEntry (stn : Nat)
  /-- R328: An ACCCLR, ACCRD or ACCWR finishes its 256-cycle transfer at the junction and its unit is unblocked. -/
  | accumulatorTransferDone (stn : Nat)
  /-- R348: The copy engine performs the next 32-byte event of a copy and advances the channel's write pointer. -/
  | copyEvent (stn ch : Nat)
  /-- R447: A WAIT.CYC count of the unit's clock runs out and the waiting unit continues. -/
  | waitCycleCountEnd (u : Nat)
  deriving DecidableEq, Repr

end Sys2Proof
end

