-- ==== Sys2Proof/WellFormed.lean ====
section
/-! DEFINITION. Which instructions are well formed: every field holds a kind of operand, destination and function
value that the instruction's entry accepts (R50, R52, R54 to R56, R58 and the reference entries). An event is no
instruction word and is not well formed in this sense. -/
namespace Sys2Proof

/-! ### Kinds of operands -/

def Src.isSC : Src → Bool
  | .s _ | .c _ _ => true
  | _ => false

def Src.isC : Src → Bool
  | .c _ _ => true
  | _ => false

def Src.isV : Src → Bool
  | .v _ => true
  | _ => false

def Src.isNotV (a : Src) : Bool := !a.isV

/-- The value of an immediate as a signed integer (R48). -/
def Src.immVal : Src → Option Int
  | .imm i => some i.toInt
  | _ => none

/-- A written immediate, where there is one, lies in `lo` to `hi`. -/
def Src.immIn (a : Src) (lo hi : Int) : Bool :=
  match a.immVal with
  | some i => decide (lo ≤ i ∧ i ≤ hi)
  | none => true

def Src.immLe (a : Src) (hi : Int) : Bool := a.immIn 0 hi
def Src.immNonneg (a : Src) : Bool := a.immIn 0 63

def Src.isImm : Src → Bool
  | .imm _ => true
  | _ => false

/-- S code, input channel, or an immediate from 0 to `hi`. -/
def Src.isImmLe (a : Src) (hi : Int) : Bool := (a.isSC || a.isImm) && a.immIn 0 hi

/-- S code, input channel, or an immediate 0-63. -/
def Src.isIdx63 (a : Src) : Bool := a.isImmLe 63

/-- S code, input channel, or an immediate 1-63. -/
def Src.isImmPos (a : Src) : Bool := (a.isSC || a.isImm) && a.immIn 1 63

def Src.isSCI (a : Src) : Bool := a.isSC || a.isImm

/-- S code or immediate (SYSWR, WAIT). -/
def Src.isSI : Src → Bool
  | .s _ | .imm _ => true
  | _ => false

def Src.isVS : Src → Bool
  | .v _ | .s _ => true
  | _ => false

/-- SHFL's selector: a V code, or an S code, channel, special value or immediate 0-63 (R421). -/
def Src.shflOk (a : Src) : Bool := a.immIn 0 63

/-! ### Kinds of destinations -/

def Dst.isV : Dst → Bool
  | .v _ => true
  | _ => false

def Dst.isVS : Dst → Bool
  | .v _ | .s _ => true
  | _ => false

def Dst.isVSO : Dst → Bool
  | .v _ | .s _ | .o _ => true
  | _ => false

def Dst.isVSOP : Dst → Bool
  | .v _ | .s _ | .o _ | .p _ => true
  | _ => false

def Dst.isVSOX : Dst → Bool
  | .v _ | .s _ | .o _ | .discard => true
  | _ => false

def Dst.isSO : Dst → Bool
  | .s _ | .o _ => true
  | _ => false

def Dst.isSOP : Dst → Bool
  | .s _ | .o _ | .p _ => true
  | _ => false

def Dst.isSOX : Dst → Bool
  | .s _ | .o _ | .discard => true
  | _ => false

def Dst.isSX : Dst → Bool
  | .s _ | .discard => true
  | _ => false

def Dst.isOX : Dst → Bool
  | .o _ | .discard => true
  | _ => false

/-! ### Types -/

def IntTy.signed : IntTy → Bool
  | .i8 | .i16 | .i32 | .i64 => true
  | _ => false

def IntTy.width : IntTy → Nat
  | .i8 | .n8 => 8
  | .i16 | .n16 => 16
  | .i32 | .n32 => 32
  | .i64 | .n64 => 64

def IntTy.le32 (t : IntTy) : Bool := decide (t.width ≤ 32)

def Ty.isInt : Ty → Bool
  | .int _ => true
  | _ => false

/-- An even scalar register whose pair exists (n at most 14). -/
def evenS (n : SReg) : Bool := decide (n.val % 2 = 0)

/-- RDCE and SCAN (R410): no FP8 type; SAT for an integer ADD only; a rounding other than 00 for a floating ADD
only. -/
def redOk (ty : Ty) (op : RedOp) (sat : Bool) (r : Rnd) : Bool :=
  match ty with
  | .f8 _ => false
  | .int _ => (!sat || op == .add) && r == .rne
  | .fl _ => !sat && (r == .rne || op == .add)

/-- A SYSWR to a read-only register is a reserved encoding everywhere (R65). -/
def SysReg.writable : SysReg → Bool
  | .faddr | .ivec | .nstn | .rsdepth | .part => false
  | _ => true

/-- The well-formed instructions: those that some word of R45 to R58 stands for. -/
def Instr.wf : Instr → Bool
  | .nop => true
  | .add _ _ _ _ _ => true
  | .sub _ _ _ _ _ => true
  | .mul _ _ _ _ _ => true
  | .mulh _ _ _ _ => true
  | .mad _ _ d _ _ => d.isVS
  | .div t sat _ _ _ => (!sat || t.signed)
  | .rem _ _ _ _ => true
  | .abs t _ _ _ => t.signed
  | .min _ _ _ _ => true
  | .max _ _ _ _ => true
  | .and _ _ _ _ => true
  | .or _ _ _ _ => true
  | .xor _ _ _ _ => true
  | .shl _ _ _ _ _ => true
  | .shr _ _ _ _ => true
  | .sra t _ _ _ => t.signed
  | .rot _ _ _ _ => true
  | .clz _ _ _ => true
  | .popc _ _ _ => true
  | .sel _ d _ _ => d.isVS
  | .cmp _ _ _ _ _ => true
  | .fadd _ _ _ _ _ => true
  | .fsub _ _ _ _ _ => true
  | .fmul _ _ _ _ _ => true
  | .fma _ _ d _ _ => d.isVS
  | .fmin _ _ _ _ => true
  | .fmax _ _ _ _ => true
  | .fabs _ _ _ => true
  | .fneg _ _ _ => true
  | .fcmp _ _ _ _ _ => true
  | .fdiv _ _ _ _ _ => true
  | .fsqrt _ _ _ _ => true
  | .frcp _ _ _ _ => true
  | .frsq _ _ _ _ => true
  | .fexp2 _ _ _ _ => true
  | .flog2 _ _ _ _ => true
  | .cvt dt r st _ d _ => d.isVSO && (!(dt.isInt && st.isInt) || r == .rne)
  | .qcvt _ _ d _ scale => d.isVSO && scale.isVS
  | .pack t _ _ _ _ => t.le32
  | .unpk t _ _ _ => t.le32
  | .mov _ _ => true
  | .movi _ _ => true
  | .movh d _ => d.isVS
  | .shfl _ _ _ b => b.shflOk
  | .bcst _ d _ idx => d.isVSO && idx.isIdx63
  | .rdce ty op sat r d _ => d.isVSOP && redOk ty op sat r
  | .scan ty op sat r _ _ => redOk ty op sat r
  | .extl w sx d _ idx => d.isSO && idx.isIdx63 && (!sx || w != .w64)
  | .insl _ _ _ idx => idx.isIdx63
  | .pset a => a.isNotV
  | .pclr a => a.isNotV
  | .pld _ _ _ => true
  | .pread d a => d.isVSO && a.isImmLe 2
  | .send _ _ mask => mask.isNotV && mask.immLe 15
  | .drop _ => true
  | .fwd d a => d.isOX && a.isC
  | .mark d => d.isOX
  | .retag _ d _ => d.isOX
  | .steer _ a slc => a.isC && slc.isNotV && slc.immLe 63
  | .merge _ ca cb => decide (ca.val ≤ cb.val)
  | .alloc d k n => d.isSO && k.isImmLe 11 && n.isImmPos
  | .alloct d k n => d.isSO && k.isImmLe 11 && n.isImmPos
  | .release h => h.isSC
  | .retain h m => h.isSC && m.isIdx63
  | .bsize d h => d.isSO && h.isSC
  | .ldb d h => d.isVSO && h.isSC
  | .stb h _ => h.isSC
  | .ldbx _ _ h _ => h.isSC
  | .stbx _ _ h _ => h.isSC
  | .ldt _ sn idx => evenS sn && idx.isIdx63
  | .stt _ sn idx => evenS sn && idx.isIdx63
  | .tmap d sn idx => d.isSO && evenS sn && idx.isIdx63
  | .sigset h v => h.isSC && v.isNotV
  | .sigclr h => h.isSC
  | .sigwait _ h v => h.isSC && v.isNotV
  | .sigtest _ d h v => d.isSOP && h.isSC && v.isNotV
  | .sigadd h v => h.isSC && v.isNotV
  | .gjoin g => g.isIdx63
  | .gleave g => g.isIdx63
  | .gbar _ g => g.isIdx63
  | .prio cls => cls.isImmLe 3
  | .ldg sz sx d addr => d.isVSO && addr.isSC && (!d.isV || sz == .natural) && (!sx || sz != .natural)
  | .stg sz addr src => addr.isSC && (!src.isV || sz == .natural)
  | .gath ew sx _ _ base _ => base.isSC && ew != .w64 && (!sx || ew != .w32)
  | .scat ew _ _ base _ => base.isSC && ew != .w64
  | .pref addr n => addr.isSC && n.isImmPos
  | .order _ _ => true
  | .fence _ => true
  | .atom _ _ _ d addr v => d.isSOX && addr.isSC && v.isSCI
  | .cas _ _ d addr sn => d.isSOX && addr.isSC && evenS sn
  | .fatom _ _ _ d addr v => d.isSOX && addr.isSC && v.isSCI
  | .strm _ desc => desc.isSC
  | .copy desc ch => desc.isSC && ch.isImmLe 7
  | .wptr d ch => d.isSO && ch.isImmLe 7
  | .mcast desc => desc.isSC
  | .fill sn cnt => evenS sn && cnt.isImmPos
  | .pin d addr n => d.isSOX && addr.isSC && n.isImmPos
  | .unpin addr n => addr.isSC && n.isImmPos
  | .clean addr n => addr.isSC && n.isImmPos
  | .invl addr n => addr.isSC && n.isImmPos
  | .wload _ h scale => h.isSC && scale.isSC
  | .wswap => true
  | .mma _ h ctl => h.isSC && ctl.isSC
  | .accrd h slot => h.isSC && slot.isImmLe 7
  | .accwr slot h => h.isSC && slot.isImmLe 7
  | .accclr slot => slot.isImmLe 7
  | .ttload h => h.isSC
  | .ring arm => arm.isSC
  | .tinj home desc => home.isSC && desc.isSC
  | .rstat d slc => d.isSO && slc.isImmLe 1
  | .turn _ _ => true
  | .statc d => d.isOX
  | .coll d desc => d.isSOX && desc.isSC
  | .cwait d ticket => d.isSOX && ticket.isSC
  | .enq rec => rec.isSC
  | .jdec d ctr rec => d.isSX && ctr.isSC && rec.isSC
  | .yield => true
  | .done => true
  | .pfxm _ d seq prompt => d.isSOX && seq.isSC && prompt.isSC
  | .pfxi d seq prompt => d.isSOX && seq.isSC && prompt.isSC
  | .kvapp d list start => d.isSOX && list.isSC && start.isIdx63
  | .kvtrunc d seq len => d.isSOX && seq.isSC && len.isIdx63
  | .kvrel d seq => d.isSOX && seq.isSC
  | .kvpin _ d grp => d.isSOX && grp.isSC
  | .kvmap d seq slc => d.isSOX && seq.isSC && slc.isSC
  | .rng _ d => d.isVSOX
  | .rngset _ img => img.isSC
  | .rngget _ img => img.isSC
  | .br _ => true
  | .bri a => a.isSC
  | .call _ => true
  | .calli a => a.isSC
  | .ret => true
  | .loop _ _ => true
  | .trap _ => true
  | .eret => true
  | .sysrd _ _ => true
  | .syswr reg a => a.isSI && reg.writable
  | .halt => true
  | .bkpt _ => true
  | .wait _ a => a.isSI && a.immNonneg
  | .vld _ _ _ => true
  | .vst _ _ _ => true
  | .vgath _ sn _ => evenS sn
  | .kvwalk _ _ _ => true
  | .triple wide _ va sn => evenS sn && (!wide || decide (va.val % 2 = 0))
  | .mbxrd _ _ => true
  | .ptewr d pa val => d.isSX && pa.isSC && val.isSC
  | .tlbinv page slc => page.isSC && slc.isSC
  | .migr page slc => page.isSC && slc.isSC
  | .cntrd _ page slc => page.isSC && slc.isSC
  | _ => false

end Sys2Proof
end

