-- ==== Sys2Proof/Decode.lean ====
section
/-! DEFINITION. From bytes to instruction words and back (R45 to R58). The decoder is total: it gives a word's guard,
predicate update and instruction, or the name of what is wrong with it. The encoder stands after it and is written
from the same tables. -/
namespace Sys2Proof

/-! ### The fields of a word (R45) -/

/-- The fields of a word, each as the number its bits hold. -/
structure Raw where
  pcare : Nat
  pval : Nat
  ten : Nat
  tch : Nat
  tag : Nat
  pupm : Nat
  pupi : Nat
  opc : Nat
  dst : Nat
  a : Nat
  b : Nat
  fn : Nat
  deriving DecidableEq, Repr

/-- Take a word apart (R45). -/
def Raw.ofNat (w : Nat) : Raw where
  pcare := w / 2 ^ 56 % 256
  pval := w / 2 ^ 48 % 256
  ten := w / 2 ^ 47 % 2
  tch := w / 2 ^ 44 % 8
  tag := w / 2 ^ 42 % 4
  pupm := w / 2 ^ 40 % 4
  pupi := w / 2 ^ 37 % 8
  opc := w / 2 ^ 29 % 256
  dst := w / 2 ^ 22 % 128
  a := w / 2 ^ 14 % 256
  b := w / 2 ^ 6 % 256
  fn := w % 64

/-- Put a word together (R45). -/
def Raw.toNat (r : Raw) : Nat :=
  r.pcare * 2 ^ 56 + r.pval * 2 ^ 48 + r.ten * 2 ^ 47 + r.tch * 2 ^ 44 + r.tag * 2 ^ 42 + r.pupm * 2 ^ 40 +
    r.pupi * 2 ^ 37 + r.opc * 2 ^ 29 + r.dst * 2 ^ 22 + r.a * 2 ^ 14 + r.b * 2 ^ 6 + r.fn

/-- Bits [21:0], the immediate of the long form (R47). -/
def Raw.imm22 (r : Raw) : BitVec 22 := BitVec.ofNat 22 (r.a * 2 ^ 14 + r.b * 2 ^ 6 + r.fn)

/-! ### Operand and destination codes (R48, R51) -/

def Special.code : Special → Nat
  | .zero => 0 | .one => 1 | .lane => 2 | .elid => 3 | .stnid => 4 | .nstn => 5 | .dieid => 6 | .ndie => 7
  | .invix => 8 | .cyc => 9 | .pst => 10

def Special.ofCode : Nat → Option Special
  | 0 => some .zero | 1 => some .one | 2 => some .lane | 3 => some .elid | 4 => some .stnid | 5 => some .nstn
  | 6 => some .dieid | 7 => some .ndie | 8 => some .invix | 9 => some .cyc | 10 => some .pst
  | _ => none

/-- R48. -/
def Src.ofCode (n : Nat) : Option Src :=
  if n < 32 then some (.v (Fin.ofNat 32 n))
  else if n < 48 then some (.s (Fin.ofNat 16 (n % 16)))
  else if n < 64 then none
  else if n < 96 then some (.c (Fin.ofNat 8 (n % 8)) (Fin.ofNat 4 (n / 8 % 4)))
  else if n < 128 then (Special.ofCode (n % 32)).map .sp
  else if n < 256 then some (.imm (BitVec.ofNat 7 (n % 128)))
  else none

/-- R48. -/
def Src.code : Src → Nat
  | .v n => n.val
  | .s n => 32 + n.val
  | .c ch k => 64 + k.val * 8 + ch.val
  | .sp x => 96 + x.code
  | .imm i => 128 + i.toNat

/-- R51. -/
def Dst.ofCode (n : Nat) : Option Dst :=
  if n < 32 then some (.v (Fin.ofNat 32 n))
  else if n < 48 then some (.s (Fin.ofNat 16 (n % 16)))
  else if n < 64 then none
  else if n < 72 then some (.o (Fin.ofNat 8 (n % 8)))
  else if n = 96 then some .discard
  else if n < 104 then none
  else if n < 112 then some (.p (Fin.ofNat 8 (n % 8)))
  else if n = 113 then some (.k 0)
  else if n = 114 then some (.k 1)
  else if n = 115 then some (.k 2)
  else if n = 120 then some .pst
  else if n = 121 then some .lm
  else none

/-- R51. -/
def Dst.code : Dst → Nat
  | .v n => n.val
  | .s n => 32 + n.val
  | .o n => 64 + n.val
  | .discard => 96
  | .p n => 104 + n.val
  | .k n => 113 + n.val
  | .pst => 120
  | .lm => 121

def vOf (n : Nat) : Option VReg := if n < 32 then some (Fin.ofNat 32 n) else none
def sOf (n : Nat) : Option SReg := if 32 ≤ n ∧ n < 48 then some (Fin.ofNat 16 (n % 16)) else none
def oOf (n : Nat) : Option Chan := if 64 ≤ n ∧ n < 72 then some (Fin.ofNat 8 (n % 8)) else none
def pOf (n : Nat) : Option (Fin 8) := if 104 ≤ n ∧ n < 112 then some (Fin.ofNat 8 (n % 8)) else none
/-- An input channel read under K0 (DROP, MERGE). -/
def cOf (n : Nat) : Option Chan := if 64 ≤ n ∧ n < 72 then some (Fin.ofNat 8 (n % 8)) else none

def sCode (n : SReg) : Nat := 32 + n.val
def oCode (n : Chan) : Nat := 64 + n.val
def pCode (n : Fin 8) : Nat := 104 + n.val
def cCode (n : Chan) : Nat := 64 + n.val

/-! ### Types and the function field (R53, R54) -/

def IntTy.code : IntTy → Nat
  | .i8 => 0 | .n8 => 1 | .i16 => 2 | .n16 => 3 | .i32 => 4 | .n32 => 5 | .i64 => 6 | .n64 => 7

def IntTy.ofCode : Nat → Option IntTy
  | 0 => some .i8 | 1 => some .n8 | 2 => some .i16 | 3 => some .n16
  | 4 => some .i32 | 5 => some .n32 | 6 => some .i64 | 7 => some .n64
  | _ => none

def FTy.code : FTy → Nat
  | .fp16 => 0 | .bf16 => 1 | .fp32 => 2

def FTy.ofCode : Nat → Option FTy
  | 0 => some .fp16 | 1 => some .bf16 | 2 => some .fp32
  | _ => none

def F8.code : F8 → Nat
  | .e4m3 => 8 | .e5m2 => 9

def F8.ofCode : Nat → Option F8
  | 8 => some .e4m3 | 9 => some .e5m2
  | _ => none

/-- The 4-bit type codes of R53. -/
def Ty.code : Ty → Nat
  | .int t => t.code
  | .f8 t => t.code
  | .fl t => 10 + t.code

def Ty.ofCode (n : Nat) : Option Ty :=
  if n < 8 then (IntTy.ofCode n).map .int
  else if n < 10 then (F8.ofCode n).map .f8
  else (FTy.ofCode (n - 10)).map .fl

def Rnd.code : Rnd → Nat
  | .rne => 0 | .rtz => 1 | .rdn => 2 | .rup => 3

def Rnd.ofCode : Nat → Option Rnd
  | 0 => some .rne | 1 => some .rtz | 2 => some .rdn | 3 => some .rup
  | _ => none

def Cond.code : Cond → Nat
  | .eq => 0 | .ne => 1 | .lt => 2 | .le => 3 | .gt => 4 | .ge => 5

def Cond.ofCode : Nat → Option Cond
  | 0 => some .eq | 1 => some .ne | 2 => some .lt | 3 => some .le | 4 => some .gt | 5 => some .ge
  | _ => none

def FCond.code : FCond → Nat
  | .eq => 0 | .ne => 1 | .lt => 2 | .le => 3 | .gt => 4 | .ge => 5 | .un => 6 | .ord => 7

def FCond.ofCode : Nat → Option FCond
  | 0 => some .eq | 1 => some .ne | 2 => some .lt | 3 => some .le | 4 => some .gt | 5 => some .ge
  | 6 => some .un | 7 => some .ord
  | _ => none

def Width.code : Width → Nat
  | .w8 => 0 | .w16 => 1 | .w32 => 2 | .w64 => 3

def Width.ofCode : Nat → Option Width
  | 0 => some .w8 | 1 => some .w16 | 2 => some .w32 | 3 => some .w64
  | _ => none

def Scope.code : Scope → Nat
  | .region => 0 | .die => 1 | .package => 2 | .system => 3

def Scope.ofCode : Nat → Option Scope
  | 0 => some .region | 1 => some .die | 2 => some .package | 3 => some .system
  | _ => none

def Tag.code : Tag → Nat
  | .dat => 0 | .eoi => 1 | .ord => 2 | .usr => 3

def Tag.ofCode : Nat → Option Tag
  | 0 => some .dat | 1 => some .eoi | 2 => some .ord | 3 => some .usr
  | _ => none

def AtomOp.code : AtomOp → Nat
  | .add => 0 | .and => 1 | .or => 2 | .xor => 3 | .swap => 4 | .min => 5 | .max => 6

def AtomOp.ofCode : Nat → Option AtomOp
  | 0 => some .add | 1 => some .and | 2 => some .or | 3 => some .xor | 4 => some .swap | 5 => some .min
  | 6 => some .max
  | _ => none

def FAtomOp.code : FAtomOp → Nat
  | .add => 0 | .min => 1 | .max => 2

def FAtomOp.ofCode : Nat → Option FAtomOp
  | 0 => some .add | 1 => some .min | 2 => some .max
  | _ => none

def RedOp.code : RedOp → Nat
  | .add => 0 | .min => 1 | .max => 2

def RedOp.ofCode : Nat → Option RedOp
  | 0 => some .add | 1 => some .min | 2 => some .max
  | _ => none

def SigCond.code : SigCond → Nat
  | .ge => 0 | .eq => 1 | .ne => 2 | .lt => 3 | .all => 4 | .any => 5

def SigCond.ofCode : Nat → Option SigCond
  | 0 => some .ge | 1 => some .eq | 2 => some .ne | 3 => some .lt | 4 => some .all | 5 => some .any
  | _ => none

def JFmt.code : JFmt → Nat
  | .e4m3 => 0 | .e5m2 => 1 | .fp16 => 2 | .bf16 => 3 | .i8 => 4

def JFmt.ofCode : Nat → Option JFmt
  | 0 => some .e4m3 | 1 => some .e5m2 | 2 => some .fp16 | 3 => some .bf16 | 4 => some .i8
  | _ => none

def Size.code : Size → Nat
  | .natural => 0 | .b1 => 1 | .b2 => 2 | .b4 => 3

def Size.ofCode : Nat → Option Size
  | 0 => some .natural | 1 => some .b1 | 2 => some .b2 | 3 => some .b4
  | _ => none

def SysReg.code : SysReg → Nat
  | .cause => 0 | .faddr => 1 | .ivec => 2 | .oor => 3 | .epc => 4 | .status => 5 | .prio => 6 | .nstn => 7
  | .rsdepth => 8 | .rspill => 9 | .rslimit => 10 | .migth => 11 | .part => 12

def SysReg.ofCode : Nat → Option SysReg
  | 0 => some .cause | 1 => some .faddr | 2 => some .ivec | 3 => some .oor | 4 => some .epc | 5 => some .status
  | 6 => some .prio | 7 => some .nstn | 8 => some .rsdepth | 9 => some .rspill | 10 => some .rslimit
  | 11 => some .migth | 12 => some .part
  | _ => none

def WaitKind.code : WaitKind → Nat
  | .cyc => 0 | .land => 1 | .dcnt => 2

def WaitKind.ofCode : Nat → Option WaitKind
  | 0 => some .cyc | 1 => some .land | 2 => some .dcnt
  | _ => none

def bit (b : Bool) : Nat := if b then 1 else 0

/-! Encoders (`e…`) and decoders (`d…`) of the function field, one pair for each layout. -/

def eInt (t : IntTy) (sat : Bool) : Nat := t.code * 8 + bit sat * 4
def dInt (n : Nat) : Option (IntTy × Bool) :=
  if n % 4 = 0 then (IntTy.ofCode (n / 8)).map (·, n / 4 % 2 == 1) else none

def eIntN (t : IntTy) : Nat := t.code * 8
def dIntN (n : Nat) : Option IntTy := if n % 8 = 0 then IntTy.ofCode (n / 8) else none

def eFlt (t : FTy) (r : Rnd) : Nat := t.code * 16 + r.code * 4
def dFlt (n : Nat) : Option (FTy × Rnd) :=
  if n % 4 = 0 then do let t ← FTy.ofCode (n / 16); let r ← Rnd.ofCode (n / 4 % 4); some (t, r) else none

def eFltN (t : FTy) : Nat := t.code * 16
def dFltN (n : Nat) : Option FTy := if n % 16 = 0 then FTy.ofCode (n / 16) else none

def eCmp (t : IntTy) (c : Cond) : Nat := t.code * 8 + c.code
def dCmp (n : Nat) : Option (IntTy × Cond) := do
  let t ← IntTy.ofCode (n / 8); let c ← Cond.ofCode (n % 8); some (t, c)

def eFCmp (t : FTy) (c : FCond) : Nat := t.code * 16 + c.code * 2
def dFCmp (n : Nat) : Option (FTy × FCond) :=
  if n % 2 = 0 then do let t ← FTy.ofCode (n / 16); let c ← FCond.ofCode (n / 2 % 8); some (t, c) else none

/-- CVT's FN (R55): destination type in [5:2], rounding in [1:0]. -/
def eCvtF (t : Ty) (r : Rnd) : Nat := t.code * 4 + r.code
def dCvtF (n : Nat) : Option (Ty × Rnd) := do
  let t ← Ty.ofCode (n / 4); let r ← Rnd.ofCode (n % 4); some (t, r)

/-- CVT's SRCB (R55): source type in [7:4], SAT in [3]. -/
def eCvtB (t : Ty) (sat : Bool) : Nat := t.code * 16 + bit sat * 8
def dCvtB (n : Nat) : Option (Ty × Bool) :=
  if n % 8 = 0 then (Ty.ofCode (n / 16)).map (·, n / 8 % 2 == 1) else none

/-- QCVT's FN (R56). -/
def eQcvt (t : F8) (r : Rnd) : Nat := t.code * 4 + r.code
def dQcvt (n : Nat) : Option (F8 × Rnd) := do
  let t ← F8.ofCode (n / 4); let r ← Rnd.ofCode (n % 4); some (t, r)

def eUnpk (t : IntTy) (hi : Bool) : Nat := t.code * 8 + bit hi
def dUnpk (n : Nat) : Option (IntTy × Bool) :=
  if n % 8 < 2 then (IntTy.ofCode (n / 8)).map (·, n % 2 == 1) else none

def eWid (w : Width) : Nat := w.code * 16
def dWid (n : Nat) : Option Width := if n % 16 = 0 then Width.ofCode (n / 16) else none

def eExtl (w : Width) (sx : Bool) : Nat := w.code * 16 + bit sx * 8
def dExtl (n : Nat) : Option (Width × Bool) :=
  if n % 8 = 0 then (Width.ofCode (n / 16)).map (·, n / 8 % 2 == 1) else none

def eRed (t : Ty) (op : RedOp) : Nat := t.code * 4 + op.code
def dRed (n : Nat) : Option (Ty × RedOp) := do
  let t ← Ty.ofCode (n / 4); let o ← RedOp.ofCode (n % 4); some (t, o)

def eRedB (sat : Bool) (r : Rnd) : Nat := bit sat * 4 + r.code
def dRedB (n : Nat) : Option (Bool × Rnd) :=
  if n < 8 then (Rnd.ofCode (n % 4)).map (n / 4 % 2 == 1, ·) else none

def eBit0 (b : Bool) : Nat := bit b
def dBit0 (n : Nat) : Option Bool := if n < 2 then some (n == 1) else none

def eTag (t : Tag) : Nat := t.code
def dTag (n : Nat) : Option Tag := Tag.ofCode n

def eScale (s : Fin 4) : Nat := s.val
def dScale (n : Nat) : Option (Fin 4) := if n < 4 then some (Fin.ofNat 4 n) else none

def eSigC (c : SigCond) : Nat := c.code
def dSigC (n : Nat) : Option SigCond := SigCond.ofCode n

def eScp (s : Scope) : Nat := s.code
def dScp (n : Nat) : Option Scope := Scope.ofCode n

def eLdg (s : Size) (sx : Bool) : Nat := s.code + bit sx * 8
def dLdg (n : Nat) : Option (Size × Bool) :=
  if n < 16 then (Size.ofCode (n % 8)).map (·, n / 8 % 2 == 1) else none

def eSiz (s : Size) : Nat := s.code
def dSiz (n : Nat) : Option Size := Size.ofCode n

def eGath (w : Width) (sx : Bool) (sc : Fin 4) : Nat := w.code * 16 + bit sx * 8 + sc.val
def dGath (n : Nat) : Option (Width × Bool × Fin 4) :=
  if n / 4 % 2 = 0 then (Width.ofCode (n / 16)).map (·, n / 8 % 2 == 1, Fin.ofNat 4 (n % 4)) else none

def eScat (w : Width) (sc : Fin 4) : Nat := w.code * 16 + sc.val
def dScat (n : Nat) : Option (Width × Fin 4) :=
  if n / 4 % 4 = 0 then (Width.ofCode (n / 16)).map (·, Fin.ofNat 4 (n % 4)) else none

def eAtom (op : AtomOp) (w : Bool) (s : Scope) : Nat := op.code * 8 + bit w * 4 + s.code
def dAtom (n : Nat) : Option (AtomOp × Bool × Scope) := do
  let o ← AtomOp.ofCode (n / 8); let s ← Scope.ofCode (n % 4); some (o, n / 4 % 2 == 1, s)

def eCas (w : Bool) (s : Scope) : Nat := bit w * 4 + s.code
def dCas (n : Nat) : Option (Bool × Scope) :=
  if n < 8 then (Scope.ofCode (n % 4)).map (n / 4 % 2 == 1, ·) else none

def eFat (t : FTy) (op : FAtomOp) (s : Scope) : Nat := t.code * 16 + op.code * 4 + s.code
def dFat (n : Nat) : Option (FTy × FAtomOp × Scope) := do
  let t ← FTy.ofCode (n / 16); let o ← FAtomOp.ofCode (n / 4 % 4); let s ← Scope.ofCode (n % 4); some (t, o, s)

def eJFmt (f : JFmt) : Nat := f.code
def dJFmt (n : Nat) : Option JFmt := JFmt.ofCode n

def eG (g : Fin 4) : Nat := g.val
def dG (n : Nat) : Option (Fin 4) := if n < 4 then some (Fin.ofNat 4 n) else none

def eN6 (n : BitVec 6) : Nat := n.toNat
def dN6 (n : Nat) : Option (BitVec 6) := some (BitVec.ofNat 6 n)

def eSys (r : SysReg) : Nat := r.code
def dSys (n : Nat) : Option SysReg := SysReg.ofCode n

def eWait (k : WaitKind) : Nat := k.code
def dWait (n : Nat) : Option WaitKind := WaitKind.ofCode n

def eTrip (wide async : Bool) : Nat := bit wide + bit async * 2
def dTrip (n : Nat) : Option (Bool × Bool) := if n < 4 then some (n % 2 == 1, n / 2 == 1) else none

def eMbx (m : Fin 8) : Nat := m.val
def dMbx (n : Nat) : Option (Fin 8) := if n < 8 then some (Fin.ofNat 8 n) else none

/-! ### Decoding -/

/-- Keep an instruction only if it is well formed. -/
def wf (i : Instr) : Option Instr := if i.wf then some i else none

/-- Row 0x0- of the map of R57. -/
def decodeInt (x : Raw) : Option Instr :=
  match x.opc % 16 with
  | 0 => if x.dst = 0 ∧ x.a = 0 ∧ x.b = 0 ∧ x.fn = 0 then wf .nop else none
  | 1 => do let d ← Dst.ofCode x.dst; let a ← Src.ofCode x.a; let b ← Src.ofCode x.b; let (t, sat) ← dInt x.fn; wf (.add t sat d a b)
  | 2 => do let d ← Dst.ofCode x.dst; let a ← Src.ofCode x.a; let b ← Src.ofCode x.b; let (t, sat) ← dInt x.fn; wf (.sub t sat d a b)
  | 3 => do let d ← Dst.ofCode x.dst; let a ← Src.ofCode x.a; let b ← Src.ofCode x.b; let (t, sat) ← dInt x.fn; wf (.mul t sat d a b)
  | 4 => do let d ← Dst.ofCode x.dst; let a ← Src.ofCode x.a; let b ← Src.ofCode x.b; let t ← dIntN x.fn; wf (.mulh t d a b)
  | 5 => do let d ← Dst.ofCode x.dst; let a ← Src.ofCode x.a; let b ← Src.ofCode x.b; let (t, sat) ← dInt x.fn; wf (.mad t sat d a b)
  | 6 => do let d ← Dst.ofCode x.dst; let a ← Src.ofCode x.a; let b ← Src.ofCode x.b; let (t, sat) ← dInt x.fn; wf (.div t sat d a b)
  | 7 => do let d ← Dst.ofCode x.dst; let a ← Src.ofCode x.a; let b ← Src.ofCode x.b; let t ← dIntN x.fn; wf (.rem t d a b)
  | 8 => if x.b = 0 then (do let d ← Dst.ofCode x.dst; let a ← Src.ofCode x.a; let (t, sat) ← dInt x.fn; wf (.abs t sat d a)) else none
  | 9 => do let d ← Dst.ofCode x.dst; let a ← Src.ofCode x.a; let b ← Src.ofCode x.b; let t ← dIntN x.fn; wf (.min t d a b)
  | 10 => do let d ← Dst.ofCode x.dst; let a ← Src.ofCode x.a; let b ← Src.ofCode x.b; let t ← dIntN x.fn; wf (.max t d a b)
  | 11 => do let d ← Dst.ofCode x.dst; let a ← Src.ofCode x.a; let b ← Src.ofCode x.b; let t ← dIntN x.fn; wf (.and t d a b)
  | 12 => do let d ← Dst.ofCode x.dst; let a ← Src.ofCode x.a; let b ← Src.ofCode x.b; let t ← dIntN x.fn; wf (.or t d a b)
  | 13 => do let d ← Dst.ofCode x.dst; let a ← Src.ofCode x.a; let b ← Src.ofCode x.b; let t ← dIntN x.fn; wf (.xor t d a b)
  | 14 => do let d ← Dst.ofCode x.dst; let a ← Src.ofCode x.a; let b ← Src.ofCode x.b; let (t, sat) ← dInt x.fn; wf (.shl t sat d a b)
  | 15 => do let d ← Dst.ofCode x.dst; let a ← Src.ofCode x.a; let b ← Src.ofCode x.b; let t ← dIntN x.fn; wf (.shr t d a b)
  | _ => none

/-- Row 0x1- of the map of R57. -/
def decodeInt2 (x : Raw) : Option Instr :=
  match x.opc % 16 with
  | 0 => do let d ← Dst.ofCode x.dst; let a ← Src.ofCode x.a; let b ← Src.ofCode x.b; let t ← dIntN x.fn; wf (.sra t d a b)
  | 1 => do let d ← Dst.ofCode x.dst; let a ← Src.ofCode x.a; let b ← Src.ofCode x.b; let t ← dIntN x.fn; wf (.rot t d a b)
  | 2 => if x.b = 0 then (do let d ← Dst.ofCode x.dst; let a ← Src.ofCode x.a; let t ← dIntN x.fn; wf (.clz t d a)) else none
  | 3 => if x.b = 0 then (do let d ← Dst.ofCode x.dst; let a ← Src.ofCode x.a; let t ← dIntN x.fn; wf (.popc t d a)) else none
  | 4 => do let d ← Dst.ofCode x.dst; let a ← Src.ofCode x.a; let b ← Src.ofCode x.b; let t ← dIntN x.fn; wf (.sel t d a b)
  | 5 => do let d ← Dst.ofCode x.dst; let a ← Src.ofCode x.a; let b ← Src.ofCode x.b; let (t, cond) ← dCmp x.fn; wf (.cmp t cond d a b)
  | _ => none

/-- Row 0x2- of the map of R57. -/
def decodeFloat (x : Raw) : Option Instr :=
  match x.opc % 16 with
  | 0 => do let d ← Dst.ofCode x.dst; let a ← Src.ofCode x.a; let b ← Src.ofCode x.b; let (t, r) ← dFlt x.fn; wf (.fadd t r d a b)
  | 1 => do let d ← Dst.ofCode x.dst; let a ← Src.ofCode x.a; let b ← Src.ofCode x.b; let (t, r) ← dFlt x.fn; wf (.fsub t r d a b)
  | 2 => do let d ← Dst.ofCode x.dst; let a ← Src.ofCode x.a; let b ← Src.ofCode x.b; let (t, r) ← dFlt x.fn; wf (.fmul t r d a b)
  | 3 => do let d ← Dst.ofCode x.dst; let a ← Src.ofCode x.a; let b ← Src.ofCode x.b; let (t, r) ← dFlt x.fn; wf (.fma t r d a b)
  | 4 => do let d ← Dst.ofCode x.dst; let a ← Src.ofCode x.a; let b ← Src.ofCode x.b; let t ← dFltN x.fn; wf (.fmin t d a b)
  | 5 => do let d ← Dst.ofCode x.dst; let a ← Src.ofCode x.a; let b ← Src.ofCode x.b; let t ← dFltN x.fn; wf (.fmax t d a b)
  | 6 => if x.b = 0 then (do let d ← Dst.ofCode x.dst; let a ← Src.ofCode x.a; let t ← dFltN x.fn; wf (.fabs t d a)) else none
  | 7 => if x.b = 0 then (do let d ← Dst.ofCode x.dst; let a ← Src.ofCode x.a; let t ← dFltN x.fn; wf (.fneg t d a)) else none
  | 8 => do let d ← Dst.ofCode x.dst; let a ← Src.ofCode x.a; let b ← Src.ofCode x.b; let (t, cond) ← dFCmp x.fn; wf (.fcmp t cond d a b)
  | 9 => do let d ← Dst.ofCode x.dst; let a ← Src.ofCode x.a; let b ← Src.ofCode x.b; let (t, r) ← dFlt x.fn; wf (.fdiv t r d a b)
  | 10 => if x.b = 0 then (do let d ← Dst.ofCode x.dst; let a ← Src.ofCode x.a; let (t, r) ← dFlt x.fn; wf (.fsqrt t r d a)) else none
  | 11 => if x.b = 0 then (do let d ← Dst.ofCode x.dst; let a ← Src.ofCode x.a; let (t, r) ← dFlt x.fn; wf (.frcp t r d a)) else none
  | 12 => if x.b = 0 then (do let d ← Dst.ofCode x.dst; let a ← Src.ofCode x.a; let (t, r) ← dFlt x.fn; wf (.frsq t r d a)) else none
  | 13 => if x.b = 0 then (do let d ← Dst.ofCode x.dst; let a ← Src.ofCode x.a; let (t, r) ← dFlt x.fn; wf (.fexp2 t r d a)) else none
  | 14 => if x.b = 0 then (do let d ← Dst.ofCode x.dst; let a ← Src.ofCode x.a; let (t, r) ← dFlt x.fn; wf (.flog2 t r d a)) else none
  | _ => none

/-- Row 0x3- of the map of R57. -/
def decodeMove (x : Raw) : Option Instr :=
  match x.opc % 16 with
  | 0 => do let d ← Dst.ofCode x.dst; let a ← Src.ofCode x.a; let (st, sat) ← dCvtB x.b; let (dt, r) ← dCvtF x.fn; wf (.cvt dt r st sat d a)
  | 1 => do let d ← Dst.ofCode x.dst; let a ← Src.ofCode x.a; let scale ← Src.ofCode x.b; let (ft, r) ← dQcvt x.fn; wf (.qcvt ft r d a scale)
  | 2 => do let d ← vOf x.dst; let a ← vOf x.a; let b ← vOf x.b; let (t, sat) ← dInt x.fn; wf (.pack t sat d a b)
  | 3 => if x.b = 0 then (do let d ← vOf x.dst; let a ← vOf x.a; let (t, hi) ← dUnpk x.fn; wf (.unpk t hi d a)) else none
  | 4 => if x.b = 0 ∧ x.fn = 0 then (do let d ← Dst.ofCode x.dst; let a ← Src.ofCode x.a; wf (.mov d a)) else none
  | 5 => do let d ← Dst.ofCode x.dst; wf (.movi d x.imm22)
  | 6 => do let d ← Dst.ofCode x.dst; wf (.movh d x.imm22)
  | 7 => do let d ← vOf x.dst; let a ← vOf x.a; let b ← Src.ofCode x.b; let w ← dWid x.fn; wf (.shfl w d a b)
  | 8 => do let d ← Dst.ofCode x.dst; let a ← vOf x.a; let idx ← Src.ofCode x.b; let w ← dWid x.fn; wf (.bcst w d a idx)
  | 9 => do let d ← Dst.ofCode x.dst; let a ← vOf x.a; let (sat, r) ← dRedB x.b; let (ty, op) ← dRed x.fn; wf (.rdce ty op sat r d a)
  | 10 => do let d ← vOf x.dst; let a ← vOf x.a; let (sat, r) ← dRedB x.b; let (ty, op) ← dRed x.fn; wf (.scan ty op sat r d a)
  | 11 => do let d ← Dst.ofCode x.dst; let a ← vOf x.a; let idx ← Src.ofCode x.b; let (w, sx) ← dExtl x.fn; wf (.extl w sx d a idx)
  | 12 => do let d ← vOf x.dst; let a ← Src.ofCode x.a; let idx ← Src.ofCode x.b; let w ← dWid x.fn; wf (.insl w d a idx)
  | _ => none

/-- Row 0x4- of the map of R57. -/
def decodeToken (x : Raw) : Option Instr :=
  match x.opc % 16 with
  | 0 => if x.dst = 0 ∧ x.b = 0 ∧ x.fn = 0 then (do let a ← Src.ofCode x.a; wf (.pset a)) else none
  | 1 => if x.dst = 0 ∧ x.b = 0 ∧ x.fn = 0 then (do let a ← Src.ofCode x.a; wf (.pclr a)) else none
  | 2 => if x.b = 0 then (do let p ← pOf x.dst; let a ← vOf x.a; let all ← dBit0 x.fn; wf (.pld all p a)) else none
  | 3 => if x.b = 0 ∧ x.fn = 0 then (do let d ← Dst.ofCode x.dst; let a ← Src.ofCode x.a; wf (.pread d a)) else none
  | 4 => if x.fn = 0 then (do let o ← oOf x.dst; let a ← Src.ofCode x.a; let mask ← Src.ofCode x.b; wf (.send o a mask)) else none
  | 5 => if x.dst = 0 ∧ x.b = 0 ∧ x.fn = 0 then (do let c ← cOf x.a; wf (.drop c)) else none
  | 6 => if x.b = 0 ∧ x.fn = 0 then (do let d ← Dst.ofCode x.dst; let a ← Src.ofCode x.a; wf (.fwd d a)) else none
  | 7 => if x.a = 0 ∧ x.b = 0 ∧ x.fn = 0 then (do let d ← Dst.ofCode x.dst; wf (.mark d)) else none
  | 8 => if x.b = 0 then (do let d ← Dst.ofCode x.dst; let a ← Src.ofCode x.a; let tag ← dTag x.fn; wf (.retag tag d a)) else none
  | 9 => if x.fn = 0 then (do let o ← oOf x.dst; let a ← Src.ofCode x.a; let slc ← Src.ofCode x.b; wf (.steer o a slc)) else none
  | 10 => if x.fn = 0 then (do let o ← oOf x.dst; let ca ← cOf x.a; let cb ← cOf x.b; wf (.merge o ca cb)) else none
  | _ => none

/-- Row 0x5- of the map of R57. -/
def decodeStore (x : Raw) : Option Instr :=
  match x.opc % 16 with
  | 0 => if x.fn = 0 then (do let d ← Dst.ofCode x.dst; let k ← Src.ofCode x.a; let n ← Src.ofCode x.b; wf (.alloc d k n)) else none
  | 1 => if x.fn = 0 then (do let d ← Dst.ofCode x.dst; let k ← Src.ofCode x.a; let n ← Src.ofCode x.b; wf (.alloct d k n)) else none
  | 2 => if x.dst = 0 ∧ x.b = 0 ∧ x.fn = 0 then (do let h ← Src.ofCode x.a; wf (.release h)) else none
  | 3 => if x.dst = 0 ∧ x.fn = 0 then (do let h ← Src.ofCode x.a; let m ← Src.ofCode x.b; wf (.retain h m)) else none
  | 4 => if x.b = 0 ∧ x.fn = 0 then (do let d ← Dst.ofCode x.dst; let h ← Src.ofCode x.a; wf (.bsize d h)) else none
  | 5 => if x.b = 0 ∧ x.fn = 0 then (do let d ← Dst.ofCode x.dst; let h ← Src.ofCode x.a; wf (.ldb d h)) else none
  | 6 => if x.dst = 0 ∧ x.fn = 0 then (do let h ← Src.ofCode x.a; let src ← Src.ofCode x.b; wf (.stb h src)) else none
  | 7 => do let d ← vOf x.dst; let h ← Src.ofCode x.a; let vi ← vOf x.b; let sc ← dScale x.fn; wf (.ldbx sc d h vi)
  | 8 => do let vs ← vOf x.dst; let h ← Src.ofCode x.a; let vi ← vOf x.b; let sc ← dScale x.fn; wf (.stbx sc vs h vi)
  | 9 => if x.fn = 0 then (do let d ← vOf x.dst; let sn ← sOf x.a; let idx ← Src.ofCode x.b; wf (.ldt d sn idx)) else none
  | 10 => if x.fn = 0 then (do let vs ← vOf x.dst; let sn ← sOf x.a; let idx ← Src.ofCode x.b; wf (.stt vs sn idx)) else none
  | 11 => if x.fn = 0 then (do let d ← Dst.ofCode x.dst; let sn ← sOf x.a; let idx ← Src.ofCode x.b; wf (.tmap d sn idx)) else none
  | _ => none

/-- Row 0x6- of the map of R57. -/
def decodeSignal (x : Raw) : Option Instr :=
  match x.opc % 16 with
  | 0 => if x.dst = 0 ∧ x.fn = 0 then (do let h ← Src.ofCode x.a; let v ← Src.ofCode x.b; wf (.sigset h v)) else none
  | 1 => if x.dst = 0 ∧ x.b = 0 ∧ x.fn = 0 then (do let h ← Src.ofCode x.a; wf (.sigclr h)) else none
  | 2 => if x.dst = 0 then (do let h ← Src.ofCode x.a; let v ← Src.ofCode x.b; let cond ← dSigC x.fn; wf (.sigwait cond h v)) else none
  | 3 => do let d ← Dst.ofCode x.dst; let h ← Src.ofCode x.a; let v ← Src.ofCode x.b; let cond ← dSigC x.fn; wf (.sigtest cond d h v)
  | 4 => if x.dst = 0 ∧ x.fn = 0 then (do let h ← Src.ofCode x.a; let v ← Src.ofCode x.b; wf (.sigadd h v)) else none
  | 5 => if x.dst = 0 ∧ x.b = 0 ∧ x.fn = 0 then (do let g ← Src.ofCode x.a; wf (.gjoin g)) else none
  | 6 => if x.dst = 0 ∧ x.b = 0 ∧ x.fn = 0 then (do let g ← Src.ofCode x.a; wf (.gleave g)) else none
  | 7 => if x.dst = 0 ∧ x.b = 0 then (do let g ← Src.ofCode x.a; let scope ← dScp x.fn; wf (.gbar scope g)) else none
  | 8 => if x.dst = 0 ∧ x.b = 0 ∧ x.fn = 0 then (do let cls ← Src.ofCode x.a; wf (.prio cls)) else none
  | _ => none

/-- Row 0x7- of the map of R57. -/
def decodeGlobal (x : Raw) : Option Instr :=
  match x.opc % 16 with
  | 0 => if x.b = 0 then (do let d ← Dst.ofCode x.dst; let addr ← Src.ofCode x.a; let (sz, sx) ← dLdg x.fn; wf (.ldg sz sx d addr)) else none
  | 1 => if x.dst = 0 then (do let addr ← Src.ofCode x.a; let src ← Src.ofCode x.b; let sz ← dSiz x.fn; wf (.stg sz addr src)) else none
  | 2 => do let d ← vOf x.dst; let base ← Src.ofCode x.a; let vi ← vOf x.b; let (ew, sx, sc) ← dGath x.fn; wf (.gath ew sx sc d base vi)
  | 3 => do let vs ← vOf x.dst; let base ← Src.ofCode x.a; let vi ← vOf x.b; let (ew, sc) ← dScat x.fn; wf (.scat ew sc vs base vi)
  | 4 => if x.dst = 0 ∧ x.fn = 0 then (do let addr ← Src.ofCode x.a; let n ← Src.ofCode x.b; wf (.pref addr n)) else none
  | 5 => if x.a = 0 ∧ x.b = 0 then (do let o ← oOf x.dst; let scope ← dScp x.fn; wf (.order scope o)) else none
  | 6 => if x.dst = 0 ∧ x.a = 0 ∧ x.b = 0 then (do let scope ← dScp x.fn; wf (.fence scope)) else none
  | 7 => do let d ← Dst.ofCode x.dst; let addr ← Src.ofCode x.a; let v ← Src.ofCode x.b; let (op, w, scope) ← dAtom x.fn; wf (.atom op w scope d addr v)
  | 8 => do let d ← Dst.ofCode x.dst; let addr ← Src.ofCode x.a; let sn ← sOf x.b; let (w, scope) ← dCas x.fn; wf (.cas w scope d addr sn)
  | 9 => do let d ← Dst.ofCode x.dst; let addr ← Src.ofCode x.a; let v ← Src.ofCode x.b; let (ty, op, scope) ← dFat x.fn; wf (.fatom ty op scope d addr v)
  | _ => none

/-- Row 0x8- of the map of R57. -/
def decodeEngine (x : Raw) : Option Instr :=
  match x.opc % 16 with
  | 0 => if x.b = 0 ∧ x.fn = 0 then (do let o ← oOf x.dst; let desc ← Src.ofCode x.a; wf (.strm o desc)) else none
  | 1 => if x.dst = 0 ∧ x.fn = 0 then (do let desc ← Src.ofCode x.a; let ch ← Src.ofCode x.b; wf (.copy desc ch)) else none
  | 2 => if x.b = 0 ∧ x.fn = 0 then (do let d ← Dst.ofCode x.dst; let ch ← Src.ofCode x.a; wf (.wptr d ch)) else none
  | 3 => if x.dst = 0 ∧ x.b = 0 ∧ x.fn = 0 then (do let desc ← Src.ofCode x.a; wf (.mcast desc)) else none
  | 4 => if x.dst = 0 ∧ x.fn = 0 then (do let sn ← sOf x.a; let cnt ← Src.ofCode x.b; wf (.fill sn cnt)) else none
  | 5 => if x.fn = 0 then (do let d ← Dst.ofCode x.dst; let addr ← Src.ofCode x.a; let n ← Src.ofCode x.b; wf (.pin d addr n)) else none
  | 6 => if x.dst = 0 ∧ x.fn = 0 then (do let addr ← Src.ofCode x.a; let n ← Src.ofCode x.b; wf (.unpin addr n)) else none
  | 7 => if x.dst = 0 ∧ x.fn = 0 then (do let addr ← Src.ofCode x.a; let n ← Src.ofCode x.b; wf (.clean addr n)) else none
  | 8 => if x.dst = 0 ∧ x.fn = 0 then (do let addr ← Src.ofCode x.a; let n ← Src.ofCode x.b; wf (.invl addr n)) else none
  | _ => none

/-- Row 0x9- of the map of R57. -/
def decodeJunction (x : Raw) : Option Instr :=
  match x.opc % 16 with
  | 0 => if x.dst = 0 then (do let h ← Src.ofCode x.a; let scale ← Src.ofCode x.b; let fmt ← dJFmt x.fn; wf (.wload fmt h scale)) else none
  | 1 => if x.dst = 0 ∧ x.a = 0 ∧ x.b = 0 ∧ x.fn = 0 then wf .wswap else none
  | 2 => if x.dst = 0 then (do let h ← Src.ofCode x.a; let ctl ← Src.ofCode x.b; let fmt ← dJFmt x.fn; wf (.mma fmt h ctl)) else none
  | 3 => if x.dst = 0 ∧ x.fn = 0 then (do let h ← Src.ofCode x.a; let slot ← Src.ofCode x.b; wf (.accrd h slot)) else none
  | 4 => if x.dst = 0 ∧ x.fn = 0 then (do let slot ← Src.ofCode x.a; let h ← Src.ofCode x.b; wf (.accwr slot h)) else none
  | 5 => if x.dst = 0 ∧ x.b = 0 ∧ x.fn = 0 then (do let slot ← Src.ofCode x.a; wf (.accclr slot)) else none
  | 6 => if x.dst = 0 ∧ x.b = 0 ∧ x.fn = 0 then (do let h ← Src.ofCode x.a; wf (.ttload h)) else none
  | 7 => if x.dst = 0 ∧ x.b = 0 ∧ x.fn = 0 then (do let arm ← Src.ofCode x.a; wf (.ring arm)) else none
  | 8 => if x.dst = 0 ∧ x.fn = 0 then (do let home ← Src.ofCode x.a; let desc ← Src.ofCode x.b; wf (.tinj home desc)) else none
  | 9 => if x.b = 0 ∧ x.fn = 0 then (do let d ← Dst.ofCode x.dst; let slc ← Src.ofCode x.a; wf (.rstat d slc)) else none
  | 10 => if x.b = 0 ∧ x.fn = 0 then (do let o ← oOf x.dst; let a ← vOf x.a; wf (.turn o a)) else none
  | 11 => if x.a = 0 ∧ x.b = 0 ∧ x.fn = 0 then (do let d ← Dst.ofCode x.dst; wf (.statc d)) else none
  | 12 => if x.b = 0 ∧ x.fn = 0 then (do let d ← Dst.ofCode x.dst; let desc ← Src.ofCode x.a; wf (.coll d desc)) else none
  | 13 => if x.b = 0 ∧ x.fn = 0 then (do let d ← Dst.ofCode x.dst; let ticket ← Src.ofCode x.a; wf (.cwait d ticket)) else none
  | _ => none

/-- Row 0xA- of the map of R57. -/
def decodeQueue (x : Raw) : Option Instr :=
  match x.opc % 16 with
  | 0 => if x.dst = 0 ∧ x.b = 0 ∧ x.fn = 0 then (do let rec ← Src.ofCode x.a; wf (.enq rec)) else none
  | 1 => if x.fn = 0 then (do let d ← Dst.ofCode x.dst; let ctr ← Src.ofCode x.a; let rec ← Src.ofCode x.b; wf (.jdec d ctr rec)) else none
  | 2 => if x.dst = 0 ∧ x.a = 0 ∧ x.b = 0 ∧ x.fn = 0 then wf .yield else none
  | 3 => if x.dst = 0 ∧ x.a = 0 ∧ x.b = 0 ∧ x.fn = 0 then wf .done else none
  | 4 => do let d ← Dst.ofCode x.dst; let seq ← Src.ofCode x.a; let prompt ← Src.ofCode x.b; let probe ← dBit0 x.fn; wf (.pfxm probe d seq prompt)
  | 5 => if x.fn = 0 then (do let d ← Dst.ofCode x.dst; let seq ← Src.ofCode x.a; let prompt ← Src.ofCode x.b; wf (.pfxi d seq prompt)) else none
  | 6 => if x.fn = 0 then (do let d ← Dst.ofCode x.dst; let list ← Src.ofCode x.a; let start ← Src.ofCode x.b; wf (.kvapp d list start)) else none
  | 7 => if x.fn = 0 then (do let d ← Dst.ofCode x.dst; let seq ← Src.ofCode x.a; let len ← Src.ofCode x.b; wf (.kvtrunc d seq len)) else none
  | 8 => if x.b = 0 ∧ x.fn = 0 then (do let d ← Dst.ofCode x.dst; let seq ← Src.ofCode x.a; wf (.kvrel d seq)) else none
  | 9 => if x.b = 0 then (do let d ← Dst.ofCode x.dst; let grp ← Src.ofCode x.a; let unpin ← dBit0 x.fn; wf (.kvpin unpin d grp)) else none
  | 10 => if x.fn = 0 then (do let d ← Dst.ofCode x.dst; let seq ← Src.ofCode x.a; let slc ← Src.ofCode x.b; wf (.kvmap d seq slc)) else none
  | 11 => if x.a = 0 ∧ x.b = 0 then (do let d ← Dst.ofCode x.dst; let g ← dG x.fn; wf (.rng g d)) else none
  | 12 => if x.dst = 0 ∧ x.b = 0 then (do let img ← Src.ofCode x.a; let g ← dG x.fn; wf (.rngset g img)) else none
  | 13 => if x.dst = 0 ∧ x.b = 0 then (do let img ← Src.ofCode x.a; let g ← dG x.fn; wf (.rngget g img)) else none
  | _ => none

/-- Row 0xB- of the map of R57. -/
def decodeControl (x : Raw) : Option Instr :=
  match x.opc % 16 with
  | 0 => if x.dst = 0 then wf (.br x.imm22) else none
  | 1 => if x.dst = 0 ∧ x.b = 0 ∧ x.fn = 0 then (do let a ← Src.ofCode x.a; wf (.bri a)) else none
  | 2 => if x.dst = 0 then wf (.call x.imm22) else none
  | 3 => if x.dst = 0 ∧ x.b = 0 ∧ x.fn = 0 then (do let a ← Src.ofCode x.a; wf (.calli a)) else none
  | 4 => if x.dst = 0 ∧ x.a = 0 ∧ x.b = 0 ∧ x.fn = 0 then wf .ret else none
  | 5 => do let sn ← sOf x.dst; wf (.loop sn x.imm22)
  | 6 => if x.dst = 0 ∧ x.a = 0 ∧ x.b = 0 then (do let n ← dN6 x.fn; wf (.trap n)) else none
  | 7 => if x.dst = 0 ∧ x.a = 0 ∧ x.b = 0 ∧ x.fn = 0 then wf .eret else none
  | 8 => if x.a = 0 ∧ x.b = 0 then (do let d ← sOf x.dst; let reg ← dSys x.fn; wf (.sysrd reg d)) else none
  | 9 => if x.dst = 0 ∧ x.b = 0 then (do let a ← Src.ofCode x.a; let reg ← dSys x.fn; wf (.syswr reg a)) else none
  | 10 => if x.dst = 0 ∧ x.a = 0 ∧ x.b = 0 ∧ x.fn = 0 then wf .halt else none
  | 11 => if x.dst = 0 ∧ x.a = 0 ∧ x.b = 0 then (do let n ← dN6 x.fn; wf (.bkpt n)) else none
  | 12 => if x.dst = 0 ∧ x.b = 0 then (do let a ← Src.ofCode x.a; let kind ← dWait x.fn; wf (.wait kind a)) else none
  | _ => none

/-- Row 0xC- of the map of R57. -/
def decodeDepot (x : Raw) : Option Instr :=
  match x.opc % 16 with
  | 0 => if x.b = 0 then (do let d ← vOf x.dst; let sa ← sOf x.a; let loc ← dBit0 x.fn; wf (.vld loc d sa)) else none
  | 1 => if x.dst = 0 then (do let sa ← sOf x.a; let vs ← vOf x.b; let loc ← dBit0 x.fn; wf (.vst loc sa vs)) else none
  | 2 => if x.fn = 0 then (do let d ← vOf x.dst; let sn ← sOf x.a; let vt ← vOf x.b; wf (.vgath d sn vt)) else none
  | 3 => if x.fn = 0 then (do let d ← sOf x.dst; let sdesc ← sOf x.a; let ssel ← sOf x.b; wf (.kvwalk d sdesc ssel)) else none
  | 4 => if x.dst = 0 then (do let va ← vOf x.a; let sn ← sOf x.b; let (wide, async) ← dTrip x.fn; wf (.triple wide async va sn)) else none
  | 5 => if x.a = 0 ∧ x.b = 0 then (do let d ← sOf x.dst; let m ← dMbx x.fn; wf (.mbxrd m d)) else none
  | 6 => if x.fn = 0 then (do let d ← Dst.ofCode x.dst; let pa ← Src.ofCode x.a; let val ← Src.ofCode x.b; wf (.ptewr d pa val)) else none
  | 7 => if x.dst = 0 ∧ x.fn = 0 then (do let page ← Src.ofCode x.a; let slc ← Src.ofCode x.b; wf (.tlbinv page slc)) else none
  | 8 => if x.dst = 0 ∧ x.fn = 0 then (do let page ← Src.ofCode x.a; let slc ← Src.ofCode x.b; wf (.migr page slc)) else none
  | 9 => if x.fn = 0 then (do let d ← sOf x.dst; let page ← Src.ofCode x.a; let slc ← Src.ofCode x.b; wf (.cntrd d page slc)) else none
  | _ => none

/-- The instruction of a word's OPC, DST, SRCA, SRCB and FN (R57). -/
def decodeBody (r : Raw) : Option Instr :=
  match r.opc / 16 with
  | 0 => decodeInt r
  | 1 => decodeInt2 r
  | 2 => decodeFloat r
  | 3 => decodeMove r
  | 4 => decodeToken r
  | 5 => decodeStore r
  | 6 => decodeSignal r
  | 7 => decodeGlobal r
  | 8 => decodeEngine r
  | 9 => decodeJunction r
  | 10 => decodeQueue r
  | 11 => decodeControl r
  | 12 => decodeDepot r
  | _ => none

/-- Why bytes are no instruction word. -/
inductive DecodeError where
  /-- Fewer than eight bytes. -/
  | short
  /-- A guard or update field breaks R46. -/
  | reservedGuard
  /-- OPC is reserved (R57). -/
  | reservedOpcode
  /-- A field holds a value that the instruction's class or entry does not accept (R60). -/
  | reservedField
  deriving DecidableEq, Repr

/-- A decoded instruction word. -/
structure IWord where
  guard : Guard
  upd : Upd
  instr : Instr
  deriving DecidableEq, Repr

/-- The update part (R45, R46). -/
def Upd.ofCode (m i : Nat) : Option Upd :=
  match m with
  | 0 => if i = 0 then some .none else Option.none
  | 1 => some (.set (Fin.ofNat 8 i))
  | 2 => some (.clear (Fin.ofNat 8 i))
  | 3 => some (.toggle (Fin.ofNat 8 i))
  | _ => Option.none

/-- The guard part (R45, R46): PVAL is 0 where PCARE is 0, and without a tag test TCH and TAG are 0. -/
def Guard.ofRaw (r : Raw) : Option Guard :=
  let care := BitVec.ofNat 8 r.pcare
  let val := BitVec.ofNat 8 r.pval
  if val &&& ~~~care = 0 then
    if r.ten = 0 then if r.tch = 0 ∧ r.tag = 0 then some ⟨care, val, none⟩ else none
    else (Tag.ofCode r.tag).map fun t => ⟨care, val, some (Fin.ofNat 8 r.tch, t)⟩
  else none

/-- STEER and MERGE carry no tag test (R391, R429). -/
def tagTestOk (g : Guard) : Instr → Bool
  | .steer .. | .merge .. => g.test.isNone
  | _ => true

/-- HALT, RET, ERET and WSWAP carry no predicate update: every field of theirs but the guard is 0 (R358, R372, R413, R449). One
that carries an update is a reserved encoding, though R60 does not list the field (DEDUCED, log entry 96). -/
def updOk (u : Upd) : Instr → Bool
  | .halt | .ret | .eret | .wswap => u == .none
  | _ => true

/-- Is OPC assigned (R57)? -/
def opcDefined (n : Nat) : Bool :=
  match n / 16 with
  | 0 => true
  | 1 => n % 16 ≤ 5
  | 2 => n % 16 ≤ 14
  | 3 => n % 16 ≤ 12
  | 4 => n % 16 ≤ 10
  | 5 => n % 16 ≤ 11
  | 6 => n % 16 ≤ 8
  | 7 => n % 16 ≤ 9
  | 8 => n % 16 ≤ 8
  | 9 => n % 16 ≤ 13
  | 10 => n % 16 ≤ 13
  | 11 => n % 16 ≤ 12
  | 12 => n % 16 ≤ 9
  | _ => false

/-- Decode one 64-bit word. -/
def decodeWord (w : W64) : Except DecodeError IWord :=
  let r := Raw.ofNat w.toNat
  match Guard.ofRaw r, Upd.ofCode r.pupm r.pupi with
  | some g, some u =>
    if opcDefined r.opc then
      match decodeBody r with
      | some i => if tagTestOk g i && updOk u i then .ok ⟨g, u, i⟩ else .error .reservedField
      | none => .error .reservedField
    else .error .reservedOpcode
  | _, _ => .error .reservedGuard

/-- The little-endian number in a list of bytes (R7). -/
def leNat : List Byte → Nat
  | [] => 0
  | b :: bs => b.toNat + 256 * leNat bs

/-- The `n` little-endian bytes of a number (R7). -/
def leBytes : Nat → Nat → List Byte
  | 0, _ => []
  | n + 1, x => BitVec.ofNat 8 (x % 256) :: leBytes n (x / 256)

/-- Decode the word at the head of a byte list, and give the bytes after it. -/
def decode (bs : List Byte) : Except DecodeError (IWord × List Byte) :=
  if bs.length < 8 then .error .short
  else match decodeWord (BitVec.ofNat 64 (leNat (bs.take 8))) with
    | .ok i => .ok (i, bs.drop 8)
    | .error e => .error e

/-- The decoder's answer for an instruction whose bits are `w` (every bit above `nbits` zero): the word is laid out in
memory, lowest byte first, and given to `decode`. -/
def decodeTableWord (nbits w : Nat) : Option Instr :=
  match decode (leBytes 8 (w % 2 ^ nbits)) with
  | .ok (i, _) => some i.instr
  | .error _ => none

/-! ### Encoding -/

/-- OPC, DST, SRCA, SRCB and FN of an instruction. -/
structure Body where
  opc : Nat
  dst : Nat
  a : Nat
  b : Nat
  fn : Nat
  deriving DecidableEq, Repr

/-- The long-immediate form (R47). -/
def longBody (opc dst : Nat) (imm : BitVec 22) : Body :=
  ⟨opc, dst, imm.toNat / 2 ^ 14, imm.toNat / 2 ^ 6 % 256, imm.toNat % 64⟩

/-- The fields of an instruction; an event has none. -/
def encodeBody : Instr → Option Body
  | .nop => some ⟨0x00, 0, 0, 0, 0⟩
  | .add t sat d a b => some ⟨0x01, d.code, a.code, b.code, eInt t sat⟩
  | .sub t sat d a b => some ⟨0x02, d.code, a.code, b.code, eInt t sat⟩
  | .mul t sat d a b => some ⟨0x03, d.code, a.code, b.code, eInt t sat⟩
  | .mulh t d a b => some ⟨0x04, d.code, a.code, b.code, eIntN t⟩
  | .mad t sat d a b => some ⟨0x05, d.code, a.code, b.code, eInt t sat⟩
  | .div t sat d a b => some ⟨0x06, d.code, a.code, b.code, eInt t sat⟩
  | .rem t d a b => some ⟨0x07, d.code, a.code, b.code, eIntN t⟩
  | .abs t sat d a => some ⟨0x08, d.code, a.code, 0, eInt t sat⟩
  | .min t d a b => some ⟨0x09, d.code, a.code, b.code, eIntN t⟩
  | .max t d a b => some ⟨0x0A, d.code, a.code, b.code, eIntN t⟩
  | .and t d a b => some ⟨0x0B, d.code, a.code, b.code, eIntN t⟩
  | .or t d a b => some ⟨0x0C, d.code, a.code, b.code, eIntN t⟩
  | .xor t d a b => some ⟨0x0D, d.code, a.code, b.code, eIntN t⟩
  | .shl t sat d a b => some ⟨0x0E, d.code, a.code, b.code, eInt t sat⟩
  | .shr t d a b => some ⟨0x0F, d.code, a.code, b.code, eIntN t⟩
  | .sra t d a b => some ⟨0x10, d.code, a.code, b.code, eIntN t⟩
  | .rot t d a b => some ⟨0x11, d.code, a.code, b.code, eIntN t⟩
  | .clz t d a => some ⟨0x12, d.code, a.code, 0, eIntN t⟩
  | .popc t d a => some ⟨0x13, d.code, a.code, 0, eIntN t⟩
  | .sel t d a b => some ⟨0x14, d.code, a.code, b.code, eIntN t⟩
  | .cmp t cond d a b => some ⟨0x15, d.code, a.code, b.code, eCmp t cond⟩
  | .fadd t r d a b => some ⟨0x20, d.code, a.code, b.code, eFlt t r⟩
  | .fsub t r d a b => some ⟨0x21, d.code, a.code, b.code, eFlt t r⟩
  | .fmul t r d a b => some ⟨0x22, d.code, a.code, b.code, eFlt t r⟩
  | .fma t r d a b => some ⟨0x23, d.code, a.code, b.code, eFlt t r⟩
  | .fmin t d a b => some ⟨0x24, d.code, a.code, b.code, eFltN t⟩
  | .fmax t d a b => some ⟨0x25, d.code, a.code, b.code, eFltN t⟩
  | .fabs t d a => some ⟨0x26, d.code, a.code, 0, eFltN t⟩
  | .fneg t d a => some ⟨0x27, d.code, a.code, 0, eFltN t⟩
  | .fcmp t cond d a b => some ⟨0x28, d.code, a.code, b.code, eFCmp t cond⟩
  | .fdiv t r d a b => some ⟨0x29, d.code, a.code, b.code, eFlt t r⟩
  | .fsqrt t r d a => some ⟨0x2A, d.code, a.code, 0, eFlt t r⟩
  | .frcp t r d a => some ⟨0x2B, d.code, a.code, 0, eFlt t r⟩
  | .frsq t r d a => some ⟨0x2C, d.code, a.code, 0, eFlt t r⟩
  | .fexp2 t r d a => some ⟨0x2D, d.code, a.code, 0, eFlt t r⟩
  | .flog2 t r d a => some ⟨0x2E, d.code, a.code, 0, eFlt t r⟩
  | .cvt dt r st sat d a => some ⟨0x30, d.code, a.code, (eCvtB st sat), eCvtF dt r⟩
  | .qcvt ft r d a scale => some ⟨0x31, d.code, a.code, scale.code, eQcvt ft r⟩
  | .pack t sat d a b => some ⟨0x32, d.val, a.val, b.val, eInt t sat⟩
  | .unpk t hi d a => some ⟨0x33, d.val, a.val, 0, eUnpk t hi⟩
  | .mov d a => some ⟨0x34, d.code, a.code, 0, 0⟩
  | .movi d imm => some (longBody 0x35 d.code imm)
  | .movh d imm => some (longBody 0x36 d.code imm)
  | .shfl w d a b => some ⟨0x37, d.val, a.val, b.code, eWid w⟩
  | .bcst w d a idx => some ⟨0x38, d.code, a.val, idx.code, eWid w⟩
  | .rdce ty op sat r d a => some ⟨0x39, d.code, a.val, (eRedB sat r), eRed ty op⟩
  | .scan ty op sat r d a => some ⟨0x3A, d.val, a.val, (eRedB sat r), eRed ty op⟩
  | .extl w sx d a idx => some ⟨0x3B, d.code, a.val, idx.code, eExtl w sx⟩
  | .insl w d a idx => some ⟨0x3C, d.val, a.code, idx.code, eWid w⟩
  | .pset a => some ⟨0x40, 0, a.code, 0, 0⟩
  | .pclr a => some ⟨0x41, 0, a.code, 0, 0⟩
  | .pld all p a => some ⟨0x42, (pCode p), a.val, 0, eBit0 all⟩
  | .pread d a => some ⟨0x43, d.code, a.code, 0, 0⟩
  | .send o a mask => some ⟨0x44, (oCode o), a.code, mask.code, 0⟩
  | .drop c => some ⟨0x45, 0, (cCode c), 0, 0⟩
  | .fwd d a => some ⟨0x46, d.code, a.code, 0, 0⟩
  | .mark d => some ⟨0x47, d.code, 0, 0, 0⟩
  | .retag tag d a => some ⟨0x48, d.code, a.code, 0, eTag tag⟩
  | .steer o a slc => some ⟨0x49, (oCode o), a.code, slc.code, 0⟩
  | .merge o ca cb => some ⟨0x4A, (oCode o), (cCode ca), (cCode cb), 0⟩
  | .alloc d k n => some ⟨0x50, d.code, k.code, n.code, 0⟩
  | .alloct d k n => some ⟨0x51, d.code, k.code, n.code, 0⟩
  | .release h => some ⟨0x52, 0, h.code, 0, 0⟩
  | .retain h m => some ⟨0x53, 0, h.code, m.code, 0⟩
  | .bsize d h => some ⟨0x54, d.code, h.code, 0, 0⟩
  | .ldb d h => some ⟨0x55, d.code, h.code, 0, 0⟩
  | .stb h src => some ⟨0x56, 0, h.code, src.code, 0⟩
  | .ldbx sc d h vi => some ⟨0x57, d.val, h.code, vi.val, eScale sc⟩
  | .stbx sc vs h vi => some ⟨0x58, vs.val, h.code, vi.val, eScale sc⟩
  | .ldt d sn idx => some ⟨0x59, d.val, (sCode sn), idx.code, 0⟩
  | .stt vs sn idx => some ⟨0x5A, vs.val, (sCode sn), idx.code, 0⟩
  | .tmap d sn idx => some ⟨0x5B, d.code, (sCode sn), idx.code, 0⟩
  | .sigset h v => some ⟨0x60, 0, h.code, v.code, 0⟩
  | .sigclr h => some ⟨0x61, 0, h.code, 0, 0⟩
  | .sigwait cond h v => some ⟨0x62, 0, h.code, v.code, eSigC cond⟩
  | .sigtest cond d h v => some ⟨0x63, d.code, h.code, v.code, eSigC cond⟩
  | .sigadd h v => some ⟨0x64, 0, h.code, v.code, 0⟩
  | .gjoin g => some ⟨0x65, 0, g.code, 0, 0⟩
  | .gleave g => some ⟨0x66, 0, g.code, 0, 0⟩
  | .gbar scope g => some ⟨0x67, 0, g.code, 0, eScp scope⟩
  | .prio cls => some ⟨0x68, 0, cls.code, 0, 0⟩
  | .ldg sz sx d addr => some ⟨0x70, d.code, addr.code, 0, eLdg sz sx⟩
  | .stg sz addr src => some ⟨0x71, 0, addr.code, src.code, eSiz sz⟩
  | .gath ew sx sc d base vi => some ⟨0x72, d.val, base.code, vi.val, eGath ew sx sc⟩
  | .scat ew sc vs base vi => some ⟨0x73, vs.val, base.code, vi.val, eScat ew sc⟩
  | .pref addr n => some ⟨0x74, 0, addr.code, n.code, 0⟩
  | .order scope o => some ⟨0x75, (oCode o), 0, 0, eScp scope⟩
  | .fence scope => some ⟨0x76, 0, 0, 0, eScp scope⟩
  | .atom op w scope d addr v => some ⟨0x77, d.code, addr.code, v.code, eAtom op w scope⟩
  | .cas w scope d addr sn => some ⟨0x78, d.code, addr.code, (sCode sn), eCas w scope⟩
  | .fatom ty op scope d addr v => some ⟨0x79, d.code, addr.code, v.code, eFat ty op scope⟩
  | .strm o desc => some ⟨0x80, (oCode o), desc.code, 0, 0⟩
  | .copy desc ch => some ⟨0x81, 0, desc.code, ch.code, 0⟩
  | .wptr d ch => some ⟨0x82, d.code, ch.code, 0, 0⟩
  | .mcast desc => some ⟨0x83, 0, desc.code, 0, 0⟩
  | .fill sn cnt => some ⟨0x84, 0, (sCode sn), cnt.code, 0⟩
  | .pin d addr n => some ⟨0x85, d.code, addr.code, n.code, 0⟩
  | .unpin addr n => some ⟨0x86, 0, addr.code, n.code, 0⟩
  | .clean addr n => some ⟨0x87, 0, addr.code, n.code, 0⟩
  | .invl addr n => some ⟨0x88, 0, addr.code, n.code, 0⟩
  | .wload fmt h scale => some ⟨0x90, 0, h.code, scale.code, eJFmt fmt⟩
  | .wswap => some ⟨0x91, 0, 0, 0, 0⟩
  | .mma fmt h ctl => some ⟨0x92, 0, h.code, ctl.code, eJFmt fmt⟩
  | .accrd h slot => some ⟨0x93, 0, h.code, slot.code, 0⟩
  | .accwr slot h => some ⟨0x94, 0, slot.code, h.code, 0⟩
  | .accclr slot => some ⟨0x95, 0, slot.code, 0, 0⟩
  | .ttload h => some ⟨0x96, 0, h.code, 0, 0⟩
  | .ring arm => some ⟨0x97, 0, arm.code, 0, 0⟩
  | .tinj home desc => some ⟨0x98, 0, home.code, desc.code, 0⟩
  | .rstat d slc => some ⟨0x99, d.code, slc.code, 0, 0⟩
  | .turn o a => some ⟨0x9A, (oCode o), a.val, 0, 0⟩
  | .statc d => some ⟨0x9B, d.code, 0, 0, 0⟩
  | .coll d desc => some ⟨0x9C, d.code, desc.code, 0, 0⟩
  | .cwait d ticket => some ⟨0x9D, d.code, ticket.code, 0, 0⟩
  | .enq rec => some ⟨0xA0, 0, rec.code, 0, 0⟩
  | .jdec d ctr rec => some ⟨0xA1, d.code, ctr.code, rec.code, 0⟩
  | .yield => some ⟨0xA2, 0, 0, 0, 0⟩
  | .done => some ⟨0xA3, 0, 0, 0, 0⟩
  | .pfxm probe d seq prompt => some ⟨0xA4, d.code, seq.code, prompt.code, eBit0 probe⟩
  | .pfxi d seq prompt => some ⟨0xA5, d.code, seq.code, prompt.code, 0⟩
  | .kvapp d list start => some ⟨0xA6, d.code, list.code, start.code, 0⟩
  | .kvtrunc d seq len => some ⟨0xA7, d.code, seq.code, len.code, 0⟩
  | .kvrel d seq => some ⟨0xA8, d.code, seq.code, 0, 0⟩
  | .kvpin unpin d grp => some ⟨0xA9, d.code, grp.code, 0, eBit0 unpin⟩
  | .kvmap d seq slc => some ⟨0xAA, d.code, seq.code, slc.code, 0⟩
  | .rng g d => some ⟨0xAB, d.code, 0, 0, eG g⟩
  | .rngset g img => some ⟨0xAC, 0, img.code, 0, eG g⟩
  | .rngget g img => some ⟨0xAD, 0, img.code, 0, eG g⟩
  | .br imm => some (longBody 0xB0 0 imm)
  | .bri a => some ⟨0xB1, 0, a.code, 0, 0⟩
  | .call imm => some (longBody 0xB2 0 imm)
  | .calli a => some ⟨0xB3, 0, a.code, 0, 0⟩
  | .ret => some ⟨0xB4, 0, 0, 0, 0⟩
  | .loop sn imm => some (longBody 0xB5 (sCode sn) imm)
  | .trap n => some ⟨0xB6, 0, 0, 0, eN6 n⟩
  | .eret => some ⟨0xB7, 0, 0, 0, 0⟩
  | .sysrd reg d => some ⟨0xB8, (sCode d), 0, 0, eSys reg⟩
  | .syswr reg a => some ⟨0xB9, 0, a.code, 0, eSys reg⟩
  | .halt => some ⟨0xBA, 0, 0, 0, 0⟩
  | .bkpt n => some ⟨0xBB, 0, 0, 0, eN6 n⟩
  | .wait kind a => some ⟨0xBC, 0, a.code, 0, eWait kind⟩
  | .vld loc d sa => some ⟨0xC0, d.val, (sCode sa), 0, eBit0 loc⟩
  | .vst loc sa vs => some ⟨0xC1, 0, (sCode sa), vs.val, eBit0 loc⟩
  | .vgath d sn vt => some ⟨0xC2, d.val, (sCode sn), vt.val, 0⟩
  | .kvwalk d sdesc ssel => some ⟨0xC3, (sCode d), (sCode sdesc), (sCode ssel), 0⟩
  | .triple wide async va sn => some ⟨0xC4, 0, va.val, (sCode sn), eTrip wide async⟩
  | .mbxrd m d => some ⟨0xC5, (sCode d), 0, 0, eMbx m⟩
  | .ptewr d pa val => some ⟨0xC6, d.code, pa.code, val.code, 0⟩
  | .tlbinv page slc => some ⟨0xC7, 0, page.code, slc.code, 0⟩
  | .migr page slc => some ⟨0xC8, 0, page.code, slc.code, 0⟩
  | .cntrd d page slc => some ⟨0xC9, (sCode d), page.code, slc.code, 0⟩
  | _ => none

/-- The fields of a guard, an update and a body. -/
def Raw.mk' (g : Guard) (u : Upd) (b : Body) : Raw where
  pcare := g.care.toNat
  pval := g.val.toNat
  ten := match g.test with | some _ => 1 | none => 0
  tch := match g.test with | some (c, _) => c.val | none => 0
  tag := match g.test with | some (_, t) => t.code | none => 0
  pupm := match u with | .none => 0 | .set _ => 1 | .clear _ => 2 | .toggle _ => 3
  pupi := match u with | .none => 0 | .set n => n.val | .clear n => n.val | .toggle n => n.val
  opc := b.opc
  dst := b.dst
  a := b.a
  b := b.b
  fn := b.fn

/-- The word of a guarded instruction (R45); an event has none. -/
def encode (i : IWord) : Option W64 :=
  (encodeBody i.instr).map fun b => BitVec.ofNat 64 (Raw.mk' i.guard i.upd b).toNat

/-- The well-formed words: a guard under R46, a well-formed instruction, and an update where it may carry one. -/
def IWord.wf (i : IWord) : Bool :=
  (i.guard.val &&& ~~~i.guard.care == 0) && i.instr.wf && tagTestOk i.guard i.instr && updOk i.upd i.instr

end Sys2Proof
end

