-- ==== Sys2Proof/Machine/Bits.lean ====
section
/-! DEFINITION. Bit fields, signed reading, and lane vectors. A lane vector is one natural number in which lane `j`
occupies bits 32·j + 31 to 32·j, so that value position `v` of width `w` is bits w·v + w - 1 to w·v at every width
(R53). -/
namespace Sys2Proof

/-- Bits `lo + n - 1` to `lo` of `x`. -/
def fld (x lo n : Nat) : Nat := (x >>> lo) % 2 ^ n

/-- Bit `i` of `x` as a Bool. -/
def bitOf (x i : Nat) : Bool := x.testBit i

/-- A Bool as a number. -/
def b2n (b : Bool) : Nat := if b then 1 else 0

/-- The `w`-bit pattern `x` read in two's complement. -/
def asInt (w x : Nat) : Int := if x % 2 ^ w < 2 ^ (w - 1) then ((x % 2 ^ w : Nat) : Int) else ((x % 2 ^ w : Nat) : Int) - 2 ^ w

/-- The `w`-bit pattern of an integer. -/
def wrapInt (w : Nat) (i : Int) : Nat := (i % (2 ^ w : Nat)).toNat

/-- A `w`-bit pattern sign-extended to `v` bits. -/
def sextTo (w v x : Nat) : Nat := wrapInt v (asInt w x)

def w64 (x : Nat) : W64 := BitVec.ofNat 64 x
def lane32 (x : Nat) : Lane := BitVec.ofNat 32 x

/-- Value position `v` of width `w`. -/
def valAt (w vec v : Nat) : Nat := fld vec (w * v) w

/-- The vector whose `n` value positions of width `w` are `f 0` to `f (n - 1)`. -/
def vecMk (w : Nat) : Nat → (Nat → Nat) → Nat
  | 0, _ => 0
  | n + 1, f => vecMk w n f + (f n % 2 ^ w) <<< (w * n)

/-- Lane `j` of a vector. -/
def laneAt (vec j : Nat) : Lane := lane32 (vec >>> (32 * j))

/-- Leading zero bits of a `w`-bit pattern. -/
def clzNat : Nat → Nat → Nat
  | 0, _ => 0
  | w + 1, x => if x.testBit w then 0 else 1 + clzNat w x

/-- One bits of a `w`-bit pattern. -/
def popNat : Nat → Nat → Nat
  | 0, _ => 0
  | w + 1, x => b2n (x.testBit w) + popNat w x

/-- `n` little-endian bytes of `x` (R7). -/
def bytesOf (n x : Nat) : List Byte := (List.range n).map (fun i => BitVec.ofNat 8 (x >>> (8 * i)))

/-- The little-endian number in a list of bytes (R7). -/
def ofBytes : List Byte → Nat
  | [] => 0
  | b :: bs => b.toNat + 256 * ofBytes bs

/-- Rounds `a` down to a multiple of `m`. -/
def floorTo (a m : Nat) : Nat := a - a % m

/-- `x` is later than `y` as a serial number modulo 2^32 (R32). -/
def serialLater (x y : BitVec 32) : Bool := decide (1 ≤ (x - y).toNat ∧ (x - y).toNat < 2 ^ 31)

end Sys2Proof
end

