-- ==== Sys2Proof/Machine/Float.lean ====
section
/-! DEFINITION. Number formats and exact arithmetic (R102 to R110). A floating-point value is decoded to a sign, a
natural significand and a power of two; every operation is computed exactly (or, for the operations of R106 whose exact
result is not a dyadic number, to far more bits than any format holds, with the last bit set to say "and a little more")
and is then rounded once. -/
namespace Sys2Proof

/-- The least and greatest values of an integer type (R53). -/
def IntTy.minVal (t : IntTy) : Int := if t.signed then -((2 ^ (t.width - 1) : Nat) : Int) else 0
def IntTy.maxVal (t : IntTy) : Int :=
  if t.signed then ((2 ^ (t.width - 1) : Nat) : Int) - 1 else ((2 ^ t.width : Nat) : Int) - 1

/-- The exact integer of a pattern of an integer type. -/
def IntTy.read (t : IntTy) (x : Nat) : Int := if t.signed then asInt t.width x else ((x % 2 ^ t.width : Nat) : Int)

end Sys2Proof

namespace Sys2Proof.Machine

/-- A floating-point format (R102): width, fraction bits, bias, whether it is E4M3 (no infinity), its largest finite
magnitude, its infinity and its canonical NaN. -/
structure Fmt where
  w : Nat
  fb : Nat
  bias : Nat
  e4m3 : Bool
  maxFin : Nat
  inf : Nat
  nan : Nat
  deriving DecidableEq, Repr

def Fmt.fp32 : Fmt := ⟨32, 23, 127, false, 0x7F7FFFFF, 0x7F800000, 0x7FC00000⟩
def Fmt.bf16 : Fmt := ⟨16, 7, 127, false, 0x7F7F, 0x7F80, 0x7FC0⟩
def Fmt.fp16 : Fmt := ⟨16, 10, 15, false, 0x7BFF, 0x7C00, 0x7E00⟩
def Fmt.e5m2 : Fmt := ⟨8, 2, 15, false, 0x7B, 0x7C, 0x7E⟩
/-- E4M3 has no infinity; `inf` is not used. -/
def Fmt.e4m3Fmt : Fmt := ⟨8, 3, 7, true, 0x7E, 0x7F, 0x7F⟩

def fmtOfF : FTy → Fmt
  | .fp16 => Fmt.fp16
  | .bf16 => Fmt.bf16
  | .fp32 => Fmt.fp32

def fmtOf8 : F8 → Fmt
  | .e4m3 => Fmt.e4m3Fmt
  | .e5m2 => Fmt.e5m2

/-- A decoded value: a NaN, an infinity, or ±`m` · 2^`e` (`m = 0`: a signed zero). -/
inductive FVal where
  | nan
  | inf (neg : Bool)
  | fin (neg : Bool) (m : Nat) (e : Int)
  deriving DecidableEq, Repr

/-- The exponent of the format's subnormal grid. -/
def Fmt.qmin (f : Fmt) : Int := 1 - (f.bias : Int) - (f.fb : Int)

/-- The sign bit of a pattern. -/
def Fmt.signBit (f : Fmt) (x : Nat) : Bool := x.testBit (f.w - 1)

/-- The value of a pattern (R102). -/
def Fmt.decode (f : Fmt) (x : Nat) : FVal :=
  let mag := x % 2 ^ (f.w - 1)
  let neg := f.signBit x
  if f.e4m3 then
    if mag = 0x7F then .nan
    else if mag < 2 ^ f.fb then .fin neg mag f.qmin
    else .fin neg (2 ^ f.fb + mag % 2 ^ f.fb) (f.qmin + ((mag / 2 ^ f.fb : Nat) : Int) - 1)
  else if f.inf < mag then .nan
  else if mag = f.inf then .inf neg
  else if mag < 2 ^ f.fb then .fin neg mag f.qmin
  else .fin neg (2 ^ f.fb + mag % 2 ^ f.fb) (f.qmin + ((mag / 2 ^ f.fb : Nat) : Int) - 1)

/-- A magnitude with its sign. -/
def Fmt.signed (f : Fmt) (neg : Bool) (mag : Nat) : Nat := mag + (if neg then 2 ^ (f.w - 1) else 0)

/-- Rounds `m / 2^k` to an integer (R104 step 2). -/
def roundShift (r : Rnd) (neg : Bool) (m k : Nat) : Nat :=
  let n := m / 2 ^ k
  let rem := m % 2 ^ k
  let up : Bool :=
    match r with
    | .rne => decide (2 ^ k < 2 * rem) || (decide (2 * rem = 2 ^ k) && n % 2 == 1 && k != 0)
    | .rtz => false
    | .rdn => neg && rem != 0
    | .rup => !neg && rem != 0
  n + b2n up

/-- The magnitude bits of ±`m` · 2^`e` rounded to the format with an unbounded exponent range; a result above
`maxFin` is an overflow (R104 steps 2 and 3, R108). -/
def Fmt.roundMag (f : Fmt) (r : Rnd) (neg : Bool) (m : Nat) (e : Int) : Nat :=
  if m = 0 then 0
  else
    let q : Int := max ((m.log2 : Int) + e - f.fb) f.qmin
    let n := if e ≤ q then roundShift r neg m (q - e).toNat else m * 2 ^ (e - q).toNat
    (q - f.qmin).toNat * 2 ^ f.fb + n

/-- Overflow of R104 step 4. -/
def Fmt.overflow (f : Fmt) (r : Rnd) (neg : Bool) : Nat :=
  match r, neg with
  | .rne, _ => f.inf
  | .rtz, _ => f.maxFin
  | .rdn, false => f.maxFin
  | .rdn, true => f.inf
  | .rup, false => f.inf
  | .rup, true => f.maxFin

/-- ±`m` · 2^`e` rounded once to a lane format (R104). -/
def Fmt.round (f : Fmt) (r : Rnd) (neg : Bool) (m : Nat) (e : Int) : Nat :=
  let mag := f.roundMag r neg m e
  f.signed neg (if f.maxFin < mag then f.overflow r neg else mag)

/-- The pattern of a value, rounded (R103, R104). -/
def Fmt.encode (f : Fmt) (r : Rnd) : FVal → Nat
  | .nan => f.nan
  | .inf neg => f.signed neg f.inf
  | .fin neg m e => f.round r neg m e

/-! ### Exact operations -/

def FVal.neg : FVal → FVal
  | .nan => .nan
  | .inf n => .inf (!n)
  | .fin n m e => .fin (!n) m e

/-- The signed integer of a finite value on the grid 2^`g`, `g` at most its exponent. -/
def gridInt (neg : Bool) (m : Nat) (e g : Int) : Int :=
  let x : Int := ((m * 2 ^ (e - g).toNat : Nat) : Int)
  if neg then -x else x

/-- The exact sum. An exact zero sum of operands of opposite sign is +0, and -0 in RDN (R104). -/
def FVal.add (r : Rnd) : FVal → FVal → FVal
  | .nan, _ => .nan
  | _, .nan => .nan
  | .inf a, .inf b => if a = b then .inf a else .nan
  | .inf a, .fin _ _ _ => .inf a
  | .fin _ _ _, .inf b => .inf b
  | .fin na ma ea, .fin nb mb eb =>
    let g := min ea eb
    let x := gridInt na ma ea g + gridInt nb mb eb g
    if x = 0 then .fin (if na = nb then na else r == .rdn) 0 g
    else .fin (decide (x < 0)) x.natAbs g

/-- The exact product. -/
def FVal.mul : FVal → FVal → FVal
  | .nan, _ => .nan
  | _, .nan => .nan
  | .inf a, .inf b => .inf (a != b)
  | .inf a, .fin nb mb _ => if mb = 0 then .nan else .inf (a != nb)
  | .fin na ma _, .inf b => if ma = 0 then .nan else .inf (na != b)
  | .fin na ma ea, .fin nb mb eb => .fin (na != nb) (ma * mb) (ea + eb)

/-- The quotient, exact or with its last bit set (R106). -/
def FVal.div : FVal → FVal → FVal
  | .nan, _ => .nan
  | _, .nan => .nan
  | .inf _, .inf _ => .nan
  | .inf a, .fin nb _ _ => .inf (a != nb)
  | .fin na _ _, .inf b => .fin (na != b) 0 0
  | .fin na ma ea, .fin nb mb eb =>
    if mb = 0 then (if ma = 0 then .nan else .inf (na != nb))
    else
      let k := 64 + mb.log2
      let x := ma * 2 ^ k
      .fin (na != nb) (2 * (x / mb) + b2n (x % mb != 0)) (ea - eb - k - 1)

/-- Integer square root of `x`, given a number of result bits. -/
def isqrtBits : Nat → Nat → Nat → Nat
  | 0, _, acc => acc
  | n + 1, x, acc => isqrtBits n x (if (acc + 2 ^ n) * (acc + 2 ^ n) ≤ x then acc + 2 ^ n else acc)

def isqrt (x : Nat) : Nat := isqrtBits (x.log2 / 2 + 1) x 0

/-- `m` · 2^`e` with an even exponent. -/
def evenExp (m : Nat) (e : Int) : Nat × Int := if e % 2 = 0 then (m, e) else (2 * m, e - 1)

def FVal.sqrt : FVal → FVal
  | .nan => .nan
  | .inf n => if n then .nan else .inf false
  | .fin n m e =>
    if m = 0 then .fin n 0 e
    else if n then .nan
    else
      let (m', e') := evenExp m e
      let x := m' * 2 ^ 80
      let q := isqrt x
      .fin false (2 * q + b2n (q * q != x)) (e' / 2 - 41)

def FVal.rsqrt : FVal → FVal
  | .nan => .nan
  | .inf n => if n then .nan else .fin false 0 0
  | .fin n m e =>
    if m = 0 then .inf n
    else if n then .nan
    else
      let (m', e') := evenExp m e
      let k := 64 + m'.log2
      let q := isqrt (2 ^ (2 * k) / m')
      .fin false (2 * q + b2n (q * q * m' != 2 ^ (2 * k))) (-(e' / 2) - k - 1)

def FVal.one : FVal := .fin false 1 0

/-- ln 2 · 2^320, rounded down. -/
def ln2Fix : Nat := 0xB17217F7D1CF79ABC9E3B39803F2F6AF40F343267298B62D8A0D175B8BAAFA2BE7B876206DEBAC98

/-- Σ y^k / k! from term `k` on, in 320-bit fixed point. -/
def expSeries : Nat → Nat → Nat → Nat → Nat
  | 0, _, _, _ => 0
  | n + 1, k, term, y => term + expSeries n (k + 1) (term * y / 2 ^ 320 / (k + 1)) y

/-- 2^`f` for a fraction `f` in 320-bit fixed point. -/
def exp2Frac (f : Nat) : Nat := expSeries 80 0 (2 ^ 320) (f * ln2Fix / 2 ^ 320)

/-- 2^x (R106). For a value of x that is not an integer the result is irrational, and 300 of its bits are formed
(DESIGN CHOICE, log entry 7). -/
def FVal.exp2 : FVal → FVal
  | .nan => .nan
  | .inf n => if n then .fin false 0 0 else .inf false
  | .fin n m e =>
    if m = 0 then FVal.one
    else if 12 < (m.log2 : Int) + e then .fin false 1 (if n then -4096 else 4096)
    else
      let x := gridInt n m e (min e 0)
      let k := (-(min e 0)).toNat
      let i := x / ((2 ^ k : Nat) : Int)
      let f := (x % ((2 ^ k : Nat) : Int)).toNat
      if f = 0 then .fin false 1 i
      else .fin false (2 * (exp2Frac (f * 2 ^ 320 / 2 ^ k) / 2 ^ 20) + 1) (i - 301)

/-- Σ z^(2k+1) / (2k+1) from term `k` on, in 320-bit fixed point. -/
def atanhSeries : Nat → Nat → Nat → Nat → Nat
  | 0, _, _, _ => 0
  | n + 1, k, term, z2 => term / (2 * k + 1) + atanhSeries n (k + 1) (term * z2 / 2 ^ 320) z2

/-- log2 x (R106). For a value of x that is not a power of two the result is irrational
(DESIGN CHOICE, log entry 7). -/
def FVal.log2 : FVal → FVal
  | .nan => .nan
  | .inf n => if n then .nan else .inf false
  | .fin n m e =>
    if m = 0 then .inf true
    else if n then .nan
    else
      let p := m.log2
      let i : Int := (p : Int) + e
      if m = 2 ^ p then .fin (decide (i < 0)) i.natAbs 0
      else
        let z := (m - 2 ^ p) * 2 ^ 320 / (m + 2 ^ p)
        let l := 2 * atanhSeries 110 0 z (z * z / 2 ^ 320)
        let x := i * ((2 ^ 320 : Nat) : Int) + ((l * 2 ^ 320 / ln2Fix : Nat) : Int)
        .fin (decide (x < 0)) (2 * (x.natAbs / 2 ^ 20) + 1) (-301)

/-! ### Comparison -/

/-- The order of two values that are not NaNs: a < b, with -0 equal to +0. -/
def FVal.lt : FVal → FVal → Bool
  | .nan, _ => false
  | _, .nan => false
  | .inf a, .inf b => a && !b
  | .inf a, .fin _ _ _ => a
  | .fin _ _ _, .inf b => !b
  | .fin na ma ea, .fin nb mb eb =>
    let g := min ea eb
    decide (gridInt na ma ea g < gridInt nb mb eb g)

def FVal.isNan : FVal → Bool
  | .nan => true
  | _ => false

def FVal.isZero : FVal → Bool
  | .fin _ m _ => m == 0
  | _ => false

/-- FCMP's condition (R105). -/
def FVal.cond (c : FCond) (a b : FVal) : Bool :=
  let un := a.isNan || b.isNan
  match c with
  | .eq => !un && !FVal.lt a b && !FVal.lt b a
  | .ne => un || FVal.lt a b || FVal.lt b a
  | .lt => FVal.lt a b
  | .le => !un && !FVal.lt b a
  | .gt => FVal.lt b a
  | .ge => !un && !FVal.lt a b
  | .un => un
  | .ord => !un

/-- FMIN and FMAX on bit patterns (R105): -0 lies below +0. -/
def Fmt.minmax (f : Fmt) (wantMax : Bool) (x y : Nat) : Nat :=
  let a := f.decode x
  let b := f.decode y
  if a.isNan then (if b.isNan then f.nan else y)
  else if b.isNan then x
  else
    let xLess := FVal.lt a b || (!FVal.lt b a && f.signBit x && !f.signBit y)
    if xLess = wantMax then y else x

/-! ### Conversion (R107 to R110) -/

/-- A converted value and the events counted under R116. -/
structure Conv where
  bits : Nat
  ovf : Bool
  nanp : Bool
  satn : Bool
  deriving DecidableEq, Repr

/-- A value converted to FP8 (R108). -/
def convF8 (t : F8) (r : Rnd) (sat : Bool) (x : FVal) : Conv :=
  let f := fmtOf8 t
  let past (neg : Bool) : Conv :=
    if sat then ⟨f.signed neg f.maxFin, true, false, true⟩
    else if f.e4m3 then ⟨f.nan, true, true, false⟩
    else ⟨f.signed neg f.inf, true, false, false⟩
  match x with
  | .nan => ⟨f.nan, false, false, false⟩
  | .inf neg => past neg
  | .fin neg m e =>
    let mag := f.roundMag r neg m e
    if f.maxFin < mag then past neg else ⟨f.signed neg mag, false, false, false⟩

/-- A value converted to FP16, BF16 or FP32 (R104, R108). -/
def convFl (t : FTy) (r : Rnd) (x : FVal) : Conv :=
  let f := fmtOfF t
  match x with
  | .nan => ⟨f.nan, false, false, false⟩
  | .inf neg => ⟨f.signed neg f.inf, false, false, false⟩
  | .fin neg m e =>
    let mag := f.roundMag r neg m e
    if f.maxFin < mag then
      let o := f.overflow r neg
      ⟨f.signed neg o, true, false, o == f.maxFin⟩
    else ⟨f.signed neg mag, false, false, false⟩

/-- An integer narrowed to an integer type, clamped or wrapped (R109, R326). -/
def narrow (t : IntTy) (sat : Bool) (x : Int) : Nat :=
  wrapInt t.width (if sat then max t.minVal (min t.maxVal x) else x)

/-- An exact integer converted to an integer type (R109, R116). -/
def convInt (t : IntTy) (sat : Bool) (x : Int) : Conv :=
  let out := decide (x < t.minVal) || decide (t.maxVal < x)
  ⟨narrow t sat x, out, false, out && sat⟩

/-- ±`m` · 2^`e` rounded to an integer. -/
def roundInt (r : Rnd) (neg : Bool) (m : Nat) (e : Int) : Int :=
  let n : Int := ((if 0 ≤ e then m * 2 ^ e.toNat else roundShift r neg m (-e).toNat : Nat) : Int)
  if neg then -n else n

/-- A floating-point value converted to an integer type (R109, R116). -/
def convFToInt (t : IntTy) (r : Rnd) (sat : Bool) (x : FVal) : Conv :=
  match x with
  | .nan => ⟨0, true, false, false⟩
  | .inf neg => if sat then ⟨wrapInt t.width (if neg then t.minVal else t.maxVal), true, false, true⟩
                else ⟨0, true, false, false⟩
  | .fin neg m e => convInt t sat (roundInt r neg m e)

/-- The value of an integer. -/
def FVal.ofInt (x : Int) : FVal := .fin (decide (x < 0)) x.natAbs 0

def tyWidth : Ty → Nat
  | .int t => t.width
  | .f8 _ => 8
  | .fl .fp32 => 32
  | .fl _ => 16

/-- The value of a pattern of a floating-point type. -/
def readF : Ty → Nat → FVal
  | .int t, x => FVal.ofInt (t.read x)
  | .f8 t, x => (fmtOf8 t).decode x
  | .fl t, x => (fmtOfF t).decode x

/-- CVT of one value (R107 to R109). -/
def convert (dt : Ty) (r : Rnd) (st : Ty) (sat : Bool) (x : Nat) : Conv :=
  match dt, st with
  | .int d, .int s => convInt d sat (s.read x)
  | .int d, st => convFToInt d r sat (readF st x)
  | .f8 d, st => convF8 d r sat (readF st x)
  | .fl d, st => convFl d r (readF st x)

/-- QCVT of one value (R110, R116). -/
def quantize (ft : F8) (r : Rnd) (x s : Nat) : Conv :=
  let a := Fmt.fp32.decode x
  let b := Fmt.fp32.decode s
  let q := FVal.div a b
  let c := convF8 ft r true q
  ⟨c.bits, c.ovf, q.isNan && !a.isNan && !b.isNan, c.satn⟩

/-! ### Junction arithmetic (R112) -/

/-- The FP32 pattern of a rounded value, to nearest even. -/
def rne32 (x : FVal) : Nat := Fmt.fp32.encode .rne x

/-- The exact sum of a chunk's products. A zero sum is -0 only when every product is -0. -/
def sumFin : List FVal → Int → Int
  | [], _ => 0
  | .fin n m e :: t, g => gridInt n m e g + sumFin t g
  | _ :: t, g => sumFin t g

def minExp : List FVal → Int → Int
  | [], g => g
  | .fin _ _ e :: t, g => minExp t (min e g)
  | _ :: t, g => minExp t g

def chunkSum (ps : List FVal) : FVal :=
  let pos := ps.any (fun p => p == .inf false)
  let neg := ps.any (fun p => p == .inf true)
  if ps.any FVal.isNan || (pos && neg) then .nan
  else if pos then .inf false
  else if neg then .inf true
  else
    let g := minExp ps 0
    let x := sumFin ps g
    if x = 0 then .fin (ps.all (fun p => match p with | .fin n m _ => n && m == 0 | _ => false)) 0 0
    else .fin (decide (x < 0)) x.natAbs g

end Sys2Proof.Machine
end

