-- ==== Sys2Proof/Machine/State.lean ====
section
/-! DEFINITION. The state of the machine as plain data: everything the manual gives the part, and the few fields of
the model's own that are named as such (the agenda, the firing in progress, the clocks, the packets in flight and the
free-value counter). Large collections are sparse tables (`Tab`): what is not listed is at its reset value. -/
namespace Sys2Proof.Machine

/-- A memory: address and byte, addresses strictly rising, no listed byte equal to 0. An unlisted byte reads 0. -/
abbrev Memory := List Host.Cell

/-! ### Numbering of agents and places
A station is `die * 64 + station` (0-511); a fabric unit is `station * 64 + element`; depot core `c` is unit
`coreBase + c`, with `c` the package depot core number (R5). -/

/-- The unit number of depot core 0. -/
abbrev coreBase : Nat := 32768

/-! ### Faults of the machine (R226) -/

/-- Fault codes (R226). -/
inductive Code where
  | illegal | configInvalid | misaligned | notPresent | permission | atomicPath | tablePlacement | staleHandle
  | allocStall | storeOverflow | poison | stackLimit | retEmpty | trap | bkpt | spillFault | collAbandon
  | keyRevoked | serviceTimeout
  deriving DecidableEq, Repr

/-! ### Tokens -/

/-- A token (R23): payload, tag, and for a stream token (its stream flag set) the live bits. `arc` is the platform
entry of the arc or path that carries it (R86); it tells which inbox slots the token occupies (R85). `order`: the token
comes from an ORDER and conveys its order; one that RETAG has tagged ORD does not (R171). -/
structure Token where
  payload : W64
  tag : Tag
  live : Option (BitVec 128)
  arc : Nat
  order : Bool
  deriving DecidableEq, Repr

/-- One input channel: its inbox, head first, and its residency count (R25). -/
structure Inbox where
  q : List Token
  resid : BitVec 16
  deriving DecidableEq, Repr

/-- One destination of a bound output channel (R24): the receiving unit and channel, the arc's platform entry at the
destination station (R86) and its inbox floor. `station` is the receiving station. -/
structure Dest where
  station : Nat
  unit : Nat
  ch : Nat
  entry : Nat
  floor : Nat
  deriving DecidableEq, Repr

/-- A token copy on its way: through its arc's mailbox line while `mailbox` holds, then towards its inbox (R162). -/
structure Flight where
  src : Option Nat
  dest : Dest
  tok : Token
  mailbox : Bool
  deriving DecidableEq, Repr

/-- An emission that is still to be made: the output channel's destinations left, and the token. -/
structure Emission where
  dests : List Dest
  tok : Token
  deriving DecidableEq, Repr

/-! ### Memory accesses -/

/-- The kind of a page frame (R187). -/
inductive Kind where
  | device | host | peer
  deriving DecidableEq, Repr

/-- A location outside the fabric: the kind of its page and its physical address. -/
structure Loc where
  kind : Kind
  addr : Nat
  deriving DecidableEq, Repr

/-- A translated page's bits that its home needs (R187). -/
structure PageBits where
  cmode : Nat
  repl : Bool
  depot : Bool
  ap : Bool
  deriving DecidableEq, Repr

/-- The read-modify-write operations of the home slices (R332, R340, R363). Operands are raw bits. -/
inductive Rmw where
  | atom (op : AtomOp) (v : W64)
  | cas (expect new : W64)
  | fatom (ty : FTy) (op : FAtomOp) (v : W64)
  deriving DecidableEq, Repr

/-- Where the result of an access goes. -/
inductive Land where
  | none
  /-- An S register takes `n` bytes, zero- or sign-extended. -/
  | s (n : SReg) (signed : Bool)
  /-- A V register takes 32-bit lanes in order, where the mask is 1. -/
  | v (n : VReg) (mask : BitVec 128)
  /-- Lane `lane` of a V register takes one element, extended to 32 bits. -/
  | lane (n : VReg) (lane : Nat) (signed : Bool)
  /-- An output channel emits the value as a DAT token. -/
  | o (dests : List Dest) (signed : Bool)
  /-- A predicate takes bit 0 (SIGTEST). -/
  | p (n : Fin 8)
  deriving DecidableEq, Repr

/-- One event of an access: a run of bytes within a 32-byte boundary (R176). For a store, the bytes written, by their
place in the event (a byte under a dead lane is absent). For a load, `ov` holds the bytes found in the region's held
stores, by their place in the event, each with the acceptance number of the held event that supplied it (R177). -/
structure Event where
  va : Nat
  loc : Loc
  page : PageBits
  n : Nat
  wr : List (Nat × Byte)
  ov : List (Nat × Nat × Byte)
  deriving DecidableEq, Repr

/-- What a request packet asks (R161, R173). -/
inductive Req where
  /-- Read or write the events of a global access at their homes, in ascending order. -/
  | access (evs : List Event) (rmw : Option Rmw) (land : Land)
  /-- An operation on signal `sig` (station * 1024 + number) of another station. -/
  | sigSet (sig : Nat) (v : W64)
  | sigAdd (sig : Nat) (v : W64)
  | sigTest (sig : Nat) (cond : SigCond) (v : W64) (land : Land)
  /-- Read or write bytes of a block of another station (R380, R426); offsets are within the block. -/
  | blockRead (handle : W64) (offs : List Nat) (n : Nat) (land : Land)
  | blockWrite (handle : W64) (bytes : List (Nat × Byte))
  /-- A count operation or query at another station's allocator (R80, R338). -/
  | release (handle : W64)
  | retain (handle : W64) (m : Nat)
  | bsize (handle : W64) (land : Land)
  /-- The read of line `line` of multicast `mc` (R389). -/
  | mcast (mc line : Nat) (loc : Loc) (page : PageBits)
  deriving DecidableEq, Repr

/-- Where a packet is. -/
inductive PktState where
  | request
  /-- Waiting at its home for a fill of the line. -/
  | atFill (key : Nat)
  /-- The response is on its way, with the bytes that the access returned. -/
  | response (bytes : List Byte)
  deriving DecidableEq, Repr

/-- A request of unit `unit`, or its response. `got` holds the bytes of the events already performed; `last` marks a
packet that is the last part of its instruction (a GATH sends several). -/
structure Packet where
  id : Nat
  unit : Nat
  req : Req
  st : PktState
  got : List Byte
  deliv : Nat            -- the delivery that carries the response with those of other joined reads (R163); 0 for none
  there : List Nat       -- the stations of a multicast at which the response has arrived (R163)
  behind : List Nat      -- held events, by acceptance number, that are performed at PACKAGE scope before it (R333)
  ctx : Nat              -- the unit's context when it was sent (R203)
  deriving DecidableEq, Repr

/-- How far a multicast has come: its line reads are being sent, all are sent, or a fault cut it short. -/
inductive McastState where
  | sending | sent | broken
  deriving DecidableEq, Repr

/-- A multicast that has begun (R388 to R390): its unit, its descriptor, and the first destination that was found stale. -/
structure Mcast where
  unit : Nat
  region : Nat
  ctx : Nat
  words : List W64
  st : McastState
  stale : Option W64
  deriving DecidableEq, Repr

/-- A withheld access (R194, R202): the address, word 1 of its fault record, whether the write-block bit withholds it,
the cycle (of the region; of the depot clock for a core) from which its service is timed (R197), and its place in the
order in which accesses were withheld (R196). -/
structure Hold where
  va : Nat
  w1 : W64
  wb : Bool
  since : Nat
  order : Nat
  deriving DecidableEq, Repr

/-- A held event of a memory port (R177): a store's bytes, or an atomic that is not fetching. -/
structure Held where
  unit : Nat
  region : Nat
  invoc : BitVec 32
  ev : Event
  rmw : Option Rmw
  scope : Scope
  /-- The event was withheld at commit (R202, R204). -/
  withheld : Option Hold
  /-- The unit and the acceptance order of each byte, by its place in the event (R168, R177). -/
  marks : Tab (Nat × Nat)
  /-- The event is to be performed before an access that waits for it, whatever its invocation (R333). -/
  due : Bool
  /-- Acceptance order over all ports (R177). -/
  order : Nat
  /-- The units that have written or read it, and those that have since ended an ORDER or FENCE at PACKAGE scope or wider, or
  consumed an ORD token, with the number of that moment: their later writes follow it (R174). -/
  seen : List Nat
  fenced : Tab Nat
  deriving DecidableEq, Repr

/-! ### Units -/

/-- A load from the unit's own station, performed and under way to its destination (R380). -/
structure OwnRead where
  id : Nat
  until_ : Nat                 -- the cycle in which its value lands
  land : Land
  bytes : List Byte
  deriving DecidableEq, Repr

/-- The results of an instruction that is still busy (R18): the destination, the value of its lanes (`vec`, lane `j` in
bits 32·j + 31 to 32·j) and the 64-bit value that an S register or an output channel takes. -/
structure Busy where
  until_ : Nat
  dst : Dst
  vec : Nat
  scalar : W64
  upd : Upd
  deriving DecidableEq, Repr

/-- What a triggered firing that is carried on has taken: the tokens consumed from each channel with its residency count
before, the live mask, and the predicates with the firing's update. They are given back where a fault is raised at the
firing after all (R229). -/
structure Taken where
  boxes : List (Nat × List Token × BitVec 16)
  lm : BitVec 128
  p : BitVec 8
  upd : Upd
  deriving DecidableEq, Repr

/-- Values of the operand fields captured at a firing whose instruction is carried on later. -/
structure Captured where
  a : W64
  b : W64
  /-- How far the instruction has come: 0 at its first attempt. -/
  phase : Nat
  hold : Option Hold
  /-- The words of the descriptor that the instruction has read. -/
  words : List W64
  /-- The slot of the firing in a triggered unit. -/
  slot : Nat
  taken : Option Taken
  /-- The memory port has raised a fault of its access, which stands as the blocked request until the region resumes (R229). -/
  faulted : Bool
  deriving DecidableEq, Repr

/-- A stream in progress (R433 to R435): its descriptor and destinations, the next row, the ring, the emission that waits, a
withheld event, the bytes of the row read so far, whether the next read waits at its home, and the firing's slot and what it
took. -/
structure Stream where
  desc : List W64
  dests : List Dest
  row : Nat
  blk : W64
  pend : Option Emission
  hold : Option Hold
  got : List Byte
  asked : Bool
  slot : Nat
  taken : Option Taken
  deriving DecidableEq, Repr

/-- Why a unit's issue is held (R19, R27). -/
inductive Blocked where
  /-- The instruction is carried on, on the unit's own turn, with the operand values captured. -/
  | again (i : Instr) (c : Captured)
  /-- An emission waits for inbox slots at `cur.dests`; then `more` follow. `eoi`: INVIX advances at the end. -/
  | emit (cur : Emission) (more : List Emission) (eoi : Bool)
  /-- ALLOC waits on the platform; its handle goes to an S register or to the destinations. -/
  | alloc (k n : Nat) (s : Option SReg) (o : List Dest)
  /-- The EOI was emitted and INVIX waits for the commit index (R32). -/
  | invix
  /-- An answer is awaited: packet `id`. -/
  | answer (ids : List Nat)
  /-- SIGWAIT on signal `sig` (R423). -/
  | signal (sig : Nat) (cond : SigCond) (v : W64)
  /-- The junction has not yet finished the unit's instruction (R126, R293, R395). -/
  | junction
  /-- TINJ waits for its ring position (R130). -/
  | inject (home : Nat) (desc : W64)
  /-- GBAR has arrived and waits for group `g`'s episode. -/
  | barrier (g : Nat)
  /-- STRM is streaming (R434). -/
  | stream (st : Stream)
  /-- WAIT.CYC until the unit's clock reaches `until_` (R447). -/
  | waitCyc (until_ : Nat)
  /-- YIELD waits for the tile-task boundary (R451). -/
  | yield
  deriving DecidableEq, Repr

/-- A unit runs triggered or sequenced (R14). -/
inductive Mode where
  | triggered | sequenced
  deriving DecidableEq, Repr

/-- A generator register (R118). -/
structure Gen where
  counter : BitVec 128
  key : W64
  deriving DecidableEq, Repr

/-- The fault context and the other system registers that a unit holds itself (R65, R231 to R235). -/
structure Sys where
  cause : W64
  faddr : W64
  ivec : W64
  oor : W64
  epc : W64
  hen : Bool
  hm : Bool
  hvec : BitVec 15
  replay : Bool
  bclass : BitVec 2
  rspill : W64
  rslimit : W64
  spilled : BitVec 27
  partNo : Option W64    -- SY.PART as the host has written it (R300)
  deriving DecidableEq, Repr

/-- A unit: an element, a fused set, or a depot core (R12, R64). -/
structure Unit where
  region : Nat                 -- the region; for a depot core, 0
  ctx : Nat
  part : Nat
  mode : Mode
  fuse : Nat                   -- elements joined; 8 for the 64 lanes of a depot core
  slots : List W64             -- instruction pool of a triggered unit
  enable : BitVec 16
  lo : Nat                     -- the words of its own section (R453)
  hi : Nat
  pc : Nat
  v : Tab Lane                 -- register * 128 + lane
  s : Tab W64
  p : BitVec 8
  k : Tab (BitVec 16)          -- K1-K3 at 1-3
  lm : BitVec 128
  inbox : Tab Inbox
  outs : Tab (List Dest)       -- bound output channels
  ins : List Nat               -- input channels that an arc or path reaches
  invix : BitVec 32
  gens : Tab Gen
  ovf : BitVec 32              -- converter counters (R116)
  nanp : BitVec 32
  satn : BitVec 32
  turn : Tab Lane              -- turntable block: row * 8 + lane (R145)
  fill : Nat
  rstack : List (BitVec 15)    -- return-address store, newest first (R235)
  lastLoop : Option SReg       -- the count register of the last LOOP issued (R233)
  sys : Sys
  qclass : BitVec 2            -- CLASS of the record's queue
  floor : Option Nat           -- allocation floor in granules, if declared
  nstn : Nat                   -- NSTN and NDIE as fixed when the configuration was loaded (R44)
  ndie : Nat
  cover : Bool
  halted : Bool
  doneFired : Bool             -- DONE waiting in a depot core (R274)
  stopped : Bool               -- stopped by a fault (R227)
  gated : Bool
  idleSince : Option Nat       -- the cycle since which the unit is idle with no ready slot (R20)
  turned : Nat                 -- the first cycle in which the unit may take its next turn (R17, R183)
  busy : Option Busy
  blocked : Option Blocked
  blockedUpd : Upd             -- predicate update of a sequenced word whose instruction is blocked
  loads : List (Nat × Land)    -- loads of a sequenced unit whose values have not landed (R353)
  reads : List OwnRead         -- loads from the unit's own station, oldest first (R353, R380)
  deriving DecidableEq, Repr

/-! ### Stations -/

/-- A live block (R75 to R82). `pool` is its origin: `none` the shared pool, `some u` unit `u`'s floor pool;
`fixed` marks a `.block` block. -/
structure Block where
  first : Nat
  k : Nat
  gen : BitVec 16
  count : Nat
  region : Nat
  pool : Option Nat
  fixed : Bool
  deriving DecidableEq, Repr

/-- A pool's free blocks: first granule and size class (R83, R101). -/
structure Pool where
  region : Nat
  owner : Option Nat
  free : List (Nat × Nat)
  deriving DecidableEq, Repr

/-- What a platform entry waits for (R86). -/
inductive WaitFor where
  | block (unit k n : Nat)
  | slot (arcEntry : Nat) (unit : Option Nat) (flight : Flight)
  /-- A kernel's TRIPLE, with the words of its block (R287). -/
  | triple (core : Nat) (words : List Lane)
  | asyncTriple (id : Nat)
  deriving DecidableEq, Repr

/-- A platform entry (R86 to R89). -/
structure Wait where
  what : WaitFor
  promos : Nat         -- promotions so far: the request's class is its requester's effective class less these (R88)
  since : Nat          -- the station's counter at entry or last promotion
  start : Nat          -- the station's counter at entry
  order : Nat          -- arrival order
  deriving DecidableEq, Repr

/-- An arc or path that enters a station (R85, R86): its floor and the tokens that occupy its inbox slots. -/
structure ArcState where
  region : Nat
  unit : Nat
  ch : Nat
  floor : Nat
  used : Nat
  path : Bool          -- a completion or delivery path (R286)
  remote : Bool        -- it has a mailbox line (R162)
  deriving DecidableEq, Repr

/-- A copy channel (R99, R347). -/
structure CopyChan where
  busy : Bool
  unit : Nat
  desc : List W64
  ptr : Nat
  stale : Bool
  hold : Option Hold                   -- a withheld event (R348)
  buf : List Byte                      -- the bytes of the event, read and not yet written
  asked : Bool                         -- its access waits at a home slice
  wrote : Bool                         -- the event is written and its invalidations are awaited (R181)
  ran : Nat                            -- the station's load count when the channel last ran (R450)
  deriving DecidableEq, Repr

/-- A page-cache entry: the context, the virtual page's base address, its size as a power of two, and the leaf. -/
structure PageEntry where
  ctx : Nat
  base : Nat
  log2 : Nat
  pte : W64
  deriving DecidableEq, Repr

/-- An access counter of a station's walker (R199); `use` orders them by last use. -/
structure Counter where
  ctx : Nat
  page : Nat
  count : Nat
  stopped : Bool
  posted : Bool
  use : Nat
  deriving DecidableEq, Repr

/-- One memory port (R177, R190, R191). -/
structure Port where
  ranges : List (Nat × W64 × W64)      -- each with the context it belongs to
  cache : List PageEntry
  held : List Held
  deriving DecidableEq, Repr

/-- A station (R12, R74 to R99). -/
structure Station where
  retired : Bool
  gen : BitVec 16
  blocks : List Block
  pools : List Pool
  quotas : List (Nat × Nat × Nat)      -- region, first granule, granules
  platform : Tab Wait
  arrivals : Nat                       -- past the highest place given in arrival order (R87, R89)
  arcs : Tab ArcState
  copies : Tab CopyChan
  counters : List Counter
  counterUse : Nat
  ports : Tab Port
  store : Tab W64
  storeOwner : Option Nat
  loads : Nat                          -- configurations loaded so far (R223)
  copied : Tab (Nat × Tab Nat)         -- by region: the load count at its load, and the PTRs saved with it (R223, R450)
  turned : Nat × Nat                   -- the cycle of the station's last turn, and the first rank still to come in it
  arrived : Nat × Tab Nat              -- the cycle of the last request, and each pool's lowest entry still to come in it (R87)
  grants : Nat × List Nat              -- the cycle of the last grants, and the pools that granted in it (R88)
  freed : List (Nat × Block)           -- blocks freed, with the cycle: granules not yet back in their pools (R81)
  deriving DecidableEq, Repr

/-! ### Junctions and loop lines -/

/-- A weight bank (R120, R126). -/
inductive BankState where
  | ready | draining | loading
  deriving DecidableEq, Repr

structure Bank where
  data : Memory
  fmt : JFmt
  scale : Lane
  st : BankState
  deriving DecidableEq, Repr

/-- A wavefront in the array (R125). `task` marks a row of a loop-line task. -/
structure Wavefront where
  bank : Nat
  slot : Nat
  row : Nat
  fmt : JFmt
  scale : Lane
  data : List Byte
  entered : Nat
  task : Option Nat
  deriving DecidableEq, Repr

/-- An instruction at a junction (R123). -/
inductive JOp where
  | wload (h : W64) (fmt : JFmt) (scale : Lane)
  | wswap
  | mma (h : W64) (fmt : JFmt) (slot n row0 : Nat)
  | accrd (h : W64) (slot : Nat)
  | accwr (h : W64) (slot : Nat)
  | accclr (slot : Nat)
  deriving DecidableEq, Repr

/-- The state of a timetable entry (R136). -/
inductive EntryState where
  | none | open_ | running | deferred | done
  deriving DecidableEq, Repr

/-- A loop-line task (R135): its entry, its tiles' data once in hand, how far it has come, and a withheld read of its
recovery fetch with the unit that injected the tile concerned (R140). -/
inductive TaskStage where
  | waiting | fetching | loading | streaming
  deriving DecidableEq, Repr

structure Task where
  entry : Nat
  recovered : Bool
  a : Option (Memory × Lane)
  b : Option (Memory × Lane)
  stage : TaskStage
  next : Nat              -- rows entered
  hold : Option (Nat × Hold)
  asked : List Bool       -- the tiles (true: B) whose recovery fetch is translated and counted (R199)
  deriving DecidableEq, Repr

/-- A tile on a loop line or in a passing loop (R128 to R140). -/
structure Tile where
  down : Bool
  num : Nat
  home : Nat
  scale : Lane
  uses : Nat
  laps : Nat
  start : Nat             -- injection position
  unit : Nat              -- the unit that injected it
  data : Memory
  deriving DecidableEq, Repr

/-- A timetable (R131). -/
structure Timetable where
  token : Option (Nat × Nat)      -- element, channel
  signal : Option (Nat × Nat)     -- relative station, number
  entries : List (Nat × Nat × Nat)
  deriving DecidableEq, Repr

/-- A station's junction (R120). -/
structure Junction where
  claim : Option Nat
  active : Nat
  bank0 : Bank
  bank1 : Bank
  acc : Tab Lane                  -- slot * 16384 + 128 * i + j
  queue : List (Nat × JOp)        -- arrivals not yet performed, with their units
  awaiting : List (Nat × JOp)     -- WLOADs, WSWAPs and MMAs that wait for the end of the line's run (R127, R394)
  mma : Option (Nat × JOp × Nat)  -- the MMA whose vectors are entering, and how many have
  xfer : Option (Nat × JOp)       -- the ACCCLR, ACCRD or ACCWR in progress
  load : Option (Option Nat × JOp)  -- the fill in progress: a unit's WLOAD, or a task's
  waves : List Wavefront
  table : Option Timetable
  entries : Tab EntryState
  loops : List (Tile × W64)       -- passing loops: the tile and its block's handle
  tasks : List Task
  missed : Nat
  recov : Nat
  completed : Nat
  orphan : Nat
  signalled : Bool
  deriving DecidableEq, Repr

/-- A loop line (R128 to R144). -/
structure LoopLine where
  claim : Option Nat
  armed : Bool
  running : Bool
  stopping : Bool
  arm : W64
  tiles : List (Nat × Tile)       -- position, tile
  inject : List (Nat × Tile)      -- tiles read and waiting to enter at the next beat
  seen : List (Bool × Nat × Nat × Lane × Nat)   -- tiles injected: direction, number, home, scale, unit
  injected : Nat
  retired : Nat
  deriving DecidableEq, Repr

/-! ### The L2 and its homes -/

inductive LineKind where
  | present | zero | filling
  deriving DecidableEq, Repr

/-- A line at its home slice (R152 to R155). `data` holds the bytes of valid sectors and of written places, by offset
in the line; `mask` marks, in a Filling line, the bytes written since the miss, and `joined` names the reads merged into
its fill entry, in their order (R163): a packet by its number, an engine by `2 ^ 64` and its agent number. `excl` is the
CXL state of a host line (R297). `use` orders the lines of a set by last use. -/
structure Line where
  loc : Loc                       -- its first byte
  district : Nat                  -- the district of its home slice (R150, R151)
  kind : LineKind
  way : Nat                       -- its data way, 0 to 15; 16 for a Zero line
  valid : BitVec 4
  dirty : BitVec 4
  data : Tab Byte
  mask : Tab Bool
  joined : List Nat
  stream : Bool
  depot : Bool
  pins : List Nat                 -- contexts that pinned it
  excl : Option HostGrant
  use : Nat
  deriving DecidableEq, Repr

/-- A replica (R157). -/
structure Replica where
  district : Nat
  line : Nat
  way : Nat                       -- its data way, 12 to 15
  data : List Byte
  deriving DecidableEq, Repr

/-- An invalidation on its way to a district (R158), with the units whose ORDER must wait for it (R180). `past` are the units
whose writes numbered so or higher follow the write that sent it (R174). -/
structure Inval where
  line : Nat
  district : Nat
  waiters : List Nat
  past : Tab Nat
  deriving DecidableEq, Repr

/-! ### Regions, contexts, partitions -/

inductive RState where
  | running | idle | switching | saved | stoppedSaved | stoppedResident | waitingService | draining | released
  deriving DecidableEq, Repr

/-- A region (R34, R241). -/
structure Region where
  ctx : Nat
  part : Nat
  die : Nat
  gid : Nat
  line : Bool
  stations : List Nat            -- stations in relative order
  units : List Nat
  report : List (Nat × Nat)      -- the load report: each station's first granule (R100)
  st : RState
  queue : Nat
  qclass : BitVec 2
  record : List W64
  done : Bool
  cyc : Nat                      -- region cycles up to `since`
  since : Nat
  wdBase : Nat                   -- region cycle of the watchdog's last reset (R94)
  unrev : Option (BitVec 32)     -- invocations up to this one are unrevocable (R179)
  replay : Option (BitVec 32)    -- INDEX of a pending replay (R239)
  discard : Bool                 -- a discard is due at the boundary
  after : RState                 -- the state that the boundary of a switch-out leads to
  stopCyc : Option Nat           -- the die cycle in which a fault stopped the region (R241)
  started : Nat                  -- order of record start
  idleAt : Nat
  switchOrder : Nat
  service : Option (Nat × Hold)         -- unit and withheld access that a discarded region waits for (R197)
  savedUnits : Tab Unit
  savedSignals : List (Nat × Nat × Tab W64)    -- station, its load count at the save, contents
  savedScratch : List (Nat × Memory)
  savedPtrs : List (Nat × Tab Nat)    -- station, and the PTR of each copy channel as its units see it (R223, R450)
  savedPools : List (Nat × Nat × List Block × List Pool)   -- station, first granule of the run, blocks, pools
  savedJunctions : Tab Junction
  savedLine : Option LoopLine
  savedHeld : List (Nat × Nat × List Held)
  savedWaits : List (Nat × Nat × Wait)
  /-- Waits on queues: queue, unit, promotions, and the die cycles waited since the last promotion and in all. -/
  savedEnq : List (Nat × Nat × Nat × Nat × Nat)
  deriving DecidableEq, Repr

/-- A context (R59, R186, R190). -/
structure Context where
  desc : CtxDesc
  removing : Bool
  drainFaults : Nat
  deriving DecidableEq, Repr

/-- A barrier group (R36, R371). A member is named by its region and unit: region * 65536 + unit. -/
structure Group where
  members : List Nat
  arrived : List Nat
  deriving DecidableEq, Repr

inductive PState where
  | absent | scrubbing | active | draining | revoked
  deriving DecidableEq, Repr

inductive MemKey where
  | empty | scrubbing | active | revoked
  deriving DecidableEq, Repr

inductive IdeKey where
  | none | installed | active | revoked
  deriving DecidableEq, Repr

/-- Where a migration stands (R201): the page, its context, the old leaf, the new frame, and the next step. -/
structure Migration where
  ctx : Nat
  page : Nat
  old : W64
  frame : Nat
  step : Nat
  deriving DecidableEq, Repr

/-- A pending fault record and how far its service has come (R194 to R196). -/
structure FaultRec where
  w1 : W64
  w0 : W64
  /-- Posted to the host under this sequence number. -/
  host : Option Nat
  /-- Free frames that the pager may take for table nodes when the host answers. -/
  nodes : List Nat
  /-- Served: the release is on its way; `true` when the record was denied. -/
  release : Option Bool
  deriving DecidableEq, Repr

/-- A KV eviction that is not over (R268): `step` 0 before its claim, 3 after a fault in steps 3 and 4, 4 where an access
of those steps was withheld. -/
structure Evicting where
  node : Nat
  group : Nat
  step : Nat
  since : Nat
  hold : Option Hold     -- the withheld structure access that it waits for
  deriving DecidableEq, Repr

/-- A poisoned frame whose marking is not over (R270): `since` is the cycle of its last fault. -/
structure Poison where
  frame : Nat
  since : Option Nat
  hold : Option Hold
  deriving DecidableEq, Repr

/-- A partition and its logical device (R299 to R312). -/
structure Partition where
  districts : List Nat
  pager : Nat
  pagerIn : Bool
  pagerIdle : Nat
  st : PState
  mstat : W64
  errHead : BitVec 32
  errTail : BitVec 32
  lost : W64
  errSeq : BitVec 32
  errBase : Nat                   -- window addresses of the error ring and of the host request ring (R299)
  hreqBase : Nat
  coalesce : List (Nat × Nat × Nat × Nat × Nat)    -- code, syndrome, reporter, since, count (R249)
  hreqHead : BitVec 32
  hreqTail : BitVec 32
  hreqWait : List (List W64)      -- postings that wait for room (R303)
  hframe : Option W64
  unitsel : W64
  attNonce : Tab W64
  attAddr : W64
  memKey : MemKey
  ideKey : IdeKey
  wdlimit : Nat
  fslimit : Nat
  migth : BitVec 16
  faultq : List FaultRec
  migq : List (W64 × W64)
  migration : Option Migration
  laddr : W64
  lstat : W64
  launch : Option (Nat × Nat × Nat)     -- queue, address and count of a waiting launch list
  kvcb : W64
  wake : Tab W64
  wakeFired : List Nat            -- interrupts to the dispatch core, newest first
  wear : Tab W64
  evicting : Option Evicting
  poisons : List Poison           -- poisoned frames that the walker has not yet marked (R270)
  vectors : List Nat              -- MSI-X vectors raised, newest first (R302)
  mgmt : List (List Nat)          -- error records copied to the management path, newest first (R248)
  hostData : List Byte            -- the host's last CXL.mem read
  hostPoison : Bool
  winData : W64                   -- the host's last register-window read
  fixedShare : Bool
  deriving DecidableEq, Repr

/-! ### Work queues -/

inductive QState where
  | disabled | open_ | spilling | full | spillFault | broken
  deriving DecidableEq, Repr

/-- A record in a queue: its words, its class and the die cycle of its entry or last promotion. -/
structure QRec where
  words : List W64
  cls : Nat
  since : Nat
  deriving DecidableEq, Repr

/-- A work queue (R206 to R216). -/
structure Queue where
  desc : List W64                 -- the descriptor as the host wrote it
  live : List W64                 -- the descriptor read at enable
  st : QState
  head : BitVec 32
  tail : BitVec 32
  window : List QRec
  siding : List (Nat × Nat × Nat × Nat)   -- siding slot, class, since, issuing context; oldest first
  sidingNext : Nat
  spill : Option (Nat × QRec)     -- spill buffer: issuing context and record
  spillSince : Nat                -- the die cycle since which the spill buffer's write is withheld
  portWaits : Bool                -- the spill buffer's write waits for a main-line port that sends only idle flits
  readback : Option Nat           -- a siding read is withheld, since a die cycle
  waiters : List (Nat × Nat × Nat × Nat)    -- unit, promotions, since, start
  listed : Bool                   -- a launch list is entering: nothing else enters (R224)
  deficit : Int
  deriving DecidableEq, Repr

/-! ### Depot cores -/

inductive DState where
  | idle | running | stopping | saving | stopped | outOfService
  deriving DecidableEq, Repr

/-- An asynchronous triple that is not yet delivered (R287): its path, the words of its block, and the block once it is
granted. -/
structure Triple where
  id : Nat
  path : Dest
  words : List Lane
  handle : Option W64
  deriving DecidableEq, Repr

/-- A saved kernel (R278). -/
structure SavedKernel where
  unit : Unit
  record : List W64
  queue : Nat
  cyc : Nat
  dcount : Nat
  m : Tab W64
  full : BitVec 8
  held : Tab (W64 × Bool × Nat)
  sram : Memory
  code : List W64
  async : List Triple
  order : Nat
  deriving DecidableEq, Repr

/-- What a depot core holds besides its unit (R272 to R280). -/
structure Core where
  st : DState
  ctx : Nat                       -- context of the last kernel
  used : Bool
  queue : Nat
  record : List W64
  code : List W64
  cyc : Nat
  since : Nat
  started : Nat
  dcount : Nat
  landings : Nat
  async : List Triple
  m : Tab W64
  full : BitVec 8
  heldMsg : Tab (W64 × Bool × Nat)   -- held messages; once the register is empty, with the cycle of the landing (R279)
  cache : List PageEntry
  saved : List SavedKernel
  deriving DecidableEq, Repr

/-! ### Main lines -/

/-- A collective at this module (R307, R344, R345). -/
structure Coll where
  cid : Nat
  unit : Nat
  region : Nat
  ctx : Nat
  ranks : Nat
  rank : Nat
  prev : Nat
  next : Nat
  op : Nat
  ty : Nat
  count : Nat
  sblk : W64
  dblk : W64
  partials : Nat                  -- elements whose partial has been formed and sent
  written : Nat
  status : Option Bool            -- some true complete, some false abandoned
  deriving DecidableEq, Repr

/-- A flit as it is sent: TYPE, CID, the low 12 bits of the epoch count, SEQ, and of a collective's flit the element and the
value (R304). -/
structure Flit where
  ty : Nat
  cid : Nat
  epoch : Nat
  seq : Nat
  elem : Nat
  val : Lane
  deriving DecidableEq, Repr

/-- The key of the epoch in which a main-line port is: not installed yet, in use, or zeroed (R305, R310, R311). -/
inductive PortKey where
  | none | live | zeroed
  deriving DecidableEq, Repr

/-- A main-line port (R304 to R308, R316). -/
structure MainPort where
  lanes : BitVec 8
  down : Bool
  key : PortKey
  txSeq : Nat
  rxSeq : Nat
  epoch : Nat                     -- the epoch count of what the port sends, and of what it receives (R305)
  rxEpoch : Nat
  nextKey : Bool
  refusals : Tab Nat
  window : Nat                    -- the far partition's window in bytes (R306)
  sent : List Flit                -- flits sent, newest first
  queued : List (Nat × Nat × Nat × Lane)    -- TYPE, CID, element and value of flits that wait for the next epoch's key
  deriving DecidableEq, Repr

/-! ### The machine -/

/-- What a step does: the turn of a unit, or an event. `dts` are the element cycles that pass before it at each fabric die,
and `ddts` the depot cycles that pass at each stack: every die and every stack counts for itself (R6, R320). The agenda
is plain data, so a statement about every state holds for every order and timing (DESIGN CHOICE, log entry 1). -/
inductive TurnAct where
  | unit (u : Nat)
  | event (i : Instr)
  deriving DecidableEq, Repr

structure Turn where
  dts : List Nat
  ddts : List Nat
  act : TurnAct
  deriving DecidableEq, Repr

/-- The firing in progress: the unit, its slot, its guard's tag test and its predicate update, and operand values
captured earlier when the firing is carried on. -/
structure Firing where
  unit : Nat
  slot : Nat
  test : Option (Chan × Tag)
  upd : Upd
  cap : Option Captured
  deriving DecidableEq, Repr

/-- The module: core power removed (R324), held in reset (R322), running, or in recovery mode (R312). -/
inductive Power where
  | off | held | up | recovery
  deriving DecidableEq, Repr

/-- The module's firmware and what it has brought up run. -/
def Power.runs : Power → Bool
  | .up | .recovery => true
  | .off | .held => false

/-- The state of the machine. -/
structure State where
  -- the model's own
  agenda : List Turn
  cur : Firing
  clocks : Tab Nat                -- each fabric die's element cycles since it left reset (R6, R320)
  dclocks : Tab Nat               -- each stack's depot cycles since it left reset
  free : Nat                      -- free values drawn so far
  ids : Nat                       -- packets and starts numbered so far
  mesh : List Packet
  mcasts : Tab Mcast
  flight : List Flight
  -- memories
  dram : Memory
  host : Memory
  peer : Memory
  scratch : Memory                -- station * 2^22 + station address
  sram : Memory                   -- core * 2^20 + offset
  signals : Tab W64               -- station * 1024 + number
  lines : Tab Line
  replicas : List Replica
  presence : List (Nat × Nat)     -- line, district
  invals : List Inval
  delivered : List (Nat × Nat × Nat × List Byte)   -- an engine's joined read: agent, line, delivery and its bytes (R163)
  repeats : List (Nat × Nat)      -- withheld accesses handed back and not yet repeated, in order: poster, agent (R196)
  poisoned : List Nat             -- poisoned frames (R270)
  boots : Nat                     -- bring-ups so far: each has a transport key of its own (R310)
  -- units and places
  units : Tab Unit
  stations : Tab Station
  junctions : Tab Junction
  loopLines : Tab LoopLine        -- die * 8 + row
  regions : Tab Region
  contexts : Tab Context
  partitions : Tab Partition
  groups : Tab Group              -- context * 4096 + group
  queues : Tab Queue
  boxes : Tab (Nat × Nat)         -- signal box: the die cycle of the last enqueue, and the lowest rank that may follow (R209)
  pointers : Tab Nat              -- DRR pointer: ((level, die or stack), partition, class)
  pointed : Tab Bool              -- the pointer has added WEIGHT at its queue
  cores : Tab Core
  mainPorts : Tab MainPort
  colls : Tab Coll                -- port * 64 + CID
  -- the module
  power : Power
  retiredCh : List (Nat × Nat)    -- retired pseudo-channels: package slice, channel
  critical : Option Nat           -- the die at critical temperature, while the partitions drain (R324)
  ld0 : Partition                 -- the management block of logical device 0 in recovery mode (R312)
  marked : Bool                   -- marked for replacement (R315, R318)
  clock : Nat                     -- throttle level of the fabric clock (R321)
  dclock : Nat
  deriving DecidableEq, Repr

/-! ### Reset values

Where the spec states none, the value is 0 or nothing (DESIGN CHOICE, log entry 3). -/

def Inbox.reset : Inbox := ⟨[], 0⟩
def Gen.reset : Gen := ⟨0, 0⟩
def Port.reset : Port := ⟨[], [], []⟩
def CopyChan.reset : CopyChan := ⟨false, 0, [], 0, false, none, [], false, false, 0⟩
def Bank.reset : Bank := ⟨[], .e4m3, 0x3F800000#32, .ready⟩
def Group.reset : Group := ⟨[], []⟩

def Sys.reset : Sys where
  cause := 0
  faddr := 0
  ivec := 0
  oor := 0
  epc := 0
  hen := false
  hm := false
  hvec := 0
  replay := false
  bclass := 0
  rspill := 0
  rslimit := 0
  spilled := 0
  partNo := none

/-- The state in which a unit begins before its record and configuration say otherwise (R34): everything 0, the live
mask all ones (`lanes` of them). -/
def Unit.reset : Unit where
  region := 0
  ctx := 0
  part := 0
  mode := .sequenced
  fuse := 1
  slots := []
  enable := 0
  lo := 0
  hi := 0
  pc := 0
  v := []
  s := []
  p := 0
  k := []
  lm := 0xFF#128
  inbox := []
  outs := []
  ins := []
  invix := 0
  gens := []
  ovf := 0
  nanp := 0
  satn := 0
  turn := []
  fill := 0
  rstack := []
  lastLoop := none
  sys := Sys.reset
  qclass := 0
  floor := none
  nstn := 0
  ndie := 0
  cover := false
  halted := false
  doneFired := false
  stopped := false
  gated := false
  idleSince := none
  turned := 0
  busy := none
  blocked := none
  blockedUpd := .none
  loads := []
  reads := []

/-- A station out of reset: the generation counter at 1 (R76), signals 0 (R97), nothing resident. -/
def Station.reset : Station where
  retired := false
  gen := 1
  blocks := []
  pools := []
  quotas := []
  platform := []
  arrivals := 0
  arcs := []
  copies := []
  counters := []
  counterUse := 0
  ports := []
  store := []
  storeOwner := none
  loads := 0
  copied := []
  turned := (0, 0)
  arrived := (0, [])
  grants := (0, [])
  freed := []

/-- The state in which a configuration's claim finds a junction (R122). -/
def Junction.reset : Junction where
  claim := none
  active := 0
  bank0 := Bank.reset
  bank1 := Bank.reset
  acc := []
  queue := []
  awaiting := []
  mma := none
  xfer := none
  load := none
  waves := []
  table := none
  entries := []
  loops := []
  tasks := []
  missed := 0
  recov := 0
  completed := 0
  orphan := 0
  signalled := false

def LoopLine.reset : LoopLine where
  claim := none
  armed := false
  running := false
  stopping := false
  arm := 0
  tiles := []
  inject := []
  seen := []
  injected := 0
  retired := 0

/-- A queue out of reset (R206, R208): the descriptor's WEIGHT 1 and CLASS 3, everything else 0. -/
def Queue.reset : Queue where
  desc := [0x0000000130000000#64, 0, 0, 0]
  live := [0, 0, 0, 0]
  st := .disabled
  head := 0
  tail := 0
  window := []
  siding := []
  sidingNext := 0
  spill := none
  spillSince := 0
  portWaits := false
  readback := none
  waiters := []
  listed := false
  deficit := 0

def Core.reset : Core where
  st := .idle
  ctx := 0
  used := false
  queue := 0
  record := []
  code := []
  cyc := 0
  since := 0
  started := 0
  dcount := 0
  landings := 0
  async := []
  m := []
  full := 0
  heldMsg := []
  cache := []
  saved := []

def MainPort.reset : MainPort where
  lanes := 0xFF#8
  down := false
  key := .none
  txSeq := 0
  rxSeq := 0
  rxEpoch := 0
  epoch := 0
  nextKey := false
  refusals := []
  window := 0
  sent := []
  queued := []

/-- The wear registers' reset value (R318): UNIT 0, MARGIN 0xFFFF, EOL 0xFFFF. -/
def wearReset : W64 := 0x00000000FFFFFFFF#64

/-- A partition as it is created (R299 to R301, R225). -/
def Partition.reset : Partition where
  districts := []
  pager := 0
  pagerIn := false
  pagerIdle := 0
  st := .absent
  mstat := 0
  errHead := 0
  errTail := 0
  lost := 0
  errSeq := 0
  errBase := 0
  hreqBase := 0
  coalesce := []
  hreqHead := 0
  hreqTail := 0
  hreqWait := []
  hframe := none
  unitsel := 0
  attNonce := []
  attAddr := 0
  memKey := .empty
  ideKey := .none
  wdlimit := 2 ^ 26
  fslimit := 2 ^ 28
  migth := 256#16
  faultq := []
  migq := []
  migration := none
  laddr := 0
  lstat := 0
  launch := none
  kvcb := 0
  wake := []
  wakeFired := []
  wear := []
  evicting := none
  poisons := []
  vectors := []
  mgmt := []
  hostData := []
  hostPoison := false
  winData := 0
  fixedShare := false

/-- The machine right after reset (R322): the module is up through step 7, no partition exists, nothing is resident,
and every memory, counter and queue is at its reset value. -/
def State.reset : State where
  agenda := []
  cur := ⟨0, 0, none, .none, none⟩
  clocks := []
  dclocks := []
  free := 0
  ids := 0
  mesh := []
  mcasts := []
  flight := []
  dram := []
  host := []
  peer := []
  scratch := []
  sram := []
  signals := []
  lines := []
  replicas := []
  presence := []
  invals := []
  delivered := []
  repeats := []
  poisoned := []
  boots := 0
  units := []
  stations := []
  junctions := []
  loopLines := []
  regions := []
  contexts := []
  partitions := []
  groups := []
  queues := []
  boxes := []
  pointers := []
  pointed := []
  cores := []
  mainPorts := []
  colls := []
  power := .up
  retiredCh := []
  critical := none
  ld0 := Partition.reset
  marked := false
  clock := 0
  dclock := 0

/-- Why a step stops with a fault. -/
inductive Fault where
  /-- Raised by a unit instruction's meaning when the firing in progress names no unit: there is nothing that could
  execute it. Safe: no claim about a run can rest on it, and `step` never reaches it (DESIGN CHOICE, log entry 75). -/
  | noUnit
  deriving DecidableEq, Repr

/-- Why a step is refused. -/
inductive Refusal where
  /-- Raised by `exec` for an instruction without a meaning. Safe. -/
  | notModelled (mnemonic : String)
  deriving DecidableEq, Repr

end Sys2Proof.Machine
end

