-- ==== Sys2Proof/Machine/Flags.lean ====
section
/-! DEFINITION. Predicates, the predicate byte, the live mask, sticky counts, the converter counters and the
out-of-range record: every flag of a unit and the rule by which each is written (R17, R42, R51, R96, R116). -/
namespace Sys2Proof.Machine

/-- Predicate `n` of a predicate byte. -/
def predBit (p : BitVec 8) (n : Fin 8) : Bool := p.getLsbD n.val

def setPred (p : BitVec 8) (n : Fin 8) (b : Bool) : BitVec 8 :=
  if b then p ||| BitVec.ofNat 8 (2 ^ n.val) else p &&& ~~~(BitVec.ofNat 8 (2 ^ n.val))

/-- A word's predicate update (R17). -/
def updPred (p : BitVec 8) : Upd → BitVec 8
  | .none => p
  | .set n => setPred p n true
  | .clear n => setPred p n false
  | .toggle n => setPred p n (!predBit p n)

def Unit.applyUpd (x : Unit) (u : Upd) : Unit := { x with p := updPred x.p u }

/-- The guard's predicate test (R15). -/
def guardHolds (p : BitVec 8) (g : Guard) : Bool := (p ^^^ g.val) &&& g.care == 0

/-- Lanes of a unit: 8 for each element (R64). -/
def Unit.lanes (x : Unit) : Nat := 8 * x.fuse

/-- Lane `j` is live (R42). -/
def Unit.live (x : Unit) (j : Nat) : Bool := x.lm.getLsbD j

/-- All of `n` lanes live. -/
def allLive (n : Nat) : BitVec 128 := BitVec.ofNat 128 (2 ^ n - 1)

/-- Lane `j` of register V`n`. -/
def Unit.vLane (x : Unit) (n : VReg) (j : Nat) : Lane := Tab.get x.v (n.val * 128 + j) 0

/-- Register V`n` as a lane vector. -/
def Unit.vVec (x : Unit) (n : VReg) : Nat := vecMk 32 x.lanes (fun j => (x.vLane n j).toNat)

def Unit.sReg (x : Unit) (n : SReg) : W64 := Tab.get x.s n.val 0

def Unit.setS (x : Unit) (n : SReg) (v : W64) : Unit := { x with s := Tab.set 0 x.s n.val v }

/-- Sticky count K`k`; K0 is the constant 0 (R25, R48). -/
def Unit.kReg (x : Unit) (k : Fin 4) : BitVec 16 := if k.val = 0 then 0 else Tab.get x.k k.val 0

def Unit.setK (x : Unit) (n : Nat) (v : BitVec 16) : Unit := { x with k := Tab.set 0 x.k n v }

/-- One lane of V`n` written, whatever LM holds. -/
def Unit.setLane (x : Unit) (n : VReg) (j : Nat) (v : Lane) : Unit := { x with v := Tab.set 0 x.v (n.val * 128 + j) v }

/-- The lanes of a list written, those outside `mask` left (R42). -/
def Unit.setLanes (x : Unit) (n : VReg) (mask : BitVec 128) (vec : Nat) : List Nat → Unit
  | [] => x
  | j :: t => Unit.setLanes (if mask.getLsbD j then x.setLane n j (laneAt vec j) else x) n mask vec t

/-- V`n` written: live lanes only (R42, R51). -/
def Unit.writeV (x : Unit) (n : VReg) (vec : Nat) : Unit := x.setLanes n x.lm vec (List.range x.lanes)

/-- The live mask that a lane vector writes: bit `j` is 1 where lane `j` is not zero (R51). -/
def lmOf (lanes vec : Nat) : BitVec 128 :=
  BitVec.ofNat 128 (vecMk 1 lanes (fun j => b2n (laneAt vec j != 0)))

/-- A write to a destination other than an output channel (R42, R51). `vec` gives the lanes; `scalar` is what an S
register takes. P, K and PST are written only where lane 0 is live; the write of LM is not masked. -/
def Unit.write (x : Unit) (d : Dst) (vec : Nat) (scalar : W64) : Unit :=
  match d with
  | .v n => x.writeV n vec
  | .s n => x.setS n scalar
  | .p n => if x.live 0 then { x with p := setPred x.p n (laneAt vec 0 != 0) } else x
  | .k n => if x.live 0 then x.setK (n.val + 1) ((laneAt vec 0).setWidth 16) else x
  | .pst => if x.live 0 then { x with p := (laneAt vec 0).setWidth 8 } else x
  | .lm => { x with lm := lmOf x.lanes vec }
  | .o _ => x
  | .discard => x

/-- A write that the live mask does not mask (R43). -/
def Unit.writeAll (x : Unit) (d : Dst) (vec : Nat) (scalar : W64) : Unit :=
  let y := { x with lm := allLive x.lanes }.write d vec scalar
  if d = .lm then y else { y with lm := x.lm }

/-! ### Converter counters (R116) -/

/-- A counter that stops at 2^32 - 1. -/
def countUp (c : BitVec 32) (n : Nat) : BitVec 32 := BitVec.ofNat 32 (min (c.toNat + n) (2 ^ 32 - 1))

/-- The counters after the conversions of a list, one to a counter for each event. -/
def Unit.countConv (x : Unit) (cs : List Conv) : Unit :=
  { x with
    ovf := countUp x.ovf (cs.filter (·.ovf)).length
    nanp := countUp x.nanp (cs.filter (·.nanp)).length
    satn := countUp x.satn (cs.filter (·.satn)).length }

/-! ### The out-of-range record (R96) -/

/-- SY.OOR after an out-of-range byte at offset `o` of handle `h`: recorded only while VALID is 0. -/
def oorAfter (oor h : W64) (o : Nat) : W64 :=
  if oor.getLsbD 17 then oor
  else w64 ((h.toNat >>> 18) * 2 ^ 18 + 2 ^ 17 + b2n (decide (65536 ≤ o)) * 2 ^ 16 + o % 65536)

def Unit.noteOor (x : Unit) (h : W64) (o : Nat) : Unit := { x with sys := { x.sys with oor := oorAfter x.sys.oor h o } }

end Sys2Proof.Machine
end

