-- ==== Sys2Proof/Config.lean ====
section
/-! DEFINITION. What an implementation fixes and what the manual leaves open. A free value is an opaque constant: nothing
can be proved of its value. The functions are applied to the state's counter `free`, so that each draw is a fresh
value (DESIGN CHOICE, log entry 4). -/
namespace Sys2Proof.Config

/-- A free number: the victim way of a set and the entry of a page cache that a fill replaces (R152, R191), and the
places that firmware chooses without a rule (R299). -/
opaque freeNat : Nat → Nat

/-- A free byte: the signatures of an attestation report, and the transport public key (R312). -/
opaque freeByte : Nat → Byte

/-- SHA-384, which the manual does not define: byte `i` of the hash of some bytes (R312). -/
opaque sha384 : List Byte → Nat → Byte

/-- The boot ROM (R312). -/
opaque bootRom : List Byte

/-- The firmware image of a bring-up, by its number (R312). -/
opaque firmware : Nat → List Byte

/-- The pager configuration in the firmware image of a bring-up, by its number (R193, R312). -/
opaque pagerConfig : Nat → List Byte

/-- The bytes hashed for a partition's layout: its districts, whose ports are numbered as they are, and its pager station
(R312). -/
opaque layout : List Nat → Nat → List Byte

end Sys2Proof.Config
end

