-- ==== Sys2Proof/Machine/Home.lean ====
section
/-! DEFINITION. Memory below the ports: the three memories, home slices and their lines (R149 to R159, R297). A write is
performed at its home at once; a read of a line that must first be filled waits (R154). -/
namespace Sys2Proof.Machine

/-! ### The memories -/

/-- What an unlisted address of a memory reads as (DESIGN CHOICE, log entry 2). -/
def memDefault : Byte := 0

/-- One byte of a memory. -/
def Memory.read (m : Memory) (a : Nat) : Byte := Tab.get m a memDefault

/-- A memory with one byte written. -/
def Memory.write (m : Memory) (a : Nat) (b : Byte) : Memory := Tab.set memDefault m a b

/-- The canonical form of a memory: addresses strictly rising and no byte equal to what an unlisted address reads as. -/
def Memory.wf (m : Memory) : Bool := Tab.wf memDefault m

/-- A memory with the bytes of a list of (address, byte) written, in order. -/
def Memory.writes (m : Memory) : List (Nat × Byte) → Memory
  | [] => m
  | (a, b) :: t => Memory.writes (Memory.write m a b) t

/-- `n` bytes from address `a`. -/
def Memory.bytes (m : Memory) (a n : Nat) : List Byte := (List.range n).map (fun i => Memory.read m (a + i))

/-- A memory without its bytes from `lo` up to, not including, `hi`: they read 0 (R90, R311). -/
def Memory.clear (m : Memory) (lo hi : Nat) : Memory := Tab.delRange m lo hi

/-- The memory behind a kind of page (R187). -/
def State.memOf (s : State) : Kind → Memory
  | .device => s.dram
  | .host => s.host
  | .peer => s.peer

def State.setMem (s : State) (k : Kind) (m : Memory) : State :=
  match k with
  | .device => { s with dram := m }
  | .host => { s with host := m }
  | .peer => { s with peer := m }

/-- Bytes of the memory below the L2 written, byte-masked. -/
def State.rawWrite (s : State) (k : Kind) (bs : List (Nat × Byte)) : State := s.setMem k (Memory.writes (s.memOf k) bs)

/-! ### Main-line ports (R304 to R306) -/

def State.mainPort (s : State) (p : Nat) : MainPort := Tab.get s.mainPorts p MainPort.reset
def State.setMainPort (s : State) (p : Nat) (x : MainPort) : State :=
  { s with mainPorts := Tab.set MainPort.reset s.mainPorts p x }

/-- The SEQ at which a port goes over to its next epoch. -/
def flitLimit : Nat := 2 ^ 40 - 2 ^ 20

/-- The port has used up its epoch: until the next one's key is installed it sends only idle flits. -/
def MainPort.spent (x : MainPort) : Bool := decide (flitLimit ≤ x.txSeq)

/-- The port sends only idle flits: its epoch has no key, or is used up (R305). -/
def MainPort.idle (x : MainPort) : Bool := x.key != .live || x.spent

/-- A flit sent, or queued behind those that wait for a key. -/
def MainPort.send (x : MainPort) (ty cid elem : Nat) (v : Lane) : MainPort :=
  if x.idle || !x.queued.isEmpty then { x with queued := x.queued ++ [(ty, cid, elem, v)] }
  else { x with sent := ⟨ty, cid, x.epoch % 2 ^ 12, x.txSeq, elem, v⟩ :: x.sent, txSeq := x.txSeq + 1 }

/-- The port sends no flit: it is down, or its partition's keys are zeroed (R311, R316). -/
def State.portDead (s : State) (port : Nat) : Bool :=
  (s.mainPort port).down || (s.mainPort port).key == .zeroed

/-- A flit handed to a port for sending: TYPE, CID, element and value. -/
def State.sendFlit (s : State) (port ty cid elem : Nat) (v : Lane) : State :=
  if s.portDead port then s else s.setMainPort port ((s.mainPort port).send ty cid elem v)

/-! ### Addresses and homes (R149 to R151) -/

/-- The populated bytes of a stack: 96 GiB (R149). -/
def stackBytes : Nat := 0x1800000000

/-- The stack of a device physical address. -/
def stackOf (a : Nat) : Nat := fld a 37 4

/-- The offset within its stack of a device physical address. -/
def stackOffset (a : Nat) : Nat := fld a 0 37

/-- The device physical address of an offset within a stack. -/
def devAddr (stack off : Nat) : Nat := stack * 2 ^ 37 + off

/-- The partition of a district, if any. -/
def State.partOf (s : State) (d : Nat) : Option Nat := (s.partitions.find? (fun e => e.2.districts.contains d)).map (·.1)

def State.part (s : State) (p : Nat) : Partition := Tab.get s.partitions p Partition.reset

def State.setPart (s : State) (p : Nat) (x : Partition) : State := { s with partitions := Tab.put s.partitions p x }

/-- The districts of a partition in ascending order. -/
def State.districts (s : State) (p : Nat) : List Nat := (List.range 16).filter (fun d => (s.part p).districts.contains d)

/-- The home district of a line, for an access of partition `p` (R150, R151). -/
def State.homeDistrict (s : State) (p : Nat) (l : Loc) : Nat :=
  match l.kind with
  | .device => stackOf l.addr
  | _ =>
    let ds := s.districts p
    ds.getD ((l.addr / 4096) % max ds.length 1) 0

/-- The line number that gives slice and set: within the stack, or of the host address (R150, R151). -/
def lineNumber (l : Loc) : Nat :=
  match l.kind with
  | .device => stackOffset l.addr / 128
  | _ => l.addr / 128

/-- The key of a line in `lines`: kind, home district and line address. -/
def lineKey (k : Kind) (district a : Nat) : Nat :=
  (a / 128 * 16 + district) * 4 + (match k with | .device => 0 | .host => 1 | .peer => 2)

def State.keyOf (s : State) (p : Nat) (l : Loc) : Nat := lineKey l.kind (s.homeDistrict p l) l.addr

/-- The set of a line: home district, district slice and set number (R150). -/
def setOfLine (district : Nat) (l : Loc) : Nat :=
  (district * 32 + lineNumber l % 32) * 2048 + (lineNumber l / 32) % 2048

/-- The pseudo-channel, 0 to 4, behind its slice that serves a line of stack memory: its own while in service, else the
`n div 160 mod 4`-th of the slice's four others (R150, R315). Which one it is shows in no result. -/
def State.channelOf (s : State) (a : Nat) : Nat :=
  let n := stackOffset a / 128
  let i := n / 32 % 5
  let slice := stackOf a * 32 + n % 32
  let live := (List.range 5).filter (fun c => !s.retiredCh.contains (slice, c))
  if live.contains i then i else live.getD (n / 160 % 4) i

/-- The stack pseudo-channel that serves a line (R150). -/
def State.stackChannel (s : State) (a : Nat) : Nat := 5 * (stackOffset a / 128 % 32) + s.channelOf a

def State.line? (s : State) (key : Nat) : Option Line := Tab.find s.lines key

def State.putLine (s : State) (key : Nat) (x : Line) : State := { s with lines := Tab.put s.lines key x }

def State.dropLine (s : State) (key : Nat) : State := { s with lines := Tab.del s.lines key }

/-! ### The value of a byte at its home -/

def Line.validAt (x : Line) (o : Nat) : Bool := x.valid.getLsbD (o / 32) || Tab.get x.mask o false

/-- A byte of a line as its home slice holds it, `below` being the byte in memory (R154). -/
def Line.byteAt (x : Line) (o : Nat) (below : Byte) : Byte :=
  match x.kind with
  | .zero => 0
  | _ => if x.validAt o then Tab.get x.data o 0 else below

/-- The byte that a read performed now at the home would return. -/
def State.homeByte (s : State) (p : Nat) (l : Loc) : Byte :=
  let below := Memory.read (s.memOf l.kind) l.addr
  match s.line? (s.keyOf p l) with
  | some x => x.byteAt (l.addr % 128) below
  | none => below

def State.homeBytes (s : State) (p : Nat) (l : Loc) (n : Nat) : List Byte :=
  (List.range n).map (fun i => s.homeByte p ⟨l.kind, l.addr + i⟩)

/-! ### Eviction and allocation -/

/-- The bytes of a line that a write-back takes: those of its dirty sectors; for a Zero line all 128 (R154). -/
def Line.dirtyBytes (x : Line) : List (Nat × Byte) :=
  match x.kind with
  | .zero => if x.dirty = 0 then [] else (List.range 128).map (fun o => (x.loc.addr + o, (0 : Byte)))
  | _ => ((List.range 128).filter (fun o => x.dirty.getLsbD (o / 32) && x.validAt o)).map
           (fun o => (x.loc.addr + o, Tab.get x.data o 0))

/-- Dirty data written back; the line stays (CLEAN rows of R154). -/
def State.writeBack (s : State) (key : Nat) : State :=
  match s.line? key with
  | none => s
  | some x => (s.rawWrite x.loc.kind x.dirtyBytes).putLine key { x with dirty := 0 }

/-- A line evicted: dirty data written back first (R154). -/
def State.evict (s : State) (key : Nat) : State := (s.writeBack key).dropLine key

/-- The lines of a set. -/
def State.setLines (s : State) (set : Nat) : List (Nat × Line) :=
  s.lines.filter (fun e => setOfLine e.2.district e.2.loc == set)

def isWay (e : Nat × Line) : Bool := decide (e.2.way < 16)
def isZeroTag (e : Nat × Line) : Bool := e.2.kind == .zero

/-- The replicas that live in a set. -/
def State.setReplicas (s : State) (set : Nat) : List Replica :=
  s.replicas.filter (fun r => setOfLine r.district ⟨.device, r.line * 128⟩ == set)

/-- All 16 data ways of the set are pinned (R155, R156). -/
def State.setPinned (s : State) (set : Nat) : Bool :=
  decide (16 ≤ ((s.setLines set).filter (fun e => isWay e && !e.2.pins.isEmpty)).length)

/-- Draws a free number. -/
def State.draw (s : State) : Nat × State := (Config.freeNat s.free, { s with free := s.free + 1 })

/-- One entry of a list, chosen by a free value where there are several. -/
def State.pickFree {α : Type} (s : State) : List α → Option (State × α)
  | [] => none
  | [a] => some (s, a)
  | a :: t => let (n, s) := s.draw; some (s, (a :: t).getD (n % (a :: t).length) a)

/-- The entry with the lowest use stamp. -/
def leastUsed : List (Nat × Line) → Option (Nat × Line)
  | [] => none
  | e :: t =>
    match leastUsed t with
    | none => some e
    | some e' => if e'.2.use < e.2.use then some e' else some e

/-- Room for one zero tag: with all 8 in use, the least recently used unpinned one is evicted (R154). -/
def State.makeZeroTag (s : State) (set : Nat) : State :=
  let zs := (s.setLines set).filter isZeroTag
  if zs.length < 8 then s
  else match leastUsed (zs.filter (·.2.pins.isEmpty)) with
    | none => s
    | some e => s.evict e.1

/-- A Zero line may be formed in the set: a tag is free or can be freed. -/
def State.zeroRoom (s : State) (set : Nat) : Bool :=
  let zs := (s.setLines set).filter isZeroTag
  decide (zs.length < 8) || zs.any (·.2.pins.isEmpty)

/-- A new use stamp. -/
def State.stamp (s : State) : Nat × State := (s.ids, { s with ids := s.ids + 1 })

/-! ### Writes at the home -/

/-- Whether a write covers every byte of each sector it touches. -/
def coversSectors (os : List Nat) : Bool :=
  (List.range 4).all (fun sec =>
    let inSec := os.filter (fun o => o / 32 == sec)
    inSec.isEmpty || ((List.range 32).all (fun i => inSec.contains (32 * sec + i))))

def sectorsOf (os : List Nat) : BitVec 4 :=
  os.foldl (fun m o => m ||| BitVec.ofNat 4 (2 ^ (o / 32))) 0

def putBytes (d : Tab Byte) (bs : List (Nat × Byte)) : Tab Byte := bs.foldl (fun d b => Tab.put d b.1 b.2) d
def putMask (d : Tab Bool) (os : List Nat) : Tab Bool := os.foldl (fun d o => Tab.put d o true) d

/-- Every byte of every sector is valid and zero. -/
def Line.allZero (x : Line) : Bool := x.valid == 0xF#4 && (List.range 128).all (fun o => Tab.get x.data o 0 == 0)

/-- The bytes `bs` (offset in the line, byte) written into a Present or Filling line (R154). -/
def Line.write (x : Line) (bs : List (Nat × Byte)) : Line :=
  let os := bs.map (·.1)
  let touched := sectorsOf os
  let full := (List.range 4).foldl (fun (m : BitVec 4) sec =>
      let inSec := os.filter (fun o => o / 32 == sec)
      if !inSec.isEmpty && coversSectors inSec then m ||| BitVec.ofNat 4 (2 ^ sec) else m) 0
  let valid := x.valid ||| full
  let partly := (touched &&& ~~~valid) != 0
  { x with
    data := putBytes x.data bs
    valid := valid
    dirty := x.dirty ||| touched
    kind := if x.kind == .filling || partly then .filling else .present
    mask := if x.kind == .filling || partly then putMask x.mask os else x.mask }

/-- The read of agent `who` merged into the fill entry of a line: it has eight places (R163). -/
def State.join (s : State) (key who : Nat) : State :=
  match s.line? key with
  | some x => if x.kind == .filling && decide (x.joined.length < 8) && !x.joined.contains who
      then s.putLine key { x with joined := x.joined ++ [who] } else s
  | none => s

/-- The line in a zero tag, with a dirty bit. -/
def Line.toZero (x : Line) (dirty : BitVec 4) : Line :=
  { x with kind := .zero, way := 16, valid := 0, dirty := dirty, data := [], mask := [] }

/-- A Present line whose bytes are all zero becomes Zero and frees its data way, and otherwise stays: not on a DEPOT page,
and not where all 8 zero tags of the set are pinned (R154, R159; DESIGN CHOICE, log entry 82). -/
def State.settle (s : State) (key : Nat) (x : Line) (dirty : BitVec 4) : State :=
  let set := setOfLine x.district x.loc
  if x.kind == .present && x.allZero && !x.depot && s.zeroRoom set then
    ((s.dropLine key).makeZeroTag set).putLine key (x.toZero dirty)
  else s.putLine key x

/-! ### Ways (R152, R153, R157) -/

/-- The way number of a line that is in no data way and is to take none: the fill entry of a bypass (R156). -/
abbrev bypassWay : Nat := 17

/-- The host line is held in E or M (R297). -/
def Line.owned (x : Line) : Bool := x.excl == some .exclusive || x.excl == some .modified

/-- What stands in a data way. -/
inductive Occupant where
  | line (key : Nat) (x : Line)
  | replica (r : Replica)

def Occupant.way : Occupant → Nat
  | .line _ x => x.way
  | .replica r => r.way

/-- The data ways of a set that are in use. -/
def State.occupants (s : State) (set : Nat) : List Occupant :=
  ((s.setLines set).filter isWay).map (fun e => .line e.1 e.2) ++ (s.setReplicas set).map .replica

def Occupant.isStream : Occupant → Bool
  | .line _ x => x.stream && x.kind == .present && x.pins.isEmpty
  | .replica _ => false

/-- An occupant that can be the victim at once: a replica, or an unpinned Present line. -/
def Occupant.isVictim : Occupant → Bool
  | .line _ x => x.kind == .present && x.pins.isEmpty
  | .replica _ => true

/-- The way of an occupant freed: a replica is dropped, a Present line evicted. -/
def State.vacate (s : State) : Occupant → State
  | .replica r => { s with replicas := s.replicas.filter (· != r) }
  | .line key _ => s.evict key

/-- The first list that is not empty. -/
def firstSome {α : Type} : List (List α) → List α
  | [] => []
  | l :: t => if l.isEmpty then firstSome t else l

/-- Room in one of the data ways `ws` of a set, and its number: a free way; else the way of a victim, a STREAM line before
any other (R153). Which one it is is not architectural (R152): a free value chooses. `none` where each is pinned or holds a
line that is being filled. -/
def State.takeWay (s : State) (set : Nat) (ws : List Nat) : Option (State × Nat) :=
  let occ := (s.occupants set).filter (fun o => ws.contains o.way)
  match s.pickFree (ws.filter (fun w => !occ.any (fun o => o.way == w))) with
  | some r => some r
  | none =>
    match s.pickFree (firstSome [occ.filter Occupant.isStream, occ.filter Occupant.isVictim]) with
    | some (s, o) => some (s.vacate o, o.way)
    | none => none

/-- A data way for a line that is not yet in one; 16 where none is to be had. Such a line stays in its fill entry and takes
its way when the data returns (DEDUCED, log entry 17). -/
def State.makeWay (s : State) (set : Nat) : State × Nat := (s.takeWay set (List.range 16)).getD (s, 16)

/-- Data returns to a Filling line: every byte neither valid nor written takes the byte below; all zero with no sector
written makes it Zero, clean; else Present, all sectors valid (R154). A line that found no way takes one now; one that finds
none still, and a bypass (R156), is Present in no way until the fill's readers are served. -/
def State.fillDone (s : State) (key : Nat) : State :=
  match s.line? key with
  | none => s
  | some x =>
    if x.kind != .filling then s
    else
      let full := (List.range 128).map (fun o => (o, x.byteAt o (Memory.read (s.memOf x.loc.kind) (x.loc.addr + o))))
      let y := { x with kind := .present, valid := 0xF, data := putBytes [] full, mask := [], joined := [] }
      let set := setOfLine x.district x.loc
      let zero := y.dirty == 0#4 && y.allZero && !y.depot && s.zeroRoom set
      match (if y.way == 16 && !zero then s.takeWay set (List.range 16) else some (s, y.way)) with
      | some (s, way) =>
        let y := { y with way := way }
        if y.dirty == 0#4 && way != bypassWay then s.settle key y 0 else s.putLine key y
      | none => s.putLine key { y with way := bypassWay }

/-- A line that is in no way leaves its fill entry once the readers are served; a host line that is held in E or M stays
until it is written (R156, R297). -/
def State.endBypass (s : State) (key : Nat) : State :=
  match s.line? key with
  | some x => if x.kind == .present && x.way == bypassWay && !x.owned then s.evict key else s
  | none => s

/-- The way of a line, or one made for it where it has none. -/
def State.wayOf (s : State) (set : Nat) (x : Line) : State × Nat := if x.way < 16 then (s, x.way) else s.makeWay set

/-- A Zero line as a data way holds it: every byte valid and 0. -/
def Line.toData (x : Line) : Line :=
  if x.kind == .zero then
    { x with kind := .present, valid := 0xF, data := putBytes [] ((List.range 128).map (fun o => (o, (0 : Byte)))) }
  else x

/-- A new line in a data way. -/
def newLine (l : Loc) (district way use : Nat) (stream depot : Bool) : Line :=
  ⟨⟨l.kind, floorTo l.addr 128⟩, district, .present, way, 0, 0, [], [], [], stream, depot, [], none, use⟩

/-- The sending of invalidations for a written line: one to every district whose presence bit is set, and the bits are
cleared (R158). `waiters` are the units whose ORDER and FENCE wait for the acknowledgements, those of invalidations of
the line that an earlier write sent among them: until then a replica may hold bytes older than this write (R180). -/
def State.invalidate (s : State) (line : Nat) (waiters : List Nat) : State :=
  let ds := (s.presence.filter (fun e => e.1 == line)).map (·.2)
  { s with
    presence := s.presence.filter (fun e => e.1 != line)
    invals := s.invals.map (fun i =>
      if i.line == line then { i with waiters := i.waiters ++ waiters.filter (fun u => !i.waiters.contains u) } else i)
      ++ ds.map (fun d => ⟨line, d, waiters, []⟩) }

/-- Every invalidation of a line acknowledged: no replica of it is left. -/
def State.ackLine (s : State) (line : Nat) : State :=
  { s with
    presence := s.presence.filter (fun e => e.1 != line)
    invals := s.invals.filter (fun i => i.line != line)
    replicas := s.replicas.filter (fun r => r.line != line) }

/-- The CXL state of a line that takes a write: a host line is then held in M (R297). -/
def writtenExcl (k : Kind) (old : Option HostGrant) : Option HostGrant := if k == .host then some .modified else old

/-- The port of a peer address (R306). -/
def peerPort (l : Loc) : Nat := stackOf l.addr

/-- A peer access waits: its port sends only idle flits. At a dead port it does not: there it is refused (R311, R316). -/
def State.peerWaits (s : State) (l : Loc) : Bool :=
  l.kind == .peer && (s.mainPort (peerPort l)).idle && !s.portDead (peerPort l)

/-- Bytes written to a peer: a request flit takes them there, and the response comes back (R304, R306). -/
def State.peerWrite (s : State) (l : Loc) (raw : List (Nat × Byte)) : State :=
  if s.portDead (peerPort l) then s else (s.sendFlit (peerPort l) 1 0 0 0).rawWrite .peer raw

/-- The partition has no memory key, or its key is zeroed: its stacks refuse what arrives (R311). -/
def Partition.keyless (x : Partition) : Bool := x.memKey == .empty || x.memKey == .revoked

def State.keyless (s : State) (p : Nat) (l : Loc) : Bool := l.kind == .device && (s.part p).keyless

/-- `n` free bytes. -/
def State.freeBytes (s : State) (n : Nat) : List Byte × State :=
  ((List.range n).map (fun i => Config.freeByte (s.free + i)), { s with free := s.free + n })

/-- A line that found no way is held in a fill entry (R154). -/
def Line.awaitWay (x : Line) (bs : List (Nat × Byte)) : Line :=
  if x.way == 16 && x.kind == .present then { x with kind := .filling, mask := putMask x.mask (bs.map (·.1)) } else x

/-- Bytes within one line written at its home (R153, R154, R156, R159): `bs` by offset in the line. `cmode` is the
page's cache mode. A stack whose key is zeroed refuses them (R311). -/
def State.homeWrite (s : State) (p : Nat) (l : Loc) (cmode : Nat) (depot : Bool) (bs : List (Nat × Byte))
    (waiters : List Nat) : State :=
  let district := s.homeDistrict p l
  let key := lineKey l.kind district l.addr
  let base := floorTo l.addr 128
  let set := setOfLine district l
  let raw := bs.map (fun b => (base + b.1, b.2))
  if s.keyless p l then s
  else
  let (use, s) := s.stamp
  let s := if l.kind == .device then s.invalidate (base / 128) waiters else s
  match l.kind with
  | .peer => s.peerWrite l raw
  | k =>
    let s := if depot then s.rawWrite k raw else s
    match s.line? key with
    | none =>
      if depot then s
      else if cmode == 2 || s.setPinned set then s.rawWrite k raw
      else
        let (s, way) := s.makeWay set
        let x := (newLine l district way use (cmode == 1) depot).write bs
        s.putLine key ({ x with excl := writtenExcl k none }.awaitWay bs)
    | some x =>
      let x := { x with use := use, depot := x.depot || depot, excl := writtenExcl k x.excl }
      match x.kind with
      | .zero =>
        if bs.all (fun b => b.2 == 0) then s.putLine key { x with dirty := if k == .host then 0xF else x.dirty }
        else if s.setPinned set then
          (s.dropLine key).rawWrite k ((List.range 128).map (fun o => (base + o, (0 : Byte))) ++ raw)
        else
          let (s, way) := s.makeWay set
          s.putLine key (({ x.toData with way := way, dirty := 0xF }.write bs).awaitWay bs)
      | .filling =>
        if x.way == bypassWay then s.rawWrite k raw
        else s.putLine key (if depot then { x.write bs with dirty := x.dirty } else x.write bs)
      | .present =>
        if x.way == bypassWay then (s.evict key).rawWrite k raw
        else
          let y := x.write bs
          s.settle key (if depot then { y with dirty := x.dirty } else y) 0xF

/-- A run of bytes written at their homes, line by line, in ascending order. -/
def State.homeStore (s : State) (p : Nat) (k : Kind) (a : Nat) (bs : List Byte) (cmode : Nat) (depot : Bool)
    (waiters : List Nat) : State :=
  let cells := (List.range bs.length).map (fun i => (a + i, bs.getD i 0))
  (List.range (bs.length / 128 + 2)).foldl (fun s i =>
    let line := a / 128 + i
    let part := cells.filter (fun c => c.1 / 128 == line)
    if part.isEmpty then s
    else s.homeWrite p ⟨k, line * 128⟩ cmode depot (part.map (fun c => (c.1 % 128, c.2))) waiters) s

/-- A FILL of zero over a whole device line: the line becomes Zero, dirty, without a DRAM access (R154). Where all 8 zero
tags of its set are pinned it is written like any other line (DESIGN CHOICE, log entry 82). -/
def State.homeZero (s : State) (p : Nat) (l : Loc) (waiters : List Nat) : State :=
  let district := s.homeDistrict p l
  let key := lineKey l.kind district l.addr
  let set := setOfLine district l
  if s.keyless p l then s
  else match s.line? key with
  | some x =>
    if x.kind == .zero then (s.invalidate (l.addr / 128) waiters).putLine key { x with dirty := 0xF }
    else if (s.dropLine key).zeroRoom set then
      let (use, s) := (s.invalidate (l.addr / 128) waiters).stamp
      ((s.dropLine key).makeZeroTag set).putLine key { x.toZero 0xF with use := use }
    else s.homeWrite p l 0 false ((List.range 128).map (fun o => (o, (0 : Byte)))) waiters
  | none =>
    if s.zeroRoom set then
      let (use, s) := (s.invalidate (l.addr / 128) waiters).stamp
      (s.makeZeroTag set).putLine key ((newLine l district 16 use false false).toZero 0xF)
    else s.homeWrite p l 0 false ((List.range 128).map (fun o => (o, (0 : Byte)))) waiters

/-! ### Reads at the home -/

/-- What a read finds at its home. -/
inductive ReadAns where
  | bytes (bs : List Byte)
  | wait (key : Nat)
  deriving DecidableEq, Repr

/-- A fill entry opened for a line (R154). A bypass holds no way (R156): in a set that is all pinned, and for the line of a
NOALLOC page, where only the taking of a host line comes here (R153, R297). -/
def State.openFill (s : State) (p : Nat) (l : Loc) (cmode : Nat) (depot : Bool) : State :=
  let district := s.homeDistrict p l
  let key := lineKey l.kind district l.addr
  let set := setOfLine district l
  let bypass := cmode == 2 || s.setPinned set
  let (use, s) := s.stamp
  match s.line? key with
  | some x =>
    let (s, way) := if 16 ≤ x.way && bypass then (s, bypassWay) else s.wayOf set x
    s.putLine key { x.toData with kind := .filling, way := way, use := use, mask := [], joined := [],
                                  depot := x.depot || depot }
  | none =>
    let (s, way) := if bypass then (s, bypassWay) else s.makeWay set
    s.putLine key { newLine l district way use (cmode == 1) depot with kind := .filling }

/-- A host line taken in E, its request and the host's answer both in this step, for a write that is performed at once (R297;
DEDUCED, log entry 23). A line that is already being filled has its data at the same moment. -/
def State.takeHost (s : State) (p : Nat) (l : Loc) (cmode : Nat) : State :=
  let key := s.keyOf p l
  let take := fun (s : State) =>
    let s := s.fillDone key
    match s.line? key with
    | some x => s.putLine key { x with excl := some .exclusive }
    | none => s
  match s.line? key with
  | some x => if x.kind == .filling then take s else if x.owned then s else take (s.openFill p l cmode false)
  | none => take (s.openFill p l cmode false)

/-- A run of bytes written by an engine, a message or the host and performed at PACKAGE scope at once: a host line is taken
first (R297), and the invalidations that the writes send are acknowledged in the same step (R180, R181; log entry 28). -/
def State.homeSync (s : State) (p : Nat) (k : Kind) (a : Nat) (bs : List Byte) (cmode : Nat) (depot : Bool) : State :=
  let lines := List.range ((a % 128 + bs.length + 127) / 128)
  let s := if k == .host then lines.foldl (fun s i => s.takeHost p ⟨k, (a / 128 + i) * 128⟩ cmode) s else s
  let s := s.homeStore p k a bs cmode depot []
  if k == .device then lines.foldl (fun s i => s.ackLine (a / 128 + i)) s else s

/-- A read of `n` bytes within one line at its home (R153, R154, R156): the bytes, or the key of the line whose fill it
waits for. A line of a NOALLOC page is read without a fill entry, but for a set that is all pinned, where a bypass overrides the
mode (R153). A stack whose key is zeroed, and a port that is dead, answer nothing: the bytes are free (R311; DESIGN CHOICE, log
entry 90). -/
def State.homeRead (s : State) (p : Nat) (l : Loc) (n cmode : Nat) (depot : Bool) : State × ReadAns :=
  let district := s.homeDistrict p l
  let key := lineKey l.kind district l.addr
  let now := ReadAns.bytes (s.homeBytes p l n)
  match l.kind with
  | .peer =>
    if s.portDead (peerPort l) then let (bs, s) := s.freeBytes n; (s, .bytes bs) else (s.sendFlit (peerPort l) 1 0 0 0, now)
  | _ =>
    if s.keyless p l then let (bs, s) := s.freeBytes n; (s, .bytes bs)
    else match s.line? key with
    | none =>
      if cmode == 2 && !s.setPinned (setOfLine district l) then (s, now)
      else (s.openFill p l cmode depot, .wait key)
    | some x =>
      match x.kind with
      | .zero => let (use, s) := s.stamp; (s.putLine key { x with use := use, depot := x.depot || depot }, now)
      | .filling => (s, .wait key)
      | .present =>
        if (List.range n).all (fun i => x.validAt ((l.addr + i) % 128)) then
          let (use, s) := s.stamp
          (s.putLine key { x with use := use, depot := x.depot || depot }, now)
        else (s.openFill p l cmode depot, .wait key)

/-- The line of a location is Filling: a CLEAN, INVL or FILL waits for the fill (R154). -/
def State.isFilling (s : State) (p : Nat) (l : Loc) : Bool :=
  match s.line? (s.keyOf p l) with
  | some x => x.kind == .filling
  | none => false

/-- CLEAN at the home (R154, R341): dirty data written back. -/
def State.cleanLine (s : State) (p : Nat) (l : Loc) : State :=
  match l.kind with
  | .device => s.writeBack (s.keyOf p l)
  | .host =>
    match s.line? (s.keyOf p l) with
    | none => s
    | some x => if x.pins.isEmpty then s.evict (s.keyOf p l)
                else (s.writeBack (s.keyOf p l)).putLine (s.keyOf p l)
                       { x with kind := .present, dirty := 0, valid := 0, data := [], mask := [], excl := none }
  | .peer => s

/-- INVL at the home (R154, R374): dirty data written back, the line Absent unless pinned, and every replica named by the
line's presence bits invalidated. -/
def State.invlLine (s : State) (p : Nat) (l : Loc) (waiters : List Nat) : State :=
  match l.kind with
  | .device =>
    let key := s.keyOf p l
    let s := s.invalidate (l.addr / 128) waiters
    match s.line? key with
    | none => s
    | some x => if x.pins.isEmpty then s.evict key else s.writeBack key
  | _ => s.cleanLine p l

/-! ### Little-endian words at their homes -/

/-- `n` bytes at their homes as a number. -/
def State.homeNat (s : State) (p : Nat) (l : Loc) (n : Nat) : Nat := ofBytes (s.homeBytes p l n)

/-- A word of `n` bytes written at its home in a WB page. -/
def State.homePut (s : State) (p : Nat) (l : Loc) (n v : Nat) : State :=
  s.homeStore p l.kind l.addr (bytesOf n v) 0 false []

/-- The location of window address `o` of partition `p` (R298): the stack of its rank and the offset. -/
def State.windowLoc (s : State) (p o : Nat) : Loc :=
  ⟨.device, devAddr ((s.districts p).getD (o / stackBytes) 0) (o % stackBytes)⟩

/-- A device physical address lies in the partition's stacks at a populated offset (R149). -/
def State.ownsAddr (s : State) (p a : Nat) : Bool :=
  decide (a < 2 ^ 41) && decide (stackOffset a < stackBytes) && (s.part p).districts.contains (stackOf a)

end Sys2Proof.Machine
end

