-- ==== Sys2Proof/Machine/Units.lean ====
section
/-! DEFINITION. Units in the state: how a unit is found, where it stands, the end of a firing, and what a unit knows of
its region, its context and its clocks (R12, R14, R27, R29 to R32). -/
namespace Sys2Proof.Machine

/-! ### Access to the tables of the state -/

def State.unit? (s : State) (u : Nat) : Option Unit := Tab.find s.units u
def State.putUnit (s : State) (u : Nat) (x : Unit) : State := { s with units := Tab.put s.units u x }

/-- A unit changed, where it exists. -/
def State.onUnit (s : State) (u : Nat) (f : Unit → Unit) : State :=
  match s.unit? u with
  | some x => s.putUnit u (f x)
  | none => s

def State.station (s : State) (n : Nat) : Station := Tab.get s.stations n Station.reset
def State.setStation (s : State) (n : Nat) (x : Station) : State :=
  { s with stations := Tab.set Station.reset s.stations n x }
def State.onStation (s : State) (n : Nat) (f : Station → Station) : State := s.setStation n (f (s.station n))

def State.junction (s : State) (n : Nat) : Junction := Tab.get s.junctions n Junction.reset
def State.setJunction (s : State) (n : Nat) (x : Junction) : State :=
  { s with junctions := Tab.set Junction.reset s.junctions n x }
def State.onJunction (s : State) (n : Nat) (f : Junction → Junction) : State := s.setJunction n (f (s.junction n))

def State.loopLine (s : State) (n : Nat) : LoopLine := Tab.get s.loopLines n LoopLine.reset
def State.setLoopLine (s : State) (n : Nat) (x : LoopLine) : State :=
  { s with loopLines := Tab.set LoopLine.reset s.loopLines n x }

def State.region? (s : State) (r : Nat) : Option Region := Tab.find s.regions r
def State.putRegion (s : State) (r : Nat) (x : Region) : State := { s with regions := Tab.put s.regions r x }
def State.onRegion (s : State) (r : Nat) (f : Region → Region) : State :=
  match s.region? r with
  | some x => s.putRegion r (f x)
  | none => s

def State.queueAt (s : State) (q : Nat) : Queue := Tab.get s.queues q Queue.reset
def State.setQueue (s : State) (q : Nat) (x : Queue) : State := { s with queues := Tab.set Queue.reset s.queues q x }

def State.core (s : State) (c : Nat) : Core := Tab.get s.cores c Core.reset
def State.setCore (s : State) (c : Nat) (x : Core) : State := { s with cores := Tab.set Core.reset s.cores c x }
def State.onCore (s : State) (c : Nat) (f : Core → Core) : State := s.setCore c (f (s.core c))

def State.context? (s : State) (c : Nat) : Option Context := Tab.find s.contexts c

/-! ### Places (R5) -/

/-- The unit is a depot core. -/
def isCore (u : Nat) : Bool := decide (coreBase ≤ u)
/-- The package depot core number of a core's unit. -/
def coreOf (u : Nat) : Nat := u - coreBase
/-- The station of a fabric unit. -/
def stnOf (u : Nat) : Nat := u / 64
/-- The element of a fabric unit (its top-left element). -/
def elemOf (u : Nat) : Nat := u % 64
/-- The fabric die of a station. -/
def dieOfStn (n : Nat) : Nat := n / 64
/-- The district of a station: rows 0 to 3 of die d are district 2d, rows 4 to 7 district 2d + 1 (R5). -/
def districtOfStn (n : Nat) : Nat := 2 * (n / 64) + (n % 64) / 32
/-- The stack of a depot core. -/
def stackOfCore (c : Nat) : Nat := c / 16
/-- The fabric die of a unit; for a depot core on stack s, die s div 2 (R29). -/
def dieOfUnit (u : Nat) : Nat := if isCore u then stackOfCore (coreOf u) / 2 else dieOfStn (stnOf u)

/-- Words of the unit's instruction store (R27, R272). -/
def storeSize (u : Nat) : Nat := if isCore u then 32768 else 8192

/-- The partition of a station. -/
def State.partOfStn (s : State) (n : Nat) : Option Nat := s.partOf (districtOfStn n)

/-- Usable stations of a partition on a die: those of its districts that are not retired and are not the pager station
(R29, R193). -/
def State.usableOn (s : State) (p die : Nat) : Nat :=
  ((List.range 64).filter (fun i =>
    let n := die * 64 + i
    s.partOfStn n == some p && !(s.station n).retired && n != (s.part p).pager)).length

/-- Fabric dies with at least one usable station of the partition (R29). -/
def State.usableDies (s : State) (p : Nat) : Nat := ((List.range 8).filter (fun d => s.usableOn p d != 0)).length

/-! ### Clocks (R6, R320)

Every die counts its own element cycles and every stack its own depot cycles: there is no machine-wide time base. -/

def State.dieNow (s : State) (d : Nat) : Nat := Tab.get s.clocks d 0
def State.stackNow (s : State) (k : Nat) : Nat := Tab.get s.dclocks k 0
/-- The station's counter. -/
def State.stnNow (s : State) (n : Nat) : Nat := s.dieNow (dieOfStn n)
def State.coreNow (s : State) (c : Nat) : Nat := s.stackNow (stackOfCore c)
/-- The clock of a unit. -/
def State.clockOf (s : State) (u : Nat) : Nat := if isCore u then s.coreNow (coreOf u) else s.stnNow (stnOf u)
/-- The die of a queue: queue q belongs to district q div 2,048 (R5). -/
def queueDie (q : Nat) : Nat := q / 4096
/-- The die cycles of a queue's signal box. -/
def State.queueNow (s : State) (q : Nat) : Nat := s.dieNow (queueDie q)
/-- The die cycles by which a partition's pager is timed: those of its pager station's die. -/
def State.pagerNow (s : State) (p : Nat) : Nat := s.stnNow (s.part p).pager

/-- Cycles that pass on clocks numbered from `k`. -/
def tick : Nat → List Nat → Tab Nat → Tab Nat
  | _, [], t => t
  | k, d :: ds, t => tick (k + 1) ds (Tab.set 0 t k (Tab.get t k 0 + d))

/-! ### Turns (R17, R97, R183)

The turns of one station in one cycle are taken in ascending order of rank: its units by element, then the copy engine, the
junction, and what comes from elsewhere (R97). A unit takes at most one turn in a cycle, and none in a cycle in which
something lands in its registers: a landing is seen from the next cycle on (R183). -/

/-- The copy engine's rank, the junction's, and that of what comes from outside the station. -/
def rankCopy : Nat := 64
def rankJunction : Nat := 65
def rankRemote : Nat := 66

/-- A turn of a rank may be taken at the station now. -/
def State.mayTurn (s : State) (n rank : Nat) : Bool :=
  decide ((s.station n).turned.1 < s.stnNow n) || decide ((s.station n).turned.2 ≤ rank)

/-- A turn taken at a station: turns of rank `next` and above are still to come in the cycle. -/
def State.noteTurn (s : State) (n next : Nat) : State := s.onStation n (fun st => { st with turned := (s.stnNow n, next) })

/-- The unit may take a turn now. -/
def State.inTurn (s : State) (u : Nat) (x : Unit) : Bool :=
  decide (x.turned ≤ s.clockOf u) && (isCore u || s.mayTurn (stnOf u) (elemOf u))

/-- The unit's next turn comes in the next cycle at the earliest. -/
def State.noteLanding (s : State) (u : Nat) : State := s.onUnit u (fun x => { x with turned := s.clockOf u + 1 })

/-- The unit's turn of this cycle is taken. -/
def State.takeTurn (s : State) (u : Nat) : State :=
  let t := s.noteLanding u
  if isCore u then t else t.noteTurn (stnOf u) (elemOf u + 1)

/-! ### Regions as their units see them -/

/-- The region is on its stations. -/
def RState.resident : RState → Bool
  | .running | .idle | .switching | .stoppedResident | .draining => true
  | _ => false

/-- The region cycle counter (R30). -/
def State.regionCycles (s : State) (r : Nat) : Nat :=
  match s.region? r with
  | none => 0
  | some x => x.cyc + (if x.st.resident then s.dieNow x.die - x.since else 0)

/-- The earlier of two INVIX values (R32). -/
def earliest : List (BitVec 32) → BitVec 32 → BitVec 32
  | [], c => c
  | i :: t, c => earliest t (if serialLater c i then i else c)

/-- The INVIX values of a region's units. -/
def State.invixes (s : State) (x : Region) : List (BitVec 32) :=
  x.units.filterMap (fun u => (s.unit? u).map (·.invix))

/-- The region's commit index (R32). -/
def State.commitIndex (s : State) (r : Nat) : BitVec 32 :=
  match s.region? r with
  | none => 0
  | some x =>
    match s.invixes x with
    | [] => 0
    | i :: t => earliest t i

/-- The latest INVIX of the region's units. -/
def State.latestInvix (s : State) (r : Nat) : BitVec 32 :=
  match s.region? r with
  | none => 0
  | some x => (s.invixes x).foldl (fun c i => if serialLater i c then i else c) (s.commitIndex r)

/-- Invocation `i` of the region has been made unrevocable (R179). -/
def Region.unrevocable (x : Region) (i : BitVec 32) : Bool :=
  match x.unrev with
  | none => false
  | some k => !serialLater i k

/-- Invocation `i` of region `r` is unrevocable. -/
def State.unrevocable (s : State) (r : Nat) (i : BitVec 32) : Bool :=
  match s.region? r with
  | none => true
  | some x => x.unrevocable i

/-! ### Members of groups -/

/-- A unit's name as a member of groups: a saved unit keeps its place while another region uses its element. -/
def memberOf (u : Nat) (x : Unit) : Nat := x.region * 65536 + u

/-- The unit that a member's name stands for: on its station, or in its region's saved context. -/
def State.member? (s : State) (m : Nat) : Option Unit :=
  let saved := (s.region? (m / 65536)).bind (fun r => Tab.find r.savedUnits (m % 65536))
  match s.unit? (m % 65536) with
  | some x => if x.region = m / 65536 then some x else saved
  | none => saved

/-- A member changed where it is. -/
def State.onMember (s : State) (m : Nat) (f : Unit → Unit) : State :=
  let inSaved := s.onRegion (m / 65536) (fun r =>
    match Tab.find r.savedUnits (m % 65536) with
    | some x => { r with savedUnits := Tab.put r.savedUnits (m % 65536) (f x) }
    | none => r)
  match s.unit? (m % 65536) with
  | some x => if x.region = m / 65536 then s.putUnit (m % 65536) (f x) else inSaved
  | none => inSaved

/-! ### Effective class (R37) -/

/-- One pass of lending: in each group, a member that has not arrived takes the lowest class of the members that wait. -/
def lendPass (gs : List (Nat × Group)) (cls : Tab Nat) : Tab Nat :=
  gs.foldl (fun cls g =>
    let low := g.2.arrived.foldl (fun m u => min m (Tab.get cls u 3)) 3
    if g.2.arrived.isEmpty then cls
    else (g.2.members.filter (fun u => !g.2.arrived.contains u)).foldl
      (fun cls u => Tab.put cls u (min (Tab.get cls u 3) low)) cls) cls

def lendAll : Nat → List (Nat × Group) → Tab Nat → Tab Nat
  | 0, _, cls => cls
  | n + 1, gs, cls => lendAll n gs (lendPass gs cls)

/-- A unit's effective class: classes are lent transitively until nothing changes (R37). -/
def State.eclassOf (s : State) (u : Nat) (x : Unit) : Nat :=
  let gs := s.groups.filter (fun g => g.1 / 4096 == x.ctx)
  let us := gs.flatMap (fun g => g.2.members)
  let base := us.foldl (fun t v => Tab.put t v (match s.member? v with | some y => y.sys.bclass.toNat | none => 3)) []
  min x.sys.bclass.toNat (Tab.get (lendAll us.length gs base) (memberOf u x) x.sys.bclass.toNat)

def State.eclass (s : State) (u : Nat) : Nat :=
  match s.unit? u with
  | none => 3
  | some x => s.eclassOf u x

/-! ### Special values (R29) -/

/-- A depot core's cycle counter (R273). -/
def State.depotCycles (s : State) (c : Nat) : Nat :=
  (s.core c).cyc + (if (s.core c).st == .idle || (s.core c).st == .outOfService then 0 else s.coreNow c - (s.core c).since)

/-- The value of a special operand in unit `u`; LANE as a scalar reads 0. -/
def State.special (s : State) (u : Nat) (x : Unit) : Special → W64
  | .zero => 0
  | .one => 1
  | .lane => 0
  | .elid => if isCore u then 0 else w64 (elemOf u)
  | .stnid => if isCore u then 0 else w64 (stnOf u % 64)
  | .nstn => w64 x.nstn
  | .dieid => if isCore u then w64 (stackOfCore (coreOf u)) else w64 (dieOfUnit u)
  | .ndie => w64 x.ndie
  | .invix => if isCore u then 0 else x.invix.setWidth 64
  | .cyc => w64 ((if isCore u then s.depotCycles (coreOf u) else s.regionCycles x.region) % 2 ^ 32)
  | .pst => x.p.setWidth 64

/-! ### The end of a firing -/

/-- The word is done: its predicate update, and in a sequenced unit the next word (R17, R27). -/
def Unit.next (x : Unit) (upd : Upd) : Unit :=
  let x := x.applyUpd upd
  if x.mode = .sequenced then { x with pc := x.pc + 1 } else x

/-- A unit's blocked request is served: the update that waited for it is applied, and a sequenced unit goes on to the
next word (R19, R27). -/
def Unit.unblock (x : Unit) : Unit := { x.next x.blockedUpd with blocked := none, blockedUpd := .none }

def State.unblock (s : State) (u : Nat) : State := s.onUnit u Unit.unblock

def State.unblockMember (s : State) (m : Nat) : State := s.onMember m Unit.unblock

end Sys2Proof.Machine
end

