-- ==== Sys2Proof/Machine/Operands.lean ====
section
/-! DEFINITION. Operands: what each operand code supplies to a scalar reading and to a lane operation, and the reading of
tokens under sticky selectors (R23, R25, R26, R29, R43, R48, R49). -/
namespace Sys2Proof.Machine

/-! ### Channels -/

def Unit.box (x : Unit) (c : Nat) : Inbox := Tab.get x.inbox c Inbox.reset
def Unit.setBox (x : Unit) (c : Nat) (b : Inbox) : Unit := { x with inbox := Tab.set Inbox.reset x.inbox c b }

/-- The token at the head of channel `c`. -/
def Unit.head? (x : Unit) (c : Nat) : Option Token := (x.box c).q.head?

/-- The payload at the head of channel `c`; 0 where it is empty (an instruction that names an empty channel is not
ready, R15). -/
def Unit.payload (x : Unit) (c : Nat) : W64 :=
  match x.head? c with
  | some t => t.payload
  | none => 0

/-- The slot of a dequeued token is freed: its arc holds one token less (R85). -/
def Station.freeSlot (st : Station) (entry : Nat) : Station :=
  match Tab.find st.arcs entry with
  | some a => { st with arcs := Tab.put st.arcs entry { a with used := a.used - 1 } }
  | none => st

/-- Held events of every port changed. -/
def State.mapHeld (s : State) (f : Held → Held) : State :=
  { s with stations := s.stations.map (fun st => (st.1, { st.2 with
      ports := st.2.ports.map (fun p => (p.1, { p.2 with held := p.2.held.map f })) })) }

/-- An ORDER or FENCE of the unit at PACKAGE scope or wider ends, or it gains an ORD token's order: its later writes follow the
held events that it has written or read (R174). -/
def State.fenceHeld (s : State) (u : Nat) : State :=
  s.mapHeld (fun h =>
    if h.seen.contains u && (Tab.find h.fenced u).isNone then { h with fenced := Tab.put h.fenced u s.ids } else h)

/-- The unit gains the order that the head token of a channel conveys (R171). -/
def State.gainOrder (s : State) (u c : Nat) : State :=
  match s.unit? u with
  | none => s
  | some x =>
    match x.head? c with
    | some t => if t.order then s.fenceHeld u else s
    | none => s

/-- The head token of a channel removed and its inbox slot freed (R25, R85). -/
def State.dequeue (s : State) (u c : Nat) : State :=
  match s.unit? u with
  | none => s
  | some x =>
    match (x.box c).q with
    | [] => s
    | t :: q =>
      (s.putUnit u (x.setBox c ⟨q, 0⟩)).onStation (stnOf u) (fun st => st.freeSlot t.arc)

/-- One read of channel `c` under sticky selector `k` (R25), without the order that its token conveys. -/
def State.readToken (s : State) (u : Nat) (c : Chan) (k : Fin 4) : State :=
  match s.unit? u with
  | none => s
  | some x =>
    let b := x.box c.val
    if b.resid = 0 then
      if x.kReg k = 0 then s.dequeue u c.val else s.putUnit u (x.setBox c.val ⟨b.q, x.kReg k⟩)
    else
      if b.resid - 1 = 0 then s.dequeue u c.val else s.putUnit u (x.setBox c.val ⟨b.q, b.resid - 1⟩)

/-- One read of channel `c` under sticky selector `k`, which gains the order that the token conveys (R25, R171). -/
def State.readChan (s : State) (u : Nat) (c : Chan) (k : Fin 4) : State := (s.gainOrder u c.val).readToken u c k

/-- The live bits of a stream token written into LM (R43). -/
def Unit.takeLive (x : Unit) (c : Chan) : Unit :=
  match x.head? c.val with
  | some t =>
    match t.live with
    | some m => { x with lm := m &&& allLive x.lanes }
    | none => x
  | none => x

/-- The channels that operand codes name, each once, with the selector of its first naming (R25). -/
def chansOf : List Src → List (Chan × Fin 4)
  | [] => []
  | .c ch k :: t => (ch, k) :: (chansOf t).filter (fun e => e.1 != ch)
  | _ :: t => chansOf t

/-- The reads of a firing's channels: live bits of stream tokens go to LM, then each channel is read once (R25, R43). Of two stream
tokens of one firing, that of the later source, SRCB, leaves its live bits in LM (DESIGN CHOICE, log entry 78). -/
def State.readChans (s : State) (u : Nat) : List (Chan × Fin 4) → State
  | [] => s
  | (c, k) :: t => State.readChans (((s.onUnit u (fun x => x.takeLive c))).readChan u c k) u t

/-- A firing whose guard tests an ORD head consumes that token too and gains its order (R17 step 2, R171). -/
def State.takeOrd (s : State) (u : Nat) (test : Option (Chan × Tag)) : State :=
  match test with
  | some (c, .ord) => (s.gainOrder u c.val).dequeue u c.val
  | _ => s

/-- Everything a firing consumes (R17 steps 1 and 2). -/
def State.consume (s : State) (u : Nat) (srcs : List Src) (test : Option (Chan × Tag)) : State :=
  (s.readChans u (chansOf srcs)).takeOrd u test

/-! ### Scalar values (R26, R29, R48, R325) -/

/-- The whole 64-bit value of an operand. A V register supplies lane 0, zero-extended (R26, R396). -/
def State.value (s : State) (u : Nat) (x : Unit) : Src → W64
  | .v n => (x.vLane n 0).setWidth 64
  | .s n => x.sReg n
  | .c ch _ => x.payload ch.val
  | .sp y => s.special u x y
  | .imm i => i.signExtend 64

/-! ### Lane values (R26, R49, R53) -/

/-- The lanes of a 64-bit value in an operation of element width `w`: bits 31 to 0 in every lane for 32 bits or
narrower, the whole value in every lane pair for 64 (R26). -/
def spread (w lanes : Nat) (v : W64) : Nat :=
  if w = 64 then vecMk 64 (lanes / 2) (fun _ => v.toNat) else vecMk 32 lanes (fun _ => v.toNat)

/-- An operand as a lane vector, for an operation of element width `w`; `immBits` is the pattern that an immediate puts
in every value position (R49). -/
def State.laneVec (s : State) (u : Nat) (x : Unit) (w : Nat) (immBits : BitVec 7 → Nat) : Src → Nat
  | .v n => x.vVec n
  | .s n => spread w x.lanes (x.sReg n)
  | .c ch _ => spread w x.lanes (x.payload ch.val)
  | .sp .lane => vecMk 32 x.lanes (fun j => j)
  | .sp y => spread w x.lanes (s.special u x y)
  | .imm i => vecMk w (x.lanes * 32 / w) (fun _ => immBits i)

/-- An immediate of an integer type of width `w` (R49). -/
def immInt (w : Nat) (i : BitVec 7) : Nat := wrapInt w i.toInt

/-- An immediate of a floating-point type, converted exactly (R49). -/
def immFl (f : Fmt) (i : BitVec 7) : Nat := f.encode .rne (FVal.ofInt i.toInt)

/-- The immediate of any type (R49). DEDUCED for FP8, log entry 8. -/
def immTy : Ty → BitVec 7 → Nat
  | .int t, i => immInt t.width i
  | .f8 t, i => (convF8 t .rne true (FVal.ofInt i.toInt)).bits
  | .fl t, i => immFl (fmtOfF t) i

/-- Value positions of width `w` in the unit. -/
def Unit.count (x : Unit) (w : Nat) : Nat := x.lanes * 32 / w

/-- The destination read as an operand (MAD, FMA, SEL; R52). -/
def State.dstVec (s : State) (u : Nat) (x : Unit) (w : Nat) : Dst → Nat
  | .v n => s.laneVec u x w (fun _ => 0) (.v n)
  | .s n => s.laneVec u x w (fun _ => 0) (.s n)
  | _ => 0

end Sys2Proof.Machine
end

