-- ==== Sys2Proof/Machine/Region.lean ====
section
/-! DEFINITION. Error records, the stopping of a region, the leaving of groups, and drains (R36, R227, R241 to R249,
R308). -/
namespace Sys2Proof.Machine

/-! ### Error records (R247 to R249, R302) -/

/-- A fault code's number (R226). -/
def Code.num : Code → Nat
  | .illegal => 0x01
  | .configInvalid => 0x02
  | .misaligned => 0x03
  | .notPresent => 0x04
  | .permission => 0x05
  | .atomicPath => 0x06
  | .tablePlacement => 0x07
  | .staleHandle => 0x08
  | .allocStall => 0x09
  | .storeOverflow => 0x0A
  | .poison => 0x0B
  | .stackLimit => 0x0C
  | .retEmpty => 0x0D
  | .trap => 0x0E
  | .bkpt => 0x0F
  | .spillFault => 0x10
  | .collAbandon => 0x11
  | .keyRevoked => 0x12
  | .serviceTimeout => 0x13

/-- What an error record says, before it is laid out (R247). -/
structure ErrRec where
  ctx : Nat
  part : Nat
  cls : Nat
  code : Nat
  kind : Nat
  die : Nat
  station : Nat
  element : Nat
  depot : Nat
  queue : Nat
  addr : W64
  akind : Nat
  syndrome : Nat
  detail : Nat
  slot : Nat
  index : BitVec 32
  epc : Nat
  port : Nat                      -- the main-line port that reports; the record has no field for it
  deriving DecidableEq, Repr

/-- A record with nothing but its partition and class. -/
def ErrRec.blank (part cls : Nat) : ErrRec :=
  ⟨0, part, cls, 0, 7, 0, 0, 0, 0, 0, 0, 0, 0, 0, 0, 0, 0, 0⟩

/-- The eight words of an error record (R247). -/
def ErrRec.words (e : ErrRec) (seq : BitVec 32) (count time : Nat) : List Nat :=
  [ e.ctx % 2 ^ 16 * 2 ^ 48 + e.part % 16 * 2 ^ 44 + e.cls % 16 * 2 ^ 40 + e.code % 256 * 2 ^ 32 + seq.toNat,
    e.kind % 8 * 2 ^ 61 + e.die % 8 * 2 ^ 58 + e.station % 64 * 2 ^ 52 + e.element % 64 * 2 ^ 46
      + e.depot % 256 * 2 ^ 38 + e.queue % 2 ^ 15 * 2 ^ 23,
    e.addr.toNat,
    e.akind % 4 * 2 ^ 62 + e.syndrome % 256 * 2 ^ 48 + e.detail % 256 * 2 ^ 40 + e.slot % 16 * 2 ^ 36 + count % 2 ^ 32,
    e.index.toNat * 2 ^ 32 + e.epc % 2 ^ 15,
    time % 2 ^ 64, 0, 0 ]

/-- An MSI-X vector raised for a partition (R302). -/
def Partition.notify (x : Partition) (v : Nat) : Partition := { x with vectors := v :: x.vectors }

/-- The partition's ring takes no record: it is full, or the partition has no key (R248, R311). -/
def Partition.errShut (x : Partition) : Bool := x.keyless || x.errHead - x.errTail == 4096

/-- A record written to the partition's error ring: performed at PACKAGE scope, then vector 0. A record that the ring does
not take is not written and LOST increases (R248, R302, R311). The management path receives a copy without ADDR, AKIND and
EPC (R248). -/
def State.writeErr (s : State) (e : ErrRec) (count : Nat) : State :=
  let x := s.part e.part
  if (Tab.find s.partitions e.part).isNone then s
  else if x.errShut then s.setPart e.part { x with lost := x.lost + 1 }
  else
    let l := s.windowLoc e.part (x.errBase + 64 * (x.errHead.toNat % 4096))
    let s := s.homeSync e.part .device l.addr ((e.words x.errSeq count (s.dieNow e.die)).flatMap (bytesOf 8)) 0 false
    s.setPart e.part ({ x with
      errHead := x.errHead + 1, errSeq := x.errSeq + 1
      mgmt := { e with addr := 0, akind := 0, epc := 0 }.words x.errSeq count (s.dieNow e.die) :: x.mgmt }.notify 0)

/-- Two records of one pair: CODE and SYNDROME, and the reporting unit (R249). -/
def ErrRec.reporter (e : ErrRec) : Nat :=
  (((e.kind * 8 + e.die) * 64 + e.station) * 16384 + e.element * 256 + e.depot) * 16 + e.port

/-- The occurrences of a pair: when its last record was posted, and how many were counted since (R249). -/
def Partition.counted (x : Partition) (e : ErrRec) : Option (Nat × Nat) :=
  (x.coalesce.find? (fun c => c.1 == e.code && c.2.1 == e.syndrome && c.2.2.1 == e.reporter)).map (·.2.2.2)

def Partition.count (x : Partition) (e : ErrRec) (since n : Nat) : Partition :=
  { x with coalesce := (e.code, e.syndrome, e.reporter, since, n)
      :: x.coalesce.filter (fun c => !(c.1 == e.code && c.2.1 == e.syndrome && c.2.2.1 == e.reporter)) }

/-- A record posted: the 2^16 die cycles of its pair begin, with `keep` occurrences counted already (R249). A record that
the ring does not take begins nothing. -/
def State.postNoting (s : State) (e : ErrRec) (count keep : Nat) : State :=
  let x := s.part e.part
  (if (Tab.find s.partitions e.part).isNone || x.errShut then s
   else s.setPart e.part (x.count e (s.dieNow e.die) keep)).writeErr e count

/-- The record of a stop, a fatal fault or a removal: always posted; what was counted for its pair stays counted (R249). -/
def State.postErr (s : State) (e : ErrRec) (count : Nat) : State :=
  s.postNoting e count ((((s.part e.part).counted e).map (·.2)).getD 0)

/-- A record posted with the occurrences of its pair that were counted, and itself, in COUNT (R249). -/
def State.postCounted (s : State) (e : ErrRec) : State :=
  s.postNoting e ((((s.part e.part).counted e).map (·.2)).getD 0 + 1) 0

/-- A record that may be coalesced: within 2^16 die cycles after a record of its pair it is counted and not posted
(R249). -/
def State.postCoalesced (s : State) (e : ErrRec) : State :=
  let x := s.part e.part
  match x.counted e with
  | some (since, n) =>
    if s.dieNow e.die - since < 2 ^ 16 then s.setPart e.part (x.count e since (n + 1)) else s.postCounted e
  | none => s.postCounted e

/-- The error record of a retirement, posted to the partition of a district (R313); a second one of its pair within 2^16 die
cycles is counted (R249). -/
def State.retireNote (s : State) (district : Nat) (f : ErrRec → ErrRec) : State :=
  match s.partOf district with
  | some p => s.postCoalesced (f { ErrRec.blank p 2 with kind := 5 })
  | none => s

/-- The last refusal reported to the host (R299): MSTAT, and vector 2 where it changes (R302). -/
def State.setMstat (s : State) (p code who : Nat) : State :=
  let v := w64 (who % 2 ^ 16 * 2 ^ 32 + code)
  let x := s.part p
  s.setPart p (if x.mstat = v then x else { x with mstat := v }.notify 2)

def MemKey.code : MemKey → Nat
  | .empty => 0
  | .scrubbing => 1
  | .active => 2
  | .revoked => 3

def IdeKey.code : IdeKey → Nat
  | .none => 0
  | .installed => 1
  | .active => 2
  | .revoked => 3

/-- The main-line key for the next epoch is installed on every port of the partition. -/
def State.mainKeyed (s : State) (x : Partition) : Bool := x.districts.all (fun d => (s.mainPort d).nextKey)

/-- KEYSTAT (R299). The EPOCH is that of the partition's lowest port. -/
def State.keystat (s : State) (x : Partition) : W64 :=
  let epoch := match x.districts with
    | d :: _ => (s.mainPort d).epoch
    | [] => 0
  w64 (epoch % 2 ^ 12 * 2 ^ 40 + x.ideKey.code * 2 ^ 12 + b2n (s.mainKeyed x) * 2 ^ 4 + x.memKey.code)

/-- Vector 4 raised where a partition's KEYSTAT is no longer what it was in `s0` (R302). -/
def State.keyNotify (s0 s : State) (p : Nat) : State :=
  if s.keystat (s.part p) = s0.keystat (s0.part p) then s else s.setPart p ((s.part p).notify 4)

/-! ### Groups (R36, R370, R371) -/

/-- An episode whose every member has arrived completes: the waiting units go on. -/
def State.checkBarrier (s : State) (g : Nat) : State :=
  match Tab.find s.groups g with
  | none => s
  | some x =>
    if x.members.isEmpty then { s with groups := Tab.del s.groups g }
    else if x.members.all (fun u => x.arrived.contains u) then
      let s := { s with groups := Tab.put s.groups g { x with arrived := [] } }
      x.arrived.foldl (fun s u => s.unblockMember u) s
    else s

/-- A member leaves a group; its departure may complete an open barrier. -/
def State.leaveGroup (s : State) (u g : Nat) : State :=
  match Tab.find s.groups g with
  | none => s
  | some x =>
    if x.members.contains u then
      ({ s with groups := Tab.put s.groups g ⟨x.members.filter (· != u), x.arrived.filter (· != u)⟩ }).checkBarrier g
    else s

/-- A member leaves all its groups: when its record completes and when its region is drained (R370). -/
def State.leaveGroups (s : State) (u : Nat) : State :=
  (s.groups.map (·.1)).foldl (fun s g => s.leaveGroup u g) s

/-! ### Withdrawing what a unit waits for -/

/-- The unit on whose behalf a platform entry waits; an asynchronous triple waits for no unit. -/
def WaitFor.unitOf : WaitFor → Option Nat
  | .block u _ _ => some u
  | .slot _ u _ => u
  | .triple c _ => some (coreBase + c)
  | .asyncTriple _ => none

/-! ### The requests of a region and its watchdog (R94) -/

/-- The platform entry's arc enters the region. -/
def Station.arcIn (st : Station) (entry r : Nat) : Bool :=
  match Tab.find st.arcs entry with
  | some a => a.region == r
  | none => false

/-- The region that an arc enters. -/
def State.arcRegion (s : State) (d : Dest) : Nat :=
  match Tab.find (s.station d.station).arcs d.entry with
  | some a => a.region
  | none => 0

/-- The path of an arc's entry. -/
def State.pathAt (s : State) (n entry : Nat) : Dest :=
  match Tab.find (s.station n).arcs entry with
  | some a => ⟨n, a.unit, a.ch, entry, a.floor⟩
  | none => ⟨n, 0, 0, entry, 0⟩

/-- The requests of a region that wait (R94): the unit in whose fault context the watchdog would raise ALLOC_STALL, and
the cycle from which the request waits. -/
def State.requestsOf (s : State) (r : Nat) (x : Region) : List (Nat × Nat) :=
  s.stations.flatMap (fun n => n.2.platform.filterMap (fun e =>
    let mine := match e.2.what.unitOf with
      | some u => if x.units.contains u then some u else none
      | none => none
    match e.2.what with
    | .block u _ _ => if x.units.contains u then some (u, e.2.start) else none
    | .slot _ _ f => if n.2.arcIn e.1 r then some (mine.getD f.dest.unit, e.2.start) else none
    | .triple _ _ | .asyncTriple _ => if n.2.arcIn e.1 r then some ((s.pathAt n.1 e.1).unit, e.2.start) else none))
    ++ s.queues.flatMap (fun q => (q.2.waiters.filter (fun w => x.units.contains w.1)).map (fun w => (w.1, w.2.2.2)))

/-- A grant to the region resets its watchdog. -/
def State.noteGrant (s : State) (r : Nat) : State := s.onRegion r (fun x => { x with wdBase := s.regionCycles r })

/-- A request of the region begins to wait: with no other waiting, the watchdog counts from here. -/
def State.noteWait (s : State) (r : Nat) : State :=
  match s.region? r with
  | some x => if (s.requestsOf r x).isEmpty && x.savedWaits.isEmpty && x.savedEnq.isEmpty then s.noteGrant r else s
  | none => s

/-- An ACCCLR, on which no unit is blocked (R327). -/
def JOp.isClear : JOp → Bool
  | .accclr _ => true
  | _ => false

/-- A unit's platform entries, queue waits and blocked junction arrivals withdrawn (R89, R98, R198, R212). An ACCCLR does not
block and is performed (R325). -/
def State.withdraw (s : State) (u : Nat) : State :=
  let s := (s.stations.map (·.1)).foldl (fun s n =>
    s.onStation n (fun x => { x with platform := x.platform.filter (fun e => e.2.what.unitOf != some u) })) s
  let s := (s.queues.map (·.1)).foldl (fun s q =>
    let x := s.queueAt q
    s.setQueue q { x with waiters := x.waiters.filter (fun w => w.1 != u) }) s
  if isCore u then s
  else s.onJunction (stnOf u) (fun j => { j with
    queue := j.queue.filter (fun e => e.1 != u || e.2.isClear), awaiting := j.awaiting.filter (fun e => e.1 != u) })

/-! ### Collectives (R307, R308, R345) -/

/-- The keys of a collective's slots: one at each port it uses. -/
def Coll.keys (c : Coll) : List Nat :=
  (if c.rank = 0 then [] else [c.prev * 64 + c.cid]) ++ (if c.rank + 1 = c.ranks then [] else [c.next * 64 + c.cid])

def State.setColl (s : State) (c : Coll) : State :=
  { s with colls := c.keys.foldl (fun t k => Tab.put t k c) s.colls }

/-- A collective abandoned by this module: an abandon flit goes out on each of its ports (R308). -/
def State.abandonColl (s : State) (c : Coll) : State :=
  if c.status.isSome then s
  else
    let s := s.setColl { c with status := some false }
    c.keys.foldl (fun s k => s.sendFlit (k / 64) 4 c.cid 0 0) s

/-- The next generation: from 65,535 to 1 (R76). -/
def nextGen (g : BitVec 16) : BitVec 16 := if g = 0xFFFF#16 then 1 else g + 1

/-- The live blocks of a switched-out region become free: their stations' generation counters advance (R76, R90). -/
def State.freeSaved (s : State) (x : Region) : State :=
  x.savedPools.foldl (fun s p => s.onStation p.1 (fun st => { st with gen := p.2.2.1.foldl (fun g _ => nextGen g) st.gen })) s

/-! ### Depot cores -/

/-- The platform entries of asynchronous triples withdrawn. -/
def State.withdrawTriples (s : State) (ts : List Triple) : State :=
  ts.foldl (fun s t => s.onStation t.path.station (fun st => { st with platform := st.platform.filter (fun e =>
    match e.2.what with
    | .asyncTriple id => id != t.id
    | _ => true) })) s

/-- What a packet asks, with no landing place for its answer. -/
def Req.landless : Req → Req
  | .access evs rmw _ => .access evs rmw .none
  | .sigTest n c v _ => .sigTest n c v .none
  | .blockRead h offs n _ => .blockRead h offs n .none
  | .bsize h _ => .bsize h .none
  | r => r

/-- The packets that units have sent are served, but their answers land nowhere: the units go no further (R243). -/
def State.landNowhere (s : State) (us : List Nat) : State :=
  { s with mesh := s.mesh.map (fun p => if us.contains p.unit then { p with req := p.req.landless } else p) }

/-- A core's kernel discarded: the core is idle and its local SRAM is zero (R275). -/
def State.discardKernel (s : State) (c : Nat) (st : DState) : State :=
  let s := (s.withdraw (coreBase + c)).withdrawTriples (s.core c).async
  let s := s.landNowhere [coreBase + c]
  let s := { s with units := Tab.del s.units (coreBase + c), sram := Memory.clear s.sram (c * 2 ^ 20) ((c + 1) * 2 ^ 20) }
  s.onCore c (fun x => { x with st := st, used := false, queue := 0, record := [], cyc := 0, dcount := 0, async := [],
                                m := [], full := 0, heldMsg := [] })

/-! ### Drains (R242 to R246) -/

/-- The multicasts of a region, or of one of its units, that are still sending are cut short: the reads sent run on, without the
lines that were still to come (R243, R389). -/
def State.breakMcasts (s : State) (r : Nat) (u : Option Nat) : State :=
  { s with mcasts := s.mcasts.map (fun m =>
      (m.1, if m.2.region == r && m.2.st == .sending && u.all (· == m.2.unit) then { m.2 with st := .broken } else m.2)) }

/-- The withheld copies of a region's units withdrawn: each ends (R198, R243). -/
def State.dropCopies (s : State) (us : List Nat) : State :=
  { s with stations := s.stations.map (fun n => (n.1, { n.2 with copies := n.2.copies.map (fun c =>
      (c.1, if c.2.hold.isSome && us.contains c.2.unit then { c.2 with busy := false, hold := none } else c.2)) })) }

/-- What a unit in a draining region is still carried on with: a KV instruction in progress completes without writing DST, but
for a KVAPP, which begins no further entry (R271). An access that is withheld, or that its port has faulted, is withdrawn (R198,
R229, R243). -/
def Blocked.inDrain : Blocked → Option Blocked
  | .again i c =>
    if c.hold.isSome || c.faulted then none
    else (match i with
      | .pfxm probe _ a b => some (.again (.pfxm probe .discard a b) c)
      | .pfxi _ a b => some (.again (.pfxi .discard a b) c)
      | .kvtrunc _ a b => some (.again (.kvtrunc .discard a b) c)
      | .kvrel _ a => some (.again (.kvrel .discard a) c)
      | .kvpin unpin _ a => some (.again (.kvpin unpin .discard a) c)
      | _ => none)
  | _ => none

/-- A withheld recovery fetch of a junction. -/
def Junction.fetchHeld (j : Junction) : Bool := j.tasks.any (fun t => t.hold.isSome)

/-- The drain of one region begins (R243 steps 1 to 3): requests and waits are withdrawn, what was issued goes on without an
answer, held events are dropped, an armed line is told to stop, and so is one whose recovery fetch is withheld, which is
withdrawn with it; open collectives are abandoned, wavefronts not yet entered are dropped. The units and the stations of a
region that is not resident are those of others. -/
def State.drainRegion (s : State) (r : Nat) : State :=
  match s.region? r with
  | none => s
  | some x =>
    if x.st == .draining || x.st == .released then s
    else
      let gone := x.st == .saved || x.st == .stoppedSaved || x.st == .waitingService
      let here := if gone then [] else x.units
      let s := x.units.foldl (fun s u => s.leaveGroups (r * 65536 + u)) s
      let s := here.foldl (fun s u => (s.withdraw u).onUnit u (fun y =>
        { y with blocked := y.blocked.bind Blocked.inDrain, blockedUpd := .none, stopped := false, halted := false })) s
      let s := ((s.landNowhere here).breakMcasts r none).dropCopies here
      let s := x.stations.foldl (fun s n =>
        let s := s.onStation n (fun st => { st with
          ports := st.ports.map (fun p => (p.1, { p.2 with held := p.2.held.filter (fun h => h.region != r) })) })
        s.onJunction n (fun j => if j.claim = some r then { j with mma := none } else j)) s
      let s := if x.line then
          match x.stations with
          | n :: _ =>
            let key := n / 8
            let l := s.loopLine key
            if l.claim = some r && (l.armed || x.stations.any (fun n => (s.junction n).fetchHeld)) then s.setLoopLine key { l with stopping := true } else s
          | [] => s
        else s
      let s := (s.colls.filter (fun c => c.2.region == r)).foldl (fun s c =>
          match Tab.find s.colls c.1 with
          | some y => s.abandonColl y
          | none => s) s
      let s := s.freeSaved x
      s.putRegion r { x with
        st := .draining, discard := false, replay := none
        cyc := s.regionCycles r, since := s.dieNow x.die
        units := if gone then [] else x.units
        stations := if gone then [] else x.stations
        savedUnits := [], savedSignals := [], savedScratch := [], savedPtrs := [], savedPools := [], savedJunctions := [], savedLine := none
        savedHeld := [], savedWaits := [], savedEnq := [] }

/-- The local SRAM of an idle core whose last kernel ran in a context zeroed (R275). -/
def State.wipeCore (s : State) (c ctx : Nat) : State :=
  if (s.core c).st == .idle && (s.core c).used && (s.core c).ctx == ctx then
    { s with sram := Memory.clear s.sram (c * 2 ^ 20) ((c + 1) * 2 ^ 20) }.onCore c (fun x => { x with used := false })
  else s

/-- The removal of a context begins: every region drains, its depot kernels are discarded and its pins are cleared
(R155, R243, R245). -/
def State.drainContext (s : State) (c : Nat) : State :=
  match s.context? c with
  | none => s
  | some x =>
    let s := { s with contexts := Tab.put s.contexts c { x with removing := true } }
    let s := (s.regions.filter (fun e => e.2.ctx == c)).foldl (fun s e => s.drainRegion e.1) s
    let s := (List.range 256).foldl (fun s k =>
      let y := s.core k
      let s := if (y.st != .idle && y.st != .outOfService) && y.ctx == c then s.discardKernel k .idle else s.wipeCore k c
      if y.saved.any (fun v => v.unit.ctx == c) then
        let s := s.withdrawTriples ((y.saved.filter (fun v => v.unit.ctx == c)).flatMap (·.async))
        s.onCore k (fun y => { y with saved := y.saved.filter (fun v => v.unit.ctx != c) })
      else s) s
    { s with lines := s.lines.map (fun l => (l.1, { l.2 with pins := l.2.pins.filter (· != c) })) }

/-! ### Stops (R227, R241) -/

/-- A region stops: with a revocable invocation at its commit index it is discarded at its next tile-task boundary and
then Stopped, saved; otherwise every unit stops at its next boundary and nothing is dropped (R237, R241). -/
def State.stopRegion (s : State) (r : Nat) : State :=
  match s.region? r with
  | none => s
  | some x =>
    if x.st == .running || x.st == .switching then
      let x := { x with stopCyc := some (s.dieNow x.die), service := none }
      if x.unrevocable (s.commitIndex r) then s.putRegion r { x with st := .stoppedResident }
      else s.putRegion r { x with st := .switching, discard := true, after := .stoppedSaved }
    else s

end Sys2Proof.Machine
end

