-- ==== Sys2Proof/Machine/Ops.lean ====
section
/-! DEFINITION. The shared operations of a firing: emissions (R24, R85 to R89), the taking of an exception and the return
from it (R226 to R234), the writing of results, and the frame in which every unit instruction runs: availability,
readiness, consumption, effect, write, predicate update, next word (R15 to R19, R27, R28, R228, R229, R453). -/
namespace Sys2Proof.Machine

/-! ### Emissions -/

/-- Shared inbox slots in use: the tokens of each arc beyond its floor (R85). -/
def Station.sharedUsed (st : Station) : Nat := st.arcs.foldl (fun n a => n + (a.2.used - a.2.floor)) 0

/-- Shared inbox slots of the station: those that no floor reserves (R85). -/
def Station.sharedSlots (st : Station) : Nat := 8192 - st.arcs.foldl (fun n a => n + a.2.floor) 0

/-- The BCLASS of the kernel of an asynchronous triple, on its core or saved (R287). -/
def State.tripleClass (s : State) (id : Nat) : Nat :=
  let has := fun (ts : List Triple) => ts.any (fun t => t.id == id)
  match s.cores.find? (fun c => has c.2.async || c.2.saved.any (fun k => has k.async)) with
  | some c =>
    (match c.2.saved.find? (fun k => has k.async) with
     | some k => k.unit.sys.bclass.toNat
     | none => s.eclass (coreBase + c.1))
  | none => 3

/-- The class of a waiting request (R38, R88): the requester's effective class less its promotions; a triple's requester
is its kernel (R287). -/
def State.waitClass (s : State) (w : Wait) : Nat :=
  (match w.what with
   | .asyncTriple id => s.tripleClass id
   | what =>
     match what.unitOf with
     | some u => s.eclass u
     | none => 0) - w.promos

/-- The arc's floor can meet a request (R88 step 1). -/
def Station.floorRoom (st : Station) (entry : Nat) : Bool :=
  match Tab.find st.arcs entry with
  | some a => decide (a.used < a.floor)
  | none => true

/-- A platform entry stands in the order of the shared inbox slots: a copy's does, and a triple's where its path's floor
has no room. -/
def Station.wantsSlot (st : Station) (e : Nat × Wait) : Bool :=
  match e.2.what with
  | .slot _ _ _ => true
  | .block _ _ _ => false
  | .triple _ _ | .asyncTriple _ => !st.floorRoom e.1

/-- A waiting request for a shared inbox slot stands ahead of a new one of class `c` (R88). -/
def State.slotWaiter (s : State) (n c : Nat) : Bool :=
  (s.station n).platform.any (fun e => (s.station n).wantsSlot e && decide (s.waitClass e.2 ≤ c))

/-! Requests that arrive in one cycle are taken in ascending order of their platform entries: local units by element, then
arcs (R87). A turn whose request would come behind one of a higher entry is not taken in that cycle (Step.lean); what an
emission asks for when a part of it has been accepted arrives in the next cycle where it cannot arrive in order. Each pool
grants at most one request in a cycle (R88): pool 0 is the station's shared inbox slots, pool `r + 1` the shared block pool of
region `r`. -/

/-- A request of an entry to a pool comes in the order of its cycle. -/
def Station.inOrder (st : Station) (now pool entry : Nat) : Bool :=
  decide (st.arrived.1 < now) || decide (Tab.get st.arrived.2 pool 0 ≤ entry)

/-- The cycle in which a request arrives that comes up at a cycle. -/
def Station.arrival (st : Station) (now pool entry : Nat) : Nat := if st.inOrder now pool entry then now else now + 1

/-- A request that comes in the order of its cycle has arrived: those of the pool that follow in the cycle have higher
entries. -/
def Station.arrive (st : Station) (now pool entry : Nat) : Station :=
  if st.inOrder now pool entry then
    { st with arrived := (now, Tab.put (if st.arrived.1 < now then [] else st.arrived.2) pool (entry + 1)) }
  else st

/-- The place in the arrival order of a request that arrives in a cycle (R87): by cycle, then by entry. -/
def arrivalPlace (cyc entry : Nat) : Nat := cyc * 2 ^ 16 + entry

/-- A request on the platform, at its place in the arrival order. -/
def Station.enqueue (st : Station) (now pool entry : Nat) (w : WaitFor) : Station :=
  let at_ := st.arrival now pool entry
  { st.arrive now pool entry with
    platform := Tab.put st.platform entry ⟨w, 0, at_, at_, arrivalPlace at_ entry⟩
    arrivals := max st.arrivals (arrivalPlace at_ entry + 1) }

/-- The pool has granted a request in the cycle. -/
def Station.hasGranted (st : Station) (cyc pool : Nat) : Bool := decide (cyc ≤ st.grants.1) && st.grants.2.contains pool

def Station.markGrant (st : Station) (cyc pool : Nat) : Station :=
  { st with grants := if cyc ≤ st.grants.1 then (st.grants.1, pool :: st.grants.2) else (cyc, [pool]) }

/-- One inbox slot taken for an arc. -/
def Station.takeSlot (st : Station) (entry : Nat) : Station :=
  match Tab.find st.arcs entry with
  | some a => { st with arcs := Tab.put st.arcs entry { a with used := a.used + 1 } }
  | none => st

/-- The request that is granted has arrived before the cycle. -/
def Station.cameBefore (st : Station) (cyc entry : Nat) : Bool :=
  match Tab.find st.platform entry with
  | some w => decide (w.start < cyc)
  | none => false

/-- One inbox slot taken for a request in a cycle: from the arc's floor, or as a grant of the shared slots, behind which no
request of a lower entry arrives in the cycle. -/
def Station.grantSlot (st : Station) (cyc entry : Nat) : Station :=
  (if st.floorRoom entry then st
   else if st.cameBefore cyc entry then st.markGrant cyc 0
   else (st.arrive cyc 0 entry).markGrant cyc 0).takeSlot entry

/-- A copy can have its slot at once: from the arc's floor, or from the shared slots, where its request comes in order with
nothing ahead and no grant of them in the cycle (R87 to R89). -/
def State.slotFree (s : State) (d : Dest) (c : Nat) : Bool :=
  (s.station d.station).floorRoom d.entry
    || (decide ((s.station d.station).sharedUsed < (s.station d.station).sharedSlots) && !s.slotWaiter d.station c
      && (s.station d.station).inOrder (s.stnNow d.station) 0 d.entry
      && !(s.station d.station).hasGranted (s.stnNow d.station) 0)

/-- A copy as its destination receives it: marked with its arc, live bits cut to the receiver's lanes (R43, R434). -/
def State.copyFor (s : State) (d : Dest) (t : Token) : Token :=
  { t with arc := d.entry
           live := t.live.map (fun m => m &&& allLive (match s.unit? d.unit with | some x => x.lanes | none => 0)) }

/-- A copy whose slot is allocated goes on its way: through its arc's mailbox line when it leaves the station (R162). -/
def State.dispatch (s : State) (src : Option Nat) (d : Dest) (t : Token) : State :=
  let inside := match src with
    | some u => stnOf u == d.station && !isCore u
    | none => true
  let s1 := (s.onStation d.station (fun st => st.grantSlot (s.stnNow d.station) d.entry)).noteGrant (s.arcRegion d)
  { s1 with flight := s.flight ++ [⟨src, d, s.copyFor d t, !inside⟩] }

/-- A copy that finds no slot takes its arc's platform entry (R86, R89). -/
def State.queueCopy (s : State) (src : Option Nat) (d : Dest) (t : Token) : State :=
  let inside := match src with
    | some u => stnOf u == d.station && !isCore u
    | none => true
  (s.noteWait (s.arcRegion d)).onStation d.station (fun st =>
    st.enqueue (s.stnNow d.station) 0 d.entry (.slot d.entry src ⟨src, d, s.copyFor d t, !inside⟩))

/-- An emission to a list of destinations: each copy is sent if its slot can be had, else it waits on the platform; the
destinations that wait are returned (R24, R89). -/
def State.emitCopies (s : State) (src : Option Nat) (cls : Nat) (t : Token) : List Dest → State × List Dest
  | [] => (s, [])
  | d :: ds =>
    if s.slotFree d cls then State.emitCopies (s.dispatch src d t) src cls t ds
    else
      let (s, w) := State.emitCopies (s.queueCopy src d t) src cls t ds
      (s, d :: w)

/-- INVIX advances by one at the emission of an EOI; an advance that would take it 2^31 or more beyond the commit index
waits as the unit's blocked request (R31, R32). -/
def State.advanceInvix (s : State) (u : Nat) : State :=
  match s.unit? u with
  | none => s
  | some x =>
    if 2 ^ 31 ≤ ((x.invix + 1) - s.commitIndex x.region).toNat then s.putUnit u { x with blocked := some .invix }
    else s.putUnit u { x with invix := x.invix + 1 }

/-- Destinations by ascending entry: the order in which one station takes the copies of one cycle (R87). -/
def insertDest (d : Dest) : List Dest → List Dest
  | [] => [d]
  | e :: t => if d.entry < e.entry then d :: e :: t else e :: insertDest d t

def byEntry (ds : List Dest) : List Dest := ds.foldl (fun l d => insertDest d l) []

/-- Emissions made one after the other; the first that does not go through becomes the unit's blocked request with the
others behind it. `eoi`: INVIX advances at the end (R19, R31, R430). -/
def State.emitAll (s : State) (u : Nat) (eoi : Bool) : List Emission → State
  | [] => if eoi then s.advanceInvix u else s
  | e :: more =>
    match s.emitCopies (some u) (s.eclass u) e.tok (byEntry e.dests) with
    | (s, []) => State.emitAll s u eoi more
    | (s, w) => s.onUnit u (fun x => { x with blocked := some (.emit ⟨w, e.tok⟩ more eoi) })

/-- A token with the stream flag clear (R23), which conveys no order (R171, R414). -/
def plainTok (tag : Tag) (payload : W64) : Token := ⟨payload, tag, none, 0, false⟩

/-- The token of an ORDER (R170, R171). -/
def orderTok : Token := ⟨0, .ord, none, 0, true⟩

/-! ### Exceptions (R226 to R234) -/

/-- A fault as its source raises it. -/
structure Trap where
  code : Code
  detail : Nat
  addr : W64
  deriving DecidableEq, Repr

def trapOf (code : Code) : Trap := ⟨code, 0, 0⟩
/-- ILLEGAL with a DETAIL (R231). -/
def illegal (detail : Nat) : Trap := ⟨.illegal, detail, 0⟩
def misaligned (a : W64) : Trap := ⟨.misaligned, 0, a⟩
def stale (h : W64) : Trap := ⟨.staleHandle, 0, h⟩

/-- The outcomes of R227. -/
inductive FaultOutcome where
  | handler | stop | fatal | event
  deriving DecidableEq, Repr

/-- The outcome of a code raised precisely or at the firing (R226). -/
def Code.outcome : Code → FaultOutcome
  | .tablePlacement | .allocStall | .storeOverflow | .spillFault | .keyRevoked => .fatal
  | .collAbandon => .event
  | .serviceTimeout => .stop
  | _ => .handler

/-- SY.CAUSE (R231). -/
def causeWord (t : Trap) (slot : Nat) : W64 := w64 (slot % 16 * 2 ^ 20 + t.detail % 256 * 2 ^ 8 + t.code.num)

/-- A fault written to a unit's fault context (R231, R233). -/
def Unit.setFault (x : Unit) (t : Trap) (slot epc : Nat) : Unit :=
  { x with sys := { x.sys with cause := causeWord t slot, faddr := t.addr, epc := w64 (epc % 2 ^ 15) } }

/-- The kind of address that an error record's ADDR holds (R247). DEDUCED, log entry 73. -/
def addrKind (t : Trap) : Nat :=
  match t.code with
  | .staleHandle => 3
  | .notPresent | .atomicPath | .tablePlacement | .poison | .storeOverflow => 1
  | .misaligned => if t.addr = 0 then 0 else 1
  | .permission => if t.detail = 4 || (t.detail = 3 && t.addr = 0) then 0 else 1
  | _ => 0

/-- The error record of a fault of unit `u` (R247). -/
def State.faultRec (s : State) (u : Nat) (x : Unit) (t : Trap) (slot epc : Nat) (cls : Nat) : ErrRec :=
  ⟨x.ctx, x.part, cls, t.code.num, if isCore u then 1 else 0, dieOfUnit u, if isCore u then 0 else stnOf u % 64,
   if isCore u then 0 else elemOf u, if isCore u then coreOf u else 0, 0, t.addr, addrKind t, 0, t.detail, slot,
   if isCore u then 0 else s.commitIndex x.region, epc, 0⟩

/-- The unit's region is being drained (R246). -/
def State.draining (s : State) (x : Unit) : Bool :=
  match s.region? x.region with
  | some r => r.st == .draining
  | none => false

/-- A fault of a unit whose region is being drained is counted in its context (R246). -/
def State.countDrain (s : State) (x : Unit) : State :=
  match s.context? x.ctx with
  | some c => { s with contexts := Tab.put s.contexts x.ctx { c with drainFaults := c.drainFaults + 1 } }
  | none => s

/-- A unit's blocked request withdrawn. -/
def Unit.dropRequest (x : Unit) : Unit := { x with blocked := none, blockedUpd := .none }

/-- A fault with outcome Stop or Fatal, reported by `kind` or by the unit: the fault context is written, the region (or the
kernel) stops, an error record is posted, and after a fatal one the context is removed (R227, R241, R246). -/
def State.stopWith (s : State) (kind : Option Nat) (u : Nat) (x : Unit) (t : Trap) (slot epc : Nat) (fatal : Bool) : State :=
  if !isCore u && s.draining x then s.countDrain x
  else
    let s := s.putUnit u { x.setFault t slot epc with stopped := true }
    let s := if isCore u then s.onCore (coreOf u) (fun c => { c with st := .stopped }) else s.stopRegion x.region
    let e := s.faultRec u x t slot epc 0
    let s := s.postErr { e with kind := kind.getD e.kind } 1
    if fatal then s.drainContext x.ctx else s

def State.stopFault (s : State) (u : Nat) (x : Unit) (t : Trap) (slot epc : Nat) (fatal : Bool) : State :=
  s.stopWith none u x t slot epc fatal

/-- Entry to the handler (R234): the cause, the address, the word, and HM; the program counter goes to HVEC. -/
def Unit.enterHandler (x : Unit) (t : Trap) (epc : Nat) : Unit :=
  let y := x.setFault t 0 epc
  { y with sys := { y.sys with hm := true }, pc := x.sys.hvec.toNat }

/-- The unit is sequenced code of the fabric or of a depot core. -/
def Unit.isSeq (x : Unit) : Bool := decide (x.mode = .sequenced)

/-- A fault raised precisely or at the firing (R227 to R229, R234): taken by the handler where the outcome allows and
the handler is enabled and free; otherwise the unit stops. None of the word's effects takes place. A fault of any code in a
handler only stops the unit. A handler address outside the store: DEDUCED, log entry 20. In a region that is being drained the
fault is counted and the access that met it is withdrawn (R198, R243, R246). -/
def State.raise (s : State) (u slot : Nat) (t : Trap) : State :=
  match s.unit? u with
  | none => s
  | some x =>
    let slot := if x.isSeq then 0 else slot
    let epc := if x.isSeq then x.pc else 0
    if !isCore u && s.draining x then (s.countDrain x).onUnit u Unit.dropRequest
    else match t.code.outcome with
    | .fatal => s.stopFault u x t slot epc (!x.sys.hm)
    | .handler =>
      if x.isSeq && x.sys.hen && !x.sys.hm then
        if x.sys.hvec.toNat < storeSize u then s.putUnit u (x.enterHandler t epc)
        else s.stopFault u x (illegal 4) slot epc false
      else s.stopFault u x t slot epc false
    | _ => s.stopFault u x t slot epc false

/-- A word has been issued and is not done: it stands as a blocked request or a busy interval. -/
def Unit.issued (x : Unit) : Bool := x.blocked.isSome || x.busy.isSome

/-- The address of the next word that a sequenced unit issues: the one behind a word that is still going on (R230). -/
def Unit.nextIssue (x : Unit) : Nat := if x.isSeq then (if x.issued then x.pc + 1 else x.pc) else 0

/-- An asynchronous fault, reported by `kind` (R230, R247): the unit stops at its next boundary; never a handler. The
reporter of a held event is its memory port, of a copy or multicast its engine, of a tile task its junction (DEDUCED, log
entry 92). -/
def State.raiseBy (s : State) (kind : Option Nat) (u : Nat) (t : Trap) : State :=
  match s.unit? u with
  | none => s
  | some x => s.stopWith kind u x t 0 x.nextIssue (t.code.outcome == .fatal && !x.sys.hm)

def State.raiseAsync (s : State) (u : Nat) (t : Trap) : State := s.raiseBy none u t

/-- An event (R227): SY.CAUSE is written and a record of class 5 is posted, with the unit's invocation; the unit does not
stop. -/
def State.raiseEvent (s : State) (u : Nat) (t : Trap) : State :=
  match s.unit? u with
  | none => s
  | some x =>
    (s.putUnit u { x with sys := { x.sys with cause := causeWord t 0 } }).postCoalesced
      { s.faultRec u x t 0 0 5 with index := if isCore u then 0 else x.invix }

/-- A fault written to the fault context of every unit of a context, each to stop where it issues next: SPILL_FAULT and
KEY_REVOKED are raised in a whole context (R214, R227, R246). DESIGN CHOICE, log entry 88. -/
def State.contextFault (s : State) (ctx : Nat) (t : Trap) : State :=
  { s with units := s.units.map (fun e => (e.1, if e.2.ctx = ctx then e.2.setFault t 0 e.2.nextIssue else e.2)) }

/-- The return from a handler (R234, R358). -/
def Unit.returnFromHandler (x : Unit) : Unit :=
  { x with pc := x.sys.epc.toNat % 2 ^ 15, sys := { x.sys with hm := false } }

/-! ### Results -/

/-- A result written to its destination (R51): a register at once; an output channel by an emission of a DAT token. -/
def State.writeResult (s : State) (u : Nat) (d : Dst) (vec : Nat) (scalar : W64) : State :=
  match d with
  | .o n =>
    match s.unit? u with
    | some x => s.emitAll u false [⟨Tab.get x.outs n.val [], plainTok .dat scalar⟩]
    | none => s
  | d => s.onUnit u (fun x => x.write d vec scalar)

/-- The end of a word whose effects are made: where the unit is now blocked or busy, a sequenced unit keeps the update
for the end of that and a triggered one applies it now; else the update is applied and a sequenced unit goes on. -/
def Unit.close (x : Unit) (upd : Upd) : Unit :=
  if x.blocked.isSome then
    if x.isSeq then { x with blockedUpd := upd } else x.applyUpd upd
  else if x.busy.isSome then x
  else x.next upd

/-- The result of a busy unit written, and the word ended (R18). -/
def State.endInterval (s : State) (u : Nat) (b : Busy) : State :=
  ((s.onUnit u (fun y => { y with busy := none })).writeResult u b.dst b.vec b.scalar).onUnit u (fun y => y.close b.upd)

/-- A busy interval that is over by now is ended: what lands at the end of the cycle overwrites its result (R280). -/
def State.settleBusy (s : State) (u : Nat) : State :=
  match (s.unit? u).bind (·.busy) with
  | some b => if s.clockOf u < b.until_ then s else s.endInterval u b
  | none => s

/-! ### The frame of a unit instruction -/

/-- Availability (R58, R59). -/
structure Avail where
  t : Bool
  s : Bool
  d : Bool
  priv : Bool
  deriving DecidableEq, Repr

def avTSD : Avail := ⟨true, true, true, false⟩
def avTS : Avail := ⟨true, true, false, false⟩
def avT : Avail := ⟨true, false, false, false⟩
def avSD : Avail := ⟨false, true, true, false⟩
def avD : Avail := ⟨false, false, true, false⟩
def avPriv : Avail := ⟨true, true, false, true⟩

/-- The context is a firmware context (R59). -/
def State.isFirmware (s : State) (ctx : Nat) : Bool :=
  match s.context? ctx with
  | some c => c.desc.firmware
  | none => false

/-- The unit belongs to the pager configuration: it stands on its partition's pager station (R59, R193). -/
def State.isPager (s : State) (u : Nat) (x : Unit) : Bool :=
  !isCore u && (match Tab.find s.partitions x.part with
    | some p => p.pager == stnOf u
    | none => false)

/-- Privileged words are available to the unit (R59). -/
def State.privileged (s : State) (u : Nat) (x : Unit) : Bool := s.isFirmware x.ctx || s.isPager u x

def State.available (s : State) (u : Nat) (x : Unit) (a : Avail) : Bool :=
  (if isCore u then a.d else if x.isSeq then a.s else a.t) && (!a.priv || s.privileged u x)

/-- Every output channel named is bound, and every input channel named has an arc or path (R24, R453). -/
def Unit.bound (x : Unit) (srcs : List Src) (outs : List Chan) : Bool :=
  outs.all (fun c => !(Tab.get x.outs c.val []).isEmpty) && (chansOf srcs).all (fun c => x.ins.contains c.1.val)

/-- Every input channel named holds a token (R15 condition 3, R27). -/
def Unit.hasTokens (x : Unit) (srcs : List Src) : Bool := (chansOf srcs).all (fun c => (x.head? c.1.val).isSome)

def landReg : Land → Option (Bool × Nat)
  | .s n _ => some (false, n.val)
  | .v n _ => some (true, n.val)
  | .lane n _ _ => some (true, n.val)
  | _ => none

def srcReg : Src → Option (Bool × Nat)
  | .v n => some (true, n.val)
  | .s n => some (false, n.val)
  | _ => none

def dstReg : Dst → Option (Bool × Nat)
  | .v n => some (true, n.val)
  | .s n => some (false, n.val)
  | _ => none

/-- A word that reads or writes a register whose load has not landed waits (R353). -/
def Unit.hazard (x : Unit) (srcs : List Src) (dsts : List Dst) : Bool :=
  let pend := x.loads.filterMap (fun l => landReg l.2)
  (srcs.filterMap srcReg ++ dsts.filterMap dstReg).any (fun r => pend.contains r)

/-- What an instruction's own effect comes to. -/
inductive Res where
  /-- Done; nothing to write. -/
  | done (s : State)
  /-- Done; a result to write after `cyc` cycles of the unit's clock (R18). -/
  | write (s : State) (d : Dst) (vec : Nat) (scalar : W64) (cyc : Nat)
  /-- Done but for these emissions. -/
  | emit (s : State) (ems : List Emission) (eoi : Bool)
  /-- Done; the program counter goes to `pc`. -/
  | jump (s : State) (pc : Nat)
  /-- The instruction is carried on at the unit's next turn, from `phase`. -/
  | wait (s : State) (phase : Nat)
  /-- As `wait`, with the words of the descriptor that the instruction has read. -/
  | waitWith (s : State) (phase : Nat) (words : List W64)
  /-- An access is withheld; once it is released the instruction is carried on from `phase` (R194, R202). -/
  | hold (s : State) (phase : Nat) (h : Hold)
  /-- A request is outstanding. -/
  | block (s : State) (b : Blocked)
  /-- A fault; nothing takes effect. -/
  | trap (t : Trap)
  /-- A fault raised at the firing by an instruction that has come some way: what `s` has done elsewhere than in the unit
  stands (R271). -/
  | trapWith (s : State) (t : Trap)
  /-- A fault raised by the memory port: in a triggered unit the firing is committed and the access stands as the blocked
  request, to be carried on from `phase` on a resume; in a sequenced unit the fault is precise (R228, R229). What `s` has
  done elsewhere than in the unit stands. -/
  | portFault (s : State) (phase : Nat) (t : Trap)
  /-- Done, with an asynchronous fault of the unit (R230). -/
  | async (s : State) (t : Trap)
  /-- Done, but the unit's port had no room for the held event at `va`: STORE_OVERFLOW, which the port raises (R177, R233). -/
  | overflow (s : State) (va : Nat)

/-- The tokens and the live mask of unit `u` as they stood in `s0` (a sequenced word that waits has consumed nothing). -/
def State.giveBack (s s0 : State) (u : Nat) : State :=
  match s0.unit? u with
  | some x0 =>
    (s.onUnit u (fun x => { x with inbox := x0.inbox, lm := x0.lm })).onStation (stnOf u)
      (fun st => { st with arcs := (s0.station (stnOf u)).arcs })
  | none => s

/-- What a triggered firing took between two states: tokens, live mask, predicates. -/
def Taken.between (x0 x : Unit) (upd : Upd) : Taken :=
  ⟨x0.inbox.map (fun b => (b.1, b.2.q.take (b.2.q.length - (x.box b.1).q.length), b.2.resid)), x0.lm, x0.p, upd⟩

def State.takenAt (s0 s : State) (u : Nat) (upd : Upd) : Option Taken :=
  match s0.unit? u, s.unit? u with
  | some x0, some x => some (.between x0 x upd)
  | _, _ => none

/-- The predicate that an update names as it was before. -/
def undoUpd (p old : BitVec 8) : Upd → BitVec 8
  | .none => p
  | .set n | .clear n | .toggle n => setPred p n (predBit old n)

/-- A unit with what a firing took given back. -/
def Unit.giveTaken (x : Unit) (t : Taken) : Unit :=
  t.boxes.foldl (fun y b => y.setBox b.1 ⟨b.2.1 ++ (y.box b.1).q, b.2.2⟩) { x with lm := t.lm, p := undoUpd x.p t.p t.upd }

/-- What a firing took is given back: nothing of it takes effect (R228, R229). -/
def State.giveTaken (s : State) (u : Nat) (t : Option Taken) : State :=
  match t with
  | some t => (s.onUnit u (fun x => x.giveTaken t)).onStation (stnOf u)
      (fun st => (t.boxes.flatMap (·.2.1)).foldl (fun st t => st.takeSlot t.arc) st)
  | none => s

/-- A triggered firing has taken its tokens when its instruction was first carried on; a sequenced word that is carried on has
them still. -/
def State.returnTaken (s : State) (u : Nat) (isSeq : Bool) (t : Option Taken) : State :=
  if isSeq then s else s.giveTaken u t

/-- The update names predicate `n`: where `n` is a destination that waits for an answer, the update comes after the
write (R17). -/
def updNames (upd : Upd) (n : Fin 8) : Bool :=
  match upd with
  | .none => false
  | .set m | .clear m | .toggle m => n == m

/-- A blocked request recorded. -/
def Unit.block (x : Unit) (b : Blocked) (upd : Upd) (defer : Bool) : Unit :=
  if x.isSeq || defer then { x with blocked := some b, blockedUpd := upd }
  else { x.applyUpd upd with blocked := some b, blockedUpd := .none }

/-- The first part of a blocked request is complete and its results are written: unless an emission of them now waits,
the word is done (R19, R330). -/
def Unit.closeBlocked (x : Unit) : Unit :=
  if x.blocked.isSome then x else { x.next x.blockedUpd with blockedUpd := .none }

/-- A blocked request served with a result to write. -/
def State.serveResult (s : State) (u : Nat) (d : Dst) (vec : Nat) (scalar : W64) : State :=
  ((s.onUnit u (fun x => { x with blocked := none })).writeResult u d vec scalar).onUnit u Unit.closeBlocked

/-- A result written now or, for an instruction of more than one cycle, at the end of its interval (R18). -/
def State.finish (s : State) (u : Nat) (upd : Upd) (d : Dst) (vec : Nat) (scalar : W64) (cyc : Nat) : State :=
  if 1 < cyc then
    s.onUnit u (fun x => { x with busy := some ⟨s.clockOf u + cyc, d, vec, scalar, upd⟩ })
  else (s.writeResult u d vec scalar).onUnit u (fun x => x.close upd)

/-- An instruction to be carried on: a sequenced word has consumed nothing; a triggered firing is committed. -/
def State.carryOn (s s0 : State) (u : Nat) (f : Firing) (isSeq : Bool) (bl : Blocked) : State :=
  if isSeq then (s.giveBack s0 u).onUnit u (fun x => x.block bl f.upd false)
  else if f.cap.isSome then s.onUnit u (fun x => { x with blocked := some bl })
  else s.onUnit u (fun x => x.block bl f.upd false)

/-- The descriptor words captured at an earlier turn. -/
def Firing.words (f : Firing) : List W64 :=
  match f.cap with
  | some c => c.words
  | none => []

/-- What the firing has taken so far. -/
def State.takenBy (s0 s : State) (u : Nat) (f : Firing) : Option Taken :=
  match f.cap with
  | some c => c.taken
  | none => s0.takenAt s u f.upd

/-- The outcome of instruction `i` of unit `u`, whose firing found the state `s0` (R17, R19, R27 to R29, R228, R229). -/
def State.commit (s0 : State) (i : Instr) (u : Nat) (f : Firing) (a b : W64) (defer : Bool) (r : Res) : State :=
  let isSeq := match s0.unit? u with | some x => x.isSeq | none => false
  match r with
  | .done s => s.onUnit u (fun x => x.close f.upd)
  | .write s d vec scalar cyc => s.finish u f.upd d vec scalar cyc
  | .emit s ems eoi => (s.emitAll u eoi ems).onUnit u (fun x => x.close f.upd)
  | .jump s pc => s.onUnit u (fun x => { x.applyUpd f.upd with pc := pc })
  | .wait s phase => s.carryOn s0 u f isSeq (.again i ⟨a, b, phase, none, f.words, f.slot, s0.takenBy s u f, false⟩)
  | .waitWith s phase ws => s.carryOn s0 u f isSeq (.again i ⟨a, b, phase, none, ws, f.slot, s0.takenBy s u f, false⟩)
  | .hold s phase h => s.carryOn s0 u f isSeq (.again i ⟨a, b, phase, some h, f.words, f.slot, s0.takenBy s u f, false⟩)
  | .block s bl =>
    if f.cap.isSome && !isSeq then s.onUnit u (fun x => { x with blocked := some bl })
    else s.onUnit u (fun x => x.block bl f.upd defer)
  | .trap t => (s0.returnTaken u isSeq (f.cap.bind (·.taken))).raise u f.slot t
  | .trapWith s t =>
    (if f.cap.isSome && !isSeq then s.giveTaken u (f.cap.bind (·.taken)) else s.giveBack s0 u).raise u f.slot t
  | .async s t => (s.onUnit u (fun x => x.close f.upd)).raiseAsync u t
  | .overflow s va => (s.onUnit u (fun x => x.close f.upd)).raiseBy (some 2) u ⟨.storeOverflow, 0, w64 va⟩
  | .portFault s phase t =>
    if isSeq then (s.giveBack s0 u).raise u f.slot t
    else (s.carryOn s0 u f false (.again i ⟨a, b, phase, none, f.words, f.slot, s0.takenBy s u f, true⟩)).raise u f.slot t

/-- The blocked request of a unit that is carried on is lifted before the retry. -/
def State.lift (s : State) (u : Nat) : State := s.onUnit u (fun x => { x with blocked := none })

/-- The update that stands for a firing that is carried on: in a triggered unit it was applied at the firing. -/
def State.retryUpd (s : State) (u : Nat) (f : Firing) : Firing :=
  match f.cap, s.unit? u with
  | some _, some x => { f with upd := x.blockedUpd, test := none }
  | _, _ => f

/-- The body of an instruction: the unit as the firing found it (operand values are read from it), the state after
consumption, the values of the two operand fields and the phase. -/
abbrev Body := Nat → Unit → State → W64 → W64 → Nat → Res

/-- Runs a unit instruction. `srcs` are the operand codes that the word reads, in the order SRCA, SRCB, then registers
read besides; `ready` are the channels that must hold a token; `outs` are the output channels named; `dsts` the
destinations written. -/
def runWith (i : Instr) (av : Avail) (srcs : List Src) (ready : List Src) (outs : List Chan) (dsts : List Dst)
    (defer : Bool) (body : Body) (s : State) : Host.Outcome State Fault Refusal :=
  let u := s.cur.unit
  match s.unit? u with
  | none => .fault .noUnit
  | some x =>
    if !s.available u x av || !x.bound (srcs ++ ready) outs then .next (s.raise u s.cur.slot (illegal 1))
    else if s.cur.cap.isNone && !x.hasTokens ready then .next s
    else if x.isSeq && s.cur.cap.isNone && x.hazard srcs dsts then .next s
    else
      let f := s.retryUpd u s.cur
      let a := match f.cap with | some c => c.a | none => s.value u x (srcs.getD 0 (.sp .zero))
      let b := match f.cap with | some c => c.b | none => s.value u x (srcs.getD 1 (.sp .zero))
      let phase := match f.cap with | some c => c.phase | none => 0
      let s0 := if f.cap.isSome then s.lift u else s
      -- a triggered firing that is carried on has consumed its tokens already
      let s1 := if f.cap.isSome && !x.isSeq then s0 else s0.consume u srcs f.test
      .next (s0.commit i u f a b defer (body u x s1 a b phase))

/-- An output channel among destinations. -/
def outsOf : List Dst → List Chan
  | [] => []
  | .o n :: t => n :: outsOf t
  | _ :: t => outsOf t

/-- The common case: every channel operand must hold a token. -/
def runUnit (i : Instr) (av : Avail) (srcs : List Src) (dsts : List Dst) (body : Body) (s : State) :
    Host.Outcome State Fault Refusal :=
  runWith i av srcs srcs (outsOf dsts) dsts false body s

end Sys2Proof.Machine
end

