-- ==== Sys2Proof/Machine/Alloc.lean ====
section
/-! DEFINITION. The station allocator and the scratchpad: handles, resolution, consumer counts, pools, the blocks' bytes
and out-of-range accesses (R74 to R89, R95, R96, R101). -/
namespace Sys2Proof.Machine

/-! ### Handles (R75) -/

def hGen (h : W64) : Nat := fld h.toNat 48 16
/-- The station of a handle, die included. -/
def hStn (h : W64) : Nat := fld h.toNat 39 9
def hSize (h : W64) : Nat := fld h.toNat 35 4
def hGranule (h : W64) : Nat := fld h.toNat 18 17
def hRsv (h : W64) : Nat := fld h.toNat 16 2
def hOff (h : W64) : Nat := fld h.toNat 0 16

/-- A handle word from its fields. -/
def mkHandle (gen stn k first off : Nat) : W64 :=
  w64 (gen % 2 ^ 16 * 2 ^ 48 + stn % 2 ^ 9 * 2 ^ 39 + k % 16 * 2 ^ 35 + first % 2 ^ 17 * 2 ^ 18 + off % 2 ^ 16)

/-- A handle with another OFFSET. -/
def withOff (h : W64) (off : Nat) : W64 := w64 (h.toNat - hOff h + off % 2 ^ 16)

/-- A signal handle (R75). -/
def isSignalHandle (h : W64) : Bool := hSize h == 15

/-- The number of the signal that a signal handle names: station * 1024 + number. -/
def hSignal (h : W64) : Nat := hStn h * 1024 + hGranule h

/-- A station holds a region of the context (R77). -/
def State.ctxHolds (s : State) (ctx stn : Nat) : Bool :=
  s.regions.any (fun r => r.2.ctx == ctx && r.2.st != .released && r.2.stations.contains stn)

/-- The live block that a handle names at its station, whatever the context. -/
def State.blockOf (s : State) (h : W64) : Option Block :=
  (s.station (hStn h)).blocks.find? (fun b => b.first == hGranule h && b.k == hSize h && b.gen.toNat == hGen h)

/-- The block that a handle resolves to for context `ctx` (R77). -/
def State.resolveBlock (s : State) (ctx : Nat) (h : W64) : Except Trap Block :=
  if hRsv h != 0 || !s.ctxHolds ctx (hStn h) then .error (stale h)
  else match s.blockOf h with
    | some b => .ok b
    | none => .error (stale h)

/-- A signal handle resolves for partition `part` (R77). -/
def State.signalOk (s : State) (part : Nat) (h : W64) : Bool :=
  hGen h == 0 && hOff h == 0 && hRsv h == 0 && decide (hGranule h < 1024) && s.partOfStn (hStn h) == some part

/-- Where a handle must name a block, a signal handle is ILLEGAL with DETAIL 2 (R77). -/
def State.needBlock (s : State) (ctx : Nat) (h : W64) : Except Trap Block :=
  if isSignalHandle h then .error (illegal 2) else s.resolveBlock ctx h

/-! ### Bytes of a block (R74, R95) -/

def Block.bytes (b : Block) : Nat := 32 * 2 ^ b.k

/-- The key of byte `o` of a block in `scratch`. -/
def blockAddr (stn : Nat) (b : Block) (o : Nat) : Nat := stn * 2 ^ 22 + 32 * b.first + o

/-- Byte `o`: an out-of-range byte reads as zero. -/
def State.blockByte (s : State) (stn : Nat) (b : Block) (o : Nat) : Byte :=
  if o < b.bytes then Memory.read s.scratch (blockAddr stn b o) else 0

def State.blockBytes (s : State) (stn : Nat) (b : Block) (o n : Nat) : List Byte :=
  (List.range n).map (fun i => s.blockByte stn b (o + i))

/-- Bytes written; those out of range are dropped. -/
def State.blockPut (s : State) (stn : Nat) (b : Block) (bs : List (Nat × Byte)) : State :=
  { s with scratch := Memory.writes s.scratch ((bs.filter (fun e => decide (e.1 < b.bytes))).map
      (fun e => (blockAddr stn b e.1, e.2))) }

/-- The first out-of-range byte among offsets is recorded in the unit's SY.OOR (R96). -/
def State.noteOor (s : State) (u : Nat) (h : W64) (b : Block) (os : List Nat) : State :=
  match os.find? (fun o => decide (b.bytes ≤ o)) with
  | some o => s.onUnit u (fun x => x.noteOor h o)
  | none => s

/-- The word of `n` bytes at offset `o`. -/
def State.blockNat (s : State) (stn : Nat) (b : Block) (o n : Nat) : Nat := ofBytes (s.blockBytes stn b o n)

/-! ### Pools (R83, R84, R101) -/

def takeWhere (p : Nat × Nat → Bool) : List (Nat × Nat) → Option ((Nat × Nat) × List (Nat × Nat))
  | [] => none
  | e :: t => if p e then some (e, t) else (takeWhere p t).map (fun r => (r.1, e :: r.2))

/-- Free blocks by ascending first granule. -/
def insertFree (e : Nat × Nat) : List (Nat × Nat) → List (Nat × Nat)
  | [] => [e]
  | f :: t => if e.1 < f.1 then e :: f :: t else f :: insertFree e t

/-- The halves left over when a block of class `k'` is split down to class `k`, the lowest part being taken. -/
def splitRest (first k : Nat) : Nat → List (Nat × Nat)
  | 0 => []
  | d + 1 => splitRest first k d ++ [(first + 2 ^ (k + d), k + d)]

/-- A block of class `k` from a list of free blocks kept by ascending first granule: one of that class with the lowest
first granule, else the lowest-numbered larger block split (R101). -/
def takeFree (k : Nat) (free : List (Nat × Nat)) : Option (Nat × List (Nat × Nat)) :=
  match takeWhere (fun e => e.2 == k) free with
  | some (e, rest) => some (e.1, rest)
  | none =>
    match takeWhere (fun e => decide (k < e.2)) free with
    | some (e, rest) => some (e.1, (splitRest e.1 k (e.2 - k)).foldl (fun l f => insertFree f l) rest)
    | none => none

/-- A freed block joins its buddies as far as they are free (R84); the largest class is 11 (R75). -/
def giveFree : Nat → Nat × Nat → List (Nat × Nat) → List (Nat × Nat)
  | 0, e, free => insertFree e free
  | n + 1, e, free =>
    let buddy := if (e.1 / 2 ^ e.2) % 2 = 0 then e.1 + 2 ^ e.2 else e.1 - 2 ^ e.2
    if e.2 < 11 && free.contains (buddy, e.2) then
      giveFree n (min e.1 buddy, e.2 + 1) (free.filter (· != (buddy, e.2)))
    else insertFree e free

/-- The largest class, at most 11, of an aligned block that starts at `lo` and ends by `hi`. -/
def fitClass (lo hi : Nat) : Nat → Nat
  | 0 => 0
  | k + 1 => if lo % 2 ^ (k + 1) = 0 && decide (lo + 2 ^ (k + 1) ≤ hi) then k + 1 else fitClass lo hi k

/-- The granules from `lo` to `hi - 1` as aligned blocks. -/
def cutRange : Nat → Nat → Nat → List (Nat × Nat)
  | 0, _, _ => []
  | n + 1, lo, hi =>
    if hi ≤ lo then [] else (lo, fitClass lo hi 11) :: cutRange n (lo + 2 ^ fitClass lo hi 11) hi

/-- Granules added to a pool's free blocks. -/
def addRange (lo hi : Nat) (free : List (Nat × Nat)) : List (Nat × Nat) :=
  (cutRange ((hi - lo) / 2048 + 32) lo hi).foldl (fun l e => giveFree 12 e l) free

/-- The pool of a region in a station: a unit's floor pool, or with `none` the shared pool. -/
def Station.pool (st : Station) (r : Nat) (owner : Option Nat) : List (Nat × Nat) :=
  match st.pools.find? (fun p => p.region == r && p.owner == owner) with
  | some p => p.free
  | none => []

def Station.setPool (st : Station) (r : Nat) (owner : Option Nat) (free : List (Nat × Nat)) : Station :=
  { st with pools := ⟨r, owner, free⟩ :: st.pools.filter (fun p => !(p.region == r && p.owner == owner)) }

/-! ### Frees (R76, R81, R84) -/

def sameBlock (a b : Block) : Bool := a.first == b.first && a.k == b.k

/-- A block freed in a cycle: the generation counter advances; the granules are available from the next cycle on. -/
def Station.free (st : Station) (cyc : Nat) (b : Block) : Station :=
  { st with blocks := st.blocks.filter (fun c => !sameBlock c b), gen := nextGen st.gen, freed := st.freed ++ [(cyc, b)] }

/-- Granules back in their origin pool. -/
def Station.giveBack (st : Station) (b : Block) : Station :=
  st.setPool b.region b.pool (giveFree 12 (b.first, b.k) (st.pool b.region b.pool))

/-- The blocks freed before a cycle back in their origin pools. -/
def Station.settle (st : Station) (cyc : Nat) : Station :=
  (st.freed.filter (fun e => decide (e.1 < cyc))).foldl (fun (st : Station) e => st.giveBack e.2)
    { st with freed := st.freed.filter (fun e => decide (cyc ≤ e.1)) }

/-- Every block freed of a region back in its pool. -/
def Station.settleRegion (st : Station) (r : Nat) : Station :=
  (st.freed.filter (fun e => e.2.region == r)).foldl (fun (st : Station) e => st.giveBack e.2)
    { st with freed := st.freed.filter (fun e => e.2.region != r) }

/-! ### Grants (R79, R88) -/

/-- A free block leaves the free state: it takes the generation counter's value and its count (R76, R79). -/
def Station.grant (st : Station) (r : Nat) (owner : Option Nat) (k n : Nat) : Option (Station × Block) :=
  match takeFree k (st.pool r owner) with
  | some (first, free) =>
    let b : Block := ⟨first, k, st.gen, n, r, owner, false⟩
    some ({ st.setPool r owner free with blocks := b :: st.blocks }, b)
  | none => none

/-- The request waits on the region's shared block pool: its units' do, but never a cover's, and so do triples for its
paths (R88, R287). -/
def State.wantsBlock (s : State) (stn r : Nat) (e : Nat × Wait) : Bool :=
  match e.2.what with
  | .block u _ _ => (match s.unit? u with | some x => x.region == r && !x.cover | none => false)
  | .triple _ _ | .asyncTriple _ => (s.station stn).arcIn e.1 r
  | .slot _ _ _ => false

/-- Requests that wait on the region's shared block pool in a station. -/
def State.blockWaiters (s : State) (stn r : Nat) : List (Nat × Wait) :=
  (s.station stn).platform.filter (s.wantsBlock stn r)

/-- A block for unit `u`: from its own floor at once, else from the shared pool unless a request stands ahead of it. For
ALLOCT (`strict`) any waiting request of the region stands ahead (R79, R88). A cover takes from its floor only. A pool that
has granted a request in the cycle has nothing more to give in it, so that an ALLOCT then fails (DESIGN CHOICE, log entry
15). -/
def State.tryAlloc (s : State) (u : Nat) (x : Unit) (k n : Nat) (strict : Bool) : Option (State × W64) :=
  let stn := stnOf u
  let now := s.stnNow stn
  let st := (s.station stn).settle now
  let h := fun (b : Block) => mkHandle b.gen.toNat stn b.k b.first 0
  match st.grant x.region (some u) k n with
  | some (st, b) => some ((s.setStation stn st).noteGrant x.region, h b)
  | none =>
    let c := s.eclass u
    let ahead := (s.blockWaiters stn x.region).any (fun e => strict || decide (s.waitClass e.2 ≤ c))
    if x.cover || ahead || !st.inOrder now (x.region + 1) (elemOf u) || st.hasGranted now (x.region + 1) then none
    else match (st.arrive now (x.region + 1) (elemOf u)).grant x.region none k n with
      | some (st, b) => some ((s.setStation stn (st.markGrant now (x.region + 1))).noteGrant x.region, h b)
      | none => none

/-- The request of a unit enters the platform at its element's entry (R86). -/
def State.queueAlloc (s : State) (u k n : Nat) : State :=
  let r := match s.unit? u with
    | some x => x.region
    | none => 0
  (s.noteWait r).onStation (stnOf u) (fun st =>
    st.enqueue (s.stnNow (stnOf u)) (r + 1) (elemOf u) (.block u k n))

/-! ### Consumer counts (R76, R80, R82) -/

/-- RELEASE at the allocator in a cycle: a saturated count stands; the release that brings the count to zero frees the
block. -/
def Station.release (st : Station) (cyc : Nat) (b : Block) : Station :=
  if b.count < 65535 then
    if b.count ≤ 1 then st.free cyc b
    else { st with blocks := st.blocks.map (fun c => if sameBlock c b then { c with count := c.count - 1 } else c) }
  else st

/-- RETAIN at the allocator: the count saturates at 65,535. -/
def Station.retain (st : Station) (b : Block) (m : Nat) : Station :=
  { st with blocks := st.blocks.map (fun c => if sameBlock c b then { c with count := min (c.count + m) 65535 } else c) }

/-- BSIZE's word (R338). -/
def bsizeWord (b : Block) : W64 := w64 (b.count % 2 ^ 16 * 2 ^ 32 + b.bytes)

/-! ### Signals (R97) -/

def State.signal (s : State) (n : Nat) : W64 := Tab.get s.signals n 0
def State.putSignal (s : State) (n : Nat) (v : W64) : State := { s with signals := Tab.set 0 s.signals n v }

/-- A condition on a signal (R422). -/
def sigHolds (c : SigCond) (sig v : W64) : Bool :=
  match c with
  | .ge => decide (v.toNat ≤ sig.toNat)
  | .eq => sig == v
  | .ne => sig != v
  | .lt => decide (sig.toNat < v.toNat)
  | .all => (sig &&& v) == v
  | .any => (sig &&& v) != 0

/-- A wake register's condition (R224). -/
def wakeHolds (w sig : W64) : Bool :=
  let v := fld w.toNat 0 32
  let x := fld sig.toNat 0 32
  match fld w.toNat 61 2 with
  | 0 => decide (v ≤ x)
  | 1 => x == v
  | 2 => x != v
  | _ => false

/-- The signal that a wake register names. -/
def wakeSignal (w : W64) : Nat := fld w.toNat 52 9 * 1024 + fld w.toNat 42 10

/-- The wake registers of partition `p` tested after an operation on signal `n` (R224): one whose condition holds
interrupts the dispatch core and is disarmed. -/
def State.testWakes (s : State) (p n : Nat) : State :=
  let x := s.part p
  let fired := x.wake.filter (fun w => w.2.getLsbD 63 && wakeSignal w.2 == n && wakeHolds w.2 (s.signal n))
  if fired.isEmpty then s
  else s.setPart p { x with
    wake := fired.foldl (fun t w => Tab.set 0 t w.1 (w.2 &&& ~~~(0x8000000000000000#64))) x.wake
    wakeFired := (fired.map (·.1)).reverse ++ x.wakeFired }

/-- The waits on signal `n` whose condition now holds complete (R97, R423). -/
def State.serveSignal (s : State) (n : Nat) : State :=
  (s.units.filter (fun u => match u.2.blocked with
      | some (.signal m c v) => m == n && sigHolds c (s.signal n) v
      | _ => false)).foldl (fun s u => s.unblock u.1) s

/-- After every operation on a signal: the waiters, then the wake registers of the station's partition. -/
def State.afterSignal (s : State) (n : Nat) : State :=
  let s := s.serveSignal n
  match s.partOfStn (n / 1024) with
  | some p => s.testWakes p n
  | none => s

/-- A signal set to a value by the signal unit (R97). -/
def State.sigSet (s : State) (n : Nat) (v : W64) : State := (s.putSignal n v).afterSignal n
/-- A value added to a signal modulo 2^64. -/
def State.sigAdd (s : State) (n : Nat) (v : W64) : State := (s.putSignal n (s.signal n + v)).afterSignal n

end Sys2Proof.Machine
end

