-- ==== Sys2Proof/Machine/Translate.lean ====
section
/-! DEFINITION. Translation: table entries, walks, range entries, page caches, access counters, and the fault and
notification records that a translation posts (R149, R184 to R195, R199, R200, R281, R306). -/
namespace Sys2Proof.Machine

/-! ### Table entries (R187, R188) -/

def pteValid (p : W64) : Bool := p.getLsbD 0
def pteLeaf (p : W64) : Bool := p.getLsbD 1
def pteR (p : W64) : Bool := p.getLsbD 2
def pteW (p : W64) : Bool := p.getLsbD 3
def pteCmode (p : W64) : Nat := fld p.toNat 4 2
def pteRepl (p : W64) : Bool := p.getLsbD 6
def pteDepot (p : W64) : Bool := p.getLsbD 7
def pteWb (p : W64) : Bool := p.getLsbD 8
def pteAp (p : W64) : Bool := p.getLsbD 9
def ptePoison (p : W64) : Bool := p.getLsbD 10
/-- The physical address of the frame: FRAME · 2^16. -/
def pteFrame (p : W64) : Nat := fld p.toNat 16 41 * 2 ^ 16
def pteKindCode (p : W64) : Nat := fld p.toNat 62 2
def pteKind (p : W64) : Kind :=
  match pteKindCode p with
  | 1 => .host
  | 2 => .peer
  | _ => .device

/-- A malformed entry, at a level (R188). -/
def pteMalformed (p : W64) (level : Nat) : Bool :=
  pteKindCode p == 3 || fld p.toNat 57 5 != 0 || fld p.toNat 11 5 != 0
    || (level == 0 && pteLeaf p) || (level == 2 && !pteLeaf p)
    || (!pteLeaf p && fld p.toNat 2 9 != 0)
    || (pteLeaf p && (pteCmode p == 3 || ((pteRepl p || pteDepot p) && pteKindCode p != 0)))
    || (level == 1 && pteLeaf p && fld p.toNat 16 13 != 0)

def ptePage (p : W64) : PageBits := ⟨pteCmode p, pteRepl p, pteDepot p, pteAp p⟩

/-! ### Walks (R192) -/

inductive WalkRes where
  | leaf (pte : W64) (log2 : Nat)
  | invalid (level : Nat)
  | fault (t : Trap)
  deriving DecidableEq, Repr

/-- Index of a virtual address at a level (R185). -/
def vaIndex (va level : Nat) : Nat :=
  match level with
  | 0 => fld va 42 13
  | 1 => fld va 29 13
  | _ => fld va 16 13

/-- One level of a walk, from the node at `node`; `left` levels remain. -/
def State.walkFrom (s : State) (part va : Nat) : Nat → Nat → Nat → WalkRes
  | 0, _, level => .invalid level
  | left + 1, node, level =>
    let pte := w64 (s.homeNat part ⟨.device, node + 8 * vaIndex va level⟩ 8)
    if !pteValid pte then .invalid level
    else if pteMalformed pte level then .fault ⟨.permission, 1, w64 va⟩
    else if pteLeaf pte then .leaf pte (if level = 1 then 29 else 16)
    else if pteKindCode pte != 0 || !s.ownsAddr part (pteFrame pte) then .fault ⟨.tablePlacement, 0, w64 va⟩
    else State.walkFrom s part va left (pteFrame pte) (level + 1)

/-- The walk of a context's tables for a virtual address. -/
def State.walk (s : State) (ctx part va : Nat) : WalkRes :=
  match s.context? ctx with
  | some c => s.walkFrom part va 3 c.desc.root 0
  | none => .invalid 0

/-! ### Checks on an entry (R149, R184, R192, R281, R306) -/

/-- What an access does; `kept` marks a write that the port will hold, which the write-block bit does not withhold when it
is accepted (R202). -/
structure Want where
  rd : Bool
  wr : Bool
  atomic : Bool
  scope : Scope
  kept : Bool
  deriving DecidableEq, Repr

def wantRead : Want := ⟨true, false, false, .region, false⟩
def wantWrite : Want := ⟨false, true, false, .region, false⟩
def wantAtomic (scope : Scope) : Want := ⟨true, true, true, scope, false⟩

/-- The same access where it will be held. -/
def Want.held (w : Want) (kept : Bool) : Want := { w with kept := kept }

/-! ### Agents that are no units -/

/-- The number that stands for a copy channel among the agents that read lines and await invalidations. -/
def copyAgent (stn ch : Nat) : Nat := 131072 + stn * 8 + ch

/-- The number that stands for a junction among the agents that read lines. -/
def junctionAgent (n : Nat) : Nat := 262144 + n

/-- The eviction engine of a partition, as a poster of withheld accesses. -/
def engineAgent (p : Nat) : Nat := 524288 + p

/-- A held event, by its acceptance order, as a poster of withheld accesses. -/
def heldAgent (order : Nat) : Nat := 2 ^ 40 + order

/-- The poison walker at a frame, as a poster of withheld accesses. -/
def walkerAgent (p frame : Nat) : Nat := 2 ^ 80 + frame * 16 + p

/-- The atomic path check (R184). -/
def atomicPathOk (pte : W64) (w : Want) : Bool :=
  !w.atomic ||
    (match pteKind pte with
     | .host => false
     | .peer => w.scope == .system && pteAp pte
     | .device => w.scope != .system || pteAp pte)

/-- The physical address lies where the partition may go: its stacks and populated offsets (R149); for a peer frame, a
port of the partition that is up and an offset within the far partition's window (R306, R316). -/
def State.frameOk (s : State) (part : Nat) (k : Kind) (pa : Nat) : Bool :=
  match k with
  | .device => s.ownsAddr part pa
  | .host => true
  | .peer =>
    let port := fld pa 37 4
    (s.part part).districts.contains port && !(s.mainPort port).down && decide (fld pa 0 37 < (s.mainPort port).window)

inductive TransRes where
  | ok (loc : Loc) (page : PageBits) (pte : W64) (log2 : Nat)
  | invalid (level : Nat)
  /-- Withheld by the write-block bit (R202). -/
  | wb
  | fault (t : Trap)
  deriving DecidableEq, Repr

/-- An entry found for `va` is checked and gives the physical address (R192). -/
def State.checkEntry (s : State) (part va : Nat) (w : Want) (pte : W64) (log2 : Nat) : TransRes :=
  let pa := pteFrame pte + va % 2 ^ log2
  if ptePoison pte then .fault ⟨.poison, 0, w64 va⟩
  else if (w.rd && !pteR pte) || (w.wr && !pteW pte) then .fault ⟨.permission, 0, w64 va⟩
  else if !atomicPathOk pte w then .fault ⟨.atomicPath, 0, w64 va⟩
  else if !s.frameOk part (pteKind pte) pa then .fault ⟨.permission, 3, w64 va⟩
  else if w.wr && !w.kept && pteWb pte then .wb
  else .ok ⟨pteKind pte, pa⟩ (ptePage pte) pte log2

/-! ### Range entries and page caches (R190, R191) -/

def rangeOf (e : W64 × W64) : Option (Nat × Nat) :=
  if e.1.getLsbD 6 then some (fld e.1.toNat 16 39 * 2 ^ 16, fld e.1.toNat 0 6) else none

/-- The range entry that covers an address: its MAP and its size as a power of two. -/
def rangeLookup : List (W64 × W64) → Nat → Option (W64 × Nat)
  | [], _ => none
  | e :: t, va =>
    match rangeOf e with
    | some (base, log2) =>
      if decide (base ≤ va) && decide (va < base + 2 ^ log2) then some (e.2, log2) else rangeLookup t va
    | none => rangeLookup t va

def cacheLookup : List PageEntry → Nat → Nat → Option (W64 × Nat)
  | [], _, _ => none
  | e :: t, ctx, va =>
    if e.ctx == ctx && decide (e.base ≤ va) && decide (va < e.base + 2 ^ e.log2) then some (e.pte, e.log2)
    else cacheLookup t ctx va

/-- A leaf entered in a page cache of `size` entries; which entry it replaces is a free value (R191). -/
def cacheFill (size choice : Nat) (c : List PageEntry) (e : PageEntry) : List PageEntry :=
  let c := c.filter (fun f => !(f.ctx == e.ctx && f.base == e.base && f.log2 == e.log2))
  if c.length < size then e :: c else e :: (c.eraseIdx (choice % size))

/-! ### Access counters (R199, R200) -/

/-- The counter of (context, page) at a station's walker. -/
def Station.counter? (st : Station) (ctx page : Nat) : Option Counter :=
  st.counters.find? (fun c => c.ctx == ctx && c.page == page)

def leastCounter : List Counter → Option Counter
  | [] => none
  | c :: t =>
    match leastCounter t with
    | none => some c
    | some d => if d.use < c.use then some d else some c

/-- The notification record (R200). -/
def notification (ctx stn count page : Nat) : W64 × W64 :=
  (w64 (ctx % 2 ^ 16 * 2 ^ 48 + stn % 2 ^ 9 * 2 ^ 39 + count % 2 ^ 16), w64 (page % 2 ^ 39 * 2 ^ 16))

/-- An access of `lines` distinct lines through a 64 KiB host page's leaf moves the page's counter (R199, R200), which stands at
65,535 where the lines would carry it beyond (DESIGN CHOICE, log entry 107). -/
def State.countAccess (s : State) (part ctx stn va lines : Nat) : State :=
  let x := s.part part
  let page := va / 2 ^ 16
  let st := s.station stn
  if x.migth = 0 ∨ lines = 0 then s
  else
    let c := (st.counter? ctx page).getD ⟨ctx, page, 0, false, false, 0⟩
    let count := if c.stopped then c.count else min (c.count + lines) 65535
    let stop := c.stopped || decide (x.migth.toNat ≤ count)
    let post := stop && !c.posted && decide (x.migq.length < 4096)
    let c' : Counter := { c with count := count, stopped := stop, posted := c.posted || post, use := st.counterUse }
    let others := st.counters.filter (fun d => !(d.ctx == ctx && d.page == page))
    let others := if others.length < 512 then others
      else match leastCounter others with
        | some d => others.filter (· != d)
        | none => others
    let s := s.setStation stn { st with counters := c' :: others, counterUse := st.counterUse + 1 }
    if post then s.setPart part { x with migq := x.migq ++ [notification ctx stn count page] } else s

/-! ### A port's translation (R192) -/

/-- The port that serves a unit's column pair (R177). -/
def portOf (u : Nat) : Nat := (elemOf u % 8) / 2

def Station.port (st : Station) (p : Nat) : Port := Tab.get st.ports p Port.reset
def Station.setPort (st : Station) (p : Nat) (x : Port) : Station := { st with ports := Tab.set Port.reset st.ports p x }
def State.onPort (s : State) (stn p : Nat) (f : Port → Port) : State :=
  s.onStation stn (fun st => st.setPort p (f (st.port p)))

/-- The range entry of a context that covers an address at a port (R190). -/
def State.rangeAt (s : State) (ctx stn p va : Nat) : Option (W64 × Nat) :=
  rangeLookup ((((s.station stn).port p).ranges.filter (fun e => e.1 == ctx)).map (·.2)) va

/-- A translation at port `p` of a station, for context `ctx` of partition `part`, which counts nothing. -/
def State.translateAt (s : State) (ctx part stn p va : Nat) (w : Want) : State × TransRes :=
  if 2 ^ 55 ≤ va then (s, .fault ⟨.permission, 2, w64 va⟩)
  else
    let pt := (s.station stn).port p
    match s.rangeAt ctx stn p va with
    | some (map, log2) => (s, s.checkEntry part va w map log2)
    | none =>
      let hit := cacheLookup pt.cache ctx va
      let found := match hit with
        | some (pte, log2) => WalkRes.leaf pte log2
        | none => s.walk ctx part va
      match found with
      | .invalid level => (s, .invalid level)
      | .fault t => (s, .fault t)
      | .leaf pte log2 =>
        let s := if hit.isSome then s
          else
            let (n, s) := if pt.cache.length < 256 then (0, s) else s.draw
            s.onPort stn p (fun x => { x with
              cache := cacheFill 256 n x.cache ⟨ctx, floorTo va (2 ^ log2), log2, pte⟩ })
        (s, s.checkEntry part va w pte log2)

/-- An access translated at a port counts its lines, where it went through a 64 KiB host page's leaf and no range entry
(R199). -/
def State.countLines (s : State) (ctx part stn p va lines : Nat) (pte : W64) (log2 : Nat) : State :=
  if (s.rangeAt ctx stn p va).isNone && pteKind pte == .host && log2 == 16 then s.countAccess part ctx stn va lines else s

/-- A translation at port `p` of a station, for context `ctx` of partition `part`. `lines` is the number of distinct lines
the access touches. -/
def State.translate (s : State) (ctx part stn p va lines : Nat) (w : Want) : State × TransRes :=
  match s.translateAt ctx part stn p va w with
  | (s, .ok loc page pte log2) => (s.countLines ctx part stn p va lines pte log2, .ok loc page pte log2)
  | r => r

/-- A translation without a port's range entries or cache: by the pager's engines, the signal box and the structure
reads of the depot (R209, R284, R375). -/
def State.translatePlain (s : State) (ctx part va : Nat) (w : Want) : TransRes :=
  if 2 ^ 55 ≤ va then .fault ⟨.permission, 2, w64 va⟩
  else match s.walk ctx part va with
    | .invalid level => .invalid level
    | .fault t => .fault t
    | .leaf pte log2 => s.checkEntry part va w pte log2

/-- A depot core's translation of a stack access (R281): its own page cache, no range entries, no counting; a device
frame in its own stack; a write needs a DEPOT page. -/
def State.translateDepot (s : State) (ctx part core va : Nat) (wr : Bool) : State × TransRes :=
  if 2 ^ 55 ≤ va then (s, .fault ⟨.permission, 2, w64 va⟩)
  else
    let c := s.core core
    let hit := cacheLookup c.cache ctx va
    let found := match hit with
      | some (pte, log2) => WalkRes.leaf pte log2
      | none => s.walk ctx part va
    match found with
    | .invalid level => (s, .invalid level)
    | .fault t => (s, .fault t)
    | .leaf pte log2 =>
      let s := if hit.isSome then s
        else
          let (n, s) := if c.cache.length < 64 then (0, s) else s.draw
          s.onCore core (fun x => { x with cache := cacheFill 64 n x.cache ⟨ctx, floorTo va (2 ^ log2), log2, pte⟩ })
      let r := s.checkEntry part va (if wr then wantWrite else wantRead) pte log2
      match r with
      | .ok loc _ _ _ =>
        if loc.kind != .device || stackOf loc.addr != stackOfCore core then (s, .fault ⟨.permission, 3, w64 va⟩)
        else if wr && !pteDepot pte then (s, .fault ⟨.permission, 0, w64 va⟩)
        else (s, r)
      | .wb =>
        if pteKind pte != .device || stackOf (pteFrame pte) != stackOfCore core then (s, .fault ⟨.permission, 3, w64 va⟩)
        else if !pteDepot pte then (s, .fault ⟨.permission, 0, w64 va⟩)
        else (s, r)
      | _ => (s, r)

/-! ### Fault records (R194, R195) -/

/-- Word 1 of a port's fault record. ACCESS: 0 read, 1 write, 2 atomic, 3 engine transfer. -/
def faultWord (ctx stn port level access : Nat) : W64 :=
  w64 (ctx % 2 ^ 16 * 2 ^ 48 + stn % 2 ^ 9 * 2 ^ 39 + port % 4 * 2 ^ 37 + level % 4 * 2 ^ 35 + access % 4 * 2 ^ 33)

/-- Word 1 of a depot core's fault record (R281). -/
def faultWordDepot (ctx core level access : Nat) : W64 :=
  w64 (ctx % 2 ^ 16 * 2 ^ 48 + stackOfCore core / 2 * 2 ^ 45 + level % 4 * 2 ^ 35 + access % 4 * 2 ^ 33
    + core % 256 * 2 ^ 25 + 2 ^ 24)

/-- Word 1 of the fault record of a siding access (R195, R209). -/
def faultWordSiding (ctx q level access : Nat) : W64 :=
  w64 (ctx % 2 ^ 16 * 2 ^ 48 + q / 4096 % 8 * 2 ^ 45 + level % 4 * 2 ^ 35 + access % 4 * 2 ^ 33 + 2 ^ 23
    + q % 2 ^ 15 * 2 ^ 8)

/-- What tells posters apart: context, place, depot core, siding and queue (R195), LEVEL and ACCESS left out. -/
def posterOf (w1 : W64) : Nat := fld w1.toNat 37 27 * 2 ^ 33 + fld w1.toNat 0 33

/-- A fault record posted to the partition's queue, unless one of the same poster for the same page is pending. The queue
keeps posting order; its first 1,024 records are those that the pager sees (R194). -/
def State.postFault (s : State) (part : Nat) (w1 : W64) (va : Nat) : State :=
  let x := s.part part
  let same := fun (f : FaultRec) => posterOf f.w1 == posterOf w1 && f.w0.toNat / 2 ^ 16 == va / 2 ^ 16
  if x.faultq.any same then s
  else s.setPart part { x with faultq := x.faultq ++ [⟨w1, w64 va, none, [], none⟩] }

end Sys2Proof.Machine
end

