-- ==== Sys2Proof/Machine/Port.lean ====
section
/-! DEFINITION. The memory ports and the mesh as an instruction uses them: events, held stores, packets to homes and to
other stations, and what a packet does when it arrives (R157, R161, R168, R173, R176 to R180, R306, R331 to R333). -/
namespace Sys2Proof.Machine

/-! ### Events of an access (R176) -/

/-- The pieces of `n` bytes from `a` cut at 32-byte boundaries, ascending: address and length. -/
def cutEvents : Nat → Nat → Nat → List (Nat × Nat)
  | 0, _, _ => []
  | fuel + 1, a, n =>
    if n = 0 then []
    else
      let m := min n (32 - a % 32)
      (a, m) :: cutEvents fuel (a + m) (n - m)

def eventsOf (a n : Nat) : List (Nat × Nat) := cutEvents (n / 32 + 2) a n

/-- One piece of an access as its unit issues it: address, length, and for a store the bytes by their place. -/
structure Piece where
  va : Nat
  n : Nat
  wr : List (Nat × Byte)
  deriving DecidableEq, Repr

/-- The pieces of a load. -/
def loadPieces (a n : Nat) : List Piece := (eventsOf a n).map (fun e => ⟨e.1, e.2, []⟩)

/-- The pieces of a store of `(place, byte)` pairs over `n` bytes from `a`; a piece with no byte is left out. -/
def storePieces (a n : Nat) (bs : List (Nat × Byte)) : List Piece :=
  ((eventsOf a n).map (fun e =>
    (⟨e.1, e.2, (bs.filter (fun b => decide (e.1 ≤ a + b.1) && decide (a + b.1 < e.1 + e.2))).map
      (fun b => (a + b.1 - e.1, b.2))⟩ : Piece))).filter (fun p => !p.wr.isEmpty)

/-- The outcome of translating an access. -/
inductive PortRes where
  | ok (evs : List Event)
  | fault (t : Trap)
  | hold (h : Hold)
  deriving DecidableEq, Repr

/-- The cycle from which a unit's withheld access is timed (R197, R214). -/
def State.holdClock (s : State) (u : Nat) (x : Unit) : Nat := if isCore u then s.coreNow (coreOf u) else s.regionCycles x.region

/-- An access that finds an invalid entry is withheld and a record posted; one that the write-block bit withholds posts
none (R194, R202). -/
def State.withhold (s : State) (u : Nat) (x : Unit) (va level access : Nat) (wb : Bool) : State × Hold :=
  let w1 := if isCore u then faultWordDepot x.ctx (coreOf u) level access
    else faultWord x.ctx (stnOf u) (portOf u) level access
  let t := if wb then s else s.postFault x.part w1 va
  ({ t with ids := t.ids + 1 }, ⟨va, w1, wb, s.holdClock u x, t.ids⟩)

/-! ### The order of repetition (R196, R202) -/

/-- The unit's engine or its blocked access may go on: its region or core runs. -/
def State.streamRuns (s : State) (u : Nat) (x : Unit) : Bool :=
  !x.stopped && (if isCore u then (s.core (coreOf u)).st == .running
    else match s.region? x.region with
      | some r => r.st == .running
      | none => false)

/-- A unit's access that was handed back is still to be repeated. -/
def State.unitRepeats (s : State) (u : Nat) : Bool :=
  match s.unit? u with
  | some x => s.streamRuns u x && (match x.blocked with
      | some (.again _ c) => c.hold.isNone
      | some (.stream st) => st.hold.isNone
      | _ => false)
  | none => false

/-- A copy channel's event that was handed back is still to be repeated. -/
def State.copyRepeats (s : State) (stn ch : Nat) : Bool :=
  match Tab.find (s.station stn).copies ch with
  | some c => c.busy && c.hold.isNone
  | none => false

/-- A junction's fetch that was handed back is still to be repeated. -/
def State.fetchRepeats (s : State) (n : Nat) : Bool :=
  (s.junction n).tasks.any (fun t => t.stage == .fetching && t.hold.isNone) && (s.loopLine (n / 8)).running

/-- The eviction engine's access that was handed back is still to be repeated. -/
def State.evictRepeats (s : State) (p : Nat) : Bool :=
  match (s.part p).evicting with
  | some e => e.hold.isNone
  | none => false

/-- The poison walker's access that was handed back is still to be repeated. -/
def State.walkRepeats (s : State) (p frame : Nat) : Bool :=
  (s.part p).poisons.any (fun e => e.frame == frame && e.hold.isNone && e.since.isNone)

/-- A held event that was handed back is still to be repeated. -/
def State.heldRepeats (s : State) (order : Nat) : Bool :=
  s.stations.any (fun n => n.2.ports.any (fun p => p.2.held.any (fun h => h.order == order && h.withheld.isNone)))

/-- An agent's access that was handed back is still to be repeated. -/
def State.repeatsLive (s : State) (a : Nat) : Bool :=
  if a < copyAgent 0 0 then s.unitRepeats a
  else if a < junctionAgent 0 then s.copyRepeats ((a - copyAgent 0 0) / 8) ((a - copyAgent 0 0) % 8)
  else if a < engineAgent 0 then s.fetchRepeats (a - junctionAgent 0)
  else if a < heldAgent 0 then s.evictRepeats (a - engineAgent 0)
  else if a < walkerAgent 0 0 then s.heldRepeats (a - heldAgent 0)
  else s.walkRepeats ((a - walkerAgent 0 0) % 16) ((a - walkerAgent 0 0) / 16)

/-- The agent's access may be repeated: none that its port withheld before is still to be. -/
def State.mayRepeat (s : State) (a : Nat) : Bool :=
  match s.repeats.find? (fun e => e.2 == a) with
  | some e => (s.repeats.takeWhile (fun f => f.2 != a)).all (fun f => f.1 != e.1 || !s.repeatsLive f.2)
  | none => true

/-- The agent repeats its access. -/
def State.repeated (s : State) (a : Nat) : State := { s with repeats := s.repeats.filter (fun e => e.2 != a) }

/-- One translation for unit `u`: at its port, or for a depot core under R281 (`stack`) or plainly (R375). -/
def State.translateFor (s : State) (u : Nat) (x : Unit) (va lines : Nat) (w : Want) (stack : Bool) : State × TransRes :=
  if isCore u then
    if stack then s.translateDepot x.ctx x.part (coreOf u) va w.wr else (s, s.translatePlain x.ctx x.part va w)
  else s.translate x.ctx x.part (stnOf u) (portOf u) va lines w

/-- ACCESS of a fault record (R195). -/
def accessCode (w : Want) : Nat := if w.atomic then 2 else if w.wr then 1 else 0

/-- What a translated piece counts at its port: its address, its lines, and the entry that it went through. -/
structure PieceCount where
  va : Nat
  lines : Nat
  pte : W64
  log2 : Nat
  deriving DecidableEq, Repr

/-- The pieces of an access translated in ascending order, with what they count; `prev` is the line of the piece before (R192,
R199). With `each`, every piece is an access of its own (R368). -/
def State.translateRun (s : State) (u : Nat) (x : Unit) (w : Want) (stack each : Bool) :
    Nat → List Piece → State × PortRes × List PieceCount
  | _, [] => (s, .ok [], [])
  | prev, p :: ps =>
    let (s, r) := s.translateFor u x p.va 0 w stack
    match r with
    | .fault t => (s, .fault t, [])
    | .invalid level => let (s, h) := s.withhold u x p.va level (accessCode w) false; (s, .hold h, [])
    | .wb => let (s, h) := s.withhold u x p.va 0 (accessCode w) true; (s, .hold h, [])
    | .ok loc page pte log2 =>
      match State.translateRun s u x w stack each (p.va / 128) ps with
      | (s, .ok evs, cs) =>
        (s, .ok (⟨p.va, loc, page, p.n, p.wr, []⟩ :: evs), ⟨p.va, b2n (each || p.va / 128 != prev), pte, log2⟩ :: cs)
      | r => r

/-- The pieces of an access translated. They are counted once all of them are: an access of which a piece is withheld or faults
is translated again, and counts then (R199). -/
def State.translatePieces (s : State) (u : Nat) (x : Unit) (w : Want) (stack each : Bool) (prev : Nat) (ps : List Piece) :
    State × PortRes :=
  match s.translateRun u x w stack each prev ps with
  | (s, .ok evs, cs) =>
    (if isCore u then s
     else cs.foldl (fun s c => s.countLines x.ctx x.part (stnOf u) (portOf u) c.va c.lines c.pte c.log2) s, .ok evs)
  | (s, r, _) => (s, r)

def State.translateAccess (s : State) (u : Nat) (x : Unit) (w : Want) (stack : Bool) (ps : List Piece) :
    State × PortRes := s.translatePieces u x w stack false (2 ^ 64) ps

/-- A fault record of this poster for this page is still unserved: the access stays withheld. -/
def State.faultPending (s : State) (part : Nat) (h : Hold) : Bool :=
  (s.part part).faultq.any (fun f => posterOf f.w1 == posterOf h.w1 && f.w0.toNat / 2 ^ 16 == h.va / 2 ^ 16)

/-! ### Held stores (R177, R178) -/

/-- Every held event of a region's ports. -/
def State.heldOf (s : State) (r : Nat) : List Held :=
  s.stations.flatMap (fun st => st.2.ports.flatMap (fun p => p.2.held.filter (fun h => h.region == r)))

/-- Two runs of bytes meet. -/
def runsMeet (a n b m : Nat) : Bool := decide (a < b + m) && decide (b < a + n)

/-- Two events of one context cover a common byte: by their homes, or by the virtual addresses, which a page's move does
not change (R204). -/
def Event.overlaps (e f : Event) : Bool :=
  (e.loc.kind == f.loc.kind && runsMeet e.loc.addr e.n f.loc.addr f.n) || runsMeet e.va e.n f.va f.n

/-- The place of byte `i` of a load `e` in another event: by its home, or by its virtual address (R204). -/
def Event.placeOf (h e : Event) (i : Nat) : Option Nat :=
  if h.loc.kind == e.loc.kind && decide (h.loc.addr ≤ e.loc.addr + i) && decide (e.loc.addr + i < h.loc.addr + h.n) then
    some (e.loc.addr + i - h.loc.addr)
  else if h.va ≤ e.va + i ∧ e.va + i < h.va + h.n then some (e.va + i - h.va)
  else none

/-- The order in which held events that cover a common byte are performed: by invocation, in each by acceptance (R173, R177,
R178). -/
def Held.before (g h : Held) : Bool :=
  serialLater h.invoc g.invoc || (h.invoc == g.invoc && decide (g.order < h.order))

/-- The byte that a held store puts at byte `i` of a load, with its invocation, its acceptance number and that of its event. -/
def Held.byteAt (h : Held) (e : Event) (i : Nat) : Option (BitVec 32 × Nat × Nat × Byte) :=
  if h.rmw.isSome then none
  else match h.ev.placeOf e i with
    | none => none
    | some o =>
      match h.ev.wr.find? (fun b => b.1 == o), Tab.find h.marks o with
      | some b, some m => some (h.invoc, m.2, h.order, b.2)
      | _, _ => none

/-- The held byte for byte `i` of a load that will be performed last: that of the latest invocation, in it the latest
accepted. -/
def latestHeld : List Held → Event → Nat → Option (BitVec 32 × Nat × Nat × Byte)
  | [], _, _ => none
  | h :: t, e, i =>
    match h.byteAt e i, latestHeld t e i with
    | some a, some b => if serialLater b.1 a.1 || (a.1 == b.1 && decide (a.2.1 < b.2.1)) then some b else some a
    | some a, none => some a
    | none, r => r

/-- The bytes of a load that the region's held stores supply (R177). -/
def State.overlay (s : State) (r : Nat) (e : Event) : Event :=
  let hs := s.heldOf r
  { e with ov := (List.range e.n).filterMap (fun i => (latestHeld hs e i).map (fun b => (i, b.2.2))) }

/-- A load's event as it is performed at its home: the bytes that it found held come from those held events while they are
held, and once an event has been performed its bytes come, like the others, from the home: so the event is read at one moment,
and never reads what the home has left behind (R168, R173, R176). -/
def State.stillHeld (s : State) (u : Nat) (e : Event) : Event :=
  let hs := match s.unit? u with
    | some x => s.heldOf x.region
    | none => []
  { e with ov := e.ov.filter (fun b => hs.any (fun h => h.order == b.2.1)) }

/-- Unit `u` reads what held stores of its region supply for these events (R174). -/
def State.noteSeen (s : State) (r u : Nat) (evs : List Event) : State :=
  s.mapHeld (fun h =>
    if h.region == r && !h.seen.contains u && evs.any (fun e => (List.range e.n).any (fun i => (h.byteAt e i).isSome))
    then { h with seen := h.seen ++ [u] } else h)

/-- A write of unit `u`, numbered `n`, follows the held event (R174). -/
def Held.precedes (h : Held) (u n : Nat) : Bool := (Tab.find h.fenced u).any (fun t => decide (t ≤ n))

/-- A write that unit `u`'s write numbered `n` follows has invalidations outstanding (R174, R180). -/
def State.pastInvals (s : State) (u n : Nat) : Bool :=
  s.invals.any (fun i => (Tab.find i.past u).any (fun t => decide (t ≤ n)))

/-- A byte of a held event that unit `u` wrote, accepted before number `id`, is one of an event's bytes (R168). -/
def Held.ownBefore (h : Held) (u id : Nat) (e : Event) : Bool :=
  (List.range e.n).any (fun i =>
    match h.ev.placeOf e i with
    | some o => (match Tab.find h.marks o with
        | some m => m.1 == u && decide (m.2 < id)
        | none => false)
    | none => false)

/-- A byte of a held event was written by unit `u` after number `id` and is one of an event's bytes (R168). -/
def Held.ownAfter (h : Held) (u id : Nat) (e : Event) : Bool :=
  (List.range e.n).any (fun i =>
    match h.ev.placeOf e i with
    | some o => (match Tab.find h.marks o with
        | some m => m.1 == u && decide (id < m.2)
        | none => false)
    | none => false)

/-- A held event covers some byte of these events; with `atomics`, only held atomics count (R333). -/
def State.heldCovers (s : State) (r : Nat) (evs : List Event) (atomics : Bool) : Bool :=
  (s.heldOf r).any (fun h => (!atomics || h.rmw.isSome) && evs.any (fun e => h.ev.overlaps e))

/-- Every held event of a region is to be performed now (R333). -/
def State.forceHeld (s : State) (r : Nat) : State := s.mapHeld (fun h => if h.region == r then { h with due := true } else h)

/-- Held events that are to be performed now are outstanding. -/
def State.heldDue (s : State) (r : Nat) : Bool := (s.heldOf r).any (·.due)

/-- A held event of an invocation up to `i`. -/
def State.heldUpTo (s : State) (r : Nat) (i : BitVec 32) : Bool := (s.heldOf r).any (fun h => !serialLater h.invoc i)

/-- Every invocation up to `i` made unrevocable (R179). -/
def State.makeUnrevocable (s : State) (r : Nat) (i : BitVec 32) : State :=
  s.onRegion r (fun x => if x.unrevocable i then x else { x with unrev := some i })

/-- The bytes of `new` put over those of `old`. -/
def mergeBytes (old new : List (Nat × Byte)) : List (Nat × Byte) :=
  new.foldl (fun (l : Tab Byte) b => Tab.put l b.1 b.2) old

/-- Whether a held event takes a store into itself: a store of the same region and invocation to bytes of the same event
(R177). -/
def Held.takes (h : Held) (r : Nat) (i : BitVec 32) (e : Event) : Bool :=
  h.rmw.isNone && h.region == r && h.invoc == i && h.ev.loc.kind == e.loc.kind
    && h.ev.loc.addr / 32 == e.loc.addr / 32 && h.ev.va / 32 == e.va / 32
    && runsMeet h.ev.loc.addr h.ev.n e.loc.addr e.n

/-- The marks of an event's bytes, accepted from unit `u` with number `order`: of the bytes written, or of all for an
atomic. -/
def marksOf (u order : Nat) (e : Event) (rmw : Option Rmw) : Tab (Nat × Nat) :=
  (if rmw.isSome then List.range e.n else e.wr.map (·.1)).foldl (fun t o => Tab.put t o (u, order)) []

/-- No held event stands between an event and a store to its bytes: none of the invocation at any port that overlaps the store
and was accepted after the event, and none that the store must follow and the event need not (R173, R174; DEDUCED, log entry
93). -/
def State.mayMerge (s : State) (u : Nat) (e : Event) (h : Held) : Bool :=
  (s.heldOf h.region).all (fun g => g.order == h.order ||
    (!(g.invoc == h.invoc && g.ev.overlaps e && decide (h.order < g.order))
      && ((Tab.find g.fenced u).isNone || g.precedes h.unit h.order)))

/-- The merge of a store, accepted with number `order`, into the last held event that takes it and that it may merge into. -/
def mergeHeld (r : Nat) (i : BitVec 32) (u order : Nat) (e : Event) (may : Held → Bool) : List Held → Option (List Held)
  | [] => none
  | h :: t =>
    match mergeHeld r i u order e may t with
    | some t' => some (h :: t')
    | none =>
      if h.takes r i e && may h then
        let lo := min h.ev.loc.addr e.loc.addr
        let hi := max (h.ev.loc.addr + h.ev.n) (e.loc.addr + e.n)
        let old := h.ev.wr.map (fun b => (h.ev.loc.addr + b.1 - lo, b.2))
        let new := e.wr.map (fun b => (e.loc.addr + b.1 - lo, b.2))
        let kept := h.marks.map (fun m => (h.ev.loc.addr + m.1 - lo, m.2))
        some ({ h with marks := new.foldl (fun (t : Tab (Nat × Nat)) b => Tab.put t b.1 (u, order)) kept
                       seen := if h.seen.contains u then h.seen else h.seen ++ [u]
                       ev := { h.ev with va := min h.ev.va e.va, loc := ⟨h.ev.loc.kind, lo⟩, n := hi - lo,
                                         wr := mergeBytes old new } } :: t)
      else none

/-- One event accepted by the port: merged, or held as a new event; none where the port already holds 2,048 (R177). -/
def State.hold1 (s : State) (u : Nat) (x : Unit) (e : Event) (rmw : Option Rmw) (scope : Scope) : Option State :=
  let pt := (s.station (stnOf u)).port (portOf u)
  let merged := if rmw.isSome then none else mergeHeld x.region x.invix u s.ids e (s.mayMerge u e) pt.held
  match merged with
  | some hs => some ({ s with ids := s.ids + 1 }.onPort (stnOf u) (portOf u) (fun p => { p with held := hs }))
  | none =>
    if 2048 ≤ pt.held.length then none
    else
      let h : Held := ⟨u, x.region, x.invix, e, rmw, scope, none, marksOf u s.ids e rmw, false, s.ids, [u], []⟩
      let s : State := { s with ids := s.ids + 1 }
      some (s.onPort (stnOf u) (portOf u) (fun p => { p with held := p.held ++ [h] }))

/-- The events accepted one after the other, or the address of the first that the port has no room for (R233). -/
def State.holdAll (s : State) (u : Nat) (x : Unit) (scope : Scope) : List Event → Except Nat State
  | [] => .ok s
  | e :: t =>
    match s.hold1 u x e none scope with
    | some s => State.holdAll s u x scope t
    | none => .error e.va

/-! ### Packets -/

/-- The context of a unit. -/
def State.ctxOf (s : State) (u : Nat) : Nat :=
  match s.unit? u with
  | some x => x.ctx
  | none => 0

/-- A packet sent; its number is returned. -/
def State.send (s : State) (u : Nat) (req : Req) : State × Nat :=
  ({ s with mesh := s.mesh ++ [⟨s.ids, u, req, .request, [], 0, [], [], s.ctxOf u⟩], ids := s.ids + 1 }, s.ids)

/-- An atomic that returns nothing sent, to be performed behind these held events (R333). -/
def State.sendBehind (s : State) (u : Nat) (req : Req) (behind : List Nat) : State :=
  { s with mesh := s.mesh ++ [⟨s.ids, u, req, .request, [], 0, [], behind, s.ctxOf u⟩], ids := s.ids + 1 }

def State.setPacket (s : State) (id : Nat) (f : Packet → Packet) : State :=
  { s with mesh := s.mesh.map (fun p => if p.id = id then f p else p) }

/-- The answer of packet `id` on its way. -/
def State.answer (s : State) (id : Nat) (bs : List Byte) : State :=
  s.setPacket id (fun p => { p with st := .response bs })

/-- ORDER and FENCE cover loads, stores, atomics and signal operations: neither what a unit hands to an engine nor a count
operation (R170). -/
def Req.uncovered : Req → Bool
  | .mcast _ _ _ _ | .release _ | .retain _ _ => true
  | _ => false

/-- No packet of the unit is under way: its accesses that are not held are performed and acknowledged. -/
def State.noPackets (s : State) (u : Nat) : Bool := !s.mesh.any (fun p => p.unit == u && !p.req.uncovered)

/-- The district of a unit. -/
def districtOfUnit (u : Nat) : Nat := if isCore u then stackOfCore (coreOf u) else districtOfStn (stnOf u)

/-- A replica in district `d` of a device line can be read by an agent of a scope of unit `u`: REGION, a unit of the
region; DIE, an agent of the unit's die, for a line homed there; otherwise any (R157, R166, R167). -/
def State.scopeReads (s : State) (u : Nat) (scope : Scope) (line d : Nat) : Bool :=
  match scope with
  | .package | .system => true
  | .die => stackOf (line * 128) / 2 != dieOfUnit u || d / 2 == dieOfUnit u
  | .region =>
    match s.unit? u with
    | some x => (match s.region? x.region with
        | some r => r.units.any (fun v => districtOfUnit v == d)
        | none => districtOfUnit u == d)
    | none => false

/-- No invalidation is outstanding that the unit's ORDER or FENCE must await: one of a line that it wrote or read, whose
replica an agent of the scope may still read (R166, R180). -/
def State.noInvals (s : State) (u : Nat) (scope : Scope) : Bool :=
  !s.invals.any (fun i => i.waiters.contains u && s.scopeReads u scope i.line i.district)

/-- A depot core's scopes all act as PACKAGE (R167). -/
def scopeOf (u : Nat) (scope : Scope) : Scope := if isCore u && scope != .system then .package else scope

/-- Every earlier access of the unit that is not held is performed at a scope (R169, R170, R180). A load that returned a held
store does not await its commit: at DIE scope and wider held stores are not covered, whether written or read (DESIGN CHOICE,
log entry 94). -/
def State.performedAt (s : State) (u : Nat) (scope : Scope) : Bool := s.noPackets u && s.noInvals u (scopeOf u scope)

/-- The value of an access's bytes. -/
def extendBytes (signed : Bool) (bs : List Byte) : W64 :=
  let v := ofBytes bs
  if signed then w64 (sextTo (8 * bs.length) 64 v) else w64 v

/-- A load's bytes land (R353): lanes outside the mask keep their values. -/
def State.land (s : State) (u : Nat) (l : Land) (bs : List Byte) : State :=
  match l with
  | .none => s
  | .s n signed => s.onUnit u (fun x => x.setS n (extendBytes signed bs))
  | .v n mask => s.onUnit u (fun x => x.setLanes n mask (ofBytes bs) (List.range x.lanes))
  | .lane n j signed => s.onUnit u (fun x => x.setLane n j ((extendBytes signed bs).setWidth 32))
  | .o dests signed => s.emitAll u false [⟨dests, plainTok .dat (extendBytes signed bs)⟩]
  | .p n => s.onUnit u (fun x => if x.live 0 then { x with p := setPred x.p n (ofBytes bs != 0) } else x)

/-- Whether a load's answer is awaited by a blocked unit: always in a triggered unit, and in a sequenced one where it goes
to an output channel or a predicate (R353). -/
def landBlocks (isSeq : Bool) : Land → Bool
  | .s _ _ | .v _ _ | .lane _ _ _ => !isSeq
  | .none => false
  | .o _ _ | .p _ => true

/-- The bytes of an event with the held ones laid over. -/
def Event.withOverlay (e : Event) (bs : List Byte) : List Byte :=
  (List.range e.n).map (fun i =>
    match e.ov.find? (fun b => b.1 == i) with
    | some b => b.2.2
    | none => bs.getD i 0)

/-- The event needs nothing from its home. -/
def Event.covered (e : Event) : Bool := decide (e.ov.length = e.n)

/-- An earlier access of the unit to some byte of these events is not yet performed (R168). -/
def State.unitAhead (s : State) (u : Nat) (evs : List Event) : Bool :=
  s.mesh.any (fun q => q.unit == u &&
    (match q.req, q.st with
     | .access _ _ _, .response _ => false
     | .access fs _ _, _ => evs.any (fun e => fs.any (fun f => e.overlaps f))
     | _, _ => false))

/-- What becomes of the loads of one instruction: each is a list of events and its landing place. Those that held stores
supply whole land at once, unless an earlier access of the unit to such a byte is still to be performed; the others are sent
(R168, R177, R353). The numbers of the packets sent are returned. -/
def State.sendLoads (s : State) (u : Nat) (isSeq : Bool) : List (List Event × Land) → State × List Nat
  | [] => (s, [])
  | (evs, l) :: t =>
    if evs.all Event.covered && !s.unitAhead u evs then
      State.sendLoads (s.land u l (evs.flatMap (fun e => e.withOverlay []))) u isSeq t
    else
      let (s, id) := s.send u (.access evs none l)
      let s := if isSeq && !landBlocks isSeq l then s.onUnit u (fun x => { x with loads := x.loads ++ [(id, l)] }) else s
      let (s, ids) := State.sendLoads s u isSeq t
      (s, id :: ids)

/-- The end of a load instruction: it blocks for its answers, or issue goes on past it. -/
def loadRes (isSeq : Bool) (ls : List (List Event × Land)) (r : State × List Nat) : Res :=
  match r with
  | (s, []) => .done s
  | (s, id :: ids) => if ls.any (fun l => landBlocks isSeq l.2) then .block s (.answer (id :: ids)) else .done s

/-! ### Read-modify-write at the home (R332, R340, R363) -/

def atomApply (op : AtomOp) (n old v : Nat) : Nat :=
  let m := 2 ^ (8 * n)
  match op with
  | .add => (old + v) % m
  | .and => old &&& v
  | .or => old ||| v
  | .xor => old ^^^ v
  | .swap => v
  | .min => Nat.min old v
  | .max => Nat.max old v

def fatomApply (ty : FTy) (op : FAtomOp) (old v : Nat) : Nat :=
  let f := fmtOfF ty
  match op with
  | .add => f.encode .rne (FVal.add .rne (f.decode old) (f.decode v))
  | .min => f.minmax false old v
  | .max => f.minmax true old v

/-- The new value of a location of `n` bytes. -/
def Rmw.apply (r : Rmw) (n old : Nat) : Nat :=
  match r with
  | .atom op v => atomApply op n old (v.toNat % 2 ^ (8 * n))
  | .cas e w => if old = e.toNat % 2 ^ (8 * n) then w.toNat % 2 ^ (8 * n) else old
  | .fatom ty op v => fatomApply ty op old (v.toNat % 2 ^ (8 * n))

/-- A CAS whose comparison fails writes nothing (R340). -/
def Rmw.writes (r : Rmw) (n old : Nat) : Bool :=
  match r with
  | .cas e _ => old == e.toNat % 2 ^ (8 * n)
  | _ => true

/-! ### What a packet does at its home -/

def State.replica? (s : State) (d line : Nat) : Option Replica :=
  s.replicas.find? (fun r => r.district == d && r.line == line)

/-- A replica installed in a district with the line as the home holds it, where one of ways 12 to 15 is unpinned and no
write to the line is being performed, and its presence bit set (R157, R158). -/
def State.installReplica (s : State) (p d : Nat) (l : Loc) : State :=
  let base := floorTo l.addr 128
  if s.invals.any (fun i => i.line == base / 128) then s
  else match s.takeWay (setOfLine d ⟨.device, base⟩) [12, 13, 14, 15] with
    | none => s
    | some (s, way) => { s with
        replicas := ⟨d, base / 128, way, s.homeBytes p ⟨.device, base⟩ 128⟩ :: s.replicas
        presence := if s.presence.contains (base / 128, d) then s.presence else (base / 128, d) :: s.presence }

/-- A replica of the line in district `d` that agent `u` may read: none while the agent waits for its invalidation, having
written the line or read what was written (R168, R180). -/
def State.replicaFor (s : State) (u d : Nat) (l : Loc) : Option Replica :=
  if s.invals.any (fun i => i.line == l.addr / 128 && i.district == d && i.waiters.contains u) then none
  else s.replica? d (l.addr / 128)

/-- A unit that read a line whose invalidations are under way waits for them at its next ORDER or FENCE (R180). -/
def State.noteRead (s : State) (u : Nat) (l : Loc) : State :=
  { s with invals := s.invals.map (fun i =>
      if i.line == l.addr / 128 && l.kind == .device && !i.waiters.contains u then { i with waiters := u :: i.waiters }
      else i) }

/-- A host line must be taken in E or M before it is written: `none` where it is, else the state with the request made
and the key (R297). For a write that allocates no line, in a NOALLOC page or a set that is all pinned, the line is taken into
a fill entry of its own and evicted once it is written (R153, R156; DEDUCED, log entry 83). -/
def State.ownHost (s : State) (p : Nat) (l : Loc) (cmode : Nat) : Option (State × Nat) :=
  if l.kind != .host then none
  else
    let key := s.keyOf p l
    match s.line? key with
    | some x =>
      if x.kind == .filling then some (s, key)
      else if x.owned then none
      else some (s.openFill p l cmode false, key)
    | none => some (s.openFill p l cmode false, key)

/-- The answer of one event at its home: the bytes, or the line whose fill it waits for. -/
inductive EvAns where
  | done (s : State) (bs : List Byte)
  | wait (s : State) (key : Nat)

/-- A line of a page marked REPL, read from a district that is not its home's, may have a replica (R157). -/
def replicable (page : PageBits) (home d : Nat) (l : Loc) : Bool := page.repl && !page.depot && l.kind == .device && home != d

/-- `n` bytes of one line read for agent `u` of a station in district `d`: from the district's replica, or at the home,
where the line may also be installed as a replica (R154, R157). -/
def State.readFor (s : State) (u d p : Nat) (l : Loc) (n : Nat) (page : PageBits) : State × ReadAns :=
  let may := replicable page (s.homeDistrict p l) d l
  match (if may then s.replicaFor u d l else none) with
  | some r => (s, .bytes ((r.data.drop (l.addr % 128)).take n))
  | none =>
    match s.homeRead p l n page.cmode page.depot with
    | (s, .wait key) => (s, .wait key)
    | (s, .bytes bs) =>
      let s := s.noteRead u l
      (if may then s.installReplica p d l else s, .bytes bs)

/-- What a fill has delivered to engine `who` of a line (R163). -/
def State.deliveredOf (s : State) (who key : Nat) : Option (List Byte) :=
  (s.delivered.find? (fun e => e.1 == who && e.2.1 == key)).map (·.2.2.2)

/-- A read of an engine, agent number `who`: the bytes that a fill delivered to it, or a read that joins the fill it must
wait for (R163). -/
def State.engineRead (s : State) (who d p : Nat) (l : Loc) (n : Nat) (page : PageBits) : State × ReadAns :=
  match s.deliveredOf who (s.keyOf p l) with
  | some bs =>
    let s := s.noteRead who l
    (if replicable page (s.homeDistrict p l) d l && (s.replica? d (l.addr / 128)).isNone then s.installReplica p d l else s,
     .bytes ((bs.drop (l.addr % 128)).take n))
  | none =>
    match s.readFor who d p l n page with
    | (s, .wait key) => (s.join key (2 ^ 64 + who), .wait key)
    | r => r

/-- Whole lines read by engine `who`: their bytes once every line is at hand; else the fills are opened (R130, R140). -/
def State.gather (s : State) (who d p : Nat) : List (Loc × PageBits) → State × Option (List Byte)
  | [] => (s, some [])
  | l :: t =>
    let (s, r) := s.engineRead who d p l.1 128 l.2
    match s.gather who d p t, r with
    | (s, some rest), .bytes bs => (s, some (bs ++ rest))
    | (s, _), _ => (s, none)

/-- A load's event. -/
def State.loadEvent (s : State) (u p : Nat) (e : Event) : EvAns :=
  let e := s.stillHeld u e
  if e.covered then .done s (e.withOverlay [])
  else match s.readFor u (districtOfUnit u) p e.loc e.n e.page with
  | (s, .wait key) => .wait s key
  | (s, .bytes bs) => .done s (e.withOverlay bs)

/-- A store's event (R154, R158, R297, R306). -/
def State.storeEvent (s : State) (ws : List Nat) (p : Nat) (e : Event) : EvAns :=
  match s.ownHost p e.loc e.page.cmode with
  | some (s, key) => .wait s key
  | none =>
    .done (s.homeWrite p e.loc e.page.cmode e.page.depot (e.wr.map (fun b => ((e.loc.addr + b.1) % 128, b.2))) ws) []

/-- An atomic's event: one read-modify-write in the coherence order (R173, R332). -/
def State.rmwEvent (s : State) (u : Nat) (ws : List Nat) (p : Nat) (e : Event) (r : Rmw) : EvAns :=
  match s.ownHost p e.loc e.page.cmode with
  | some (s, key) => .wait s key
  | none =>
  match s.homeRead p e.loc e.n e.page.cmode e.page.depot with
  | (s, .wait key) => .wait s key
  | (s, .bytes bs) =>
    let old := ofBytes bs
    let s := s.noteRead u e.loc
    if r.writes e.n old then
      let new := bytesOf e.n (r.apply e.n old)
      if e.loc.kind == .peer then
        -- the one request flit carries the whole operation
        .done (if s.portDead (peerPort e.loc) then s
          else s.rawWrite .peer ((List.range e.n).map (fun i => (e.loc.addr + i, new.getD i 0)))) bs
      else .done (s.homeWrite p e.loc e.page.cmode e.page.depot
        ((List.range e.n).map (fun i => ((e.loc.addr + i) % 128, new.getD i 0))) ws) bs
    else .done s bs

/-- One event of unit `u` performed; `ws` are the units that await the invalidations of a write. -/
def State.performEvent (s : State) (u : Nat) (ws : List Nat) (p : Nat) (e : Event) (rmw : Option Rmw) : EvAns :=
  match rmw with
  | some r => s.rmwEvent u ws p e r
  | none => if e.wr.isEmpty then s.loadEvent u p e else s.storeEvent ws p e

end Sys2Proof.Machine
end

