-- ==== Sys2Proof/Machine/Storage.lean ====
section
/-! DEFINITION. The storage instructions: ALLOC to BSIZE, the scratchpad loads and stores and TMAP (R78 to R82, R95, R96,
R290, R330, R338, R353, R380, R381, R383, R412, R426 to R428, R440). -/
namespace Sys2Proof.Machine

/-- The live mask of unit `u` after the firing's stream tokens have set it (R43). -/
def State.lmNow (s : State) (u : Nat) (x : Unit) : BitVec 128 :=
  match s.unit? u with
  | some y => y.lm
  | none => x.lm

/-- A read sent to another station or home: a sequenced unit goes on past a load into a register (R353); every other
reader is blocked until the answer. -/
def awaitLand (u : Nat) (isSeq : Bool) (l : Land) (r : State × Nat) : Res :=
  if isSeq && !landBlocks isSeq l then
    .done (r.1.onUnit u (fun x => { x with loads := x.loads ++ [(r.2, l)] }))
  else .block r.1 (.answer [r.2])

/-- A load from the unit's own station: its bytes land two cycles later (R380). -/
def State.readHere (s : State) (u : Nat) (l : Land) (bs : List Byte) : State × Nat :=
  ({ s.onUnit u (fun x => { x with reads := x.reads ++ [⟨s.ids, s.clockOf u + 2, l, bs⟩] }) with ids := s.ids + 1 }, s.ids)

/-- Where a scratchpad load's value lands. -/
def Unit.landOf (x : Unit) (lm : BitVec 128) (d : Dst) : Land :=
  match d with
  | .v n => .v n lm
  | .s n => .s n false
  | .o n => .o (Tab.get x.outs n.val []) false
  | .p n => .p n
  | _ => .none

/-! ### ALLOC, ALLOCT -/

def dstS : Dst → Option SReg
  | .s n => some n
  | _ => none

def execAlloc (d : Dst) (k n : Src) (s : State) : Host.Outcome State Fault Refusal :=
  runUnit (.alloc d k n) avTS [k, n] [d] (fun u x s vk vn _ =>
    if 11 < vk.toNat || vn.toNat % 2 ^ 16 = 0 then .trap (illegal 2)
    else match s.tryAlloc u x vk.toNat (vn.toNat % 2 ^ 16) false with
      | some (s, h) => .write s d 0 h 2
      | none =>
        let dests := match d with
          | .o c => Tab.get x.outs c.val []
          | _ => []
        .block (s.queueAlloc u vk.toNat (vn.toNat % 2 ^ 16)) (.alloc vk.toNat (vn.toNat % 2 ^ 16) (dstS d) dests)) s

def execAlloct (d : Dst) (k n : Src) (s : State) : Host.Outcome State Fault Refusal :=
  runUnit (.alloct d k n) avTS [k, n] [d] (fun u x s vk vn _ =>
    if 11 < vk.toNat || vn.toNat % 2 ^ 16 = 0 then .trap (illegal 2)
    else match s.tryAlloc u x vk.toNat (vn.toNat % 2 ^ 16) true with
      | some (s, h) => .write s d 0 h 2
      | none => .write s d 0 0 2) s

/-! ### RELEASE, RETAIN, BSIZE -/

/-- A junction operation that uses a block. -/
def JOp.uses (o : JOp) (h : W64) : Bool :=
  match o with
  | .wload g _ _ | .mma g _ _ _ _ | .accrd g _ | .accwr g _ => withOff g 0 == withOff h 0
  | .wswap | .accclr _ => false

/-- A junction still has work of the unit through the block. -/
def Junction.usesBlock (j : Junction) (u : Nat) (h : W64) : Bool :=
  j.queue.any (fun e => e.1 == u && e.2.uses h)
    || (match j.mma with | some (v, o, _) => v == u && o.uses h | none => false)
    || (match j.xfer with | some (v, o) => v == u && o.uses h | none => false)
    || (match j.load with | some (some v, o) => v == u && o.uses h | _ => false)

/-- A packet through the block. -/
def Req.usesBlock (r : Req) (h : W64) : Bool :=
  match r with
  | .blockRead g _ _ _ | .blockWrite g _ => withOff g 0 == withOff h 0
  | _ => false

/-- A block of another station as the handle describes it, whether or not it is still live (R380, R426). -/
def handleSpan (h : W64) : Block := ⟨hGranule h, hSize h, 0, 0, 0, none, false⟩

def State.serveBlockRead (s : State) (id : Nat) (h : W64) (offs : List Nat) (n : Nat) : State :=
  s.answer id (offs.flatMap (fun o => s.blockBytes (hStn h) (handleSpan h) o n))

def State.serveBlockWrite (s : State) (id : Nat) (h : W64) (bs : List (Nat × Byte)) : State :=
  (s.blockPut (hStn h) (handleSpan h) bs).answer id []

/-- The unit's earlier reads and writes of a block of another station performed, in issue order: an access that follows them
at once, and does not block, comes after them (R168, R291, R292). -/
def State.settleBlock (s : State) (u : Nat) (h : W64) : State :=
  s.mesh.foldl (fun s p =>
    if p.unit == u && p.st == .request && p.req.usesBlock h && !isSignalHandle h then
      match p.req with
      | .blockRead g offs n _ => s.serveBlockRead p.id g offs n
      | .blockWrite g bs => s.serveBlockWrite p.id g bs
      | _ => s
    else s) s

/-- A count operation on the block. -/
def Req.counts (r : Req) (h : W64) : Bool :=
  match r with
  | .release g | .retain g _ => withOff g 0 == withOff h 0
  | _ => false

/-- What the unit is blocked on has accesses to the block still to come: a stream's source or ring, the list of a KVAPP, the
prompt of a PFXM or PFXI, a descriptor or block that is not yet read. -/
def Unit.usesBlock (x : Unit) (h : W64) : Bool :=
  let is := fun (g : W64) => withOff g 0 == withOff h 0
  match x.blocked with
  | some (.stream st) => is st.blk || is (st.desc.getD 0 0)
  | some (.again (.kvapp _ _ _) c) => is c.a
  | some (.again (.pfxm _ _ _ _) c) | some (.again (.pfxi _ _ _) c) => is c.b
  | some (.again (.strm _ _) c) => is c.a || c.words.any is
  | some (.again _ c) => c.phase == 0 && (is c.a || is c.b)
  | _ => false

/-- The unit is to carry an instruction on that has accesses to the block still to come (R435). -/
def Unit.awaitsBlock (x : Unit) (h : W64) : Bool :=
  match x.blocked with
  | some (.again _ _) => x.usesBlock h
  | _ => false

/-- An earlier access of the unit to the block is not yet performed (R81). -/
def State.usesBlock (s : State) (u : Nat) (h : W64) : Bool :=
  (match s.unit? u with
   | some x => x.usesBlock h
   | none => false) || (!isCore u && (s.junction (stnOf u)).usesBlock u h)

/-- A count operation: at the unit's own allocator at once, unless an earlier access or count operation of the unit on the
block is still to be performed; else sent to the station that the handle names (R80, R81). -/
def countOp (u : Nat) (x : Unit) (s : State) (h : W64) (req : Req) (f : Station → Block → Station) : Res :=
  if isSignalHandle h then .trap (illegal 2)
  else if hStn h = stnOf u then
    match s.resolveBlock x.ctx h with
    | .error t => .trap t
    | .ok b =>
      if s.usesBlock u h || s.mesh.any (fun p => p.unit == u && p.req.counts h) then .done (s.send u req).1
      else .done (s.onStation (stnOf u) (fun st => f st b))
  else .done (s.send u req).1

def execRelease (h : Src) (s : State) : Host.Outcome State Fault Refusal :=
  runUnit (.release h) avTS [h] [] (fun u x s vh _ _ => countOp u x s vh (.release vh) (fun st b =>
    st.release (s.stnNow (stnOf u)) b)) s

def execRetain (h m : Src) (s : State) : Host.Outcome State Fault Refusal :=
  runUnit (.retain h m) avTS [h, m] [] (fun u x s vh vm _ =>
    countOp u x s vh (.retain vh (vm.toNat % 2 ^ 16)) (fun st b => st.retain b (vm.toNat % 2 ^ 16))) s

/-- BSIZE's word for a signal handle (R338). -/
def bsizeSignal : W64 := 8

def execBsize (d : Dst) (h : Src) (s : State) : Host.Outcome State Fault Refusal :=
  runUnit (.bsize d h) avTS [h] [d] (fun u x s vh _ _ =>
    let answer := fun (w : W64) =>
      if hStn vh = stnOf u then .write s d 0 w 2
      else
        let r := s.send u (.bsize vh (x.landOf 0 d))
        Res.block r.1 (.answer [r.2])
    if isSignalHandle vh then (if s.signalOk x.part vh then answer bsizeSignal else .trap (stale vh))
    else match s.resolveBlock x.ctx vh with
      | .error t => .trap t
      | .ok b => answer (bsizeWord b)) s

/-! ### Loads -/

/-- A load of `n` bytes at each offset of a block, in order: at the own station in two cycles, else by a request (R380,
R381). The first out-of-range byte among `seen` is recorded (R96). -/
def readBlock (u : Nat) (x : Unit) (s : State) (d : Dst) (h : W64) (b : Block) (offs : List Nat) (n : Nat)
    (seen : List Nat) : Res :=
  let s := s.noteOor u h b seen
  let l := x.landOf (s.lmNow u x) d
  awaitLand u x.isSeq l
    (if hStn h = stnOf u then s.readHere u l (offs.flatMap (fun o => s.blockBytes (stnOf u) b o n))
     else s.send u (.blockRead h offs n l))

/-- LDB (R380). -/
def loadBlock (u : Nat) (x : Unit) (s : State) (d : Dst) (h : W64) : Res :=
  let isV := match d with
    | .v _ => true
    | _ => false
  if isSignalHandle h then
    if !s.signalOk x.part h then .trap (stale h)
    else if isV then .trap (illegal 2)
    else
      let l := x.landOf 0 d
      awaitLand u x.isSeq l
        (if hStn h = stnOf u then s.readHere u l (bytesOf 8 (s.signal (hSignal h)).toNat)
         else s.send u (.blockRead h [0] 8 l))
  else match s.resolveBlock x.ctx h with
    | .error t => .trap t
    | .ok b =>
      let n := if isV then x.lanes * 4 else 8
      if hOff h % (if isV then 4 else 8) != 0 then .trap (misaligned 0)
      else readBlock u x s d h b [hOff h] n ((List.range n).map (fun i => hOff h + i))

def execLdb (d : Dst) (h : Src) (s : State) : Host.Outcome State Fault Refusal :=
  runUnit (.ldb d h) avTS [h] [d] (fun u x s vh _ _ => loadBlock u x s d vh) s

/-- The offset of lane `j` under an index register (R381). -/
def idxOff (x : Unit) (h : W64) (sc : Fin 4) (vi : VReg) (j : Nat) : Nat := hOff h + (x.vLane vi j).toNat * 2 ^ sc.val

/-- The live lanes in ascending order. -/
def liveLanes (x : Unit) (lm : BitVec 128) : List Nat := (List.range x.lanes).filter (fun j => lm.getLsbD j)

def execLdbx (sc : Fin 4) (d : VReg) (h : Src) (vi : VReg) (s : State) : Host.Outcome State Fault Refusal :=
  runUnit (.ldbx sc d h vi) avTS [h, .v vi] [.v d] (fun u x s vh _ _ =>
    match s.needBlock x.ctx vh with
    | .error t => .trap t
    | .ok b =>
      let live := liveLanes x (s.lmNow u x)
      if live.any (fun j => idxOff x vh sc vi j % 4 != 0) then .trap (misaligned 0)
      else readBlock u x s (.v d) vh b ((List.range x.lanes).map (idxOff x vh sc vi)) 4
        (live.flatMap (fun j => (List.range 4).map (fun i => idxOff x vh sc vi j + i)))) s

/-! ### Stores -/

/-- Bytes stored to a block, by offset: at the own station at once, else by a request (R426). -/
def writeBlock (u : Nat) (s : State) (h : W64) (b : Block) (bs : List (Nat × Byte)) : Res :=
  let s := s.noteOor u h b (bs.map (·.1))
  if hStn h = stnOf u then .done (s.blockPut (stnOf u) b bs)
  else .done (s.send u (.blockWrite h bs)).1

/-- The 4 bytes of a lane, from offset `o`. -/
def laneBytes (o : Nat) (v : Lane) : List (Nat × Byte) :=
  (List.range 4).map (fun i => (o + i, BitVec.ofNat 8 (v.toNat >>> (8 * i))))

/-- The 8 bytes of a word, from offset `o`. -/
def wordBytes (n o : Nat) (v : W64) : List (Nat × Byte) :=
  (List.range n).map (fun i => (o + i, BitVec.ofNat 8 (v.toNat >>> (8 * i))))

/-- A signal operation at the unit's own station, or sent to another (R97, R423). -/
def signalOp (u : Nat) (s : State) (n : Nat) (now : State → State) (req : Req) : Res :=
  if !isCore u && n / 1024 == stnOf u then .done (now s) else .done (s.send u req).1

/-- STB (R426). -/
def storeBlock (u : Nat) (x : Unit) (s : State) (h : W64) (src : Src) (v : W64) : Res :=
  let reg := match src with
    | .v n => some n
    | _ => none
  if isSignalHandle h then
    if !s.signalOk x.part h then .trap (stale h)
    else if reg.isSome then .trap (illegal 2)
    else signalOp u s (hSignal h) (fun s => s.sigSet (hSignal h) v) (.sigSet (hSignal h) v)
  else match s.resolveBlock x.ctx h with
    | .error t => .trap t
    | .ok b =>
      match reg with
      | some n =>
        if hOff h % 4 != 0 then .trap (misaligned 0)
        else writeBlock u s h b ((liveLanes x (s.lmNow u x)).flatMap (fun j => laneBytes (hOff h + 4 * j) (x.vLane n j)))
      | none =>
        if hOff h % 8 != 0 then .trap (misaligned 0)
        else writeBlock u s h b (wordBytes 8 (hOff h) v)

def execStb (h src : Src) (s : State) : Host.Outcome State Fault Refusal :=
  runUnit (.stb h src) avTS [h, src] [] (fun u x s vh vs _ => storeBlock u x s vh src vs) s

def execStbx (sc : Fin 4) (vs : VReg) (h : Src) (vi : VReg) (s : State) : Host.Outcome State Fault Refusal :=
  runUnit (.stbx sc vs h vi) avTS [h, .v vi, .v vs] [] (fun u x s vh _ _ =>
    match s.needBlock x.ctx vh with
    | .error t => .trap t
    | .ok b =>
      let live := liveLanes x (s.lmNow u x)
      if live.any (fun j => idxOff x vh sc vi j % 4 != 0) then .trap (misaligned 0)
      else writeBlock u s vh b (live.flatMap (fun j => laneBytes (idxOff x vh sc vi j) (x.vLane vs j)))) s

/-! ### Tensor maps (R290) -/

/-- The handle of row `idx` of a tensor map. -/
def tmapHandle (h geo idx : W64) : Except Trap W64 :=
  let rowb := fld geo.toNat 0 16
  let rows := fld geo.toNat 16 16
  if fld geo.toNat 32 32 != 0 || rows = 0 || rowb = 0 || rowb % 4 != 0 then .error (illegal 2)
  else
    let off := hOff h + idx.toNat % rows * rowb
    if 65536 ≤ off then .error (illegal 2) else .ok (withOff h off)

/-- The second register of a pair. -/
def pairOf (n : SReg) : SReg := Fin.ofNat 16 (n.val + 1)

def execTmap (d : Dst) (sn : SReg) (idx : Src) (s : State) : Host.Outcome State Fault Refusal :=
  runUnit (.tmap d sn idx) avTS [.s sn, idx, .s (pairOf sn)] [d] (fun _ x s vh vi _ =>
    match tmapHandle vh (x.sReg (pairOf sn)) vi with
    | .error t => .trap t
    | .ok h => .write s d 0 h 1) s

/-- LDT and STT take a block's handle: a signal handle is refused (R77). -/
def tmapBlock (h geo idx : W64) : Except Trap W64 :=
  match tmapHandle h geo idx with
  | .error t => .error t
  | .ok h => if isSignalHandle h then .error (illegal 2) else .ok h

def execLdt (d : VReg) (sn : SReg) (idx : Src) (s : State) : Host.Outcome State Fault Refusal :=
  runUnit (.ldt d sn idx) avTS [.s sn, idx, .s (pairOf sn)] [.v d] (fun u x s vh vi _ =>
    match tmapBlock vh (x.sReg (pairOf sn)) vi with
    | .error t => .trap t
    | .ok h => loadBlock u x s (.v d) h) s

def execStt (vs : VReg) (sn : SReg) (idx : Src) (s : State) : Host.Outcome State Fault Refusal :=
  runUnit (.stt vs sn idx) avTS [.s sn, idx, .s (pairOf sn), .v vs] [] (fun u x s vh vi _ =>
    match tmapBlock vh (x.sReg (pairOf sn)) vi with
    | .error t => .trap t
    | .ok h => storeBlock u x s h (.v vs) 0) s

end Sys2Proof.Machine
end

