-- ==== Sys2Proof/Machine/Global.lean ====
section
/-! DEFINITION. Global accesses: LDG, STG, GATH, SCAT, PREF, ORDER, FENCE, ATOM, CAS and FATOM (R168 to R180, R184,
R331 to R333, R340, R353, R362, R363, R367, R368, R382, R399, R406, R431, R432). -/
namespace Sys2Proof.Machine

def isVDst : Dst → Bool
  | .v _ => true
  | _ => false

def vSrc : Src → Option VReg
  | .v n => some n
  | _ => none

/-- Bytes of an access that is not a lane vector. -/
def sizeBytes : Size → Nat
  | .natural => 8
  | .b1 => 1
  | .b2 => 2
  | .b4 => 4

/-- The invocation made unrevocable and every held event of the region set to be performed (R333). -/
def State.performHeld (s : State) (x : Unit) : State := (s.makeUnrevocable x.region x.invix).forceHeld x.region

/-- A load's events sent once held atomics that cover them, and with them every held event of the region, are performed
(R177, R333). One that waits waits in `s0`, the state before its translation, which counts it once, when it goes on (R199). -/
def finishLoads (u : Nat) (x : Unit) (s0 s : State) (phase : Nat) (ls : List (List Event × Land)) : Res :=
  if s.heldCovers x.region (ls.flatMap (·.1)) true then .wait (s0.performHeld x) 1
  else if phase = 1 && (s.heldDue x.region || !s.noInvals u .package) then .wait s0 1
  else
    let s := s.noteSeen x.region u (ls.flatMap (·.1))
    let ls := ls.map (fun l => (l.1.map (s.overlay x.region), l.2))
    loadRes x.isSeq ls (s.sendLoads u x.isSeq ls)

def ldgLand (x : Unit) (lm : BitVec 128) (sx : Bool) : Dst → Land
  | .v n => .v n lm
  | .s n => .s n sx
  | .o n => .o (Tab.get x.outs n.val []) sx
  | _ => .none

def execLdg (sz : Size) (sx : Bool) (d : Dst) (addr : Src) (s : State) : Host.Outcome State Fault Refusal :=
  runUnit (.ldg sz sx d addr) avTS [addr] [d] (fun u x s va _ phase =>
    let n := if isVDst d then x.lanes * 4 else sizeBytes sz
    if va.toNat % (if isVDst d then 4 else sizeBytes sz) != 0 then .trap (misaligned va)
    else match s.translateAccess u x wantRead true (loadPieces va.toNat n) with
      | (s, .fault t) => .portFault s phase t
      | (s, .hold h) => .hold s phase h
      | (t, .ok evs) => finishLoads u x s t phase [(evs, ldgLand x (s.lmNow u x) sx d)]) s

/-- A store's access: held in a revocable invocation (R202). -/
def wantStore (s : State) (x : Unit) : Want := wantWrite.held (!s.unrevocable x.region x.invix)

/-- Stores accepted: held in a revocable invocation, each as its events; performed as issued in an unrevocable one
(R177, R179). -/
def acceptStores (u : Nat) (x : Unit) (s : State) (groups : List (List Event)) : Res :=
  if s.unrevocable x.region x.invix then
    .done (groups.foldl (fun s evs => if evs.isEmpty then s else (s.send u (.access evs none .none)).1) s)
  else match s.holdAll u x .system (groups.flatMap id) with
    | .ok s => .done s
    | .error va => .overflow s va

def execStg (sz : Size) (addr src : Src) (s : State) : Host.Outcome State Fault Refusal :=
  runUnit (.stg sz addr src) avTS [addr, src] [] (fun u x s va vs _ =>
    let n := if (vSrc src).isSome then x.lanes * 4 else sizeBytes sz
    let bs := match vSrc src with
      | some r => (liveLanes x (s.lmNow u x)).flatMap (fun j => laneBytes (4 * j) (x.vLane r j))
      | none => wordBytes (sizeBytes sz) 0 vs
    if va.toNat % (if (vSrc src).isSome then 4 else sizeBytes sz) != 0 then .trap (misaligned va)
    else match s.translateAccess u x (wantStore s x) true (storePieces va.toNat n bs) with
      | (s, .fault t) => .portFault s 0 t
      | (s, .hold h) => .hold s 0 h
      | (s, .ok evs) => acceptStores u x s [evs]) s

/-! ### GATH and SCAT (R367, R368, R432) -/

def widthBytes : Width → Nat
  | .w8 => 1
  | .w16 => 2
  | .w32 => 4
  | .w64 => 8

/-- The address of lane `j`. -/
def gathAddr (x : Unit) (base : W64) (sc : Fin 4) (vi : VReg) (j : Nat) : W64 :=
  base + ((x.vLane vi j).signExtend 64 <<< sc.val)

/-- Lanes are checked in ascending order: those before the first misaligned one are translated first. -/
def gathPieces (ls : List (Nat × W64)) (size : Nat) : List (Nat × W64) × Option W64 :=
  let ok := ls.takeWhile (fun l => l.2.toNat % size == 0)
  (ok, (ls.drop ok.length).head?.map (·.2))

def execGath (ew : Width) (sx : Bool) (sc : Fin 4) (d : VReg) (base : Src) (vi : VReg) (s : State) :
    Host.Outcome State Fault Refusal :=
  runUnit (.gath ew sx sc d base vi) avTS [base, .v vi] [.v d] (fun u x s vb _ phase =>
    let ls := (liveLanes x (s.lmNow u x)).map (fun j => (j, gathAddr x vb sc vi j))
    let (ok, bad) := gathPieces ls (widthBytes ew)
    match s.translatePieces u x wantRead true true 0 (ok.map (fun l => ⟨l.2.toNat, widthBytes ew, []⟩)) with
    | (s, .fault t) => .portFault s phase t
    | (s, .hold h) => .hold s phase h
    | (t, .ok evs) =>
      match bad with
      | some a => .trap (misaligned a)
      | none => finishLoads u x s t phase ((ok.zip evs).map (fun l => ([l.2], Land.lane d l.1.1 sx)))) s

def execScat (ew : Width) (sc : Fin 4) (vs : VReg) (base : Src) (vi : VReg) (s : State) :
    Host.Outcome State Fault Refusal :=
  runUnit (.scat ew sc vs base vi) avTS [base, .v vi, .v vs] [] (fun u x s vb _ _ =>
    let ls := (liveLanes x (s.lmNow u x)).map (fun j => (j, gathAddr x vb sc vi j))
    let n := widthBytes ew
    let (ok, bad) := gathPieces ls n
    match s.translatePieces u x (wantStore s x) true true 0
        (ok.map (fun l => ⟨l.2.toNat, n, (laneBytes 0 (x.vLane vs l.1)).take n⟩)) with
    | (s, .fault t) => .portFault s 0 t
    | (s, .hold h) => .hold s 0 h
    | (s, .ok evs) =>
      match bad with
      | some a => .trap (misaligned a)
      | none => acceptStores u x s (evs.map (fun e => [e]))) s

/-! ### PREF (R406) -/

/-- The checks that PREF shares with CLEAN, INVL, PIN, UNPIN and FILL: a line address, 1 to 65,536 lines (R341). -/
def linesCheck (a n : W64) : Option Trap :=
  if a.toNat % 128 != 0 then some (misaligned a)
  else if n = 0 || 65536 < n.toNat then some (illegal 2)
  else none

/-- One line prefetched: whatever would fault is dropped silently. -/
def prefLine (u : Nat) (x : Unit) (s : State) (va : Nat) : State :=
  match s.translateFor u x va 1 wantRead true with
  | (s, .ok loc page _ _) =>
    if loc.kind == .peer || s.setPinned (setOfLine (s.homeDistrict x.part loc) loc) then s
    else (s.homeRead x.part loc 128 page.cmode page.depot).1
  | (s, _) => s

def execPref (addr n : Src) (s : State) : Host.Outcome State Fault Refusal :=
  runUnit (.pref addr n) avTS [addr, n] [] (fun u x s va vn _ =>
    match linesCheck va vn with
    | some t => .trap t
    | none => .done ((List.range vn.toNat).foldl (fun s i => prefLine u x s (va.toNat + 128 * i)) s)) s

/-! ### ORDER and FENCE (R169 to R171) -/

/-- What the end of an ORDER or FENCE leaves for later writes of the unit (R174). -/
def State.fenced (s : State) (u : Nat) (scope : Scope) : State :=
  match scopeOf u scope with
  | .package | .system => s.fenceHeld u
  | _ => s

def execOrder (scope : Scope) (o : Chan) (s : State) : Host.Outcome State Fault Refusal :=
  runUnit (.order scope o) avTS [] [.o o] (fun u x s _ _ _ =>
    if s.performedAt u scope then .emit (s.fenced u scope) [⟨Tab.get x.outs o.val [], orderTok⟩] false
    else .wait s 0) s

def execFence (scope : Scope) (s : State) : Host.Outcome State Fault Refusal :=
  runUnit (.fence scope) avTSD [] [] (fun u _ s _ _ _ =>
    if s.performedAt u scope then .done (s.fenced u scope) else .wait s 0) s

/-! ### Atomics (R331 to R333, R340, R363) -/

/-- The scope is DIE or wider. -/
def beyondRegion (scope : Scope) : Bool := scope != .region

/-- An atomic that returns nothing is sent and does not block; where held events cover its location, every held event of the
region is to be performed first, and it is sent behind them (R332, R333). -/
def State.sendAtomic (s : State) (u : Nat) (x : Unit) (evs : List Event) (rmw : Rmw) : State :=
  if s.heldCovers x.region evs false then
    (s.performHeld x).sendBehind u (.access evs (some rmw) .none) ((s.heldOf x.region).map (·.order))
  else (s.send u (.access evs (some rmw) .none)).1

/-- An atomic of `n` bytes at `a`. A fetching one that waits waits in the state before its translation, as a load does. -/
def atomicBody (n : Nat) (rmw : Rmw) (scope : Scope) (d : Dst) (u : Nat) (x : Unit) (s : State) (a : W64)
    (phase : Nat) : Res :=
  let fetching := d != .discard
  if a.toNat % n != 0 then .trap (misaligned a)
  else
    let kept := !fetching && beyondRegion scope && !s.unrevocable x.region x.invix
    match s.translateAccess u x ((wantAtomic scope).held kept) true [⟨a.toNat, n, []⟩] with
    | (s, .fault t) => .portFault s phase t
    | (s, .hold h) => .hold s phase h
    | (t, .ok evs) =>
      if kept then
        match evs with
        | e :: _ => (match t.hold1 u x e (some rmw) scope with
            | some s => .done s
            | none => .overflow t a.toNat)
        | [] => .done t
      else if !fetching then .done (t.sendAtomic u x evs rmw)
      else
        let ends := beyondRegion scope
        let free := fun (s : State) => if ends then s.makeUnrevocable x.region x.invix else s
        if ends && (s.heldUpTo x.region x.invix || !s.noInvals u scope) then .wait (free s) (max 1 phase)
        else if s.heldCovers x.region evs false then .wait ((free s).performHeld x) 2
        else if phase = 2 && (s.heldDue x.region || !s.noInvals u .package) then .wait (free s) 2
        else
          let r := (free t).send u (.access evs (some rmw) (ldgLand x 0 false d))
          .block r.1 (.answer [r.2])

def execAtom (op : AtomOp) (w : Bool) (scope : Scope) (d : Dst) (addr v : Src) (s : State) :
    Host.Outcome State Fault Refusal :=
  runUnit (.atom op w scope d addr v) avTS [addr, v] [d] (fun u x s va vv phase =>
    atomicBody (if w then 8 else 4) (.atom op vv) scope d u x s va phase) s

def execCas (w : Bool) (scope : Scope) (d : Dst) (addr : Src) (sn : SReg) (s : State) :
    Host.Outcome State Fault Refusal :=
  runUnit (.cas w scope d addr sn) avTS [addr, .s sn, .s (pairOf sn)] [d] (fun u x s va _ phase =>
    atomicBody (if w then 8 else 4) (.cas (x.sReg sn) (x.sReg (pairOf sn))) scope d u x s va phase) s

def fatomBytes : FTy → Nat
  | .fp32 => 4
  | _ => 2

/-- FATOM's operand: an immediate is converted to the type (R49, R362). -/
def fatomVal (ty : FTy) (v : Src) (vv : W64) : W64 :=
  match v with
  | .imm i => w64 (immFl (fmtOfF ty) i)
  | _ => vv

def execFatom (ty : FTy) (op : FAtomOp) (scope : Scope) (d : Dst) (addr v : Src) (s : State) :
    Host.Outcome State Fault Refusal :=
  runUnit (.fatom ty op scope d addr v) avTS [addr, v] [d] (fun u x s va vv phase =>
    atomicBody (fatomBytes ty) (.fatom ty op (fatomVal ty v vv)) scope d u x s va phase) s

end Sys2Proof.Machine
end

