-- ==== Sys2Proof/Machine/Engines.lean ====
section
/-! DEFINITION. The engine instructions: STRM, COPY, WPTR, MCAST, FILL, PIN, UNPIN, CLEAN and INVL (R99, R155, R163,
R164, R341, R347 to R349, R365, R374, R388 to R390, R403, R433 to R435, R444, R450). -/
namespace Sys2Proof.Machine

/-! ### Descriptors -/

/-- No store of the unit to another station's block is still on its way to the block's station (R168). -/
def State.blockQuiet (s : State) (u : Nat) (h : W64) : Bool :=
  !s.mesh.any (fun p => p.unit == u &&
    (match p.req with
     | .blockWrite g _ => hStn g == hStn h
     | _ => false))

/-- `n` words read through a handle whose offset must be a multiple of 32. -/
def State.loadWords (s : State) (u : Nat) (x : Unit) (h : W64) (n : Nat) : Except Trap (State × List W64) :=
  match s.needBlock x.ctx h with
  | .error t => .error t
  | .ok b =>
    if hOff h % 32 != 0 then .error (misaligned 0)
    else .ok (s.noteOor u h b ((List.range (8 * n)).map (fun i => hOff h + i)),
              (List.range n).map (fun i => w64 (s.blockNat (hStn h) b (hOff h + 8 * i) 8)))

def wordAt (ws : List W64) (i : Nat) : Nat := (ws.getD i 0).toNat

/-- A completion path of the station reaches channel `c` of unit `u` (R347). -/
def State.completionPath (s : State) (u c : Nat) : Option (Nat × ArcState) :=
  (s.station (stnOf u)).arcs.find? (fun a => a.2.path && a.2.unit == u && a.2.ch == c)

/-- Word 3 of a copy or multicast descriptor is sound: reserved bits 0, and a path where a token is asked for. -/
def State.completionOk (s : State) (u w3 : Nat) : Bool :=
  fld w3 11 49 == 0 && (!w3.testBit 63 || (s.completionPath u (fld w3 60 3)).isSome)

/-! ### Runs of lines (R341, R365, R374, R403, R444) -/

/-- What became of one line. -/
inductive LineRes where
  | next (s : State)
  | stop (s : State) (status : Nat)
  | wait (s : State)

/-- What the phase of a run of lines holds besides: the line waits at its home, where its translation stands. -/
def askedMark : Nat := 2 ^ 17

/-- The lines from number `i` on, in ascending order: each is translated and acted on. Phase `i + 1` carries on at
line `i`; `asked` says that this line was translated before and counts no more. -/
def overLines (u : Nat) (x : Unit) (a : Nat) (w : Want) (f : Nat → State → Loc → PageBits → LineRes)
    (fin : State → Nat → Nat → Res) : Nat → Nat → Bool → State → Res
  | 0, i, _, s => fin s 0 i
  | left + 1, i, asked, s =>
    match s.translateFor u x (a + 128 * i) (b2n (!asked)) w true with
    | (s, .fault t) => .portFault s (i + 1) t
    | (s, .invalid level) =>
      let (s, h) := s.withhold u x (a + 128 * i) level (accessCode w) false
      .hold s (i + 1) h
    | (s, .wb) =>
      let (s, h) := s.withhold u x (a + 128 * i) 0 (accessCode w) true
      .hold s (i + 1) h
    | (s, .ok loc page _ _) =>
      match f (a + 128 * i) s loc page with
      | .next s => overLines u x a w f fin left (i + 1) false s
      | .stop s status => fin s status i
      | .wait s => .wait s (i + 1 + askedMark)

/-- The run of lines of an instruction in its phase. -/
def runLines (u : Nat) (x : Unit) (a n : W64) (phase : Nat) (w : Want) (f : Nat → State → Loc → PageBits → LineRes)
    (fin : State → Nat → Nat → Res) (s : State) : Res :=
  let i := phase % askedMark - 1
  overLines u x a.toNat w f fin (n.toNat - i) i (decide (askedMark ≤ phase)) s

/-- A line that is Filling is waited for; else it is acted on (R154). -/
def whenFilled (p : Nat) (f : Nat → State → Loc → PageBits → LineRes) (va : Nat) (s : State) (loc : Loc) (page : PageBits) :
    LineRes :=
  if s.isFilling p loc then .wait s else f va s loc page

/-- Done once the invalidations that the lines sent are acknowledged; else carried on behind the last line. -/
def doneAfterInvals (u : Nat) (s : State) (i : Nat) : Res :=
  if s.noInvals u .package then .done s else .wait s (i + 1)

def execClean (addr n : Src) (s : State) : Host.Outcome State Fault Refusal :=
  runUnit (.clean addr n) avTS [addr, n] [] (fun u x s va vn phase =>
    match linesCheck va vn with
    | some t => .trap t
    | none =>
      if phase = 0 && !s.performedAt u .package then .wait s 0
      else runLines u x va vn phase wantRead
        (whenFilled x.part (fun _ s loc _ => .next (s.cleanLine x.part loc))) (fun s _ _ => .done s) s) s

def execInvl (addr n : Src) (s : State) : Host.Outcome State Fault Refusal :=
  runUnit (.invl addr n) avTS [addr, n] [] (fun u x s va vn phase =>
    match linesCheck va vn with
    | some t => .trap t
    | none =>
      if phase = 0 && !s.performedAt u .package then .wait s 0
      else runLines u x va vn phase wantRead
        (whenFilled x.part (fun _ s loc _ => .next (s.invlLine x.part loc [u])))
        (fun s _ i => doneAfterInvals u s i) s) s

/-- Byte `i` of a line of copies of a pattern. -/
def patByte (pat : W64) (i : Nat) : Byte := BitVec.ofNat 8 (pat.toNat >>> (8 * (i % 8)))

/-- The four events that write a peer line with a pattern. -/
def fillEvents (pat : W64) (va : Nat) (loc : Loc) (page : PageBits) : List Event :=
  (List.range 4).map (fun k => ⟨va + 32 * k, ⟨loc.kind, loc.addr + 32 * k⟩, page, 32,
    (List.range 32).map (fun i => (i, patByte pat i)), []⟩)

/-- A whole line written with 16 copies of a pattern (R154, R365); a host line is first taken in E or M (R297), and a peer line is
written by a packet, which waits while its port sends only idle flits, and has its response when it is performed (R305, R306). -/
def fillLine (u : Nat) (x : Unit) (pat : W64) (va : Nat) (s : State) (loc : Loc) (page : PageBits) : LineRes :=
  if loc.kind == .peer then .next (s.send u (.access (fillEvents pat va loc page) none .none)).1
  else if pat = 0 && loc.kind == .device && !page.depot then .next (s.homeZero x.part loc [u])
  else match s.ownHost x.part loc page.cmode with
    | some (s, _) => .wait s
    | none => .next (s.homeWrite x.part loc page.cmode page.depot ((List.range 128).map (fun i => (i, patByte pat i))) [u])

/-- Held events performed and the invocation made unrevocable, and every earlier access performed (R211, R348, R365):
`none` while that is still awaited. -/
def State.publish (s : State) (u : Nat) (x : Unit) : State × Bool :=
  let s := s.makeUnrevocable x.region x.invix
  (s, !s.heldUpTo x.region x.invix && s.performedAt u .package)

def execFill (sn : SReg) (cnt : Src) (s : State) : Host.Outcome State Fault Refusal :=
  runUnit (.fill sn cnt) avTS [.s sn, cnt, .s (pairOf sn)] [] (fun u x s va vn phase =>
    match linesCheck va vn with
    | some t => .trap t
    | none =>
      let r := if phase = 0 then s.publish u x else (s, true)
      if !r.2 then .wait r.1 0
      else runLines u x va vn phase wantWrite (whenFilled x.part (fillLine u x (x.sReg (pairOf sn))))
        (fun s _ i => if s.noPackets u then doneAfterInvals u s i else .wait s (i + 1)) r.1) s

/-! ### PIN and UNPIN (R155, R403, R444) -/

/-- A line pinned for the unit's context: an Absent line is filled first, into a way in a NOALLOC page too (R155). Status 1 is
FULL, 2 a peer line. -/
def pinLine (x : Unit) (_ : Nat) (s : State) (loc : Loc) (page : PageBits) : LineRes :=
  if loc.kind == .peer then .stop s 2
  else
    let key := s.keyOf x.part loc
    let set := setOfLine (s.homeDistrict x.part loc) loc
    match s.line? key with
    | none =>
      if s.setPinned set then .stop s 1
      else .wait (s.openFill x.part loc (if page.cmode == 2 then 0 else page.cmode) page.depot)
    | some l =>
      if l.kind == .filling then .wait s
      else if l.way == bypassWay then .wait (s.evict key)
      else if l.pins.contains x.ctx then .next s
      else if l.kind == .present && l.pins.isEmpty && s.setPinned set then .stop s 1
      else .next (s.putLine key { l with pins := l.pins ++ [x.ctx] })

def execPin (d : Dst) (addr n : Src) (s : State) : Host.Outcome State Fault Refusal :=
  runUnit (.pin d addr n) avTS [addr, n] [d] (fun u x s va vn phase =>
    match linesCheck va vn with
    | some t => .trap t
    | none => runLines u x va vn phase wantRead (pinLine x)
        (fun s status i => .write s d 0 (w64 (status * 2 ^ 56 + i)) 1) s) s

/-- The unit's context's pin removed. -/
def unpinLine (x : Unit) (_ : Nat) (s : State) (loc : Loc) (_ : PageBits) : LineRes :=
  match s.line? (s.keyOf x.part loc) with
  | some l => .next (s.putLine (s.keyOf x.part loc) { l with pins := l.pins.filter (· != x.ctx) })
  | none => .next s

def execUnpin (addr n : Src) (s : State) : Host.Outcome State Fault Refusal :=
  runUnit (.unpin addr n) avTS [addr, n] [] (fun u x s va vn phase =>
    match linesCheck va vn with
    | some t => .trap t
    | none => runLines u x va vn phase wantRead (unpinLine x) (fun s _ _ => .done s) s) s

/-! ### COPY and WPTR (R99, R347 to R349, R450) -/

def Station.copy (st : Station) (c : Nat) : CopyChan := Tab.get st.copies c CopyChan.reset
def Station.setCopy (st : Station) (c : Nat) (x : CopyChan) : Station :=
  { st with copies := Tab.set CopyChan.reset st.copies c x }

/-- One side of a copy: a handle that resolves at an aligned offset, or an aligned virtual address. -/
def State.copySide (s : State) (ctx : Nat) (global : Bool) (w : W64) : Except Trap Nat :=
  if global then (if w.toNat % 32 != 0 then .error (misaligned w) else .ok 0)
  else match s.needBlock ctx w with
    | .error t => .error t
    | .ok _ => if hOff w % 32 != 0 then .error (misaligned 0) else .ok 0

def copyDst (ws : List W64) : W64 := ws.getD 0 0
def copySrc (ws : List W64) : W64 := ws.getD 1 0
def copyDstGlobal (ws : List W64) : Bool := (wordAt ws 2).testBit 33
def copySrcGlobal (ws : List W64) : Bool := (wordAt ws 2).testBit 32
def copyLen (ws : List W64) : Nat := fld (wordAt ws 2) 0 32

/-- PTR of a channel as the units of region `r` see it: of what the channel has run since the configuration was loaded, or
as the region brought it from a switch-out (R223, R450; DEDUCED, log entry 95). -/
def Station.ptrOf (st : Station) (r ch : Nat) : Nat :=
  let c := st.copy ch
  let e := Tab.get st.copied r (0, [])
  if c.busy || decide (e.1 ≤ c.ran) then c.ptr else Tab.get e.2 ch 0

/-- The sides of a copy in the order of their checks: scratchpad sides first, then global ones (R348). -/
def copySides (ws : List W64) : List (Bool × W64) :=
  let sides := [(copyDstGlobal ws, copyDst ws), (copySrcGlobal ws, copySrc ws)]
  sides.filter (fun e => !e.1) ++ sides.filter (·.1)

/-- The checks on a copy descriptor. -/
def State.copyCheck (s : State) (u : Nat) (x : Unit) (ws : List W64) : Option Trap :=
  let len := copyLen ws
  if fld (wordAt ws 2) 34 30 != 0 || !s.completionOk u (wordAt ws 3) || len % 32 != 0 || len < 32 || 2 ^ 31 < len
      || (copyDstGlobal ws && fld (copyDst ws).toNat 55 9 != 0) || (copySrcGlobal ws && fld (copySrc ws).toNat 55 9 != 0)
  then some (illegal 2)
  else (copySides ws).firstM (fun e => match s.copySide x.ctx e.1 e.2 with
    | .error t => some t
    | .ok _ => none)

/-- COPY: the descriptor is read and checked in phase 0; then the unit waits for its accesses and for the channel. -/
def execCopy (desc ch : Src) (s : State) : Host.Outcome State Fault Refusal :=
  runUnit (.copy desc ch) avTS [desc, ch] [] (fun u x s vd vc phase =>
    if 7 < vc.toNat then .trap (illegal 2)
    else if phase = 0 then
      if !s.blockQuiet u vd then .wait s 0
      else match s.loadWords u x vd 4 with
        | .error t => .trap t
        | .ok (s, ws) =>
          match s.copyCheck u x ws with
          | some t => .trap t
          | none => .waitWith s 1 ws
    else
      let ws := s.cur.words
      let r := if copyDstGlobal ws then s.publish u x else (s, s.performedAt u .package)
      let st := r.1.station (stnOf u)
      if !r.2 || (st.copy vc.toNat).busy then .wait r.1 1
      else .done (r.1.setStation (stnOf u) (st.setCopy vc.toNat ⟨true, u, ws, 0, false, none, [], false, false, st.loads⟩))) s

def execWptr (d : Dst) (ch : Src) (s : State) : Host.Outcome State Fault Refusal :=
  runUnit (.wptr d ch) avTS [ch] [d] (fun u x s vc _ _ =>
    if 7 < vc.toNat then .trap (illegal 2)
    else
      let st := s.station (stnOf u)
      .write s d 0 (w64 (b2n (st.copy vc.toNat).busy * 2 ^ 63 + st.ptrOf x.region vc.toNat)) 2) s

/-! ### MCAST (R388 to R390) -/

def mcastDests (ws : List W64) : List W64 := ws.drop 4
def mcastCount (ws : List W64) : Nat := fld (wordAt ws 1) 32 6 + 1
def mcastLen (ws : List W64) : Nat := fld (wordAt ws 1) 0 32

/-- The checks on one destination: a block in a station of this die and region, at an aligned offset. -/
def State.mcastDest (s : State) (u : Nat) (x : Unit) (h : W64) : Option Trap :=
  let here := match s.region? x.region with
    | some r => r.stations.contains (hStn h)
    | none => false
  if isSignalHandle h then some (illegal 2)
  else match s.resolveBlock x.ctx h with
    | .error t => some t
    | .ok _ =>
      if !here || dieOfStn (hStn h) != dieOfUnit u then some (illegal 2)
      else if hOff h % 32 != 0 then some (misaligned 0)
      else none

def State.mcastCheck (s : State) (u : Nat) (x : Unit) (ws : List W64) : Option Trap :=
  let len := mcastLen ws
  if fld (wordAt ws 0) 55 9 != 0 || fld (wordAt ws 1) 38 26 != 0 || wordAt ws 2 != 0 || !s.completionOk u (wordAt ws 3)
      || len % 128 != 0 || len < 128 || 65536 < len || wordAt ws 0 % 128 != 0
  then some (illegal 2)
  else (mcastDests ws).findSome? (s.mcastDest u x)

/-- The lines of a multicast, from number `i` on: each is translated as an engine transfer and its read is sent. -/
def mcastLines (u : Nat) (x : Unit) (mc a : Nat) : Nat → Nat → State → Res
  | 0, _, s => .done { s with mcasts := s.mcasts.map (fun m => if m.1 = mc then (m.1, { m.2 with st := .sent }) else m) }
  | left + 1, i, s =>
    match s.translateFor u x (a + 128 * i) 1 wantRead true with
    | (s, .ok loc page _ _) =>
      if loc.kind == .peer then .portFault s (i + 2) ⟨.permission, 0, w64 (a + 128 * i)⟩
      else mcastLines u x mc a left (i + 1) (s.send u (.mcast mc i loc page)).1
    | (s, .fault t) => .portFault s (i + 2) t
    | (s, .invalid level) => let (s, h) := s.withhold u x (a + 128 * i) level 3 false; .hold s (i + 2) h
    | (s, .wb) => let (s, h) := s.withhold u x (a + 128 * i) 0 3 true; .hold s (i + 2) h

/-- A multicast of the unit that is still sending its lines. -/
def State.sendingMcast (s : State) (u r : Nat) : Option Nat :=
  (s.mcasts.find? (fun m => m.2.unit == u && m.2.region == r && m.2.st == .sending)).map (·.1)

/-- A multicast cut short by a fault: the lines sent are delivered, nothing is signalled (R389). -/
def breakMcast (isSeq : Bool) (mc : Nat) (r : Res) : Res :=
  match r with
  | .portFault s phase t =>
    if isSeq then
      .portFault { s with
        mcasts := s.mcasts.map (fun m => if m.1 = mc then (m.1, { m.2 with st := .broken }) else m) } phase t
    else r
  | _ => r

def execMcast (desc : Src) (s : State) : Host.Outcome State Fault Refusal :=
  runUnit (.mcast desc) avTS [desc] [] (fun u x s vd _ phase =>
    if phase = 0 then
      if !s.blockQuiet u vd then .wait s 0
      else match s.loadWords u x vd 4 with
        | .error t => .trap t
        | .ok (s1, ws) =>
          match s1.loadWords u x vd (4 + mcastCount ws) with
          | .error t => .trap t
          | .ok (s1, ws) =>
            match s1.mcastCheck u x ws with
            | some t => .trap t
            | none => .waitWith s1 1 ws
    else
      let ws := s.cur.words
      let n := mcastLen ws / 128
      if phase = 1 then
        if !s.performedAt u .package then .wait s 1
        else
          let s1 : State := { s with
            mcasts := Tab.put s.mcasts s.ids ⟨u, x.region, x.ctx, ws, .sending, none⟩, ids := s.ids + 1 }
          breakMcast x.isSeq s.ids (mcastLines u x s.ids (wordAt ws 0) n 0 s1)
      else match s.sendingMcast u x.region with
        | some mc => breakMcast x.isSeq mc (mcastLines u x mc (wordAt ws 0) (n - (phase - 2)) (phase - 2) s)
        | none => .done s) s

/-! ### STRM (R433, R434) -/

def strmSrcGlobal (ws : List W64) : Bool := (wordAt ws 3).testBit 63
def strmStride (ws : List W64) : Nat := fld (wordAt ws 2) 32 32
def strmRows (ws : List W64) : Nat := fld (wordAt ws 2) 16 16
def strmRowB (ws : List W64) : Nat := fld (wordAt ws 2) 0 16
def strmDRows (ws : List W64) : Nat := fld (wordAt ws 3) 32 8
def strmValid (ws : List W64) : Nat := fld (wordAt ws 3) 0 32
def strmBlk (ws : List W64) : W64 := ws.getD 1 0

/-- The checks on a stream descriptor. -/
def State.strmCheck (s : State) (u : Nat) (x : Unit) (ws : List W64) : Option Trap :=
  let src := ws.getD 0 0
  if fld (wordAt ws 3) 40 23 != 0 || (strmSrcGlobal ws && fld src.toNat 55 9 != 0) || strmStride ws % 4 != 0
      || strmRows ws = 0 || strmRowB ws % 32 != 0 || strmRowB ws < 32 || 512 < strmRowB ws || strmDRows ws = 0
  then some (illegal 2)
  else if isSignalHandle (strmBlk ws) then some (illegal 2)
  else match s.resolveBlock x.ctx (strmBlk ws) with
    | .error t => some t
    | .ok _ =>
      if hStn (strmBlk ws) != stnOf u then some (illegal 2)
      else if hOff (strmBlk ws) % 32 != 0 then some (misaligned 0)
      else if strmSrcGlobal ws then (if src.toNat % 4 != 0 then some (misaligned src) else none)
      else match s.needBlock x.ctx src with
        | .error t => some t
        | .ok _ => if hOff src % 4 != 0 then some (misaligned 0) else none

def execStrm (o : Chan) (desc : Src) (s : State) : Host.Outcome State Fault Refusal :=
  runUnit (.strm o desc) avTS [desc] [.o o] (fun u x s vd _ phase =>
    if phase = 0 then
      if !s.blockQuiet u vd then .wait s 0
      else match s.loadWords u x vd 4 with
        | .error t => .trap t
        | .ok (s, ws) =>
          match s.strmCheck u x ws with
          | some t => .trap t
          | none => .waitWith s 1 ws
    else if !s.performedAt u .package then .wait s 1
    else .block s (.stream ⟨s.cur.words, Tab.get x.outs o.val [], 0, strmBlk s.cur.words, none, none, [], false, s.cur.slot,
      s.cur.cap.bind (·.taken)⟩)) s

end Sys2Proof.Machine
end

