-- ==== Sys2Proof/Machine/Land.lean ====
section
/-! DEFINITION. What lands at a station: the value of an answer, a multicast's line, and the one copy of a delivery that serves
every joined read there (R163, R330, R353, R389, R390). -/
namespace Sys2Proof.Machine

/-- In a region that is being drained, an emission that then finds no slot is withdrawn (R243). -/
def State.withdrawn (s : State) (u : Nat) : State := (s.withdraw u).onUnit u (fun y => { y with blocked := none, blockedUpd := .none })

/-- An emission of a region that is being drained is withdrawn where it waits. -/
def State.dropEmission (s : State) (u : Nat) : State :=
  match s.unit? u with
  | some x =>
    (match x.blocked with
     | some (.emit _ _ _) => if s.draining x then s.withdrawn u else s
     | _ => s)
  | none => s

/-- A value lands at the unit; the last answer that it waits for lets it go on. In a region that is being drained, an
emission that then finds no slot is withdrawn. -/
def State.landAnswer (s : State) (u id : Nat) (l : Land) (bs : List Byte) : State :=
  match s.unit? u with
  | none => s
  | some x =>
    (match x.blocked with
     | some (.answer ids) =>
       if ids.contains id then
         let left := ids.filter (· != id)
         if left.isEmpty then ((s.putUnit u { x with blocked := none }).land u l bs).onUnit u Unit.closeBlocked
         else (s.putUnit u { x with blocked := some (.answer left) }).land u l bs
       else (s.putUnit u { x with loads := x.loads.filter (fun e => e.1 != id) }).land u l bs
     | _ => (s.putUnit u { x with loads := x.loads.filter (fun e => e.1 != id) }).land u l bs).dropEmission u

/-- The landing place of an answer. -/
def Req.land : Req → Land
  | .access _ _ l | .sigTest _ _ _ l | .blockRead _ _ _ l | .bsize _ l => l
  | _ => .none

/-- The stations of a multicast's destinations. -/
def State.mcastStations (s : State) (mc : Nat) : List Nat :=
  match Tab.find s.mcasts mc with
  | some m => ((mcastDests m.words).map hStn).eraseDups
  | none => []

/-- A line delivered to the destinations of its multicast at station `n`; a stale one is dropped and noted (R389, R390). -/
def State.deliverLine (s : State) (mc line n : Nat) (bs : List Byte) : State :=
  match Tab.find s.mcasts mc with
  | none => s
  | some m => ((mcastDests m.words).filter (fun h => hStn h == n)).foldl (fun s h =>
      match s.resolveBlock m.ctx h with
      | .ok b => (s.noteOor m.unit h b ((List.range 128).map (fun i => hOff h + 128 * line + i))).blockPut (hStn h) b
          ((List.range 128).map (fun i => (hOff h + 128 * line + i, bs.getD i 0)))
      | .error _ => { s with mcasts := s.mcasts.map (fun e => if e.1 = mc then (e.1, { e.2 with stale := e.2.stale <|> some h }) else e) }) s

/-- The response of packet `id` arrives at station `n`: an answer lands; a multicast's line is delivered there, and its packet
is gone once each of its stations has its copy (R163). -/
def State.landPacket (n : Nat) (s : State) (id : Nat) : State :=
  match s.mesh.find? (fun p => p.id == id) with
  | none => s
  | some p =>
    match p.st with
    | .response bs =>
      (match p.req with
       | .mcast mc line _ _ =>
         let there := n :: p.there
         let s := if p.there.contains n then s else s.deliverLine mc line n bs
         if (s.mcastStations mc).all there.contains then { s with mesh := s.mesh.filter (fun q => q.id != id) }
         else s.setPacket id (fun q => { q with there := there })
       | req => { s with mesh := s.mesh.filter (fun q => q.id != id) }.landAnswer p.unit p.id req.land bs)
    | _ => s

/-- A packet has an end at a station. -/
def State.endsAt (s : State) (n : Nat) (p : Packet) : Bool :=
  match p.req with
  | .mcast mc _ _ _ => (s.mcastStations mc).contains n
  | _ => stnOf p.unit == n

/-- The packets of a delivery that have an end at a station. -/
def State.copyAt (s : State) (n d : Nat) : List Nat := (s.mesh.filter (fun q => q.deliv == d && s.endsAt n q)).map (·.id)

/-- The packets whose responses arrive with a packet's at a station: those of its delivery, whose one copy there serves every
destination (R163). -/
def State.arriving (s : State) (n : Nat) (p : Packet) : List Nat := if p.deliv = 0 then [p.id] else s.copyAt n p.deliv

/-- An engine at station `n` takes what was delivered to it: the copies that carried it serve every other destination there
(R163). -/
def State.takeDelivered (s : State) (who n : Nat) : State :=
  (s.delivered.filter (fun e => e.1 == who)).foldl (fun s e => (s.copyAt n e.2.2.1).foldl (State.landPacket n) s)
    { s with delivered := s.delivered.filter (fun e => e.1 != who) }

end Sys2Proof.Machine
end

