-- ==== Sys2Proof/Machine/Junction.lean ====
section
/-! DEFINITION. The junction instructions: WLOAD, WSWAP, MMA, ACCRD, ACCWR, ACCCLR, TTLOAD, RING, TINJ and RSTAT, and the
order in which a junction takes them (R120 to R132, R142, R146, R293, R327 to R329, R393 to R395, R415, R417, R437, R448,
R449). -/
namespace Sys2Proof.Machine

/-! ### The state of a junction -/

/-- Bytes of a value of a junction format (R124). -/
def jBytes : JFmt → Nat
  | .fp16 | .bf16 => 2
  | _ => 1

def jIsF8 : JFmt → Bool
  | .e4m3 | .e5m2 => true
  | _ => false

def Junction.bank (j : Junction) (n : Nat) : Bank := if n = 0 then j.bank0 else j.bank1
def Junction.setBank (j : Junction) (n : Nat) (b : Bank) : Junction :=
  if n = 0 then { j with bank0 := b } else { j with bank1 := b }

/-- The inactive bank's number. -/
def Junction.idle (j : Junction) : Nat := 1 - j.active

/-- A wavefront tagged with bank `n` is in flight. -/
def Junction.inFlight (j : Junction) (n : Nat) : Bool := j.waves.any (fun w => w.bank == n)

/-- WSWAP performed: the banks change places; the old active bank drains if a wavefront tagged with it is in flight
(R126). -/
def Junction.swap (j : Junction) : Junction :=
  let old := j.active
  let new := j.idle
  let j := j.setBank old { j.bank old with st := if j.inFlight old then .draining else .ready }
  { j.setBank new { j.bank new with st := .ready } with active := new }

/-- A fill of the inactive bank begins: format and scale are latched (R126). -/
def Junction.startLoad (j : Junction) (u : Option Nat) (op : JOp) (fmt : JFmt) (scale : Lane) : Junction :=
  { j.setBank j.idle { j.bank j.idle with fmt := fmt, scale := scale, st := .loading } with load := some (u, op) }

/-- The inactive bank can take a load. -/
def Junction.canLoad (j : Junction) : Bool := j.load.isNone && (j.bank j.idle).st == .ready

/-- The slot that an accumulator instruction acts on. -/
def JOp.accSlot : JOp → Option Nat
  | .accrd _ n | .accwr _ n | .accclr n => some n
  | _ => none

/-- The slot that an MMA feeds. -/
def JOp.mmaSlot : JOp → Option Nat
  | .mma _ _ n _ _ => some n
  | _ => none

/-- The MMA whose vectors are entering feeds the slot. -/
def Junction.feeding (j : Junction) (slot : Nat) : Bool :=
  match j.mma with
  | some (_, op, _) => op.mmaSlot == some slot
  | none => false

/-- The unit's wait at the junction ends. -/
def State.unblockJunction (s : State) (u : Nat) : State :=
  match s.unit? u with
  | some x => if x.blocked = some .junction then s.unblock u else s
  | none => s

/-- The loop line of a station: die * 8 + row. -/
def lineOf (stn : Nat) : Nat := stn / 8

/-- A run of the station's loop line is in progress (R127, R144). -/
def State.lineRuns (s : State) (stn : Nat) : Bool := (s.loopLine (lineOf stn)).running

/-- A vector has entered in the cycle: an instruction that reaches the junction behind it is performed in a later one, since one
performed in the cycle affects the vectors that enter in it (R123). -/
def Junction.enteredAt (j : Junction) (cyc : Nat) : Bool := j.waves.any (fun w => w.entered == cyc)

/-- Arrivals performed in order, as far as they can be (R123). An MMA stands at the head until its first vector enters; a
WLOAD, a WSWAP and an MMA that had arrived when the line was armed wait there while its run is in progress, and what has arrived
behind them waits with them (R123, R127; DEDUCED, log entry 102). -/
def State.pumpJunction (s : State) (n : Nat) : Nat → State
  | 0 => s
  | fuel + 1 =>
    let j := s.junction n
    match j.queue with
    | [] => s
    | (u, op) :: rest =>
      match op with
      | .wload _ fmt scale =>
        if j.canLoad && !s.lineRuns n then
          (s.setJunction n { j.startLoad (some u) op fmt scale with queue := rest }).pumpJunction n fuel
        else s
      | .wswap =>
        if (j.bank j.idle).st != .loading && !s.lineRuns n then
          ((s.setJunction n { j.swap with queue := rest }).unblockJunction u).pumpJunction n fuel
        else s
      | .mma _ _ _ _ _ => s
      | _ =>
        let slot := (op.accSlot).getD 0
        if j.xfer.isNone && !j.feeding slot then
          (s.setJunction n { j with xfer := some (u, op), queue := rest }).pumpJunction n fuel
        else s

def State.pump (s : State) (n : Nat) : State :=
  if (s.junction n).enteredAt (s.stnNow n) then s else s.pumpJunction n ((s.junction n).queue.length + 1)

/-- The instruction of unit `u` is still with the junction. -/
def Junction.holds (j : Junction) (u : Nat) : Bool :=
  j.queue.any (fun e => e.1 == u && (match e.2 with | .accclr _ => false | _ => true)) || j.awaiting.any (fun e => e.1 == u)
    || (match j.load with | some (some v, _) => v == u | _ => false)
    || (match j.mma with | some (v, _, _) => v == u | none => false)
    || (match j.xfer with | some (v, .accclr _) => (v == u) && false | some (v, _) => v == u | none => false)

/-- An instruction sent to the station's junction (R123). -/
def State.toJunction (s : State) (u : Nat) (op : JOp) : State :=
  (s.onJunction (stnOf u) (fun j => { j with queue := j.queue ++ [(u, op)] })).pump (stnOf u)

/-- A blocking instruction sent to the junction: its unit waits unless it is performed at once. -/
def submit (u : Nat) (s : State) (op : JOp) : Res :=
  let s := s.toJunction u op
  if (s.junction (stnOf u)).holds u then .block s .junction else .done s

/-- An instruction put among those that wait for the end of a run, by ascending element. -/
def insertAwait (e : Nat × JOp) : List (Nat × JOp) → List (Nat × JOp)
  | [] => [e]
  | f :: t => if e.1 < f.1 then e :: f :: t else f :: insertAwait e t

/-- A WLOAD, WSWAP or MMA: while a run of the station's line is in progress its unit waits for the end of the run, and only then
does it reach the junction, with those of other units in ascending order of elements (R123, R127, R394; DEDUCED, log entry
102). -/
def submitGated (u : Nat) (s : State) (op : JOp) : Res :=
  if s.lineRuns (stnOf u) then
    .block (s.onJunction (stnOf u) (fun j => { j with awaiting := insertAwait (u, op) j.awaiting })) .junction
  else submit u s op

/-- The run is over: what waited for its end reaches the junction. -/
def State.endAwait (s : State) (n : Nat) : State :=
  (s.onJunction n (fun j => { j with queue := j.queue ++ j.awaiting, awaiting := [] })).pump n

/-! ### Lines -/

/-- The run of the region's loop line is in progress (R144). -/
def State.regionRuns (s : State) (r : Nat) (x : Region) : Bool :=
  x.stations.any (fun n => (s.loopLine (lineOf n)).claim == some r && (s.loopLine (lineOf n)).running)

/-- The unit belongs to a LINE region. -/
def State.inLine (s : State) (x : Unit) : Bool :=
  match s.region? x.region with
  | some r => r.line
  | none => false

/-! ### Blocks of a junction instruction -/

/-- The handle names a block of the unit's own station at an offset that is a multiple of 32. -/
def State.junctionBlock (s : State) (u : Nat) (x : Unit) (h : W64) : Option Trap :=
  if isSignalHandle h then some (illegal 2)
  else match s.resolveBlock x.ctx h with
    | .error t => some t
    | .ok _ =>
      if hStn h != stnOf u then some (illegal 2)
      else if hOff h % 32 != 0 then some (misaligned 0)
      else none

def execWload (fmt : JFmt) (h scale : Src) (s : State) : Host.Outcome State Fault Refusal :=
  runUnit (.wload fmt h scale) avTS [h, scale] [] (fun u x s vh vs _ =>
    match s.junctionBlock u x vh with
    | some t => .trap t
    | none => submitGated u s (.wload vh fmt (vs.setWidth 32))) s

def execWswap (s : State) : Host.Outcome State Fault Refusal :=
  runUnit .wswap avTS [] [] (fun u _ s _ _ _ => submitGated u s .wswap) s

/-- MMA's control word (R393). -/
def mmaCtl (c : W64) : Option (Nat × Nat × Nat) :=
  let n := fld c.toNat 8 8
  let row0 := fld c.toNat 0 7
  if fld c.toNat 19 45 != 0 || fld c.toNat 7 1 != 0 || n = 0 || 128 < n || 128 < row0 + n then none
  else some (fld c.toNat 16 3, n, row0)

/-- The handle of an MMA, checked in the order of R394: resolution, then the control word, then the block's place. -/
def State.mmaCheck (s : State) (u : Nat) (x : Unit) (h c : W64) : Option Trap :=
  match (if isSignalHandle h then Except.ok () else (s.resolveBlock x.ctx h).map (fun _ => ())) with
  | .error t => some t
  | .ok _ => if (mmaCtl c).isNone then some (illegal 2) else s.junctionBlock u x h

def execMma (fmt : JFmt) (h ctl : Src) (s : State) : Host.Outcome State Fault Refusal :=
  runUnit (.mma fmt h ctl) avTS [h, ctl] [] (fun u x s vh vc _ =>
    match s.mmaCheck u x vh vc, mmaCtl vc with
    | some t, _ => .trap t
    | none, none => .trap (illegal 2)
    | none, some (slot, n, row0) => submitGated u s (.mma vh fmt slot n row0)) s

def execAccrd (h slot : Src) (s : State) : Host.Outcome State Fault Refusal :=
  runUnit (.accrd h slot) avTS [h, slot] [] (fun u x s vh vs _ =>
    if 7 < vs.toNat then .trap (illegal 2)
    else match s.junctionBlock u x vh with
      | some t => .trap t
      | none => submit u s (.accrd vh vs.toNat)) s

def execAccwr (slot h : Src) (s : State) : Host.Outcome State Fault Refusal :=
  runUnit (.accwr slot h) avTS [slot, h] [] (fun u x s vs vh _ =>
    if 7 < vs.toNat then .trap (illegal 2)
    else match s.junctionBlock u x vh with
      | some t => .trap t
      | none => submit u s (.accwr vh vs.toNat)) s

def execAccclr (slot : Src) (s : State) : Host.Outcome State Fault Refusal :=
  runUnit (.accclr slot) avTS [slot] [] (fun u _ s vs _ _ =>
    if 7 < vs.toNat then .trap (illegal 2) else .done (s.toJunction u (.accclr vs.toNat))) s

/-! ### TTLOAD (R131, R132) -/

/-- A timetable read from a block, or nothing where a check of R132 fails. The handle's OFFSET names its first byte, so
the header, the entries and the check on the block's length count from there; it need not be aligned (DESIGN CHOICE, log
entry 91). -/
def State.readTable (s : State) (r : Region) (stn : Nat) (h : W64) (b : Block) : Option Timetable :=
  let hdr := s.blockNat (hStn h) b (hOff h) 8
  let e := fld hdr 0 9
  let rest := s.blockNat (hStn h) b (hOff h + 8) 24
  let word := fun i => s.blockNat (hStn h) b (hOff h + 32 + 4 * i) 4
  let tok := hdr.testBit 50
  let tel := fld hdr 41 6
  let sig := hdr.testBit 40
  let sstn := fld hdr 34 6
  if e = 0 || 256 < e || b.bytes < hOff h + 32 + 4 * e || fld hdr 51 13 != 0 || fld hdr 9 15 != 0 || rest != 0
      || (List.range e).any (fun i => fld (word i) 0 5 != 0)
      || (tok && !r.units.contains (stn * 64 + tel)) || (sig && decide (r.stations.length ≤ sstn))
  then none
  else some
    { token := if tok then some (tel, fld hdr 47 3) else none
      signal := if sig then some (sstn, fld hdr 24 10) else none
      entries := (List.range e).map (fun i => (fld (word i) 20 12, fld (word i) 8 12, fld (word i) 5 3)) }

def execTtload (h : Src) (s : State) : Host.Outcome State Fault Refusal :=
  runUnit (.ttload h) avTS [h] [] (fun u x s vh _ _ =>
    match s.region? x.region with
    | none => .trap (illegal 1)
    | some r =>
      if !r.line then .trap (illegal 1)
      else match s.needBlock x.ctx vh with
        | .error t => .trap t
        | .ok b =>
          if s.lineRuns (stnOf u) || !s.blockQuiet u vh then .wait s 0
          else match s.readTable r (stnOf u) vh b with
            | none => .trap (illegal 2)
            | some t => .done (s.onJunction (stnOf u) (fun j => { j with table := some t, entries := [] }))) s

/-! ### RING (R129) -/

/-- The two formats form a pairing of R111. -/
def pairing (a b : Nat) : Bool := (decide (a < 2) && decide (b < 2)) || (a == b && decide (2 ≤ a) && decide (a < 5))

def ringBad (w : Nat) : Bool :=
  fld w 31 33 != 0 || fld w 27 1 != 0 || fld w 13 3 != 0 || !pairing (fld w 24 3) (fld w 28 3)
    || fld w 16 8 = 0 || fld w 0 13 = 0 || decide (4096 < fld w 0 13)

/-- A junction as RING leaves it: every entry Open, every count but TOTAL reset. -/
def Junction.armed (j : Junction) : Junction :=
  let n := match j.table with
    | some t => t.entries.length
    | none => 0
  { j with entries := (List.range n).map (fun i => (i, EntryState.open_)), missed := 0, recov := 0, completed := 0,
           orphan := 0, signalled := j.table.isNone }

def execRing (arm : Src) (s : State) : Host.Outcome State Fault Refusal :=
  runUnit (.ring arm) avTS [arm] [] (fun u x s va _ _ =>
    match s.region? x.region with
    | none => .trap (illegal 1)
    | some r =>
      if !r.line then .trap (illegal 1)
      else if ringBad va.toNat then .trap (illegal 2)
      else if s.lineRuns (stnOf u) then .wait s 0
      else
        let s := r.stations.foldl (fun s n => s.onJunction n Junction.armed) s
        let l := s.loopLine (lineOf (stnOf u))
        .done (s.setLoopLine (lineOf (stnOf u))
          { l with armed := true, running := true, stopping := false, arm := va, tiles := [], inject := [], seen := [],
                   injected := 0, retired := 0 })) s

/-! ### TINJ (R130) -/

/-- The format code of a direction's tiles. -/
def armFmt (arm : W64) (down : Bool) : JFmt :=
  match (if down then fld arm.toNat 28 3 else fld arm.toNat 24 3) with
  | 0 => .e4m3
  | 1 => .e5m2
  | 2 => .fp16
  | 3 => .bf16
  | _ => .i8

/-- An engine's read of `n` lines from `a` at port `p` of a station, translated line by line (R130, R140, R192). -/
inductive EngineRead where
  | ok (s : State) (locs : List (Loc × PageBits))
  | fault (s : State) (t : Trap)
  | invalid (s : State) (va level : Nat)
  | wb (s : State) (va : Nat)

def State.engineRun (s : State) (ctx part stn p a : Nat) : Nat → EngineRead × List PieceCount
  | 0 => (.ok s [], [])
  | n + 1 =>
    match s.translateAt ctx part stn p a wantRead with
    | (s, .fault t) => (.fault s t, [])
    | (s, .invalid level) => (.invalid s a level, [])
    | (s, .wb) => (.wb s a, [])
    | (s, .ok loc page pte log2) =>
      match s.engineRun ctx part stn p (a + 128) n with
      | (.ok s ls, cs) => (.ok s ((loc, page) :: ls), ⟨a, 1, pte, log2⟩ :: cs)
      | r => r

/-- The lines of an engine's read counted, once all of them are translated: `count` is 0 where they have been counted before
(R199). -/
def State.engineLines (s : State) (ctx part stn p count a n : Nat) : EngineRead :=
  match s.engineRun ctx part stn p a n with
  | (.ok s ls, cs) =>
    .ok (cs.foldl (fun s c => s.countLines ctx part stn p c.va (c.lines * count) c.pte c.log2) s) ls
  | (r, _) => r

/-- Bytes as a sparse block, without its zeros. -/
def sparse (bs : List Byte) : Memory :=
  ((List.range bs.length).map (fun i => (i, bs.getD i 0))).filter (fun c => c.2 != 0)

/-- TINJ. One that is carried on makes its checks again (DESIGN CHOICE, log entry 106). -/
def execTinj (home desc : Src) (s : State) : Host.Outcome State Fault Refusal :=
  runUnit (.tinj home desc) avTS [home, desc] [] (fun u x s vh vd phase =>
    let key := lineOf (stnOf u)
    let l := s.loopLine key
    let down := vd.getLsbD 31
    let num := fld vd.toNat 0 12
    if !s.inLine x then .trap (illegal 1)
    else if vh.toNat % 256 != 0 then .trap (misaligned vh)
    else if !l.armed || fld l.arm.toNat 0 13 ≤ l.seen.length || l.seen.any (fun t => t.1 == down && t.2.1 == num)
        || fld vd.toNat 12 12 = 0 || fld vd.toNat 24 7 != 0 then .trap (illegal 2)
    else
      let lines := 128 * jBytes (armFmt l.arm down)
      match s.engineLines x.ctx x.part (stnOf u) (portOf u) (b2n (phase = 0)) vh.toNat lines with
      | .fault s t => .portFault s phase t
      | .invalid s va level => let (s, h) := s.withhold u x va level 3 false; .hold s phase h
      | .wb s va => let (s, h) := s.withhold u x va 0 3 true; .hold s phase h
      | .ok s ls =>
        match s.gather u (districtOfUnit u) x.part ls with
        | (s, none) => .wait s 1
        | (s, some bs) =>
          let t : Tile := ⟨down, num, vh.toNat, lane32 (vd.toNat >>> 32), fld vd.toNat 12 12, 0, stnOf u % 8, u, sparse bs⟩
          let l := s.loopLine key
          .block ((s.takeDelivered u (stnOf u)).setLoopLine key { l with
            seen := l.seen ++ [(down, num, vh.toNat, t.scale, u)], inject := l.inject ++ [(stnOf u % 8, t)] })
            (.inject vh.toNat vd)) s

/-! ### RSTAT (R142) -/

def junctionStatus (j : Junction) : W64 :=
  let total := match j.table with
    | some t => t.entries.length
    | none => 0
  w64 (j.tasks.length % 8 * 2 ^ 52 + j.loops.length % 4 * 2 ^ 50 + b2n (j.completed == total && total != 0) * 2 ^ 49
    + j.orphan % 512 * 2 ^ 40 + min j.missed 511 * 2 ^ 27 + j.recov % 512 * 2 ^ 18 + j.completed % 512 * 2 ^ 9
    + total % 512)

def lineStatus (l : LoopLine) : W64 :=
  w64 (fld l.arm.toNat 16 8 * 2 ^ 48 + b2n l.armed * 2 ^ 47 + fld l.arm.toNat 0 13 * 2 ^ 32 + l.retired % 8192 * 2 ^ 19
    + l.injected % 8192 * 2 ^ 6)

def execRstat (d : Dst) (slc : Src) (s : State) : Host.Outcome State Fault Refusal :=
  runUnit (.rstat d slc) avTS [slc] [d] (fun u x s vs _ _ =>
    if 1 < vs.toNat || (vs = 1 && !s.inLine x) then .trap (illegal 2)
    else if vs = 0 then .write s d 0 (junctionStatus (s.junction (stnOf u))) 1
    else .write s d 0 (lineStatus (s.loopLine (lineOf (stnOf u)))) 1) s

end Sys2Proof.Machine
end

