-- ==== Sys2Proof/Machine/Token.lean ====
section
/-! DEFINITION. The token instructions: SEND, DROP, FWD, MARK, RETAG, STEER, MERGE, STATC and TURN (R23 to R26, R31, R40,
R41, R116, R117, R145, R356, R366, R386, R391, R414, R420, R425, R429, R430). -/
namespace Sys2Proof.Machine

/-- The destinations of a destination code: those of an output channel, none for DISCARD. -/
def Unit.destsOf (x : Unit) (d : Dst) : List Dest :=
  match d with
  | .o n => Tab.get x.outs n.val []
  | _ => []

/-- One emission of a token to a destination code; nothing for DISCARD. -/
def Unit.emission (x : Unit) (d : Dst) (t : Token) : List Emission :=
  match d with
  | .o n => [⟨Tab.get x.outs n.val [], t⟩]
  | _ => []

/-- The destinations whose bit is set in a mask (R420). -/
def maskDests (ds : List Dest) (m : W64) : List Dest :=
  ((List.range ds.length).filter (fun k => decide (k < 4) && m.getLsbD k)).filterMap (fun k => ds[k]?)

/-- An EOI emission empties a turntable's partly filled block (R145). -/
def State.emptyTurn (s : State) (u : Nat) : State := s.onUnit u (fun x => { x with turn := [], fill := 0 })

/-- Emissions made, with what an EOI entails (R31, R145). -/
def emitRes (u : Nat) (s : State) (ems : List Emission) (eoi : Bool) : Res :=
  .emit (if eoi then s.emptyTurn u else s) ems eoi

def execSend (o : Chan) (a mask : Src) (s : State) : Host.Outcome State Fault Refusal :=
  runUnit (.send o a mask) avTS [a, mask] [.o o] (fun _ x s va vm _ =>
    let ds := maskDests (x.destsOf (.o o)) vm
    if ds.isEmpty then .done s else .emit s [⟨ds, plainTok .dat va⟩] false) s

/-- DROP (R356): the head token goes, whatever the channel's residency, and conveys no order; LM stays (R43). -/
def execDrop (c : Chan) (s : State) : Host.Outcome State Fault Refusal :=
  runWith (.drop c) avTS [] [.c c 0] [] [] false (fun u _ s _ _ _ => .done (s.dequeue u c.val)) s

/-- The tag of a source's token; DAT where the source is no channel. -/
def Unit.tagOf (x : Unit) (a : Src) : Tag :=
  match a with
  | .c ch _ => (match x.head? ch.val with | some t => t.tag | none => .dat)
  | _ => .dat

/-- The token that a source's is sent on as: its payload and tag, and the order that it conveys (R366, R391, R430). -/
def Unit.onward (x : Unit) (a : Src) (v : W64) : Token :=
  { plainTok (x.tagOf a) v with order := match a with
    | .c ch _ => (match x.head? ch.val with | some t => t.order | none => false)
    | _ => false }

def execFwd (d : Dst) (a : Src) (s : State) : Host.Outcome State Fault Refusal :=
  runUnit (.fwd d a) avTS [a] [d] (fun u x s va _ _ =>
    emitRes u s (x.emission d (x.onward a va)) (x.tagOf a == .eoi)) s

def execMark (d : Dst) (s : State) : Host.Outcome State Fault Refusal :=
  runUnit (.mark d) avTS [] [d] (fun u x s _ _ _ => emitRes u s (x.emission d (plainTok .eoi 0)) true) s

def execRetag (tag : Tag) (d : Dst) (a : Src) (s : State) : Host.Outcome State Fault Refusal :=
  runUnit (.retag tag d a) avTS [a] [d] (fun u x s va _ _ =>
    emitRes u s (x.emission d (plainTok tag va)) (tag == .eoi)) s

/-! ### STEER (R40, R429, R430) -/

/-- The channel operands that a STEER reads now: an EOI at the head of its input leaves the selector unread. -/
def steerReads (x : Unit) (c slc : Src) : List Src := if x.tagOf c == .eoi then [c] else [c, slc]

/-- The output channels O0 to On. -/
def steerPaths (o : Chan) : List Chan := (List.range (o.val + 1)).map (fun k => Fin.ofNat 8 k)

def steerBody (o : Chan) (c : Src) : Body := fun u x s va vsel _ =>
  let t := x.onward c va
  if t.tag == .eoi then
    emitRes u s ((steerPaths o).map (fun k => ⟨x.destsOf (.o k), t⟩)) true
  else .emit s [⟨x.destsOf (.o (Fin.ofNat 8 (min (vsel.toNat % 8) o.val))), t⟩] false

def execSteer (o : Chan) (c slc : Src) (s : State) : Host.Outcome State Fault Refusal :=
  match s.unit? s.cur.unit with
  | none => .fault .noUnit
  | some x =>
    if !x.bound [c, slc] [] then .next (s.raise s.cur.unit s.cur.slot (illegal 1))
    else runWith (.steer o c slc) avT (steerReads x c slc) (steerReads x c slc) (steerPaths o) [] false (steerBody o c) s

/-! ### MERGE (R41, R391) -/

/-- The configured inputs Ca to Cb. -/
def mergeIns (ca cb : Chan) : List Nat := (List.range (cb.val + 1)).filter (fun k => decide (ca.val ≤ k))

/-- The head tag of a channel. -/
def Unit.headTag (x : Unit) (c : Nat) : Option Tag := (x.head? c).map (·.tag)

/-- The lowest configured input with a head that is not an EOI. -/
def Unit.mergePick (x : Unit) (cs : List Nat) : Option Nat :=
  cs.find? (fun c => match x.headTag c with
    | some t => t != .eoi
    | none => false)

/-- A MERGE is ready (R391). -/
def Unit.mergeReady (x : Unit) (cs : List Nat) : Bool :=
  (x.mergePick cs).isSome || cs.all (fun c => x.headTag c == some .eoi)

/-- A MERGE's read of one of its inputs, with selector K0 (R25, R43). -/
def State.mergeRead (s : State) (u c : Nat) : State :=
  (s.onUnit u (fun x => x.takeLive (Fin.ofNat 8 c))).readChan u (Fin.ofNat 8 c) 0

/-- The payload of the EOI that a MERGE emits for its inputs' EOIs is not stated: a free value (R391). -/
def mergeBody (o ca cb : Chan) : Body := fun u x s _ _ _ =>
  let cs := mergeIns ca cb
  match x.mergePick cs with
  | some c =>
    match x.head? c with
    | some t => .emit (s.mergeRead u c) [⟨x.destsOf (.o o), x.onward (.c (Fin.ofNat 8 c) 0) t.payload⟩] false
    | none => .done s
  | none =>
    let (n, s) := s.draw
    emitRes u (cs.foldl (fun s c => s.mergeRead u c) s) [⟨x.destsOf (.o o), plainTok .eoi (w64 n)⟩] true

def execMerge (o ca cb : Chan) (s : State) : Host.Outcome State Fault Refusal :=
  match s.unit? s.cur.unit with
  | none => .fault .noUnit
  | some x =>
    if !x.bound ((mergeIns ca cb).map (fun k => .c (Fin.ofNat 8 k) 0)) [] then
      .next (s.raise s.cur.unit s.cur.slot (illegal 1))
    else if !x.mergeReady (mergeIns ca cb) && s.available s.cur.unit x avT && x.bound [] [o] then .next s
    else runWith (.merge o ca cb) avT [] [] [o] [] false (mergeBody o ca cb) s

/-! ### STATC and TURN -/

def execStatc (d : Dst) (s : State) : Host.Outcome State Fault Refusal :=
  runUnit (.statc d) avTS [] [d] (fun u x s _ _ _ =>
    let s := s.onUnit u (fun y => { y with ovf := 0, nanp := 0, satn := 0 })
    let ems := [x.ovf, x.nanp, x.satn].flatMap (fun v => x.emission d (plainTok .dat (v.setWidth 64)))
    if ems.isEmpty then .done s else .emit s ems false) s

/-- The turntable's block with row `f` filled (R145). -/
def turnRow (x : Unit) (a : VReg) : Tab Lane :=
  (List.range 8).foldl (fun (t : Tab Lane) j => Tab.set 0 t (x.fill * 8 + j) (x.vLane a j)) x.turn

/-- The 64 words of a full block, column by column (R145). -/
def turnWords (t : Tab Lane) : List W64 :=
  (List.range 64).map (fun n => (Tab.get t (n % 8 * 8 + n / 8) (0 : Lane)).setWidth 64)

def execTurn (o : Chan) (a : VReg) (s : State) : Host.Outcome State Fault Refusal :=
  runUnit (.turn o a) avT [.v a] [.o o] (fun u x s _ _ _ =>
    let t := turnRow x a
    if x.fill < 7 then .done (s.onUnit u (fun y => { y with turn := t, fill := x.fill + 1 }))
    else
      .emit (s.onUnit u (fun y => { y with turn := [], fill := 0 }))
        ((turnWords t).map (fun w => ⟨x.destsOf (.o o), plainTok .dat w⟩)) false) s

end Sys2Proof.Machine
end

