-- ==== Sys2Proof/Machine/Ready.lean ====
section
/-! DEFINITION. What a unit does with its turn: the availability and the channels of each instruction, the readiness of
the slots of a triggered unit, and the word of a sequenced one (R15 to R20, R27, R58, R61, R63, R272). -/
namespace Sys2Proof
open Sys2Proof.Machine

/-- The availability of an instruction (R58). An event has none. -/
def Instr.avail : Instr → Option Avail
  | .nop | .add _ _ _ _ _ | .sub _ _ _ _ _ | .mul _ _ _ _ _ | .mulh _ _ _ _ | .mad _ _ _ _ _ | .div _ _ _ _ _
  | .rem _ _ _ _ | .abs _ _ _ _ | .min _ _ _ _ | .max _ _ _ _ | .and _ _ _ _ | .or _ _ _ _ | .xor _ _ _ _
  | .shl _ _ _ _ _ | .shr _ _ _ _ | .sra _ _ _ _ | .rot _ _ _ _ | .clz _ _ _ | .popc _ _ _ | .sel _ _ _ _
  | .cmp _ _ _ _ _ | .fadd _ _ _ _ _ | .fsub _ _ _ _ _ | .fmul _ _ _ _ _ | .fma _ _ _ _ _ | .fmin _ _ _ _
  | .fmax _ _ _ _ | .fabs _ _ _ | .fneg _ _ _ | .fcmp _ _ _ _ _ | .fdiv _ _ _ _ _ | .fsqrt _ _ _ _
  | .frcp _ _ _ _ | .frsq _ _ _ _ | .fexp2 _ _ _ _ | .flog2 _ _ _ _ | .cvt _ _ _ _ _ _ | .qcvt _ _ _ _ _
  | .pack _ _ _ _ _ | .unpk _ _ _ _ | .mov _ _ | .movi _ _ | .movh _ _ | .shfl _ _ _ _ | .bcst _ _ _ _
  | .rdce _ _ _ _ _ _ | .scan _ _ _ _ _ _ | .extl _ _ _ _ _ | .insl _ _ _ _ | .pset _ | .pclr _ | .pld _ _ _
  | .pread _ _ | .sigset _ _ | .sigclr _ | .sigwait _ _ _ | .sigtest _ _ _ _ | .sigadd _ _ | .fence _
  | .enq _ | .jdec _ _ _ | .yield | .done | .rng _ _ | .rngset _ _ | .rngget _ _ => some avTSD
  | .send _ _ _ | .drop _ | .fwd _ _ | .mark _ | .retag _ _ _ | .alloc _ _ _ | .alloct _ _ _ | .release _
  | .retain _ _ | .bsize _ _ | .ldb _ _ | .stb _ _ | .ldbx _ _ _ _ | .stbx _ _ _ _ | .ldt _ _ _ | .stt _ _ _
  | .tmap _ _ _ | .gjoin _ | .gleave _ | .gbar _ _ | .prio _ | .ldg _ _ _ _ | .stg _ _ _ | .gath _ _ _ _ _ _
  | .scat _ _ _ _ _ | .pref _ _ | .order _ _ | .atom _ _ _ _ _ _ | .cas _ _ _ _ _ | .fatom _ _ _ _ _ _
  | .strm _ _ | .copy _ _ | .wptr _ _ | .mcast _ | .fill _ _ | .pin _ _ _ | .unpin _ _ | .clean _ _
  | .invl _ _ | .wload _ _ _ | .wswap | .mma _ _ _ | .accrd _ _ | .accwr _ _ | .accclr _ | .ttload _
  | .ring _ | .tinj _ _ | .rstat _ _ | .statc _ | .coll _ _ | .cwait _ _ | .pfxm _ _ _ _ | .pfxi _ _ _
  | .kvapp _ _ _ | .kvtrunc _ _ _ | .kvrel _ _ | .kvpin _ _ _ | .kvmap _ _ _ => some avTS
  | .steer _ _ _ | .merge _ _ _ | .turn _ _ => some avT
  | .br _ | .bri _ | .call _ | .calli _ | .ret | .loop _ _ | .trap _ | .eret | .sysrd _ _ | .syswr _ _
  | .halt | .bkpt _ | .wait _ _ => some avSD
  | .vld _ _ _ | .vst _ _ _ | .vgath _ _ _ | .kvwalk _ _ _ | .triple _ _ _ _ | .mbxrd _ _ => some avD
  | .ptewr _ _ _ | .tlbinv _ _ | .migr _ _ | .cntrd _ _ _ => some avPriv
  | _ => none

/-- The operand codes of an instruction whose channels it reads (R15, R25). -/
def Instr.srcs : Instr → List Src
  | .add _ _ _ a b | .sub _ _ _ a b | .mul _ _ _ a b | .mulh _ _ a b | .mad _ _ _ a b | .div _ _ _ a b
  | .rem _ _ a b | .min _ _ a b | .max _ _ a b | .and _ _ a b | .or _ _ a b | .xor _ _ a b | .shl _ _ _ a b
  | .shr _ _ a b | .sra _ _ a b | .rot _ _ a b | .sel _ _ a b | .cmp _ _ _ a b | .fadd _ _ _ a b
  | .fsub _ _ _ a b | .fmul _ _ _ a b | .fma _ _ _ a b | .fmin _ _ a b | .fmax _ _ a b | .fcmp _ _ _ a b
  | .fdiv _ _ _ a b => [a, b]
  | .abs _ _ _ a | .clz _ _ a | .popc _ _ a | .fabs _ _ a | .fneg _ _ a | .fsqrt _ _ _ a | .frcp _ _ _ a
  | .frsq _ _ _ a | .fexp2 _ _ _ a | .flog2 _ _ _ a | .cvt _ _ _ _ _ a | .mov _ a | .pset a | .pclr a
  | .pread _ a | .fwd _ a | .retag _ _ a | .bri a | .calli a | .syswr _ a | .wait _ a => [a]
  | .qcvt _ _ _ a scale => [a, scale]
  | .shfl _ _ _ b => [b]
  | .bcst _ _ _ idx | .extl _ _ _ _ idx | .ldt _ _ idx | .stt _ _ idx | .tmap _ _ idx => [idx]
  | .insl _ _ a idx => [a, idx]
  | .send _ a mask => [a, mask]
  | .drop c => [.c c 0]
  | .steer _ a slc => [a, slc]
  | .merge _ ca cb => (mergeIns ca cb).map (fun k => .c (Fin.ofNat 8 k) 0)
  | .alloc _ k n | .alloct _ k n => [k, n]
  | .release h | .bsize _ h | .ldb _ h | .ldbx _ _ h _ | .stbx _ _ h _ | .sigclr h | .ttload h => [h]
  | .retain h m => [h, m]
  | .stb h src => [h, src]
  | .sigset h v | .sigwait _ h v | .sigtest _ _ h v | .sigadd h v => [h, v]
  | .gjoin g | .gleave g | .gbar _ g => [g]
  | .prio cls => [cls]
  | .ldg _ _ _ addr | .cas _ _ _ addr _ => [addr]
  | .stg _ addr src => [addr, src]
  | .gath _ _ _ _ base _ | .scat _ _ _ base _ => [base]
  | .pref addr n | .pin _ addr n | .unpin addr n | .clean addr n | .invl addr n => [addr, n]
  | .atom _ _ _ _ addr v | .fatom _ _ _ _ addr v => [addr, v]
  | .strm _ desc | .mcast desc | .coll _ desc => [desc]
  | .copy desc ch => [desc, ch]
  | .wptr _ ch => [ch]
  | .fill _ cnt => [cnt]
  | .wload _ h scale => [h, scale]
  | .mma _ h ctl => [h, ctl]
  | .accrd h slot => [h, slot]
  | .accwr slot h => [slot, h]
  | .accclr slot => [slot]
  | .ring arm => [arm]
  | .tinj home desc => [home, desc]
  | .rstat _ slc => [slc]
  | .cwait _ ticket => [ticket]
  | .enq rec => [rec]
  | .jdec _ ctr rec => [ctr, rec]
  | .pfxm _ _ seq prompt | .pfxi _ seq prompt => [seq, prompt]
  | .kvapp _ list start => [list, start]
  | .kvtrunc _ seq len => [seq, len]
  | .kvrel _ seq => [seq]
  | .kvpin _ _ grp => [grp]
  | .kvmap _ seq slc => [seq, slc]
  | .rngset _ img | .rngget _ img => [img]
  | .ptewr _ pa val => [pa, val]
  | .tlbinv page slc | .migr page slc | .cntrd _ page slc => [page, slc]
  | _ => []

/-- The output channels that an instruction names (R24). -/
def Instr.outs : Instr → List Chan
  | .add _ _ d _ _ | .sub _ _ d _ _ | .mul _ _ d _ _ | .mulh _ d _ _ | .mad _ _ d _ _ | .div _ _ d _ _
  | .rem _ d _ _ | .abs _ _ d _ | .min _ d _ _ | .max _ d _ _ | .and _ d _ _ | .or _ d _ _ | .xor _ d _ _
  | .shl _ _ d _ _ | .shr _ d _ _ | .sra _ d _ _ | .rot _ d _ _ | .clz _ d _ | .popc _ d _ | .sel _ d _ _
  | .cmp _ _ d _ _ | .fadd _ _ d _ _ | .fsub _ _ d _ _ | .fmul _ _ d _ _ | .fma _ _ d _ _ | .fmin _ d _ _
  | .fmax _ d _ _ | .fabs _ d _ | .fneg _ d _ | .fcmp _ _ d _ _ | .fdiv _ _ d _ _ | .fsqrt _ _ d _
  | .frcp _ _ d _ | .frsq _ _ d _ | .fexp2 _ _ d _ | .flog2 _ _ d _ | .cvt _ _ _ _ d _ | .qcvt _ _ d _ _
  | .mov d _ | .movi d _ | .movh d _ | .bcst _ d _ _ | .rdce _ _ _ _ d _ | .extl _ _ d _ _ | .pread d _
  | .fwd d _ | .mark d | .retag _ d _ | .alloc d _ _ | .alloct d _ _ | .bsize d _ | .ldb d _ | .tmap d _ _
  | .sigtest _ d _ _ | .ldg _ _ d _ | .atom _ _ _ d _ _ | .cas _ _ d _ _ | .fatom _ _ _ d _ _ | .wptr d _
  | .pin d _ _ | .rstat d _ | .statc d | .coll d _ | .cwait d _ | .jdec d _ _ | .pfxm _ d _ _ | .pfxi d _ _
  | .kvapp d _ _ | .kvtrunc d _ _ | .kvrel d _ | .kvpin _ d _ | .kvmap d _ _ | .rng _ d | .ptewr d _ _ => outsOf [d]
  | .send o _ _ | .merge o _ _ | .order _ o | .strm o _ | .turn o _ => [o]
  | .steer o _ _ => steerPaths o
  | _ => []

def Instr.isRelease : Instr → Bool
  | .release _ => true
  | _ => false

def Dst.isOK : Dst → Bool
  | .o _ | .k _ => true
  | _ => false

/-- The destination code of an instruction. -/
def Instr.dstCode : Instr → List Dst
  | .add _ _ d _ _ | .sub _ _ d _ _ | .mul _ _ d _ _ | .mulh _ d _ _ | .mad _ _ d _ _ | .div _ _ d _ _
  | .rem _ d _ _ | .abs _ _ d _ | .min _ d _ _ | .max _ d _ _ | .and _ d _ _ | .or _ d _ _ | .xor _ d _ _
  | .shl _ _ d _ _ | .shr _ d _ _ | .sra _ d _ _ | .rot _ d _ _ | .clz _ d _ | .popc _ d _ | .sel _ d _ _
  | .cmp _ _ d _ _ | .fadd _ _ d _ _ | .fsub _ _ d _ _ | .fmul _ _ d _ _ | .fma _ _ d _ _ | .fmin _ d _ _
  | .fmax _ d _ _ | .fabs _ d _ | .fneg _ d _ | .fcmp _ _ d _ _ | .fdiv _ _ d _ _ | .fsqrt _ _ d _
  | .frcp _ _ d _ | .frsq _ _ d _ | .fexp2 _ _ d _ | .flog2 _ _ d _ | .cvt _ _ _ _ d _ | .qcvt _ _ d _ _
  | .mov d _ | .movi d _ | .movh d _ | .bcst _ d _ _ | .rdce _ _ _ _ d _ | .extl _ _ d _ _ | .pread d _
  | .fwd d _ | .mark d | .retag _ d _ | .alloc d _ _ | .alloct d _ _ | .bsize d _ | .ldb d _ | .tmap d _ _
  | .sigtest _ d _ _ | .ldg _ _ d _ | .atom _ _ _ d _ _ | .cas _ _ d _ _ | .fatom _ _ _ d _ _ | .wptr d _
  | .pin d _ _ | .rstat d _ | .statc d | .coll d _ | .cwait d _ | .jdec d _ _ | .pfxm _ d _ _ | .pfxi d _ _
  | .kvapp d _ _ | .kvtrunc d _ _ | .kvrel d _ | .kvpin _ d _ | .kvmap d _ _ | .rng _ d | .ptewr d _ _ => [d]
  | _ => []


end Sys2Proof

namespace Sys2Proof.Machine

/-! ### Readiness (R15) -/

/-- The tag test of a guard (R15): an empty channel fails. -/
def Unit.testHolds (x : Unit) : Option (Chan × Tag) → Bool
  | none => true
  | some (c, t) => x.headTag c.val == some t

/-- The guard holds. -/
def Unit.guardOk (x : Unit) (g : Guard) : Bool := guardHolds x.p g && x.testHolds g.test

/-- Every input channel that the instruction names as an operand holds a token; a STEER leaves its selector unread at an
EOI, and a MERGE takes what R41 lets it take. -/
def Unit.operandsReady (x : Unit) (i : Instr) : Bool :=
  match i with
  | .steer _ c slc => x.hasTokens (steerReads x c slc)
  | .merge _ ca cb => x.mergeReady (mergeIns ca cb)
  | i => x.hasTokens i.srcs

/-- A slot's word is ready: conditions 2 to 4 of R15. -/
def Unit.slotReady (x : Unit) (w : IWord) : Bool :=
  x.guardOk w.guard && x.operandsReady w.instr && (x.blocked.isNone || w.instr.isRelease)

/-- The lowest-numbered ready slot from slot `n` on (R16). -/
def Unit.pickSlot (x : Unit) : Nat → List W64 → Option (Nat × IWord)
  | _, [] => none
  | n, w :: ws =>
    if x.enable.getLsbD n then
      match decodeWord w with
      | .ok i => if x.slotReady i then some (n, i) else x.pickSlot (n + 1) ws
      | .error _ => x.pickSlot (n + 1) ws
    else x.pickSlot (n + 1) ws

/-! ### Sequenced units (R27) -/

/-- The HALT word, which fills the rest of an instruction store (R372). -/
def haltWord : W64 := 0x0000001740000000#64

/-- The word at the program counter; `none` outside the store. -/
def State.fetch (s : State) (u : Nat) (x : Unit) : Option W64 :=
  if storeSize u ≤ x.pc then none
  else if isCore u then some ((s.core (coreOf u)).code.getD x.pc haltWord)
  else some (Tab.get (s.station (stnOf u)).store x.pc haltWord)

def isChanSrc : Src → Bool
  | .c _ _ => true
  | _ => false

/-- Operand and destination codes that the Relvy profile reserves (R63). -/
def relvyReserved (i : Instr) : Bool :=
  i.srcs.any isChanSrc || !i.outs.isEmpty || i.dstCode.any Dst.isOK

/-- The bit TEN of a word (R45). -/
def wordTen (w : W64) : Bool := w.getLsbD 47

/-- What a unit does with its turn. -/
inductive Choice where
  /-- Nothing is ready. -/
  | none
  /-- A word whose guard does not hold is a NOP (R27). -/
  | skip
  /-- The word raises a fault as it is decoded. -/
  | trap (t : Trap)
  /-- The word fires. -/
  | fire (f : Firing) (i : Instr)
  deriving DecidableEq, Repr

/-- Reserved encodings that depend on the unit that reaches the word: SYSWR to a register that the unit may not write (R65),
and the depot kinds of WAIT in a fabric unit (R447). -/
def State.reservedHere (s : State) (u : Nat) (x : Unit) (i : Instr) : Bool :=
  match i with
  | .syswr reg _ => !reg.writable || (reg == .migth && !s.privileged u x)
  | .wait kind _ => kind != .cyc && !isCore u
  | _ => false

/-- The word of a sequenced unit or depot core: it is decoded before its guard is evaluated (R27, R61), and so is what makes
it a reserved encoding here, and a channel that the unit has not bound (R453). Only then does a guard that does not hold make
it a NOP; availability is checked where the word is issued (DESIGN CHOICE, log entry 77). A depot core's word that names a
channel is a reserved encoding, whatever its availability (DESIGN CHOICE, log entry 81). -/
def State.chooseWord (s : State) (u : Nat) (x : Unit) : Choice :=
  match s.fetch u x with
  | Option.none => .trap (illegal 4)
  | some w =>
    if wordTen w then .trap (illegal 3)
    else match decodeWord w with
      | .error _ => .trap (illegal 0)
      | .ok i =>
        if (isCore u && relvyReserved i.instr) || s.reservedHere u x i.instr then .trap (illegal 0)
        else if !x.bound i.instr.srcs i.instr.outs then .trap (illegal 1)
        else if x.guardOk i.guard then .fire ⟨u, 0, Option.none, i.upd, Option.none⟩ i.instr
        else .skip

/-- The choice of an idle unit, or of a blocked triggered unit under the release bypass (R16, R19). -/
def State.choose (s : State) (u : Nat) (x : Unit) : Choice :=
  if x.isSeq then (if x.blocked.isSome then .none else s.chooseWord u x)
  else match x.pickSlot 0 x.slots with
    | some (n, i) => .fire ⟨u, n, i.guard.test, i.upd, Option.none⟩ i.instr
    | Option.none => .none

/-- The instruction of a blocked unit that is carried on at its turn: not while its access is withheld. -/
def Unit.retry (u : Nat) (x : Unit) : Option (Firing × Instr) :=
  match x.blocked with
  | some (.again i c) => if c.hold.isSome then Option.none else some (⟨u, c.slot, Option.none, .none, some c⟩, i)
  | _ => Option.none

/-- The unit can take a turn: its region or core runs, and it is neither stopped, halted, gated nor busy (R18, R20, R21,
R241, R275). A region that is to be switched out runs on while the run of its loop line is in progress (R221); in the cycle in
which a fault stops a region, its other units have their turns too, and may fault (R241). -/
def State.canTurn (s : State) (u : Nat) (x : Unit) : Bool :=
  !x.stopped && !x.halted && !x.gated && x.busy.isNone &&
    (if isCore u then (s.core (coreOf u)).st == .running
     else match s.region? x.region with
       | some r => r.st == .running || (r.st == .switching && s.regionRuns x.region r)
         || ((r.st == .switching || r.st == .stoppedResident) && r.stopCyc == some (s.dieNow r.die))
       | Option.none => false)

/-- The drain configuration stands in the unit's place: it fires whenever an input channel holds a token (R242). -/
def State.drains (s : State) (u : Nat) (x : Unit) : Bool := !isCore u && s.draining x && x.busy.isNone

/-- A firing of the drain configuration: a token of the lowest channel that holds one goes into DISCARD (R242). -/
def State.drainFire (s : State) (u : Nat) (x : Unit) : State :=
  match x.inbox.find? (fun b => !b.2.q.isEmpty) with
  | some b => s.dequeue u b.1
  | none => s

/-- A word whose guard does not hold is passed over (R27). -/
def State.skipWord (s : State) (u : Nat) : State := s.onUnit u (fun x => { x with pc := x.pc + 1 })

/-- A firing begins. -/
def State.begin (s : State) (f : Firing) : State :=
  { s.onUnit f.unit (fun x => { x with idleSince := none }) with cur := f }

/-- Nothing is ready: an idle unit counts the cycles from here to its gating (R20). -/
def State.noteIdle (s : State) (u : Nat) : State :=
  s.onUnit u (fun x =>
    if x.idleSince.isNone && x.blocked.isNone then { x with idleSince := some (s.clockOf u) } else x)

/-- The next turn: the head of the agenda, after the cycles that pass before it; with an empty agenda, one cycle later,
the unit of the last firing. -/
def State.nextTurn (s : State) : State × TurnAct :=
  match s.agenda with
  | [] => ({ s with clocks := tick 0 (List.replicate 8 1) s.clocks, dclocks := tick 0 (List.replicate 16 1) s.dclocks },
           .unit s.cur.unit)
  | t :: ts => ({ s with agenda := ts, clocks := tick 0 t.dts s.clocks, dclocks := tick 0 t.ddts s.dclocks }, t.act)

end Sys2Proof.Machine
end

