-- ==== Sys2Proof/Machine/Bench.lean ====
section
/-! DEFINITION. A small configuration in which one word stands where the next step fetches. It stands for what the host
does from outside: a partition, a context and a configuration with one unit, loaded by hand. -/
namespace Sys2Proof.Machine

/-- The context of the bench: number 1 of partition 0, a firmware context, no graph. -/
def benchContext : Context := ⟨⟨0, 0, true, [], []⟩, false, 0⟩

/-- The region of the bench: region 1 on station 0 of die 0, running. -/
def benchRegion : Region where
  ctx := 1
  part := 0
  die := 0
  gid := 0
  line := false
  stations := [0]
  units := [0]
  report := [(0, 0)]
  st := .running
  queue := 0
  qclass := 0
  record := []
  done := false
  cyc := 0
  since := 0
  wdBase := 0
  unrev := none
  replay := none
  discard := false
  stopCyc := none
  after := .saved
  started := 0
  idleAt := 0
  switchOrder := 0
  service := none
  savedUnits := []
  savedSignals := []
  savedScratch := []
  savedPtrs := []
  savedPools := []
  savedJunctions := []
  savedLine := none
  savedHeld := []
  savedWaits := []
  savedEnq := []

/-- The unit of the bench, at the state of R34. A word that only a triggered unit may hold stands in slot 0; one that only
a depot core may hold stands in a depot core. -/
def benchUnit (core trig : Bool) (w : W64) : Unit :=
  { Unit.reset with
    region := if core then 0 else 1
    ctx := 1
    mode := if trig then .triggered else .sequenced
    fuse := if core then 8 else 1
    lm := allLive (if core then 64 else 8)
    slots := if trig then [w] else []
    enable := if trig then 1 else 0
    hi := 1 }

/-- Whether a word is one that only the fabric's triggered units hold, and whether only a depot core holds it. -/
def benchPlace (w : W64) : Bool × Bool :=
  match decodeWord w with
  | .ok i =>
    match i.instr.avail with
    | some a => (a.t && !a.s, a.d && !a.s && !a.t)
    | none => (false, false)
  | .error _ => (false, false)

/-- The bench set up in a state: the word where the next step fetches it (DESIGN CHOICE, log entry
5). -/
def State.bench (s : State) (n : Nat) : State :=
  let w := w64 n
  let trig := (benchPlace w).1
  let core := (benchPlace w).2
  let u := if core then coreBase else 0
  let s : State := { s with
    agenda := []
    cur := ⟨u, 0, none, .none, none⟩
    partitions := Tab.put s.partitions 0 { s.part 0 with districts := [0], st := .active, memKey := .active }
    contexts := Tab.put s.contexts 1 benchContext
    units := Tab.put s.units u (benchUnit core trig w) }
  if core then s.setCore 0 { s.core 0 with st := .running, ctx := 1, code := [w] }
  else
    let s := s.putRegion 1 benchRegion
    if trig then s else s.onStation 0 (fun st => { st with store := Tab.put st.store 0 w, storeOwner := some 1 })

end Sys2Proof.Machine
end

