-- ==== Sys2Proof/Machine/Admit.lean ====
section
/-! DEFINITION. What the loader checks on a graph by itself: footprints, words, arcs, floors, cycles and certificates (R13,
R22, R24, R28, R60, R73, R91, R92, R121, R145, R162, R190, R286, R452, R453). A check that fails answers with the DETAIL
of CONFIG_INVALID (R231). -/
namespace Sys2Proof.Machine

/-! ### Units and their words -/

/-- Rows and columns of a fused set (R13). -/
def fuseShape : Nat → Option (Nat × Nat)
  | 1 => some (1, 1)
  | 2 => some (1, 2)
  | 4 => some (2, 2)
  | 8 => some (2, 4)
  | 16 => some (4, 4)
  | _ => none

/-- The elements of a unit's footprint; none where its fusion breaks R13. -/
def footprint (e : ElemDecl) : List Nat :=
  match fuseShape e.fuse with
  | some (r, c) =>
    if e.en < 64 && e.en / 8 % r == 0 && e.en % 8 % c == 0 then
      (List.range r).flatMap (fun i => (List.range c).map (fun j => e.en + 8 * i + j))
    else []
  | none => []

/-- The addresses at which issue may go on after the word at `a` of a store (R453): by fall-through and by the targets of
BR, CALL and LOOP. Fall-through is taken to be PC + 1 wherever the word may go there or come back there: also behind CALL,
CALLI, TRAP, BKPT and an undefined word, and not behind an unguarded BR, BRI, HALT, RET or ERET (DESIGN CHOICE, log entry
79). -/
def wordSuccs (w : W64) (a : Nat) : List Nat :=
  let target := fun (imm : BitVec 22) => if 0 ≤ (a : Int) + imm.toInt then [((a : Int) + imm.toInt).toNat] else []
  match decodeWord w with
  | .error _ => [a + 1]
  | .ok i =>
    let falls := if i.guard.care = 0 then [] else [a + 1]
    match i.instr with
    | .br imm => target imm ++ falls
    | .call imm => target imm ++ [a + 1]
    | .loop _ imm => target imm ++ [a + 1]
    | .halt | .ret | .eret | .bri _ => falls
    | _ => [a + 1]

/-- The words reached from a work list. -/
def reachFrom (store : List W64) : Nat → List Nat → List Nat → List Nat
  | 0, _, seen => seen
  | _ + 1, [], seen => seen
  | n + 1, a :: todo, seen =>
    match store[a]? with
    | none => reachFrom store n todo seen
    | some w => if seen.contains a then reachFrom store n todo seen
                else reachFrom store n (wordSuccs w a ++ todo) (a :: seen)

/-- The words that the loader's checks cover: a triggered unit's slots; a sequenced unit's own section and what its entry
word reaches (R453). -/
def unitWords (st : StnDecl) (e : ElemDecl) : List W64 :=
  if e.seq then
    let own := (List.range (e.hi - e.lo)).map (fun i => e.lo + i)
    let seen := reachFrom st.store (2 * st.store.length + 2) [e.entry] []
    (own ++ seen.filter (fun a => !own.contains a)).filterMap (fun a => st.store[a]?)
  else e.slots

/-- The defined ones among a unit's words. -/
def unitInstrs (st : StnDecl) (e : ElemDecl) : List IWord :=
  (unitWords st e).filterMap (fun w =>
    match decodeWord w with
    | .ok i => some i
    | .error _ => none)

/-- The section of relative station `rel`; a station without one holds nothing. -/
def graphStn (g : Graph) (rel : Nat) : StnDecl := (g.stations.find? (fun st => st.rel == rel)).getD ⟨rel, 0, [], [], []⟩

/-- A unit of a graph is named by its relative station and top-left element: rel * 64 + element. -/
def nodeOf (rel en : Nat) : Nat := rel * 64 + en

/-- Every unit of a graph in the order of the sections, with its station's section. -/
def graphUnits (g : Graph) : List (StnDecl × ElemDecl) :=
  (List.range g.n).flatMap (fun rel => (graphStn g rel).elems.map (fun e => (graphStn g rel, e)))

/-- The destinations bound to output channel `o`. -/
def elemDests (e : ElemDecl) (o : Nat) : List ArcDst := (e.arcs.filter (fun a => a.o == o)).flatMap (·.dsts)

/-- Input channels that a unit's words read or test (R286). -/
def readsOf (st : StnDecl) (e : ElemDecl) : List Nat :=
  let ws := unitInstrs st e
  (List.range 8).filter (fun c => ws.any (fun i =>
    (chansOf i.instr.srcs).any (fun k => k.1.val == c)
      || (match i.guard.test with
          | some (k, _) => k.val == c
          | none => false)))

/-! ### Structure (DETAIL 0) -/

/-- A triggered unit's word is refused: reserved, outside its availability, an ORD test on an operand channel, or TURN in
a fused set (R22, R28, R60, R145). -/
def slotBad (firmware : Bool) (fuse : Nat) (w : W64) : Bool :=
  match decodeWord w with
  | .error _ => true
  | .ok i =>
    (match i.instr.avail with
     | some a => !a.t || (a.priv && !firmware)
     | none => true)
      || (match i.guard.test with
          | some (c, .ord) => (chansOf i.instr.srcs).any (fun k => k.1 == c)
          | _ => false)
      || (match i.instr with
          | .turn _ _ => fuse != 1
          | _ => false)

def dataBad : DataInit → Bool
  | .v n ls => decide (32 ≤ n) || decide (128 < ls.length)
  | .s n _ | .sBlock n _ => decide (n < 3) || decide (16 ≤ n)
  | .p n _ => decide (8 ≤ n)
  | .lm _ => false

/-- A unit of the graph breaks a structural rule. -/
def elemBad (firmware : Bool) (g : Graph) (st : StnDecl) (e : ElemDecl) : Bool :=
  let ds := e.arcs.flatMap (·.dsts)
  (footprint e).isEmpty
    || (!e.seq && (decide (16 < e.slots.length) || e.slots.any (slotBad firmware e.fuse)))
    || (e.seq && decide (st.store.length ≤ e.entry))
    || e.arcs.any (fun a => decide (8 ≤ a.o) || (elemDests e a.o).isEmpty || decide (4 < (elemDests e a.o).length))
    || ds.any (fun d => decide (8 ≤ d.ch) || decide (g.n ≤ d.rel)
          || !(graphStn g d.rel).elems.any (fun f => f.en == d.el))
    || (unitInstrs st e).any (fun i => i.instr.outs.any (fun c => (elemDests e c.val).isEmpty))
    || e.sticky.any (fun k => k.1 == 0 || decide (4 ≤ k.1))
    || e.data.any dataBad

/-- Elements of a station section that two units claim. -/
def overlapBad : List ElemDecl → Bool
  | [] => false
  | e :: t => t.any (fun f => (footprint e).any (fun c => (footprint f).contains c)) || overlapBad t

def stnBad (st : StnDecl) : Bool :=
  overlapBad st.elems || decide (131072 < st.quota) || st.blocks.any (fun b => decide (11 < b.k))
    || decide (8192 < st.store.length)

/-! ### Floors (reasons 2 and 5) -/

/-- The size classes of a unit's ALLOCs, and whether one comes from a register or a channel. -/
def allocClasses (st : StnDecl) (e : ElemDecl) : List Nat × Bool :=
  let ks := (unitInstrs st e).filterMap (fun i =>
    match i.instr with
    | .alloc _ k _ => some k
    | _ => none)
  (ks.filterMap (fun k => k.immVal.map (·.toNat)), ks.any (fun k => !k.isImm))

def allocates (st : StnDecl) (e : ElemDecl) : Bool := !(allocClasses st e).1.isEmpty || (allocClasses st e).2

/-- Reason 5. -/
def floorBad (st : StnDecl) (e : ElemDecl) : Bool :=
  (allocates st e && (match e.floor with
    | none => true
    | some f => (allocClasses st e).1.any (fun k => decide (f < 2 ^ k))))
    || (e.arcs.flatMap (·.dsts)).any (fun d => d.floor == 0)

/-- Reason 2 as R92 counts it: blocks and floors within the quota. -/
def quotaBad (st : StnDecl) : Bool :=
  decide (st.quota < st.blocks.foldl (fun n b => n + 2 ^ b.k) 0 + st.elems.foldl (fun n e => n + e.floor.getD 0) 0)

/-! ### Cycles (R91; reasons 6 to 8) -/

/-- The largest inbox floor among the parallel arcs from one unit to another, if there is an arc. -/
def stepDepth (g : Graph) (a b : Nat) : Option Nat :=
  let e := (graphStn g (a / 64)).elems.find? (fun e => e.en == a % 64)
  match e with
  | none => none
  | some e =>
    let ds := (e.arcs.flatMap (·.dsts)).filter (fun d => nodeOf d.rel d.el == b)
    if ds.isEmpty then none else some (ds.foldl (fun n d => max n d.floor) 0)

/-- The units to which an arc of a unit runs, each once. -/
def succsOf (e : ElemDecl) : List Nat := ((e.arcs.flatMap (·.dsts)).map (fun d => nodeOf d.rel d.el)).eraseDups

/-- The elementary cycles that begin at `start`, their least unit, and go on from the path `path` (newest first). -/
def cyclesFrom (adj : Nat → List Nat) (start : Nat) : Nat → List Nat → List (List Nat)
  | 0, _ => []
  | n + 1, path =>
    ((adj (path.headD start)).filter (fun v => decide (start ≤ v))).flatMap (fun v =>
      if v = start then [path.reverse] else if path.contains v then [] else cyclesFrom adj start n (v :: path))

/-- Every elementary directed cycle of a graph, listed from its least unit. -/
def graphCycles (g : Graph) : List (List Nat) :=
  let us := graphUnits g
  let adj := fun (v : Nat) => match us.find? (fun u => nodeOf u.1.rel u.2.en == v) with
    | some u => succsOf u.2
    | none => []
  us.flatMap (fun u => cyclesFrom adj (nodeOf u.1.rel u.2.en) us.length [nodeOf u.1.rel u.2.en])

/-- A closed sequence listed from its least unit. -/
def canonCycle (c : List Nat) : List Nat :=
  let m := c.foldl Nat.min (c.headD 0)
  let i := c.findIdx (· == m)
  c.drop i ++ c.take i

/-- The cycle that a certificate line of a unit names: the cover, then the units listed. -/
def certCycle (st : StnDecl) (e : ElemDecl) (c : List (Nat × Nat)) : List Nat :=
  nodeOf st.rel e.en :: c.map (fun p => nodeOf p.1 p.2)

/-- D(Z) (R91). -/
def cycleDepth (g : Graph) (z : List Nat) : Nat :=
  z.length + ((z.zip (z.drop 1 ++ z.take 1)).foldl (fun n p => n + (stepDepth g p.1 p.2).getD 0) 0)

/-- The unit covers the cycle (R91). -/
def covers (g : Graph) (st : StnDecl) (e : ElemDecl) (z : List Nat) : Bool :=
  z.contains (nodeOf st.rel e.en) && !(allocClasses st e).2
    && decide (2 ^ ((allocClasses st e).1.foldl max 0) * cycleDepth g z ≤ e.floor.getD 0)

/-- A certificate entry of a graph names the cycle, with a unit that covers it. -/
def certified (g : Graph) (z : List Nat) : Bool :=
  (graphUnits g).any (fun u => u.2.certs.any (fun c => canonCycle (certCycle u.1 u.2 c) == z) && covers g u.1 u.2 z)

/-! ### The checks on a graph alone -/

/-- The check on a DEPOT graph (R73). -/
def depotReason (g : Graph) : Option Nat :=
  if g.code.isEmpty || decide (32768 < g.code.length) || decide (g.code.length ≤ g.entry) then some 0 else none

/-- The first check that a fabric graph fails, whatever is resident. -/
def graphReason (firmware : Bool) (g : Graph) : Option Nat :=
  let us := graphUnits g
  if g.n = 0 || decide (64 < g.n) || (g.line && decide (8 < g.n)) || g.stations.any (fun st => decide (g.n ≤ st.rel))
      || !(g.stations.map (·.rel)).Nodup || g.stations.any stnBad || us.any (fun u => elemBad firmware g u.1 u.2)
  then some 0
  else if g.stations.any quotaBad then some 2
  else if us.any (fun u => floorBad u.1 u.2) then some 5
  else
    let zs := graphCycles g
    if 4096 < zs.length then some 6
    else if !zs.all (certified g) then some 7
    else if us.any (fun u => u.2.certs.any (fun c => !zs.contains (canonCycle (certCycle u.1 u.2 c)))) then some 8
    else none

/-- The element and the slot of the first word that refuses the graph (R60). -/
def badSlot (firmware : Bool) (g : Graph) : Nat × Nat :=
  ((graphUnits g).findSome? (fun u =>
    if u.2.seq then none
    else ((List.range u.2.slots.length).find? (fun i => slotBad firmware u.2.fuse (u.2.slots.getD i 0))).map
      (fun i => (u.2.en, i)))).getD (0, 0)

/-! ### Range entries (R190) -/

def rangeBad (e : W64 × W64) : Bool :=
  e.1.getLsbD 6 &&
    (let log2 := fld e.1.toNat 0 6
     fld e.1.toNat 55 9 != 0 || fld e.1.toNat 7 9 != 0 || decide (log2 < 16) || decide (40 < log2)
       || fld e.1.toNat 16 39 * 2 ^ 16 % 2 ^ log2 != 0 || pteFrame e.2 % 2 ^ log2 != 0 || decide (1 < pteKindCode e.2)
       || pteWb e.2 || ptePoison e.2 || !pteLeaf e.2 || !pteValid e.2 || pteMalformed e.2 2)

def rangesOverlap : List (Nat × Nat) → Bool
  | [] => false
  | (a, n) :: t => t.any (fun r => decide (a < r.1 + 2 ^ r.2) && decide (r.1 < a + 2 ^ n)) || rangesOverlap t

/-- Reason 10. -/
def rangesBad (es : List (W64 × W64)) : Bool :=
  decide (16 < es.length) || es.any rangeBad || rangesOverlap (es.filterMap rangeOf)

/-! ### Claims and paths -/

/-- An instruction by which a configuration claims its station's junction (R121). -/
def isJunctionInstr : Instr → Bool
  | .wload _ _ _ | .wswap | .mma _ _ _ | .accrd _ _ | .accwr _ _ | .accclr _ | .ttload _ | .ring _ | .tinj _ _
  | .rstat _ _ => true
  | _ => false

/-- The graph claims the junction of relative station `rel`. -/
def claimsJunction (g : Graph) (rel : Nat) : Bool :=
  g.line || (graphStn g rel).elems.any (fun e => (unitInstrs (graphStn g rel) e).any (fun i => isJunctionInstr i.instr))

/-- The graph places sequenced code in relative station `rel` (R452). -/
def usesStore (g : Graph) (rel : Nat) : Bool := (graphStn g rel).elems.any (·.seq)

/-- A 64-bit word of a block's listed words. -/
def blockWord (b : BlockDecl) (i : Nat) : Nat := (b.words.getD (2 * i) 0).toNat + (b.words.getD (2 * i + 1) 0).toNat * 2 ^ 32

/-- The inputs that the `notify` lines of a station's timetables name: element and channel (R131, R133). -/
def notified (st : StnDecl) : List (Nat × Nat) :=
  (st.blocks.filter (fun b => b.timetable && (blockWord b 0).testBit 50)).map
    (fun b => (fld (blockWord b 0) 41 6, fld (blockWord b 0) 47 3))

def isCopyInstr : Instr → Bool
  | .copy _ _ | .mcast _ => true
  | _ => false

/-- An arc of the graph names the input (R286). -/
def arcNames (g : Graph) (rel en ch : Nat) : Bool :=
  (graphUnits g).any (fun u => (u.2.arcs.flatMap (·.dsts)).any (fun d => d.rel == rel && d.el == en && d.ch == ch))

/-- The input channels of a unit to which the loader binds a delivery path (R286), or for a unit that holds COPY or MCAST
a completion path (R347). -/
def pathChans (g : Graph) (st : StnDecl) (e : ElemDecl) : List Nat :=
  let copies := (unitInstrs st e).any (fun i => isCopyInstr i.instr)
  (readsOf st e).filter (fun c => !arcNames g st.rel e.en c && (copies || !(notified st).contains (e.en, c)))

end Sys2Proof.Machine
end

