-- ==== Sys2Proof/Machine/Loader.lean ====
section
/-! DEFINITION. The loading of a configuration and the start of a record (R34, R44, R83 to R86, R90, R92, R97, R100, R121,
R122, R132, R162, R190, R286, R347, R452). -/
namespace Sys2Proof.Machine

/-! ### Quotas (R100) -/

def roundUp (a m : Nat) : Nat := (a + m - 1) / m * m

/-- The largest power of two not above `q`, or 2,048 if that is smaller. -/
def quotaAlign (q : Nat) : Nat := min 2048 (2 ^ Nat.log2 q)

/-- A run of `q` granules from `a` is free of the runs in use. -/
def runFree (used : List (Nat × Nat × Nat)) (a q : Nat) : Bool :=
  decide (a + q ≤ 131072) && used.all (fun r => decide (a + q ≤ r.2.1) || decide (r.2.1 + r.2.2 ≤ a))

/-- The first granule of the lowest free run of `q` granules, aligned as R100 says: it stands at 0 or behind a run in
use. -/
def findRun (used : List (Nat × Nat × Nat)) (q : Nat) : Option Nat :=
  if q = 0 then some 0
  else
    let ok := (0 :: used.map (fun r => roundUp (r.2.1 + r.2.2) (quotaAlign q))).filter (fun a => runFree used a q)
    match ok with
    | [] => none
    | a :: t => some (t.foldl Nat.min a)

/-- The layout of a quota: where the cursor stands, and the granules skipped to reach an alignment. -/
structure Lay where
  cur : Nat
  skipped : List (Nat × Nat)
  deriving DecidableEq, Repr

/-- The next block of class `k`: its first granule. -/
def Lay.place (l : Lay) (k : Nat) : Nat × Lay :=
  let a := roundUp l.cur (2 ^ k)
  (a, ⟨a + 2 ^ k, if l.cur < a then l.skipped ++ [(l.cur, a)] else l.skipped⟩)

/-- Blocks of the classes of a list placed one behind the other. -/
def Lay.places (l : Lay) : List Nat → List (Nat × Nat) × Lay
  | [] => ([], l)
  | k :: ks =>
    let (a, l) := l.place k
    let (r, l) := Lay.places l ks
    ((a, k) :: r, l)

/-- The binary decomposition of a floor, the largest block first (R83); no block is larger than class 11. -/
def floorClasses : Nat → Nat → List Nat
  | 0, g => List.replicate g 0
  | k + 1, g => List.replicate (g / 2 ^ (k + 1)) (k + 1) ++ floorClasses k (g % 2 ^ (k + 1))

/-- Floor pools placed in ascending element number. -/
def Lay.floors (l : Lay) : List (Nat × Nat) → List (Nat × List (Nat × Nat)) × Lay
  | [] => ([], l)
  | (en, g) :: t =>
    let (bs, l) := l.places (floorClasses 11 g)
    let (r, l) := Lay.floors l t
    ((en, bs) :: r, l)

/-- Elements with their floors, in ascending element number. -/
def floorList (st : StnDecl) : List (Nat × Nat) :=
  (List.range 64).filterMap (fun en =>
    match st.elems.find? (fun e => e.en == en) with
    | some e => e.floor.map (fun f => (en, f))
    | none => none)

/-- The blocks, the floor pools and the rest of a quota's run that begins at `first`. -/
def layQuota (st : StnDecl) (first : Nat) : List (Nat × Nat) × List (Nat × List (Nat × Nat)) × Lay :=
  let (bs, l) := Lay.places ⟨first, []⟩ (st.blocks.map (·.k))
  let (fs, l) := l.floors (floorList st)
  (bs, fs, l)

/-- Reason 2 once the skipped granules are counted (R100). -/
def layBad (st : StnDecl) (first : Nat) : Bool := decide (first + st.quota < (layQuota st first).2.2.cur)

/-- The bytes of a `.block` (R72). Words beyond its granules are dropped (DESIGN CHOICE, log entry 101). -/
def blockInit (b : BlockDecl) : List (Nat × Byte) :=
  let bs := b.words.flatMap (fun w => bytesOf 4 w.toNat)
  (List.range (32 * 2 ^ b.k)).map (fun i => (i, bs.getD i 0))

/-- A run laid out for region `r` in station `n` (R83, R90, R100): the `.block` blocks with count 1 and their words, the
floor pools and the shared pool. -/
def State.layStation (s : State) (r n first : Nat) (sd : StnDecl) : State :=
  let lay := layQuota sd first
  let st := s.station n
  let st : Station := { st with pools := st.pools.filter (fun p => p.region != r) }
  let st : Station := lay.1.foldl (fun (st : Station) b =>
    { st with blocks := st.blocks ++ [⟨b.1, b.2, st.gen, 1, r, none, true⟩] }) st
  let st := lay.2.1.foldl (fun (st : Station) f =>
    st.setPool r (some (n * 64 + f.1)) (f.2.foldl (fun l b => insertFree b l) [])) st
  let shared := addRange lay.2.2.cur (first + sd.quota) (lay.2.2.skipped.foldl (fun l g => addRange g.1 g.2 l) [])
  let s := s.setStation n (st.setPool r none shared)
  (lay.1.zip sd.blocks).foldl (fun s e =>
    let cells := (blockInit e.2).map (fun c => (n * 2 ^ 22 + 32 * e.1.1 + c.1, c.2))
    { s with scratch := Memory.writes s.scratch cells }) s

/-! ### Arcs and paths (R86, R132, R162, R286) -/

/-- An arc to be bound: its source (relative station and element), its output channel, and where it ends. A path has no
source; `jct` marks a junction's completion path. -/
structure NewArc where
  src : Option (Nat × Nat × Nat)
  rel : Nat
  el : Nat
  ch : Nat
  floor : Nat
  remote : Bool
  jct : Bool
  deriving DecidableEq, Repr

/-- The arcs and paths of a graph in the order in which the loader binds them. -/
def newArcs (g : Graph) : List NewArc :=
  (graphUnits g).flatMap (fun u => u.2.arcs.flatMap (fun a => a.dsts.map (fun d =>
      (⟨some (u.1.rel, u.2.en, a.o), d.rel, d.el, d.ch, d.floor, d.rel != u.1.rel, false⟩ : NewArc))))
    ++ (graphUnits g).flatMap (fun u => (pathChans g u.1 u.2).map (fun c =>
      (⟨none, u.1.rel, u.2.en, c, 1, true, false⟩ : NewArc)))
    ++ (if g.line then (List.range g.n).map (fun rel => (⟨none, rel, 0, 0, 1, false, true⟩ : NewArc)) else [])

/-- The element number that stands for the junction in an `ArcState`. -/
def junctionUnit (n : Nat) : Nat := 65536 + n

/-- The lowest platform entry that no arc of the station holds (R86). -/
def Station.freeEntry (st : Station) : Option Nat :=
  ((List.range 192).map (· + 64)).find? (fun e => (Tab.find st.arcs e).isNone)

/-- One arc bound at its destination station: the station's state and the destination. The arcs of saved regions count too (R92;
DESIGN CHOICE, log entry 103). -/
def State.bindArc (s : State) (r : Nat) (phys : List Nat) (a : NewArc) : Except Nat (State × Dest) :=
  let n := phys.getD a.rel 0
  let st := s.station n
  if 8192 < st.arcs.foldl (fun k e => k + e.2.floor) 0 + a.floor then .error 3
  else match st.freeEntry with
    | none => .error 4
    | some e =>
      let u := if a.jct then junctionUnit n else n * 64 + a.el
      .ok (s.setStation n { st with arcs := Tab.put st.arcs e ⟨r, u, a.ch, a.floor, 0, a.src.isNone, a.remote⟩ },
           ⟨n, n * 64 + a.el, a.ch, e, a.floor⟩)

def State.bindArcs (s : State) (r : Nat) (phys : List Nat) : List NewArc → Except Nat (State × List (NewArc × Dest))
  | [] => .ok (s, [])
  | a :: t =>
    match s.bindArc r phys a with
    | .error e => .error e
    | .ok (s, d) =>
      match State.bindArcs s r phys t with
      | .error e => .error e
      | .ok (s, ds) => .ok (s, (a, d) :: ds)

/-- The router of a station within its die (R160). -/
def routerOf (n : Nat) : Nat := 4 * (n % 64 / 8 / 2) + n % 8 / 2

/-- Some slice of a die has more than 256 mailbox lines (R162). -/
def State.mailboxesBad (s : State) (die : Nat) : Bool :=
  let lines := (s.stations.filter (fun e => e.1 / 64 == die)).flatMap (fun e =>
    (e.2.arcs.filter (·.2.remote)).map (fun a => 4 * routerOf e.1 + (a.1 - 64) % 4))
  (List.range 64).any (fun i => decide (256 < (lines.filter (· == i)).length))

/-! ### Units -/

/-- The handle of block number `i` of a station section. -/
def blockHandle (st : Station) (n : Nat) (sd : StnDecl) (first i : Nat) : W64 :=
  match (layQuota sd first).1[i]? with
  | some (a, k) =>
    match st.blocks.find? (fun b => b.first == a && b.k == k) with
    | some b => mkHandle b.gen.toNat n k a 0
    | none => 0
  | none => 0

/-- One `.data` line applied (R72). Values beyond the unit's lanes are dropped (DESIGN CHOICE, log entry 101). -/
def initData (st : Station) (n : Nat) (sd : StnDecl) (first : Nat) (x : Unit) : DataInit → Unit
  | .v r ls => (List.range x.lanes).foldl (fun x j => x.setLane (Fin.ofNat 32 r) j (ls.getD j 0)) x
  | .s r v => x.setS (Fin.ofNat 16 r) v
  | .sBlock r i => x.setS (Fin.ofNat 16 r) (blockHandle st n sd first i)
  | .p r b => { x with p := setPred x.p (Fin.ofNat 8 r) b }
  | .lm m => { x with lm := m &&& allLive x.lanes }

/-- The bound output channels of a unit. -/
def outsBound (ds : List (NewArc × Dest)) (rel en : Nat) : Tab (List Dest) :=
  (List.range 8).foldl (fun (t : Tab (List Dest)) o =>
    Tab.set [] t o ((ds.filter (fun d => d.1.src == some (rel, en, o))).map (·.2))) []

/-- The inputs of a unit that an arc or path reaches; a junction's path reaches the input that a timetable names. -/
def insBound (ds : List (NewArc × Dest)) (sd : StnDecl) (en : Nat) : List Nat :=
  (List.range 8).filter (fun c => (notified sd).contains (en, c)
    || ds.any (fun d => !d.1.jct && d.1.rel == sd.rel && d.1.el == en && d.1.ch == c))

/-- A record's words (R207). -/
def recFrame (w : List W64) : W64 := w.getD 1 0
def recJoin (w : List W64) : W64 := w.getD 2 0
def recArg (w : List W64) : W64 := w.getD 3 0

/-- A unit as a record finds it before its first firing (R34, R39, R233). -/
def startUnit (st : Station) (r ctx part cls : Nat) (line : Nat × Nat) (n first : Nat) (sd : StnDecl) (e : ElemDecl)
    (ds : List (NewArc × Dest)) (rec : List W64) : Unit :=
  let x : Unit := { Unit.reset with
    region := r
    ctx := ctx
    part := part
    mode := if e.seq then .sequenced else .triggered
    fuse := e.fuse
    slots := e.slots
    enable := BitVec.ofNat 16 (2 ^ e.slots.length - 1)
    lo := e.lo
    hi := e.hi
    pc := e.entry
    lm := allLive (8 * e.fuse)
    outs := outsBound ds sd.rel e.en
    ins := insBound ds sd e.en
    qclass := BitVec.ofNat 2 cls
    floor := e.floor
    nstn := line.1
    ndie := line.2
    cover := !e.certs.isEmpty
    sys := { Sys.reset with bclass := BitVec.ofNat 2 cls } }
  let x := ((x.setS 0 (recFrame rec)).setS 1 (recArg rec)).setS 2 (recJoin rec)
  let x := e.sticky.foldl (fun x k => x.setK k.1 (BitVec.ofNat 16 k.2)) x
  e.data.foldl (initData st n sd first) x

/-- The first granule of a region's run in a station. -/
def Station.runOf (st : Station) (r : Nat) : Nat :=
  match st.quotas.find? (fun q => q.1 == r) with
  | some q => q.2.1
  | none => 0

/-- The storage of a region laid out anew: its blocks and pools in its runs, its arcs and paths bound (R90, R100). -/
def State.prepare (s : State) (r : Nat) (phys : List Nat) (g : Graph) : Except Nat (State × List (NewArc × Dest)) :=
  let s := (List.range g.n).foldl (fun s rel =>
    s.layStation r (phys.getD rel 0) ((s.station (phys.getD rel 0)).runOf r) (graphStn g rel)) s
  match s.bindArcs r phys (newArcs g) with
  | .error e => .error e
  | .ok (s, ds) => if s.mailboxesBad (phys.getD 0 0 / 64) then .error 11 else .ok (s, ds)

/-- Every unit of a region set as a record's start finds it. -/
def State.startUnits (s : State) (r ctx part cls : Nat) (line : Nat × Nat) (phys : List Nat) (g : Graph)
    (ds : List (NewArc × Dest)) (rec : List W64) : State :=
  (graphUnits g).foldl (fun s u =>
    let n := phys.getD u.1.rel 0
    s.putUnit (n * 64 + u.2.en)
      (startUnit (s.station n) r ctx part cls line n ((s.station n).runOf r) u.1 u.2 ds rec)) s

/-! ### Residents -/

/-- A configuration of the region stands on its stations. -/
def Region.onStations (x : Region) : Bool := x.st.resident

/-- The elements of a station that resident units occupy, footprints counted; regions of `skip` are left out. -/
def State.occupied (s : State) (n : Nat) (skip : List Nat) : List Nat :=
  (s.units.filter (fun e => !isCore e.1 && stnOf e.1 == n && !skip.contains e.2.region)).flatMap (fun e =>
    footprint ⟨elemOf e.1, e.2.fuse, false, 0, 0, 0, [], none, [], [], [], []⟩)

/-- The graph's elements or sequenced code collide with a resident configuration in a station (R452). -/
def State.stationTaken (s : State) (n : Nat) (sd : StnDecl) (skip : List Nat) : Bool :=
  (sd.elems.flatMap footprint).any (fun c => (s.occupied n skip).contains c)
    || (sd.elems.any (·.seq) && (match (s.station n).storeOwner with
        | some r => !skip.contains r
        | none => false))

/-- The arcs and paths that the resident configurations bring into a station, those of idle regions included (R92). -/
def State.residentArcs (s : State) (n : Nat) : List NewArc :=
  (s.regions.filter (fun r => r.2.onStations)).flatMap (fun r =>
    match (s.context? r.2.ctx).bind (fun c => c.desc.graphs.find? (fun g => g.gid == r.2.gid)) with
    | some g => (newArcs g).filter (fun a => r.2.stations.getD a.rel 0 == n)
    | none => [])

/-- The floors of arcs in all. -/
def floorsOf (as : List NewArc) : Nat := as.foldl (fun k a => k + a.floor) 0

/-- The first check against the residents that a placement fails (R92, R100, R121, R452). -/
def State.residentReason (s : State) (phys : List Nat) (g : Graph) : Option Nat :=
  let stns := (List.range g.n).map (fun rel => (phys.getD rel 0, graphStn g rel))
  let fit := fun (p : Nat × StnDecl) => findRun (s.station p.1).quotas p.2.quota
  let arcs := fun (p : Nat × StnDecl) => s.residentArcs p.1 ++ (newArcs g).filter (fun a => a.rel == p.2.rel)
  if stns.any (fun p => (fit p).isNone) then some 1
  else if stns.any (fun p => layBad p.2 ((fit p).getD 0)) then some 2
  else if stns.any (fun p => decide (8192 < floorsOf (arcs p))) then some 3
  else if stns.any (fun p => decide (192 < (arcs p).length)) then some 4
  else if stns.any (fun p => claimsJunction g p.2.rel && (s.junction p.1).claim.isSome)
      || (g.line && (s.loopLine (phys.getD 0 0 / 8)).claim.isSome) then some 9
  else if stns.any (fun p => s.stationTaken p.1 p.2 []) then some 12
  else none

/-- No region stands on a station. -/
def State.stationEmpty (s : State) (n : Nat) : Bool :=
  !s.regions.any (fun r => r.2.st.resident && r.2.stations.contains n)

/-! ### Load -/

/-- A new region's number: regions are numbered from 1. -/
def State.freshRegion (s : State) : Nat := s.regions.foldl (fun n r => max n r.1) 0 + 1

/-- A configuration loaded on the station, with the PTRs of copy channels that it brings: what a channel ran before it shows
no more to its units, but for a copy that still runs (R223, R450). -/
def Station.noteLoad (st : Station) (r : Nat) (ptrs : Tab Nat) : Station :=
  { st with
    loads := st.loads + 1
    copied := Tab.put st.copied r (st.loads + 1, ptrs)
    copies := st.copies.map (fun c => (c.1, if c.2.busy then { c.2 with ran := st.loads + 1 } else c.2)) }

/-- One station taken by a configuration: the run zeroed, the signals zeroed where nothing else is resident, the ranges
installed, the store filled, the junction claimed (R73, R90, R97, R122, R190). -/
def State.claimStation (s : State) (r ctx : Nat) (ranges : List (W64 × W64)) (g : Graph) (n first : Nat)
    (sd : StnDecl) : State :=
  let s := if s.stationEmpty n then { s with signals := Tab.delRange s.signals (n * 1024) ((n + 1) * 1024) } else s
  let lo := n * 2 ^ 22 + 32 * first
  let s : State := { s with scratch := Memory.clear s.scratch lo (lo + 32 * sd.quota) }
  let s := s.onStation n (fun st => { st.noteLoad r [] with
    quotas := (r, first, sd.quota) :: st.quotas
    store := if sd.elems.any (·.seq) then (List.range sd.store.length).map (fun i => (i, sd.store.getD i 0)) else st.store
    storeOwner := if sd.elems.any (·.seq) then some r else st.storeOwner })
  let s := (List.range 4).foldl (fun s p => s.onPort n p (fun pt => { pt with
    ranges := pt.ranges.filter (fun e => e.1 != ctx) ++ ranges.map (fun e => (ctx, e)) })) s
  if claimsJunction g sd.rel then s.setJunction n { Junction.reset with claim := some r } else s

/-- A region as its configuration is loaded. -/
def newRegion (ctx part die gid : Nat) (line : Bool) (phys us : List Nat) (now : Nat) : Region where
  ctx := ctx
  part := part
  die := die
  gid := gid
  line := line
  stations := phys
  units := us
  report := []
  st := .idle
  queue := 0
  qclass := 0
  record := []
  done := false
  cyc := 0
  since := now
  wdBase := 0
  stopCyc := none
  unrev := none
  replay := none
  discard := false
  after := .saved
  started := 0
  idleAt := now
  switchOrder := 0
  service := none
  savedUnits := []
  savedSignals := []
  savedScratch := []
  savedPtrs := []
  savedPools := []
  savedJunctions := []
  savedLine := none
  savedHeld := []
  savedWaits := []
  savedEnq := []

/-- A configuration loaded on stations `phys` of a die; its region is idle until a record starts it. The error is the
DETAIL of CONFIG_INVALID. The load report gives granule 0 for a station whose quota is 0: R100 says nothing of it (DESIGN
CHOICE, log entry 97). -/
def State.load (s : State) (r ctx : Nat) (c : CtxDesc) (g : Graph) (die : Nat) (phys : List Nat) : Except Nat State :=
  match graphReason c.firmware g with
  | some e => .error e
  | none =>
    if rangesBad c.ranges then .error 10
    else match s.residentReason phys g with
      | some e => .error e
      | none =>
        let us := (graphUnits g).map (fun u => phys.getD u.1.rel 0 * 64 + u.2.en)
        let report := (List.range g.n).map (fun rel =>
          (phys.getD rel 0, (findRun (s.station (phys.getD rel 0)).quotas (graphStn g rel).quota).getD 0))
        let s := (List.range g.n).foldl (fun s rel =>
          let n := phys.getD rel 0
          s.claimStation r ctx c.ranges g n ((findRun (s.station n).quotas (graphStn g rel).quota).getD 0)
            (graphStn g rel)) s
        let s := if g.line then s.setLoopLine (phys.getD 0 0 / 8) { LoopLine.reset with claim := some r } else s
        .ok (s.putRegion r { newRegion ctx c.part die g.gid g.line phys us (s.dieNow die) with report := report })

/-! ### The return of a quota and the release of a configuration (R90, R244) -/

/-- Blocks, platform entries and arcs of a region returned in a station. -/
def Station.returnQuota (st : Station) (r : Nat) (us : List Nat) : Station :=
  let freed := st.blocks.filter (fun b => b.region == r)
  let gone := (st.arcs.filter (fun a => a.2.region == r)).map (·.1)
  { st with
    blocks := st.blocks.filter (fun b => b.region != r)
    gen := freed.foldl (fun g _ => nextGen g) st.gen
    pools := st.pools.filter (fun p => p.region != r)
    platform := st.platform.filter (fun e => !gone.contains e.1 &&
      (match e.2.what.unitOf with
       | some u => !(us.contains u && decide (e.1 < 64))
       | none => true))
    arcs := st.arcs.filter (fun a => a.2.region != r)
    freed := st.freed.filter (fun e => e.2.region != r) }

/-- The quota of a region returned (R90). -/
def State.returnQuota (s : State) (r : Nat) : State :=
  match s.region? r with
  | none => s
  | some x => x.stations.foldl (fun s n => s.onStation n (fun st => st.returnQuota r x.units)) s

/-- A configuration leaves its stations: runs, stores, junctions and the line are free, its units are gone. -/
def State.unload (s : State) (r : Nat) : State :=
  match s.region? r with
  | none => s
  | some x =>
    let s := s.returnQuota r
    let shared := fun n => s.regions.any (fun y => y.1 != r && y.2.ctx == x.ctx && y.2.stations.contains n)
    let s := x.stations.foldl (fun (s : State) n =>
      let s := s.onStation n (fun st => { st with
        quotas := st.quotas.filter (fun q => q.1 != r)
        copied := Tab.del st.copied r
        store := if st.storeOwner = some r then [] else st.store
        storeOwner := if st.storeOwner = some r then none else st.storeOwner
        ports := st.ports.map (fun p => (p.1, { p.2 with
          ranges := if shared n then p.2.ranges else p.2.ranges.filter (fun e => e.1 != x.ctx) })) })
      if (s.junction n).claim = some r then s.setJunction n Junction.reset else s) s
    let s := x.stations.foldl (fun (s : State) n =>
      if (s.loopLine (lineOf n)).claim = some r then s.setLoopLine (lineOf n) LoopLine.reset else s) s
    { s with
      units := s.units.filter (fun e => !(!isCore e.1 && e.2.region == r))
      regions := Tab.del s.regions r }

/-! ### The start of a record (R30, R34, R39) -/

/-- The graph of a context by its identifier. -/
def State.graph? (s : State) (ctx gid : Nat) : Option Graph :=
  match s.context? ctx with
  | some c => if c.removing then none else c.desc.graphs.find? (fun g => g.gid == gid)
  | none => none

/-- NSTN and NDIE as the region's configuration was loaded with, or as they stand now (R44). -/
def State.lineSizes (s : State) (x : Region) : Nat × Nat :=
  match x.units.findSome? s.unit? with
  | some y => (y.nstn, y.ndie)
  | none => (s.usableOn x.part x.die, s.usableDies x.part)

/-- A record starts an idle region: its storage is laid out, its units are set, its counters begin at 0. The error is a
reason of R92. -/
def State.startRecord (s : State) (r : Nat) (q cls : Nat) (rec : List W64) : Except Nat State :=
  match s.region? r with
  | none => .error 0
  | some x =>
    match s.graph? x.ctx x.gid with
    | none => .error 0
    | some g =>
      match s.prepare r x.stations g with
      | .error e => .error e
      | .ok (s1, ds) =>
        let s1 := s1.startUnits r x.ctx x.part cls (s.lineSizes x) x.stations g ds rec
        .ok { s1.putRegion r { x with
                st := .running, queue := q, qclass := BitVec.ofNat 2 cls, record := rec, done := false
                cyc := 0, since := s.dieNow x.die, wdBase := 0, unrev := none, replay := none, discard := false
                started := s1.ids } with ids := s1.ids + 1 }

end Sys2Proof.Machine
end

