-- ==== Sys2Proof/Machine/Signalbox.lean ====
section
/-! DEFINITION. The signal box: queues, sidings, waiting enqueuers, the choice of the next record and its placement, and
switch-out requests (R206 to R220, R224, R276, R303). -/
namespace Sys2Proof.Machine

/-! ### Host requests (R303) -/

/-- A request posted to the host: SEQ and TYPE, two words, and vector 1. With the partition's key zeroed its stacks take no
write, and nothing is posted (R311). -/
def State.writeHostReq (s : State) (p ty : Nat) (w1 w2 : W64) : State :=
  let x := s.part p
  if x.keyless then s
  else
  let seq := x.hreqHead
  let l := s.windowLoc p (x.hreqBase + 32 * (seq.toNat % 4096))
  let ws := [w64 (seq.toNat * 2 ^ 32 + ty), w1, w2, 0]
  let s := s.homeSync p .device l.addr (ws.flatMap (fun w => bytesOf 8 w.toNat)) 0 false
  s.setPart p ({ s.part p with hreqHead := seq + 1 }.notify 1)

/-- The host request ring has room and nothing waits to be posted. -/
def Partition.hreqRoom (x : Partition) : Bool := x.hreqHead - x.hreqTail != 4096

/-- A request is posted, or waits for room behind those that wait. -/
def State.postHost (s : State) (p ty : Nat) (w1 w2 : W64) : State :=
  let x := s.part p
  if x.hreqWait.isEmpty && x.hreqRoom then s.writeHostReq p ty w1 w2
  else s.setPart p { x with hreqWait := x.hreqWait ++ [[w64 ty, w1, w2]] }

/-! ### Queue descriptors (R206) -/

def qdCtx (d : List W64) : Nat := fld (wordAt d 0) 0 16
def qdLog2n (d : List W64) : Nat := fld (wordAt d 0) 16 5
def qdLog2s (d : List W64) : Nat := fld (wordAt d 0) 21 5
def qdEn (d : List W64) : Bool := (wordAt d 0).testBit 26
def qdDepot (d : List W64) : Bool := (wordAt d 0).testBit 27
def qdClass (d : List W64) : Nat := fld (wordAt d 0) 28 2
def qdWeight (d : List W64) : Nat := max 1 (fld (wordAt d 0) 32 8)
def qdRing (d : List W64) : Nat := fld (wordAt d 1) 0 41
def qdSiding (d : List W64) : Nat := fld (wordAt d 2) 0 55

/-- A descriptor that an enable takes (R206). -/
def State.qdOk (s : State) (p : Nat) (d : List W64) : Bool :=
  let ring := 32 * 2 ^ qdLog2n d
  decide (3 ≤ qdLog2n d) && decide (qdLog2n d ≤ 20)
    && (qdLog2s d == 0 || (decide (3 ≤ qdLog2s d) && decide (qdLog2s d ≤ 24)))
    && qdRing d % ring == 0 && s.ownsAddr p (qdRing d) && s.ownsAddr p (qdRing d + ring - 1)
    && (qdLog2s d == 0 || qdSiding d % (32 * 2 ^ qdLog2s d) == 0)

/-- The partition of a queue (R206). -/
def State.queuePart (s : State) (q : Nat) : Option Nat := s.partOf (q / 2048)

/-- The package queue number of a partition's local index (R208). -/
def State.localQueue (s : State) (p j : Nat) : Option Nat := ((s.districts p)[j / 2048]?).map (fun d => d * 2048 + j % 2048)


/-- A siding access is withheld: the queue is in SPILL_FAULT (R209, R213). -/
def Queue.withheld (x : Queue) : Bool := (x.spill.isSome && !x.portWaits) || x.readback.isSome

/-- A siding access that is withheld, or whose main-line port sends only idle flits, holds the queue: no record enters it
(R213, R305). -/
def Queue.halted (x : Queue) : Bool := x.spill.isSome || x.readback.isSome

/-- The window takes a record directly: a free place and an empty siding (R209). -/
def Queue.windowRoom (x : Queue) : Bool := decide (x.window.length < 8) && x.siding.isEmpty

/-- The queue can take one record now (R209, R212, R213). -/
def Queue.room (x : Queue) : Bool :=
  x.st != .disabled && !x.halted
    && (x.windowRoom || (qdLog2s x.live != 0 && decide (x.siding.length < 2 ^ qdLog2s x.live)))

/-- The die whose signal box keeps a queue. -/
def boxOf (q : Nat) : Nat := q / 4096

/-- The rank of the dispatch core among the enqueues of one die cycle; that of a unit or depot core is its number (R209). -/
def rankDispatch : Nat := 65536

/-- An enqueue of a rank may reach the queue's signal box in this die cycle: none of a higher rank has. -/
def State.mayEnter (s : State) (q rank : Nat) : Bool :=
  match Tab.find s.boxes (boxOf q) with
  | some (c, k) => c != s.queueNow q || decide (k ≤ rank)
  | none => true

def State.noteEnter (s : State) (q rank : Nat) : State :=
  { s with boxes := Tab.put s.boxes (boxOf q) (s.queueNow q, rank) }

/-- The state that a queue's contents give it (R213). -/
def Queue.settle (x : Queue) : Queue :=
  match x.st with
  | .disabled | .broken => x
  | _ =>
    if x.withheld then { x with st := .spillFault }
    else if !x.siding.isEmpty || x.spill.isSome then
      { x with st := if 2 ^ qdLog2s x.live ≤ x.siding.length then .full else .spilling }
    else { x with st := if !x.waiters.isEmpty && !x.room then .full else .open_ }

/-! ### Sidings (R209, R213) -/

/-- The virtual address of a siding slot. -/
def Queue.slotVa (x : Queue) (slot : Nat) : Nat := qdSiding x.live + 32 * (slot % 2 ^ qdLog2s x.live)

/-- An error record of class 1: a record of the queue is dropped (R213, R215, R227). Drops of one code at one signal box
coalesce (R249). -/
def State.dropRec (s : State) (q : Nat) (f : ErrRec → ErrRec) : State :=
  match s.queuePart q with
  | none => s
  | some p => s.postCoalesced (f { ErrRec.blank p 1 with ctx := qdCtx (s.queueAt q).live, die := queueDie q, queue := q })

def State.dropNote (s : State) (q code detail : Nat) (addr : W64) (akind : Nat) : State :=
  s.dropRec q (fun e => { e with code := code, detail := detail, addr := addr, akind := akind })

/-- A record written to the tail of the siding; a withheld write leaves it in the spill buffer, as one does whose port sends only
idle flits (R305); another fault drops it. The write and the response of a peer line fall in one step (R306; DEDUCED, log entry
23). -/
def State.spillRec (s : State) (q issuer : Nat) (r : QRec) : State :=
  let x := s.queueAt q
  let va := x.slotVa x.sidingNext
  match s.queuePart q with
  | none => s
  | some p =>
    match s.translatePlain (qdCtx x.live) p va wantWrite with
    | .ok loc page _ _ =>
      if s.peerWaits loc then s.setQueue q ({ x with spill := some (issuer, r), portWaits := true }.settle)
      else
        let s := s.homeSync p loc.kind loc.addr (r.words.flatMap (fun w => bytesOf 8 w.toNat)) page.cmode page.depot
        s.setQueue q ({ x with siding := x.siding ++ [(x.sidingNext, r.cls, r.since, issuer)],
                               sidingNext := x.sidingNext + 1, spill := none, portWaits := false }.settle)
    | .invalid level =>
      let s := s.postFault p (faultWordSiding (qdCtx x.live) q level 1) va
      s.setQueue q ({ x with spill := some (issuer, r), spillSince := s.queueNow q, portWaits := false }.settle)
    | .wb => s.setQueue q ({ x with spill := some (issuer, r), spillSince := s.queueNow q, portWaits := false }.settle)
    | .fault t => (s.setQueue q ({ x with spill := none, portWaits := false }.settle)).dropNote q t.code.num t.detail t.addr 1

/-- A record enters the queue order (R209). The queue has room. -/
def State.enterQueue (s : State) (q issuer : Nat) (words : List W64) : State :=
  let x := s.queueAt q
  let r : QRec := ⟨words, qdClass x.live, s.queueNow q⟩
  if x.windowRoom then s.setQueue q ({ x with window := x.window ++ [r] }.settle) else s.spillRec q issuer r

/-- The words of a record read at a location. -/
def State.readRecord (s : State) (p : Nat) (loc : Loc) : List W64 :=
  (List.range 4).map (fun i => w64 (s.homeNat p ⟨loc.kind, loc.addr + 8 * i⟩ 8))

/-- The words of a siding record read back: those of a peer line come by a request flit and its response (R304, R306), the others
as its home holds them. -/
def State.readSiding (s : State) (p : Nat) (loc : Loc) (page : PageBits) : State × List W64 :=
  match loc.kind with
  | .peer =>
    (match s.homeRead p loc 32 page.cmode page.depot with
     | (s, .bytes bs) => (s, (List.range 4).map (fun i => w64 (ofBytes ((bs.drop (8 * i)).take 8))))
     | (s, .wait _) => (s, s.readRecord p loc))
  | _ => (s, s.readRecord p loc)

/-- Free places of the window are filled from the siding, oldest first (R209). A record whose read waits for a port that sends
only idle flits stays in the siding (R305). -/
def State.refill (s : State) (q : Nat) : Nat → State
  | 0 => s
  | fuel + 1 =>
    let x := s.queueAt q
    match x.siding with
    | [] => s.setQueue q x.settle
    | (slot, cls, since, _) :: rest =>
      if 8 ≤ x.window.length || x.readback.isSome then s.setQueue q x.settle
      else
        match s.queuePart q with
        | none => s
        | some p =>
          match s.translatePlain (qdCtx x.live) p (x.slotVa slot) wantRead with
          | .ok loc page _ _ =>
            if s.peerWaits loc then s.setQueue q x.settle
            else
              let (s, ws) := s.readSiding p loc page
              (s.setQueue q { x with window := x.window ++ [⟨ws, cls, since⟩], siding := rest }).refill q fuel
          | .invalid level =>
            let s := s.postFault p (faultWordSiding (qdCtx x.live) q level 0) (x.slotVa slot)
            s.setQueue q ({ x with readback := some (s.queueNow q) }.settle)
          | .wb => s.setQueue q ({ x with readback := some (s.queueNow q) }.settle)
          | .fault t =>
            ((s.setQueue q { x with siding := rest }).dropNote q t.code.num t.detail t.addr 1).refill q fuel

def State.refillAll (s : State) (q : Nat) : State := s.refill q ((s.queueAt q).siding.length + 1)

/-- Withheld siding accesses repeated: the spill buffer first, where its write is released, then the reading back, where its
read is (R209, R213). -/
def State.retrySiding (s : State) (q : Nat) (write read : Bool) : State :=
  let x := s.queueAt q
  let s := if read then s.setQueue q { x with readback := none } else s
  let s := match (if write then x.spill else none) with
    | some (issuer, r) => s.spillRec q issuer r
    | none => s
  s.refillAll q

/-- Siding accesses that waited for a main-line port go on once it sends again, the spill buffer first (R209, R305). -/
def State.retryPort (s : State) (q : Nat) : State :=
  let x := s.queueAt q
  if x.st == .disabled || (x.siding.isEmpty && !x.portWaits) then s else s.retrySiding q x.portWaits false

/-- The head of the window leaves the queue; a queue that is now empty loses its deficit (R209, R217). -/
def State.popHead (s : State) (q : Nat) : State :=
  let x := s.queueAt q
  let s := (s.setQueue q { x with window := x.window.drop 1 }).refillAll q
  let y := s.queueAt q
  if y.window.isEmpty && y.siding.isEmpty then s.setQueue q { y with deficit := 0 } else s

/-! ### Heads (R215, R216) -/

/-- The class of a waiting record at a die cycle (R216). -/
def QRec.classAt (r : QRec) (now : Nat) : Nat := r.cls - (now - r.since) / 2 ^ 24

def recGid (w : List W64) : Nat := fld (wordAt w 0) 0 16
def recQueue (w : List W64) : Nat := fld (wordAt w 0) 16 15
def recReserved (w : List W64) : Bool := fld (wordAt w 0) 31 33 != 0

/-- A head whose reserved bits are not 0 or whose GID names no graph of the queue's context at its level is dropped
(R215). A context of another partition has no graph for the queue (R217; DEDUCED, log entry 86). -/
def State.headBad (s : State) (q : Nat) (r : QRec) : Bool :=
  let x := s.queueAt q
  recReserved r.words ||
    (match s.graph? (qdCtx x.live) (recGid r.words) with
     | some g => g.depot != qdDepot x.live || (s.context? (qdCtx x.live)).map (·.desc.part) != s.queuePart q
     | none => true)

def State.dropHeads (s : State) (q : Nat) : Nat → State
  | 0 => s
  | fuel + 1 =>
    match (s.queueAt q).window with
    | r :: _ => if s.headBad q r then ((s.popHead q).dropNote q 0 0 0 0).dropHeads q fuel else s
    | [] => s

/-- The queue's heads checked. -/
def State.checkHeads (s : State) (q : Nat) : State :=
  s.dropHeads q ((s.queueAt q).window.length + (s.queueAt q).siding.length + 1)

/-! ### Frozen regions and classes (R179, R220, R241) -/

/-- An access of the unit is withheld. -/
def Unit.isWithheld (x : Unit) : Bool :=
  match x.blocked with
  | some (.again _ c) => c.hold.isSome
  | some (.stream st) => st.hold.isSome
  | _ => false

/-- An access of the region is withheld: of a unit, a copy, a recovery fetch or a held event. -/
def State.anyWithheld (s : State) (r : Nat) (x : Region) : Bool :=
  x.units.any (fun u => match s.unit? u with
      | some y => y.isWithheld
      | none => false)
    || x.stations.any (fun n =>
        (s.station n).copies.any (fun c => c.2.busy && c.2.hold.isSome && x.units.contains c.2.unit)
          || ((s.junction n).claim == some r && (s.junction n).tasks.any (fun t => t.hold.isSome)))
    || (s.heldOf r).any (fun h => h.withheld.isSome)

/-- The region is frozen: an access is withheld and the invocation at its commit index is unrevocable (R179, R241). -/
def State.frozen (s : State) (r : Nat) : Bool :=
  match s.region? r with
  | none => false
  | some x => x.unrevocable (s.commitIndex r) && s.anyWithheld r x

/-- A region's class for scheduling: the lowest BCLASS among its units, never below its queue's CLASS (R220). -/
def State.regionClass (s : State) (x : Region) : Nat :=
  let us := x.savedUnits.map (·.2) ++ (if x.savedUnits.isEmpty then x.units.filterMap s.unit? else [])
  max x.qclass.toNat (us.foldl (fun n y => min n y.sys.bclass.toNat) 3)

/-- A switch-out of a running region is requested (R220, R221). -/
def State.requestSwitch (s : State) (r : Nat) : State :=
  match s.region? r with
  | none => s
  | some x =>
    if x.st == .running && !s.frozen r then
      s.putRegion r { x with st := .switching, after := .saved }
    else s

/-! ### Placement (R218) -/

/-- The regions of partition `p` on a die. -/
def State.regionsOn (s : State) (die p : Nat) : List (Nat × Region) := s.regions.filter (fun e => e.2.die == die && e.2.part == p)

/-- A station fits a graph's section when the regions of `skip` are absent (R218, R452). -/
def State.stationFits (s : State) (p n : Nat) (sd : StnDecl) (skip avoid used : List Nat) : Bool :=
  let st := s.station n
  s.partOfStn n == some p && !st.retired && n != (s.part p).pager && !avoid.contains n && !used.contains n
    && !s.stationTaken n sd skip && (findRun (st.quotas.filter (fun q => !skip.contains q.1)) sd.quota).isSome

/-- The lowest-numbered stations of a die that fit the relative stations of a list in turn, a choice taken back where the
later ones then find none. -/
def State.pickStations (s : State) (p die : Nat) (g : Graph) (skip avoid : List Nat) : List Nat → List Nat → Option (List Nat)
  | [], got => some got
  | rel :: rels, got =>
    (((List.range 64).map (fun i => die * 64 + i)).filter (fun n =>
      s.stationFits p n (graphStn g rel) skip avoid got)).findSome? (fun n =>
        State.pickStations s p die g skip avoid rels (got ++ [n]))

/-- The stations that step 2 of R218 chooses; a LINE region takes positions 0 to n - 1 of one row (R128). -/
def State.placement (s : State) (p die : Nat) (g : Graph) (skip avoid : List Nat) : Option (List Nat) :=
  if g.line then
    ((List.range 8).map (fun row => (List.range g.n).map (fun i => die * 64 + row * 8 + i))).find? (fun ns =>
      (List.range g.n).all (fun i => s.stationFits p (ns.getD i 0) (graphStn g i) skip avoid []))
  else s.pickStations p die g skip avoid (List.range g.n) []

def State.idleRegions (s : State) (die p : Nat) : List (Nat × Region) := (s.regionsOn die p).filter (fun e => e.2.st == .idle)

/-- The regions that count as absent for a record's target placement (R218). -/
def State.lesser (s : State) (die p cls : Nat) : List Nat :=
  ((s.regionsOn die p).filter (fun e => e.2.st == .idle || decide (cls < s.regionClass e.2))).map (·.1)

def State.target (s : State) (die p cls : Nat) (g : Graph) : List Nat :=
  (s.placement p die g (s.lesser die p cls) []).getD []

/-- The idle region of a list that was idle first. -/
def leastIdle : List (Nat × Region) → Option Nat
  | [] => none
  | e :: t => some (t.foldl (fun (m : Nat × Region) f => if f.2.idleAt < m.2.idleAt then f else m) e).1

/-- What a placement comes to. -/
inductive Placed where
  | started (s : State)
  | refused (detail : Nat)
  | no

/-- A graph loaded on stations and its record started: idle regions of those stations are released, least recently used
first, until the load goes through (R90, R218). A refusal with none left: DEDUCED, log entry 34. -/
def State.loadStart (s : State) (ctx die q cls : Nat) (c : CtxDesc) (g : Graph) (rec : List W64) (phys : List Nat) :
    Nat → Placed
  | 0 => .no
  | fuel + 1 =>
    let r := s.freshRegion
    let out := match s.load r ctx c g die phys with
      | .error e => Except.error e
      | .ok s => s.startRecord r q cls rec
    match out with
    | .ok s => .started s
    | .error e =>
      let olds := (s.idleRegions die c.part).filter (fun x => x.2.stations.any (fun n => phys.contains n))
      match leastIdle olds with
      | some o => if (graphReason c.firmware g).isSome then .refused e
                  else (s.unload o).loadStart ctx die q cls c g rec phys fuel
      | none => .refused e

/-- An idle region already configured with the graph takes the record, the most recently idle first. -/
def State.reuse (s : State) (q cls : Nat) (rec : List W64) : List (Nat × Region) → Option State
  | [] => none
  | e :: t =>
    match s.startRecord e.1 q cls rec with
    | .ok s => some s
    | .error _ => s.reuse q cls rec t

/-- Regions by the time since which they are idle, the most recent first. -/
def byIdle : List (Nat × Region) → List (Nat × Region)
  | [] => []
  | e :: t =>
    let r := byIdle t
    r.takeWhile (fun f => decide (e.2.idleAt < f.2.idleAt)) ++ e :: r.dropWhile (fun f => decide (e.2.idleAt < f.2.idleAt))

/-- A record of queue `q` placed on a die, outside the stations of `avoid` (R218). -/
def State.place (s : State) (die q : Nat) (rec : List W64) (avoid : List Nat) : Placed :=
  let x := s.queueAt q
  let ctx := qdCtx x.live
  match s.context? ctx, s.graph? ctx (recGid rec) with
  | some c, some g =>
    let idle := (s.idleRegions die c.desc.part).filter (fun e => e.2.ctx == ctx && e.2.gid == g.gid
      && !e.2.stations.any (fun n => avoid.contains n))
    match s.reuse q (qdClass x.live) rec (byIdle idle) with
    | some s => .started s
    | none =>
      if (graphReason c.desc.firmware g).isSome then .refused ((graphReason c.desc.firmware g).getD 0)
      else
        match s.placement c.desc.part die g ((s.idleRegions die c.desc.part).map (·.1)) avoid with
        | none => .no
        | some phys => s.loadStart ctx die q (qdClass x.live) c.desc g rec phys (s.regions.length + 1)
  | _, _ => .no

/-! ### Saved regions (R223) -/

/-- A saved region can resume: its stations can hold its quotas, its elements, stores, junctions and lines are free of
other configurations. The regions of `skip` count as absent. -/
def State.canResume (s : State) (r : Nat) (x : Region) (skip : List Nat) : Bool :=
  match s.context? x.ctx with
  | none => false
  | some c =>
    match c.desc.graphs.find? (fun g => g.gid == x.gid) with
    | none => false
    | some g =>
      let skip := r :: skip
      (List.range g.n).all (fun rel =>
        let n := x.stations.getD rel 0
        let st := s.station n
        let sd := graphStn g rel
        !st.retired && !s.stationTaken n sd skip
          && runFree (st.quotas.filter (fun q => !skip.contains q.1))
               (match x.savedPools.find? (fun e => e.1 == n) with
                | some e => e.2.1
                | none => 0) sd.quota
          && (match (s.junction n).claim with
              | some o => !claimsJunction g rel || skip.contains o
              | none => true))
        && (!g.line || (match (s.loopLine (lineOf (x.stations.getD 0 0))).claim with
              | some o => skip.contains o
              | none => true))

/-! ### The choice (R216, R217) -/

/-- The key of a DRR pointer: level, die or stack, partition, class. -/
def pointerKey (level place p cls : Nat) : Nat := ((level * 16 + place) * 16 + p) * 4 + cls

/-- Queues that a choice considers, ascending: of a die's two districts or of one stack, at the level, of the
partition. -/
def State.queuesOf (s : State) (depot : Bool) (place p : Nat) : List Nat :=
  (s.queues.filter (fun e => (if depot then e.1 / 2048 == place else queueDie e.1 == place)
    && qdDepot e.2.live == depot && e.2.st != .disabled && s.queuePart e.1 == some p)).map (·.1)

/-- The class of a queue's head, if it has one. -/
def State.headClass (s : State) (q : Nat) : Option Nat := ((s.queueAt q).window.head?).map (fun r => r.classAt (s.queueNow q))

/-- Queues eligible in a class (R216). -/
def State.eligible (s : State) (qs : List Nat) (cls : Nat) : List Nat := qs.filter (fun q => s.headClass q == some cls)

/-- The queues of an ascending list, cyclically from the first above `q`. -/
def after (qs : List Nat) (q : Nat) : List Nat := qs.filter (fun p => decide (q < p)) ++ qs.filter (fun p => decide (p ≤ q))

/-- The pointer arrives at the next queue, which gains its WEIGHT, and goes on past one whose deficit stays below 1
(R217). -/
def State.pointFrom (s : State) (key : Nat) (el : List Nat) : Nat → Option Nat → State × Option Nat
  | 0, _ => (s, none)
  | fuel + 1, cur =>
    match (match cur with | some q => after el q | none => el) with
    | [] => (s, none)
    | q :: _ =>
      let x := s.queueAt q
      let d := x.deficit + qdWeight x.live
      let s : State := { s.setQueue q { x with deficit := d } with pointers := Tab.put s.pointers key q }
      if 1 ≤ d then ({ s with pointed := Tab.set false s.pointed key true }, some q) else s.pointFrom key el fuel (some q)

/-- The most that a queue of a list lacks of a deficit of 1. -/
def State.debt (s : State) (el : List Nat) : Nat := el.foldl (fun n q => max n (1 - (s.queueAt q).deficit).toNat) 1

/-- The pointer's queue among the eligible ones (R217). -/
def State.point (s : State) (key : Nat) (el : List Nat) : State × Option Nat :=
  let cur := Tab.find s.pointers key
  let serves := match cur with
    | some q => el.contains q && Tab.get s.pointed key false && decide (1 ≤ (s.queueAt q).deficit)
    | none => false
  if serves then (s, cur) else s.pointFrom key el (el.length * s.debt el + 1) cur

/-- The cost of a dispatch, where the queue is not now empty, and the pointer's move once its queue can serve no more in the class
(R217). -/
def State.charge (s : State) (key q : Nat) (el : State → List Nat) : State :=
  let x := s.queueAt q
  let s := s.setQueue q { x with deficit := if x.window.isEmpty && x.siding.isEmpty then 0 else x.deficit - 1 }
  if Tab.find s.pointers key = some q && (decide ((s.queueAt q).deficit < 1) || !(el s).contains q) then
    ({ s with pointed := Tab.set false s.pointed key false }.point key (el s)).1
  else s

/-- A candidate of a choice: a saved region or kernel, or a queue's head. -/
inductive Cand where
  | saved (i : Nat)
  | head (q : Nat)
  deriving DecidableEq, Repr

/-- Saved regions of a partition on a die that wait to resume in a class, in order of switch-out. -/
def State.savedOf (s : State) (die p cls : Nat) : List Nat :=
  let rs := (s.regionsOn die p).filter (fun e => e.2.st == .saved && s.regionClass e.2 == cls)
  let rec ins (e : Nat × Region) : List (Nat × Region) → List (Nat × Region)
    | [] => [e]
    | f :: t => if e.2.switchOrder < f.2.switchOrder then e :: f :: t else f :: ins e t
  (rs.foldl (fun l e => ins e l) []).map (·.1)

/-- The candidates of one class: saved ones first, then heads, the pointer's first. -/
def classCands (saved : List Nat) (first : Option Nat) (el : List Nat) : List Cand :=
  saved.map Cand.saved ++
    (match first with
     | some q => (q :: (after el q).filter (· != q)).map Cand.head
     | none => el.map Cand.head)

end Sys2Proof.Machine
end

