-- ==== Sys2Proof/Machine/Switch.lean ====
section
/-! DEFINITION. Switch-out and resume, discard and replay (R221 to R223, R237 to R239, R241, R278 for the fabric). -/
namespace Sys2Proof.Machine

/-! ### The tile-task boundary (R221) -/

/-- Junction work that has begun or that no unit is blocked on: fills, vectors entering, transfers, wavefronts, and an ACCCLR
that has arrived (R221, R325). -/
def Junction.working (j : Junction) : Bool :=
  j.load.isSome || j.mma.isSome || j.xfer.isSome || !j.waves.isEmpty || j.queue.any (fun e => e.2.isClear)

/-- Asynchronous triples of all kernels, each with its core. -/
def State.triples (s : State) : List (Nat × Triple) :=
  s.cores.flatMap (fun c => (c.2.async ++ c.2.saved.flatMap (·.async)).map (fun t => (c.1, t)))

/-- A triple whose block is granted is still to be delivered to the region (R287). -/
def State.triplesDue (s : State) (r : Nat) : Bool :=
  s.triples.any (fun t => t.2.handle.isSome && (s.station t.2.path.station).arcIn t.2.path.entry r)

/-- The collectives of a region are complete or abandoned (R352). -/
def State.collsDone (s : State) (r : Nat) : Bool := s.colls.all (fun c => c.2.region != r || c.2.status.isSome)

/-- What the unit is blocked on runs to its end before the boundary, unless it is withheld or its port has faulted it: a KV instruction in progress
(R271, R376), and a CLEAN, INVL or FILL that has begun (R341, R365, R374). -/
def Unit.mustFinish (x : Unit) : Bool :=
  match x.blocked with
  | some (.again i c) => c.hold.isNone && !c.faulted && (match i with
    | .kvapp _ _ _ | .pfxm _ _ _ _ | .pfxi _ _ _ | .kvtrunc _ _ _ | .kvrel _ _ | .kvpin _ _ _ => true
    | .clean _ _ | .invl _ _ | .fill _ _ => decide (1 ≤ c.phase)
    | _ => false)
  | _ => false

/-- What a region has begun and must run to completion is complete: busy instructions, accesses under way, copies,
multicast reads, collectives, granted triples and junction work. -/
def State.regionQuiet (s : State) (r : Nat) (x : Region) : Bool :=
  x.units.all (fun u => match s.unit? u with
    | some y => y.busy.isNone && y.reads.isEmpty && !y.mustFinish
    | none => true)
    && !s.mesh.any (fun p => x.units.contains p.unit)
    && x.stations.all (fun n => (s.station n).copies.all (fun c => !(c.2.busy && x.units.contains c.2.unit)))
    && !s.mcasts.any (fun m => m.2.region == r && m.2.st != .sending)
    && s.collsDone r && !s.triplesDue r
    && x.stations.all (fun n => (s.junction n).claim != some r || !(s.junction n).working)

/-- The region stands at a tile-task boundary. -/
def State.atBoundary (s : State) (r : Nat) (x : Region) : Bool := !s.regionRuns r x && s.regionQuiet r x

/-! ### Saving (R222) -/

/-- A YIELD of the region completes at the boundary (R451). -/
def State.endYields (s : State) (x : Region) : State :=
  x.units.foldl (fun s u =>
    match s.unit? u with
    | some y => if y.blocked = some .yield then s.unblock u else s
    | none => s) s

/-- The platform entry belongs to a request of the region's units, or to one of its arcs with an emitter of the region. -/
def Wait.ofUnits (w : Wait) (us : List Nat) : Bool :=
  match w.what.unitOf with
  | some u => us.contains u
  | none => false

/-- The platform entry is the region's: a request of its units, or a completion that waits on one of its paths. -/
def Station.waitOf (st : Station) (r : Nat) (us : List Nat) (e : Nat × Wait) : Bool :=
  e.2.ofUnits us || (match e.2.what with
    | .slot _ none _ => st.arcIn e.1 r
    | _ => false)

/-- The requests of a region leave the platform, with the cycles that they have waited (R89). -/
def State.saveWaits (s : State) (r : Nat) (x : Region) : State :=
  let mine := s.stations.flatMap (fun n => (n.2.platform.filter (n.2.waitOf r x.units)).map (fun e =>
    (n.1, e.1, { e.2 with since := s.stnNow n.1 - e.2.since, start := s.stnNow n.1 - e.2.start })))
  let enq := s.queues.flatMap (fun q => (q.2.waiters.filter (fun w => x.units.contains w.1)).map (fun w =>
    (q.1, w.1, w.2.1, s.queueNow q.1 - w.2.2.1, s.queueNow q.1 - w.2.2.2)))
  let s := (s.stations.map (·.1)).foldl (fun s n => s.onStation n (fun st =>
    { st with platform := st.platform.filter (fun e => !st.waitOf r x.units e) })) s
  let s := (s.queues.map (·.1)).foldl (fun s q => s.setQueue q { s.queueAt q with
    waiters := (s.queueAt q).waiters.filter (fun w => !x.units.contains w.1) }) s
  s.onRegion r (fun y => { y with savedWaits := mine, savedEnq := enq })

/-- What a station holds of the region is saved: held events, the quota's contents, blocks and pools, and its signals
where nothing else stays resident. -/
def State.saveStation (s : State) (r n : Nat) : State :=
  let s := s.onStation n (fun st => st.settleRegion r)
  let st := s.station n
  match st.quotas.find? (fun q => q.1 == r) with
  | none => s
  | some (_, first, len) =>
    let alone := !s.regions.any (fun y => y.1 != r && y.2.st.resident && y.2.stations.contains n)
    let lo := n * 2 ^ 22 + 32 * first
    let held := st.ports.map (fun p => (n, p.1, p.2.held.filter (fun h => h.region == r)))
    let s := s.onRegion r (fun y => { y with
      savedHeld := y.savedHeld ++ held.filter (fun h => !h.2.2.isEmpty)
      savedScratch := y.savedScratch ++ [(n, Tab.range s.scratch lo (lo + 32 * len))]
      savedPtrs := y.savedPtrs ++ [(n, (List.range 8).foldl (fun t ch => Tab.set 0 t ch (st.ptrOf r ch)) [])]
      savedPools := y.savedPools ++ [(n, first, st.blocks.filter (fun b => b.region == r),
        st.pools.filter (fun p => p.region == r))]
      savedSignals := if alone then y.savedSignals ++ [(n, st.loads, Tab.range s.signals (n * 1024) ((n + 1) * 1024))]
        else y.savedSignals
      savedJunctions := if (s.junction n).claim = some r then Tab.put y.savedJunctions n (s.junction n)
        else y.savedJunctions })
    let s := if (s.junction n).claim = some r then s.setJunction n Junction.reset else s
    s.onStation n (fun st => { st with
      quotas := st.quotas.filter (fun q => q.1 != r)
      copied := Tab.del st.copied r
      blocks := st.blocks.filter (fun b => b.region != r)
      pools := st.pools.filter (fun p => p.region != r)
      store := if st.storeOwner = some r then [] else st.store
      storeOwner := if st.storeOwner = some r then none else st.storeOwner
      ports := st.ports.map (fun p => (p.1, { p.2 with held := p.2.held.filter (fun h => h.region != r) })) })

/-- The loop line of the region is saved with it. -/
def State.saveLine (s : State) (r : Nat) (x : Region) : State :=
  match x.stations with
  | n :: _ =>
    if (s.loopLine (lineOf n)).claim = some r then
      (s.onRegion r (fun y => { y with savedLine := some (s.loopLine (lineOf n)) })).setLoopLine (lineOf n) LoopLine.reset
    else s
  | [] => s

/-- A region saved at its boundary: it leaves its stations in state `st`. Its arcs keep their entries and still count against the
station's arcs and floors (R92; DESIGN CHOICE, log entry 103). -/
def State.saveRegion (s : State) (r : Nat) (st : RState) : State :=
  match s.region? r with
  | none => s
  | some x =>
    let s := s.saveWaits r x
    let units := s.units.filter (fun e => !isCore e.1 && e.2.region == r)
    let s := x.stations.foldl (fun s n => s.saveStation r n) s
    let s := s.saveLine r x
    let s := { s with units := s.units.filter (fun e => isCore e.1 || e.2.region != r) }
    let cyc := x.cyc + (s.dieNow x.die - x.since)
    let s : State := { s with ids := s.ids + 1 }
    s.onRegion r (fun y => { y with
      st := st, savedUnits := units, cyc := cyc, since := s.dieNow x.die, discard := false, switchOrder := s.ids })

/-! ### Discard (R237) -/

/-- SY.IVEC as a discard writes it (R233). -/
def ivecWord (c lcount : BitVec 32) : W64 := w64 (c.toNat * 2 ^ 32 + lcount.toNat)

/-- LCOUNT: the low half of the count register of the unit's last LOOP as it stands (R233). -/
def Unit.lcount (x : Unit) : BitVec 32 :=
  match x.lastLoop with
  | some n => (x.sReg n).setWidth 32
  | none => 0

/-- A unit as a discard leaves it: no token, nothing blocked, IVEC written. -/
def Unit.discarded (x : Unit) (c : BitVec 32) : Unit :=
  { x with inbox := [], blocked := none, blockedUpd := .none, loads := [], reads := []
           sys := { x.sys with ivec := ivecWord c x.lcount } }

/-- A station as a discard leaves it: held events of invocations from `c` on dropped, every slot of the region's arcs
free, every block but the `.block` ones freed. -/
def Station.discarded (st : Station) (cyc r : Nat) (c : BitVec 32) : Station :=
  let ports := st.ports.map (fun p => (p.1, { p.2 with
    held := p.2.held.filter (fun h => h.region != r || serialLater c h.invoc) }))
  let arcs := st.arcs.map (fun a => (a.1, if a.2.region == r then { a.2 with used := 0 } else a.2))
  let st : Station := { st with ports := ports, arcs := arcs }
  (st.blocks.filter (fun b => b.region == r && !b.fixed)).foldl (fun st b => st.free cyc b) st

/-- Tokens on their way to the region dropped. -/
def State.dropFlights (s : State) (r : Nat) : State :=
  { s with flight := s.flight.filter (fun f =>
      match Tab.find (s.station f.dest.station).arcs f.dest.entry with
      | some a => a.region != r
      | none => false) }

/-- The copies that wait for slots of a region's arcs and belong to no unit dropped. -/
def State.dropLoose (s : State) (r : Nat) : State :=
  { s with stations := s.stations.map (fun n => (n.1, { n.2 with platform := n.2.platform.filter (fun e =>
      match e.2.what with
      | .slot _ none _ => !n.2.arcIn e.1 r
      | _ => true) })) }

/-- A unit's arrival at an open barrier withdrawn; it stays a member (R237, R370). -/
def State.unarrive (s : State) (u : Nat) : State :=
  { s with groups := s.groups.map (fun g => (g.1, { g.2 with arrived := g.2.arrived.filter (· != u) })) }

/-- A region discarded at its boundary and switched out in state `st`. -/
def State.discardRegion (s : State) (r : Nat) (st : RState) : State :=
  match s.region? r with
  | none => s
  | some x =>
    let c := s.commitIndex r
    let s := x.units.foldl (fun s u =>
      ((s.withdraw u).unarrive (r * 65536 + u)).onUnit u (fun y => y.discarded c)) s
    let s := (s.dropFlights r).dropLoose r
    let s := { s with mcasts := s.mcasts.filter (fun m => m.2.region != r) }
    let s := x.stations.foldl (fun s n => s.onStation n (fun y => y.discarded (s.stnNow n) r c)) s
    (s.saveRegion r st).onRegion r (fun y => { y with replay := some c })

/-! ### Resume (R223) -/

/-- A station taken again by a saved region: run, blocks, pools, store, contents, junction and signals. -/
def State.restoreStation (s : State) (r : Nat) (x : Region) (g : Graph) (rel n : Nat) : State :=
  let sd := graphStn g rel
  let (first, blocks, pools) := match x.savedPools.find? (fun e => e.1 == n) with
    | some (_, a, b, p) => (a, b, p)
    | none => (0, [], [])
  let lo := n * 2 ^ 22 + 32 * first
  let sigs := match x.savedSignals.find? (fun e => e.1 == n) with
    | some (_, loads, t) => if loads = (s.station n).loads && s.stationEmpty n then some t else none
    | none => none
  let s := match sigs with
    | some t =>
      let fresh := Tab.delRange s.signals (n * 1024) ((n + 1) * 1024)
      { s with signals := t.foldl (fun (m : Tab W64) (e : Nat × W64) => Tab.set 0 m e.1 e.2) fresh }
    | none => s
  let s := match x.savedScratch.find? (fun e => e.1 == n) with
    | some (_, m) => { s with scratch := Memory.writes (Memory.clear s.scratch lo (lo + 32 * sd.quota)) m }
    | none => s
  let s := match Tab.find x.savedJunctions n with
    | some j => s.setJunction n j
    | none => s
  s.onStation n (fun st => { st.noteLoad r (((x.savedPtrs.find? (fun e => e.1 == n)).map (·.2)).getD []) with
    quotas := (r, first, sd.quota) :: st.quotas
    blocks := blocks ++ st.blocks
    pools := pools ++ st.pools
    store := if sd.elems.any (·.seq) then (List.range sd.store.length).map (fun i => (i, sd.store.getD i 0)) else st.store
    storeOwner := if sd.elems.any (·.seq) then some r else st.storeOwner })

/-- A unit as it goes on after a resume: a withheld access is translated again (R198), a WAIT is issued again whole (R447),
and a gated clock runs. -/
def Unit.resumed (x : Unit) : Unit :=
  { x with
    stopped := false
    gated := false
    blocked := match x.blocked with
      | some (.again i c) => some (.again i { c with hold := none })
      | some (.waitCyc _) => none
      | some (.stream st) => some (.stream { st with hold := none, got := [], asked := false })
      | b => b }

/-- The requests of a region re-enter after all others, their wait age kept (R89, R212, R223). -/
def State.restoreWaits (s : State) (x : Region) : State :=
  let s := x.savedWaits.foldl (fun s w => s.onStation w.1 (fun st => { st with
    platform := Tab.put st.platform w.2.1 { w.2.2 with
      since := s.stnNow w.1 - w.2.2.since, start := s.stnNow w.1 - w.2.2.start, order := max st.arrivals (arrivalPlace (s.stnNow w.1) 256) }
    arrivals := max st.arrivals (arrivalPlace (s.stnNow w.1) 256) + 1 })) s
  x.savedEnq.foldl (fun s w => s.setQueue w.1 { s.queueAt w.1 with
    waiters := (s.queueAt w.1).waiters ++ [(w.2.1, w.2.2.1, s.queueNow w.1 - w.2.2.2.1, s.queueNow w.1 - w.2.2.2.2)] }) s

/-- Triples that wait for the region have waited for no watchdog while it was switched out: their wait goes on from here
(R94, R287). -/
def State.resumeTriples (s : State) (r : Nat) (x : Region) : State :=
  { s with stations := s.stations.map (fun n => (n.1, { n.2 with platform := n.2.platform.map (fun e =>
      match e.2.what with
      | .triple _ _ | .asyncTriple _ =>
        if n.2.arcIn e.1 r then (e.1, { e.2 with start := e.2.start + (s.stnNow n.1 - max e.2.start x.since) }) else e
      | _ => e) })) }

/-- Held events back at their ports, in acceptance order; those that were withheld are translated again. -/
def State.restoreHeld (s : State) (x : Region) : State :=
  x.savedHeld.foldl (fun s e => s.onPort e.1 e.2.1 (fun p => { p with
    held := p.held ++ e.2.2.map (fun h => { h with withheld := none }) })) s

/-- The waits on signals of a region's units tested again. -/
def State.retestSignals (s : State) (x : Region) : State :=
  x.units.foldl (fun s u =>
    match s.unit? u with
    | some y =>
      (match y.blocked with
       | some (.signal m c v) => if sigHolds c (s.signal m) v then s.unblock u else s
       | _ => s)
    | none => s) s

/-- A region's stations, line and held events restored. -/
def State.restorePlaces (s : State) (r : Nat) (x : Region) (g : Graph) : State :=
  let s := (List.range g.n).foldl (fun s rel => s.restoreStation r x g rel (x.stations.getD rel 0)) s
  let s := match x.savedLine, x.stations with
    | some l, n :: _ => s.setLoopLine (lineOf n) l
    | _, _ => s
  s.restoreHeld x

/-- Nothing saved is left behind. -/
def Region.emptied (x : Region) : Region :=
  { x with savedUnits := [], savedSignals := [], savedScratch := [], savedPtrs := [], savedPools := [], savedJunctions := [],
           savedLine := none, savedHeld := [], savedWaits := [], savedEnq := [] }

/-- A saved region back on its stations, its units where they stood (R223). -/
def State.restoreRegion (s : State) (r : Nat) (x : Region) (g : Graph) : State :=
  let s := s.restorePlaces r x g
  let s := x.savedUnits.foldl (fun s e => s.putUnit e.1 e.2.resumed) s
  let s := (s.restoreWaits x).resumeTriples r x
  (s.putRegion r { x.emptied with st := .running, since := s.dieNow x.die, after := .saved, service := none }).retestSignals x

/-- A unit of a replay (R239): as R34 starts it, but INVIX is INDEX, SY.IVEC keeps its value and REPLAY is 1. -/
def replayUnit (old fresh : Unit) (index : BitVec 32) : Unit :=
  { fresh with
    outs := old.outs
    ins := old.ins
    invix := index
    sys := { fresh.sys with ivec := old.sys.ivec, replay := true } }

/-- A discarded region starts again from invocation `index` (R239). -/
def State.replayRegion (s : State) (r : Nat) (x : Region) (g : Graph) (index : BitVec 32) : State :=
  let s := s.restorePlaces r x g
  let s := s.resumeTriples r x
  let line := match x.savedUnits with
    | e :: _ => (e.2.nstn, e.2.ndie)
    | [] => (0, 0)
  let s := (graphUnits g).foldl (fun s v =>
    let n := x.stations.getD v.1.rel 0
    let u := n * 64 + v.2.en
    match Tab.find x.savedUnits u with
    | some old =>
      s.putUnit u (replayUnit old (startUnit (s.station n) r x.ctx x.part x.qclass.toNat line n ((s.station n).runOf r)
        v.1 v.2 [] x.record) index)
    | none => s) s
  s.putRegion r { x.emptied with
    st := .running, since := s.dieNow x.die, after := .saved, replay := none, done := false }

/-- The graph of a region, whether or not its context is being removed. -/
def State.regionGraph (s : State) (x : Region) : Option Graph :=
  match s.context? x.ctx with
  | some c => c.desc.graphs.find? (fun g => g.gid == x.gid)
  | none => none

/-- Idle regions that hold one of the region's stations released, least recently used first, until it can resume. -/
def State.makeRoom (s : State) (r : Nat) (x : Region) : Nat → State
  | 0 => s
  | fuel + 1 =>
    if s.canResume r x [] then s
    else match leastIdle ((s.idleRegions x.die x.part).filter (fun e => e.2.stations.any (fun n => x.stations.contains n))) with
      | some o => (s.unload o).makeRoom r x fuel
      | none => s

/-- A saved region resumes, or a discarded one is replayed, if it can (R223, R239). -/
def State.resumeRegion (s : State) (r : Nat) : Option State :=
  match s.region? r with
  | none => none
  | some x =>
    match s.regionGraph x with
    | none => none
    | some g =>
      if s.canResume r x ((s.idleRegions x.die x.part).map (·.1)) then
        let s := s.makeRoom r x (s.regions.length + 1)
        some (match x.replay with
          | some i => s.replayRegion r x g i
          | none => s.restoreRegion r x g)
      else none

end Sys2Proof.Machine
end

