-- ==== Sys2Proof/Machine/Decide.lean ====
section
/-! DEFINITION. The decisions of a signal box: the next record or saved region of a die, and what YIELD needs to know of
it (R215 to R218, R220, R223, R276). -/
namespace Sys2Proof.Machine

/-- Level 0, a die: the key of a fabric pointer. -/
def fabricKey (die p cls : Nat) : Nat := pointerKey 0 die p cls
/-- Level 1, a stack: the key of a depot pointer. -/
def depotKey (stack p cls : Nat) : Nat := pointerKey 1 stack p cls

/-- The heads of the queues checked, malformed ones dropped (R215). -/
def State.checkQueues (s : State) (qs : List Nat) : State := qs.foldl (fun s q => s.checkHeads q) s

/-- The lowest class in which something waits. -/
def lowestClass (busy : Nat → Bool) : Option Nat := (List.range 4).find? busy

/-- The candidates of a decision in order, each with its class: in each class the saved ones, then the heads; in the
lowest class with an eligible queue the pointer's queue stands first (R217, R218, R223). The state has the pointer moved. -/
def State.candidates (s : State) (qs : List Nat) (saved : Nat → List Nat) (key : Nat → Nat) :
    State × List (Nat × Cand) :=
  let low := lowestClass (fun c => !(s.eligible qs c).isEmpty)
  let r := match low with
    | some c => s.point (key c) (s.eligible qs c)
    | none => (s, none)
  (r.1, (List.range 4).flatMap (fun c =>
    (classCands (saved c) (if low = some c then r.2 else none) (s.eligible qs c)).map (fun d => (c, d))))

/-- What a search over candidates comes to: the candidate that took effect with the state it leaves, if any, and the heads
that could not be placed, with their target placements. -/
structure Search where
  hit : Option (Cand × State)
  missed : List (Nat × List Nat)

/-- A record taken from its queue's head and charged for (R217). -/
def State.dispatched (s : State) (key q : Nat) (el : State → List Nat) : State := (s.popHead q).charge key q el

/-- The element and the slot that refuse the graph of a record, where a slot's word does (R60). -/
def State.refusedSlot (s : State) (q : Nat) (words : List W64) : Nat × Nat :=
  match s.graph? (qdCtx (s.queueAt q).live) (recGid words) with
  | some g => badSlot (s.isFirmware (qdCtx (s.queueAt q).live)) g
  | none => (0, 0)

/-- A record whose load is refused is dropped; the report names the DETAIL, and for a refused slot its element and number
(R60, R213, R227). -/
def State.refuseHead (s : State) (q detail : Nat) (at_ : Nat × Nat) : State :=
  (s.popHead q).dropRec q (fun e => { e with code := 2, detail := detail, element := at_.1, slot := at_.2 })

/-- The target placement of a record of class `cls` at the head of queue `q` (R218). -/
def State.headTarget (s : State) (die p cls q : Nat) (r : QRec) : List Nat :=
  match s.graph? (qdCtx (s.queueAt q).live) (recGid r.words) with
  | some g => s.target die p cls g
  | none => []

/-- The target placement of a saved region: its own stations, if it could resume there with the lesser regions absent
(R218, R223). -/
def State.savedTarget (s : State) (die p cls r : Nat) : List Nat :=
  match s.region? r with
  | some x => if s.canResume r x (s.lesser die p cls) then x.stations else []
  | none => []

/-- The stations that a candidate of class 0 reserves: its target placement, while it cannot be placed (R218). -/
def State.reservedBy (s : State) (die p : Nat) : Cand → List Nat
  | .saved r => if (s.resumeRegion r).isNone then s.savedTarget die p 0 r else []
  | .head q =>
    match (s.queueAt q).window with
    | [] => []
    | r :: _ => (match s.place die q r.words [] with
        | .no => s.headTarget die p 0 q r
        | _ => [])

/-- The reservations of a decision's candidates. -/
def State.reserved (s : State) (die p : Nat) (cs : List (Nat × Cand)) : List (Cand × List Nat) :=
  (cs.filter (fun c => c.1 == 0)).map (fun c => (c.2, s.reservedBy die p c.2))

/-- The stations that others reserve. -/
def avoidFor (res : List (Cand × List Nat)) (c : Cand) : List Nat := (res.filter (fun e => e.1 != c)).flatMap (·.2)

/-- A region of the list stands on none of the stations. -/
def State.clear (s : State) (r : Nat) (avoid : List Nat) : Bool :=
  match s.region? r with
  | some x => !x.stations.any (fun n => avoid.contains n)
  | none => false

/-- The candidates of a die tried in order. `res` holds the stations that unplaced candidates of class 0 reserve (R218). -/
def State.searchDie (s : State) (die p : Nat) (qs : List Nat) (res : List (Cand × List Nat)) :
    List (Nat × Cand) → List (Nat × List Nat) → Search
  | [], missed => ⟨none, missed⟩
  | (c, .saved r) :: t, missed =>
    (match (if s.clear r (avoidFor res (.saved r)) then s.resumeRegion r else none) with
     | some s' => ⟨some (.saved r, s'), missed⟩
     | none => s.searchDie die p qs res t (missed ++ [(c, s.savedTarget die p c r)]))
  | (c, .head q) :: t, missed =>
    match (s.queueAt q).window with
    | [] => s.searchDie die p qs res t missed
    | r :: _ =>
      match s.place die q r.words (avoidFor res (.head q)) with
      | .started s' => ⟨some (.head q, s'.dispatched (fabricKey die p c) q (fun s => s.eligible qs c)), missed⟩
      | .refused e => ⟨some (.head q, s.refuseHead q e (if e = 0 then s.refusedSlot q r.words else (0, 0))), missed⟩
      | .no => s.searchDie die p qs res t (missed ++ [(c, s.headTarget die p c q r)])

/-- Regions that may be switched out for a record of class `cls`: running ones of a class number above it that hold
stations of its target placement and are not frozen (R220). -/
def State.victims (s : State) (die p cls : Nat) (tg : List Nat) : List (Nat × Region) :=
  (s.regionsOn die p).filter (fun e => e.2.st == .running && !s.frozen e.1 && decide (cls < s.regionClass e.2)
    && e.2.stations.any (fun n => tg.contains n))

/-- The first to be switched out: the highest BCLASS number, the most recently started among equals (R220, R276). -/
def worstOf : List (Nat × Nat × Nat) → Option Nat
  | [] => none
  | e :: t => some (t.foldl (fun (m : Nat × Nat × Nat) f =>
      if m.2.1 < f.2.1 || (m.2.1 == f.2.1 && decide (m.2.2 < f.2.2)) then f else m) e).1

/-- The unplaced candidates that may call for a switch-out: those of class 0 that have a target placement, alone where there
are any (R218). -/
def callers (missed : List (Nat × List Nat)) : List (Nat × List Nat) :=
  let first := missed.filter (fun m => m.1 == 0 && !m.2.isEmpty)
  if first.isEmpty then missed else first

/-- The switch-outs that unplaced records and saved regions call for: one region at a time of a partition on a die (R218,
R220, R223). -/
def State.preemptFor (s : State) (die p : Nat) (missed : List (Nat × List Nat)) : State :=
  if (s.regionsOn die p).any (fun e => e.2.st == .switching) then s
  else match (callers missed).findSome? (fun m =>
      worstOf ((s.victims die p m.1 m.2).map (fun e => (e.1, s.regionClass e.2, e.2.started)))) with
    | some r => s.requestSwitch r
    | none => s

/-- The search of a die for a partition: heads checked, candidates in order. -/
def State.search (s : State) (die p : Nat) : State × Search :=
  let s := s.checkQueues (s.queuesOf false die p)
  let qs := s.queuesOf false die p
  let (s, cs) := s.candidates qs (s.savedOf die p) (fabricKey die p)
  (s, s.searchDie die p qs (s.reserved die p cs) cs [])

/-- One placement decision of a die for a partition (R217, R218, R220). -/
def State.decision (s : State) (die p : Nat) : State :=
  let (s, f) := s.search die p
  match f.hit with
  | some (_, s') => s'.preemptFor die p f.missed
  | none => s.preemptFor die p f.missed

/-- Some record or saved region of the die and partition with a class of `cls` or lower cannot be placed (R220, R223). -/
def State.someUnplaced (s : State) (die p cls : Nat) : Bool :=
  ((List.range (cls + 1)).flatMap (s.savedOf die p)).any (fun r => (s.resumeRegion r).isNone) || (s.queuesOf false die p).any (fun q =>
    match (s.queueAt q).window with
    | r :: _ => decide (r.classAt (s.queueNow q) ≤ cls) && !s.headBad q r
        && (match s.place die q r.words [] with
            | .no => true
            | _ => false)
    | [] => false)

/-! ### Depot cores (R219, R276) -/

/-- The class of a kernel for pre-emption: its unit's BCLASS. -/
def State.kernelClass (s : State) (c : Nat) : Nat :=
  match s.unit? (coreBase + c) with
  | some x => x.sys.bclass.toNat
  | none => 3

/-- The lowest-numbered idle core of a stack that is in service (R219, R278). -/
def State.idleCore (s : State) (stack : Nat) : Option Nat :=
  ((List.range 16).map (fun i => 16 * stack + i)).find? (fun c => (s.core c).st == .idle)

/-- The partition of a stack: that of its district. -/
def State.stackPart (s : State) (stack : Nat) : Option Nat := s.partOf stack

/-- A DEPOT record of the stack waits whose class number passes a test. -/
def State.depotWaits (s : State) (stack p : Nat) (ok : Nat → Bool) : Bool :=
  (s.queuesOf true stack p).any (fun q =>
    match (s.queueAt q).window with
    | r :: _ => ok (r.classAt (s.queueNow q)) && !s.headBad q r
    | [] => false)

/-- A pre-emption requested of a running kernel: no further word issues (R275, R276). A core that holds two saved kernels
is not pre-empted. -/
def State.requestStop (s : State) (c : Nat) : State :=
  let x := s.core c
  if x.st == .running && decide (x.saved.length < 2) then s.setCore c { x with st := .stopping } else s

end Sys2Proof.Machine
end

