-- ==== Sys2Proof/Machine/Queue.lean ====
section
/-! DEFINITION. The queue instructions: ENQ, JDEC, YIELD and DONE (R35, R207, R209 to R212, R220, R274, R276, R355, R357,
R375, R451). -/
namespace Sys2Proof.Machine

/-! ### Local SRAM of a depot core (R272, R282) -/

/-- Bytes of the local SRAM (R272). -/
def sramBytes : Nat := 0x100000

/-- A byte of a core's local SRAM; one beyond its end reads 0. -/
def State.localByte (s : State) (c o : Nat) : Byte := if o < sramBytes then Memory.read s.sram (c * sramBytes + o) else 0

def State.localBytes (s : State) (c o n : Nat) : List Byte := (List.range n).map (fun i => s.localByte c (o + i))

/-- Bytes written to a core's local SRAM; those beyond its end are dropped. -/
def State.localPut (s : State) (c : Nat) (bs : List (Nat × Byte)) : State :=
  { s with sram := Memory.writes s.sram ((bs.filter (fun b => decide (b.1 < sramBytes))).map
      (fun b => (c * sramBytes + b.1, b.2))) }

/-- The first offset of a list beyond the local SRAM is recorded in SY.OOR with HANDLE 0 (R96, R282). -/
def State.noteLocal (s : State) (u : Nat) (os : List Nat) : State :=
  match os.find? (fun o => decide (sramBytes ≤ o)) with
  | some o => s.onUnit u (fun x => x.noteOor 0 o)
  | none => s

/-! ### ENQ and JDEC -/

/-- The four words of the record that an operand names: at a handle, or in a depot core at an offset of its local SRAM
(R210). -/
def State.recordAt (s : State) (u : Nat) (x : Unit) (r : W64) : Except Trap (State × List W64) :=
  let o := r.toNat
  if isCore u then
    if o % 32 != 0 then .error (misaligned 0)
    else .ok (s.noteLocal u ((List.range 32).map (fun i => o + i)),
              (List.range 4).map (fun i => w64 (ofBytes (s.localBytes (coreOf u) (o + 8 * i) 8))))
  else match s.needBlock x.ctx r with
    | .error t => .error t
    | .ok b =>
      .ok (s.noteOor u r b ((List.range 32).map (fun i => hOff r + i)),
           (List.range 4).map (fun i => w64 (s.blockNat (hStn r) b (hOff r + 8 * i) 8)))

/-- PERMISSION with DETAIL 4: SY.FADDR holds the queue number (R211, R213, R233). -/
def queueTrap (q : Nat) : Trap := ⟨.permission, 4, w64 q⟩

/-- The checks on a record that is to be enqueued (R211). -/
def State.enqueueCheck (s : State) (x : Unit) (ws : List W64) : Option Trap :=
  if recReserved ws then some (illegal 2)
  else if s.queuePart (recQueue ws) != some x.part || (s.queueAt (recQueue ws)).st == .disabled then
    some (queueTrap (recQueue ws))
  else none

/-- A waiting enqueuer's class: its unit's effective class less its promotions (R212). -/
def State.waiterClass (s : State) (w : Nat × Nat × Nat × Nat) : Nat := s.eclass w.1 - w.2.1

/-- A waiting enqueuer stands ahead of a new one of class `c`. -/
def State.enqueuersAhead (s : State) (q c : Nat) : Bool :=
  (s.queueAt q).waiters.any (fun w => decide (s.waiterClass w ≤ c))

/-- The record enters its queue, or its unit waits (R209, R212). The enqueues that reach a signal box in one die cycle do so
by their rank: one that comes after a higher one reaches it in a later cycle. A queue that was disabled since the check of EN
refuses the record here (DESIGN CHOICE, log entry 110). -/
def enterOrWait (u : Nat) (x : Unit) (s : State) (ws : List W64) : Res :=
  let q := recQueue ws
  let y := s.queueAt q
  if y.st == .disabled then .trap (queueTrap q)
  else if !s.mayEnter q u then .wait s 3
  else
    let s := s.noteEnter q u
    if y.room && !y.listed && !s.enqueuersAhead q (s.eclass u) then .done (s.enterQueue q x.ctx ws)
    else .wait ((s.noteWait x.region).setQueue q
      ({ y with waiters := y.waiters ++ [(u, 0, s.queueNow q, s.queueNow q)] }.settle)) 2

/-- The value 0 that a JDEC writes once its record has entered its queue: a wait that ends in a fault leaves DST as it was (R211,
R213, R228, R229). -/
def Res.zeroTo (r : Res) (u : Nat) (d : Dst) : Res :=
  match r with
  | .done s => .done (s.onUnit u (fun y => y.write d 0 0))
  | r => r

/-- The phases behind the record's reading: 2, the enqueuer waits; 3, it is issued again with the record in hand (R212,
R277). -/
def enqueuePhase (u : Nat) (x : Unit) (s : State) (ws : List W64) (phase : Nat) : Res :=
  if phase = 2 then .wait s 2
  else enterOrWait u x s ws

def execEnq (rec : Src) (s : State) : Host.Outcome State Fault Refusal :=
  runUnit (.enq rec) avTSD [rec] [] (fun u x s vr _ phase =>
    if phase = 0 then
      if !isCore u && !s.blockQuiet u vr then .wait s 0
      else match s.recordAt u x vr with
        | .error t => .trap t
        | .ok (s, ws) =>
          match s.enqueueCheck x ws with
          | some t => .trap t
          | none => .waitWith s 1 ws
    else if phase = 1 then
      let r := s.publish u x
      if r.2 then enterOrWait u x r.1 s.cur.words else .wait r.1 1
    else enqueuePhase u x s s.cur.words phase) s

/-- The counter's translation: a fetching atomic at PACKAGE scope, for a depot core without the limits of R281 (R211,
R375). -/
def wantCounter : Want := wantAtomic .package

/-- The decrement at the counter's home: the value that JDEC writes and the state, or the state in which the home fills
the line first (R211). -/
def State.decrement (s : State) (u : Nat) (x : Unit) (loc : Loc) (page : PageBits) : State × Option W64 :=
  match s.ownHost x.part loc page.cmode with
  | some (s, _) => (s, none)
  | none =>
  match s.homeRead x.part loc 8 page.cmode page.depot with
  | (s, .wait _) => (s, none)
  | (s, .bytes bs) =>
    let old := ofBytes bs
    let s := s.noteRead u loc
    if old = 0 then (s, some (0 - 1))
    else
      let new := bytesOf 8 (old - 1)
      (s.homeWrite x.part loc page.cmode page.depot ((List.range 8).map (fun i => ((loc.addr + i) % 128, new.getD i 0)))
        [u], some (w64 (old - 1)))

/-- JDEC's middle: publish, decrement, write DST, and enqueue where the counter has reached 0 (R211). The access counts
when it is performed (R199). Where the region's ports hold events for the counter's bytes, whatever their invocation, every
held event of the region is performed first (R333); from phase 4 on that is awaited. -/
def jdecBody (u : Nat) (x : Unit) (s : State) (d : Dst) (ctr : W64) (ws : List W64) (phase : Nat) : Res :=
  match s.translateFor u x ctr.toNat 0 wantCounter false with
  | (s, .fault t) => .portFault s phase t
  | (s, .invalid level) => let (s, h) := s.withhold u x ctr.toNat level 2 false; .hold s phase h
  | (s, .wb) => let (s, h) := s.withhold u x ctr.toNat 0 2 true; .hold s phase h
  | (s, .ok loc page _ _) =>
    let r := s.publish u x
    if !r.2 then .wait r.1 phase
    else if r.1.heldCovers x.region [⟨ctr.toNat, loc, page, 8, [], []⟩] false then .wait (r.1.performHeld x) 4
    else if phase = 4 && r.1.heldDue x.region then .wait r.1 4
    else match r.1.decrement u x loc page with
      | (s, none) => .wait s phase
      | (s, some v) =>
        let s := (s.translateFor u x ctr.toNat 1 wantCounter false).1
        if v = 0 then (enterOrWait u x s ws).zeroTo u d else .done (s.onUnit u (fun y => y.write d 0 v))

def execJdec (d : Dst) (ctr rec : Src) (s : State) : Host.Outcome State Fault Refusal :=
  runUnit (.jdec d ctr rec) avTSD [ctr, rec] [d] (fun u x s vc vr phase =>
    if phase = 0 then
      if !isCore u && !s.blockQuiet u vr then .wait s 0
      else match s.recordAt u x vr with
        | .error t => .trap t
        | .ok (s, ws) =>
          match s.enqueueCheck x ws with
          | some t => .trap t
          | none =>
            if vc.toNat % 8 != 0 then .trap (misaligned vc)
            else .waitWith s 1 ws
    else if phase = 1 || phase = 4 then jdecBody u x s d vc s.cur.words phase
    else (enqueuePhase u x s s.cur.words phase).zeroTo u d) s

/-! ### YIELD -/

/-- A YIELD of the fabric calls for a switch-out (R220). -/
def State.yields (s : State) (r : Nat) (x : Region) : Bool :=
  x.st == .running && !s.frozen r && s.someUnplaced x.die x.part (s.regionClass x)

/-- A YIELD of a depot core calls for a pre-emption (R276). DEDUCED, log entry 40. -/
def State.depotYields (s : State) (c : Nat) (x : Unit) : Bool :=
  (s.idleCore (stackOfCore c)).isNone && s.depotWaits (stackOfCore c) x.part (fun k => decide (k < x.sys.bclass.toNat))

def execYield (s : State) : Host.Outcome State Fault Refusal :=
  runUnit .yield avTSD [] [] (fun u x s _ _ _ =>
    if isCore u then .done (if s.depotYields (coreOf u) x then s.requestStop (coreOf u) else s)
    else match s.region? x.region with
      | none => .done s
      | some r =>
        if s.yields x.region r then
          if x.isSeq then .block (s.requestSwitch x.region) .yield else .done (s.requestSwitch x.region)
        else .done s) s

/-! ### DONE -/

/-- A depot core whose record is complete is idle; its local SRAM stands until the next kernel (R273 to R275). -/
def State.coreDone (s : State) (c : Nat) : State :=
  let s := { s with units := Tab.del s.units (coreBase + c) }
  s.onCore c (fun x => { x with st := .idle, used := true, queue := 0, record := [], cyc := 0, dcount := 0, m := [],
                                full := 0, heldMsg := [] })

def execDone (s : State) : Host.Outcome State Fault Refusal :=
  runUnit .done avTSD [] [] (fun u x s _ _ _ =>
    if isCore u then
      if s.performedAt u .package && (s.core (coreOf u)).async.isEmpty then .done (s.coreDone (coreOf u))
      else .wait s 0
    else .done (s.onRegion x.region (fun r => { r with done := true }))) s

end Sys2Proof.Machine
end

