-- ==== Sys2Proof/Machine/Coll.lean ====
section
/-! DEFINITION. Collectives: COLL and CWAIT, and what a rank does with a flit (R307, R308, R316, R344 to R346, R351). -/
namespace Sys2Proof.Machine

/-! ### The descriptor (R344) -/

def cdRanks (d : List W64) : Nat := fld (wordAt d 0) 40 8
def cdRank (d : List W64) : Nat := fld (wordAt d 0) 32 8
def cdPrev (d : List W64) : Nat := fld (wordAt d 0) 28 4
def cdNext (d : List W64) : Nat := fld (wordAt d 0) 24 4
def cdCid (d : List W64) : Nat := fld (wordAt d 0) 16 6
def cdOp (d : List W64) : Nat := fld (wordAt d 0) 4 4
def cdTy (d : List W64) : Nat := fld (wordAt d 0) 0 4
def cdCount (d : List W64) : Nat := fld (wordAt d 3) 0 32

/-- The collective that a descriptor describes, for a unit. -/
def collOf (u : Nat) (x : Unit) (d : List W64) : Coll where
  cid := cdCid d
  unit := u
  region := x.region
  ctx := x.ctx
  ranks := cdRanks d
  rank := cdRank d
  prev := cdPrev d
  next := cdNext d
  op := cdOp d
  ty := cdTy d
  count := cdCount d
  sblk := d.getD 1 0
  dblk := d.getD 2 0
  partials := 0
  written := 0
  status := none

/-- A type code that a collective takes: I32, FP16, BF16, FP32. -/
def collTy (t : Nat) : Bool := t == 4 || t == 10 || t == 11 || t == 12

/-- The first rank has no port towards a lower rank, the last none towards a higher one. -/
def Coll.first (c : Coll) : Bool := c.rank == 0
def Coll.last (c : Coll) : Bool := c.rank + 1 == c.ranks

/-- The ports that a collective uses. -/
def Coll.ports (c : Coll) : List Nat := (if c.first then [] else [c.prev]) ++ (if c.last then [] else [c.next])

/-- The checks on a collective descriptor (R345). COUNT has 31 bits of use (R344). -/
def State.collCheck (s : State) (x : Unit) (d : List W64) (c : Coll) : Option Trap :=
  if fld (wordAt d 0) 48 16 != 0 || fld (wordAt d 0) 22 2 != 0 || fld (wordAt d 0) 8 8 != 0 || fld (wordAt d 3) 32 32 != 0
      || decide (c.ranks < 2) || decide (c.ranks ≤ c.rank) || decide (3 < c.op) || !collTy c.ty || c.count = 0
      || decide (2 ^ 31 ≤ c.count)
  then some (illegal 2)
  else if c.ports.any (fun p => s.partOf p != some x.part) then some ⟨.permission, 3, 0⟩
  else match s.needBlock x.ctx c.sblk with
    | .error t => some t
    | .ok _ =>
      match s.needBlock x.ctx c.dblk with
      | .error t => some t
      | .ok _ => none

/-! ### Elements -/

/-- Bytes of an element. -/
def Coll.width (c : Coll) : Nat := if c.ty = 10 || c.ty = 11 then 2 else 4

/-- The block that a handle describes by its own fields: its first granule and size class (R75). -/
def handleBlock (h : W64) : Block := ⟨hGranule h, hSize h, BitVec.ofNat 16 (hGen h), 0, 0, none, false⟩

/-- x(e): an element of the source block; bytes beyond the block read as zero (R345). -/
def State.collSource (s : State) (c : Coll) (e : Nat) : Nat :=
  s.blockNat (hStn c.sblk) (handleBlock c.sblk) (hOff c.sblk + c.width * e) c.width

/-- The floating format of a collective's type. -/
def collFmt (t : Nat) : Fmt := fmtOfF (if t = 10 then .fp16 else if t = 11 then .bf16 else .fp32)

/-- One step of the reduction, rounded to nearest even in the type (R345). -/
def collApply (op ty a b : Nat) : Nat :=
  if ty = 4 then
    match op with
    | 0 => (a + b) % 2 ^ 32
    | 1 => if asInt 32 a < asInt 32 b then b else a
    | 2 => if asInt 32 b < asInt 32 a then b else a
    | _ => a
  else
    let f := collFmt ty
    match op with
    | 0 => f.encode .rne (FVal.add .rne (f.decode a) (f.decode b))
    | 1 => f.minmax true a b
    | 2 => f.minmax false a b
    | _ => a

/-- The reading of an element of the source block: its first byte beyond the block is recorded (R96). -/
def State.noteSource (s : State) (c : Coll) (e : Nat) : State :=
  s.noteOor c.unit c.sblk (handleBlock c.sblk) ((List.range c.width).map (fun i => hOff c.sblk + c.width * e + i))

/-- A result written into the destination block; bytes beyond it are dropped, and the first is recorded (R96, R345). The collective is complete with its
last element. -/
def State.collWrite (s : State) (c : Coll) (v : Nat) : State × Coll :=
  let o := hOff c.dblk + c.width * c.written
  let bs := (List.range c.width).map (fun i => (o + i, BitVec.ofNat 8 (v >>> (8 * i))))
  let n := c.written + 1
  ((s.noteOor c.unit c.dblk (handleBlock c.dblk) (bs.map (·.1))).blockPut (hStn c.dblk) (handleBlock c.dblk) bs,
   { c with written := n, status := if n = c.count then some true else none })

/-- TYPE 3, a data flit: the element and its value (R304). -/
def State.sendElem (s : State) (port : Nat) (c : Coll) (e v : Nat) : State := s.sendFlit port 3 c.cid e (lane32 v)

/-! ### COLL -/

/-- What rank 0 does as the collective opens: it sends its elements in ascending order; for BCAST that is all (R345). -/
def State.collBegin (s : State) (c : Coll) : State :=
  if c.first then
    let s := (List.range c.count).foldl (fun s e => (s.noteSource c e).sendElem c.next c e (s.collSource c e)) s
    s.setColl { c with partials := c.count, status := if c.op = 3 then some true else none }
  else s.setColl c

/-- COLL_ABANDON at a rank (R227, R308). -/
def State.collEvent (s : State) (c : Coll) : State :=
  match s.unit? c.unit with
  | some x => if x.region = c.region then s.raiseEvent c.unit (trapOf .collAbandon) else s
  | none => s

/-- The collective opens; on a port that is down it is abandoned at once (R345). -/
def State.openColl (s : State) (c : Coll) : State :=
  if c.ports.any (fun p => (s.mainPort p).down) then (s.abandonColl c).collEvent c else s.collBegin c

/-- A ticket (R345). -/
def collTicket (c : Coll) : W64 := w64 (2 ^ 14 + c.next * 2 ^ 10 + c.prev * 2 ^ 6 + c.cid)

def execColl (d : Dst) (desc : Src) (s : State) : Host.Outcome State Fault Refusal :=
  runUnit (.coll d desc) avTS [desc] [d] (fun u x s vd _ phase =>
    if phase = 0 then
      if !s.blockQuiet u vd then .wait s 0
      else match s.loadWords u x vd 4 with
        | .error t => .trap t
        | .ok (s, ws) =>
          match s.collCheck x ws (collOf u x ws) with
          | some t => .trap t
          | none => .waitWith s 1 ws
    else
      let c := collOf u x s.cur.words
      let r := s.publish u x
      if !r.2 || c.keys.any (fun k => (Tab.find r.1.colls k).isSome) then .wait r.1 1
      else .write (r.1.openColl c) d 0 (collTicket c) 1) s

/-! ### CWAIT (R351) -/

/-- The collective of a context that a ticket names. -/
def State.collNamed (s : State) (ctx : Nat) (t : W64) : Option Coll :=
  if t.getLsbD 14 then
    (s.colls.find? (fun e => e.2.ctx == ctx && e.2.cid == fld t.toNat 0 6 && e.2.prev == fld t.toNat 6 4
      && e.2.next == fld t.toNat 10 4)).map (·.2)
  else none

/-- CWAIT's word: STATUS and WRITTEN. -/
def cwaitWord (status written : Nat) : W64 := w64 (status * 2 ^ 56 + written % 2 ^ 32)

/-- A CWAIT that waits for the same collective takes the same word. -/
def Unit.tellCwait (x : Unit) (ctx : Nat) (t w : W64) : Unit :=
  match x.blocked with
  | some (.again (.cwait d a) c) =>
    if x.ctx = ctx && fld c.a.toNat 0 15 == fld t.toNat 0 15 then
      { x with blocked := some (.again (.cwait d a) { c with phase := 2, words := [w] }) }
    else x
  | _ => x

/-- The collective's slots are free, and every other CWAIT that waits for it is told its word. -/
def State.closeColl (s : State) (c : Coll) (t w : W64) : State :=
  { s with
    colls := s.colls.filter (fun e => !(c.keys.contains e.1))
    units := s.units.map (fun e => (e.1, e.2.tellCwait c.ctx t w))
    regions := s.regions.map (fun r => (r.1, { r.2 with
      savedUnits := r.2.savedUnits.map (fun e => (e.1, e.2.tellCwait c.ctx t w)) })) }

def execCwait (d : Dst) (ticket : Src) (s : State) : Host.Outcome State Fault Refusal :=
  runUnit (.cwait d ticket) avTS [ticket] [d] (fun _ x s vt _ phase =>
    if phase = 2 then .write s d 0 (s.cur.words.getD 0 0) 1
    else match s.collNamed x.ctx vt with
      | none => .write s d 0 (cwaitWord 2 0) 1
      | some c =>
        match c.status with
        | none => .wait s 1
        | some ok =>
          let w := cwaitWord (if ok then 0 else 1) c.written
          .write (s.closeColl c vt w) d 0 w 1) s

/-! ### Flits of a collective (R307, R308, R345, R346) -/

/-- A collective is abandoned at this rank: abandon flits on its ports and the event. -/
def State.collAbandoned (s : State) (c : Coll) : State := (s.abandonColl c).collEvent c

/-- The first data flit's fields differ from the rank's own descriptor (R346). -/
def CollHdr.differs (h : CollHdr) (c : Coll) : Bool :=
  h.ranks != c.ranks || h.op != c.op || h.ty != c.ty || h.count != c.count

/-- A partial from the rank below: the rank's own is formed and sent on; the last rank writes it and sends it back; in a
broadcast it is written and sent on. -/
def State.collPartial (s : State) (c : Coll) (v : Nat) : State :=
  let e := c.partials
  if c.op = 3 then
    let (s, c) := s.collWrite c v
    let s := if c.last then s else s.sendElem c.next c e v
    s.setColl { c with partials := e + 1 }
  else
    let p := collApply c.op c.ty v (s.collSource c e)
    let s := s.noteSource c e
    if c.last then
      let (s, c) := s.collWrite c p
      (s.sendElem c.prev c e p).setColl { c with partials := e + 1 }
    else (s.sendElem c.next c e p).setColl { c with partials := e + 1 }

/-- A result from the rank above: it is written and sent on down. -/
def State.collResult (s : State) (c : Coll) (v : Nat) : State :=
  let e := c.written
  let (s, c) := s.collWrite c v
  (if c.first then s else s.sendElem c.prev c e v).setColl c

/-- The value of a data flit, cut to the width of the type. -/
def Coll.cut (c : Coll) (v : Lane) : Nat := v.toNat % 2 ^ (8 * c.width)

end Sys2Proof.Machine
end

