-- ==== Sys2Proof/Machine/Kv.lean ====
section
/-! DEFINITION. Prefix trees and key/value pages: PFXM, PFXI, KVAPP, KVTRUNC, KVREL, KVPIN and KVMAP, and the lookup that
KVWALK and VGATH share (R250 to R271, R294, R376 to R378, R402). -/
namespace Sys2Proof.Machine

/-! ### Structure accesses (R250) -/

/-- What a run of structure accesses comes to: a value; a fault; or an access that is withheld (its address, the level at
which the walk ended, its kind, and whether the write-block bit withholds it). -/
inductive Kv (α : Type) where
  | ok (a : α) (s : State)
  | fault (t : Trap)
  | hold (va level access : Nat) (wb : Bool)

abbrev KvM (α : Type) := State → Kv α

def KvM.pure {α : Type} (a : α) : KvM α := fun s => .ok a s

def KvM.bind {α β : Type} (m : KvM α) (f : α → KvM β) : KvM β := fun s =>
  match m s with
  | .ok a s => f a s
  | .fault t => .fault t
  | .hold va level access wb => .hold va level access wb

def KvM.fail {α : Type} (t : Trap) : KvM α := fun _ => .fault t

/-- Who makes structure accesses: its translation and its partition. -/
structure KvEnv where
  tr : State → Nat → Want → State × TransRes
  part : Nat

/-- The location of a structure word. A withheld access is recorded with the ACCESS of what it does, a read, a write or an
atomic, and not as an engine transfer (DESIGN CHOICE, log entry 43). -/
def KvEnv.at (e : KvEnv) (va : Nat) (w : Want) : KvM (Loc × PageBits) := fun s =>
  match e.tr s va w with
  | (s, .ok loc page _ _) => .ok (loc, page) s
  | (_, .fault t) => .fault t
  | (_, .invalid level) => .hold va level (accessCode w) false
  | (_, .wb) => .hold va 0 (accessCode w) true

/-- `n` bytes as a number. -/
def KvEnv.rd (e : KvEnv) (n va : Nat) : KvM Nat :=
  (e.at va wantRead).bind (fun l s => .ok (s.homeNat e.part l.1 n) s)

/-- Bytes written. -/
def KvEnv.put (e : KvEnv) (va : Nat) (bs : List Byte) : KvM PUnit :=
  (e.at va wantWrite).bind (fun l s =>
    .ok ⟨⟩ (s.homeSync e.part l.1.kind l.1.addr bs l.2.cmode l.2.depot))

/-- A word of 8 bytes read, or written. -/
def KvEnv.q (e : KvEnv) (va : Nat) : KvM Nat := e.rd 8 va
def KvEnv.st (e : KvEnv) (va v : Nat) : KvM PUnit := e.put va (bytesOf 8 v)

/-- An atomic at the home of a word that two agents update (R173, R250): the old value. -/
def KvEnv.rmw (e : KvEnv) (n va : Nat) (f : Nat → Nat) : KvM Nat :=
  (e.at va (wantAtomic .package)).bind (fun l s =>
    let old := s.homeNat e.part l.1 n
    .ok old (s.homeSync e.part l.1.kind l.1.addr (bytesOf n (f old % 2 ^ (8 * n))) l.2.cmode l.2.depot))

/-- An atomic whose old value is not needed. -/
def KvEnv.upd (e : KvEnv) (va : Nat) (f : Nat → Nat) : KvM PUnit := (e.rmw 8 va f).bind (fun _ => KvM.pure ⟨⟩)

/-- The steps of a list one after the other. -/
def KvM.each {α : Type} (f : α → KvM PUnit) : List α → KvM PUnit
  | [] => KvM.pure ⟨⟩
  | a :: t => (f a).bind (fun _ => KvM.each f t)

/-! ### The layouts (R251 to R256) -/

/-- The address of the partition's KV control block (R225, R251). -/
def KvEnv.cb (e : KvEnv) (s : State) : Nat := fld (s.part e.part).kvcb.toNat 0 55

/-- A word of the control block. -/
def KvEnv.cbq (e : KvEnv) (o : Nat) : KvM Nat := fun s => e.q (e.cb s + o) s
def KvEnv.cbupd (e : KvEnv) (o : Nat) (f : Nat → Nat) : KvM PUnit := fun s => e.upd (e.cb s + o) f s

def evictBit : Nat := 2 ^ 63
def groupPoison : Nat := 2 ^ 62
/-- COUNT, PINS, EVICTING and POISON of a reference word; CHILDREN of a child word. -/
def refCount (w : Nat) : Nat := fld w 0 32
def refPins (w : Nat) : Nat := fld w 32 16
def isEvicting (w : Nat) : Bool := w.testBit 63
def isPoisoned (w : Nat) : Bool := w.testBit 62
/-- Places in a group record and in a node. -/
def gRef (g : Nat) : Nat := g + 512
def gNode (g : Nat) : Nat := g + 520
def gRows (g : Nat) : Nat := g + 528
def gNext (g : Nat) : Nat := g + 536
def nGroup (c : Nat) : Nat := c + 64
def nParent (c : Nat) : Nat := c + 72
def nCtab (c : Nat) : Nat := c + 80
def nChild (c : Nat) : Nat := c + 88
def nUse (c : Nat) : Nat := c + 96
/-- LIVE, POISON and LEN of a descriptor's word 0. -/
def sdLive (w : Nat) : Bool := w.testBit 62
def sdPoison (w : Nat) : Bool := w.testBit 63
def sdLen (w : Nat) : Nat := fld w 0 21
def withLen (w len : Nat) : Nat := w - sdLen w + len

/-! ### Free lists (R251) -/

/-- The first element of a list: its head word stands at `head` of the control block, the link at `link` of an element. -/
def KvEnv.pop (e : KvEnv) (head link : Nat) : KvM Nat :=
  (e.cbq head).bind (fun x =>
    if x = 0 then KvM.pure 0
    else (e.q (x + link)).bind (fun nx => (e.cbupd head (fun _ => nx)).bind (fun _ => KvM.pure x)))

def KvEnv.push (e : KvEnv) (head link x : Nat) : KvM PUnit :=
  (e.cbq head).bind (fun old => (e.st (x + link) old).bind (fun _ => e.cbupd head (fun _ => x)))

/-- GCOUNT changed: bits [31:0] of word 1. -/
def KvEnv.gcount (e : KvEnv) (f : Nat → Nat) : KvM PUnit :=
  e.cbupd 8 (fun w => w - fld w 0 32 + f (fld w 0 32) % 2 ^ 32)

def KvEnv.popGroup (e : KvEnv) : KvM Nat :=
  (e.pop 0 536).bind (fun g =>
    if g = 0 then KvM.pure 0 else (e.gcount (fun n => n + 2 ^ 32 - 1)).bind (fun _ => KvM.pure g))

def KvEnv.pushGroup (e : KvEnv) (g : Nat) : KvM PUnit := (e.push 0 536 g).bind (fun _ => e.gcount (· + 1))

/-- A table page, all of its words 0. -/
def KvEnv.popTable (e : KvEnv) : KvM Nat :=
  (e.pop 24 0).bind (fun p =>
    if p = 0 then KvM.pure 0
    else (e.put p (List.replicate 65536 0)).bind (fun _ => KvM.pure p))

def KvEnv.pushTable (e : KvEnv) (p : Nat) : KvM PUnit := e.push 24 0 p
def KvEnv.popNode (e : KvEnv) : KvM Nat := e.pop 16 0
def KvEnv.pushNode (e : KvEnv) (c : Nat) : KvM PUnit := e.push 16 0 c

/-! ### The prefix tree (R256, R257, R268) -/

/-- The hash of a block's 16 tokens, given as one number. -/
def blockHash (toks : Nat) : Nat :=
  let h := (List.range 16).foldl (fun h i => (h + fld toks (32 * i) 32 * (2 * i + 1)) % 2 ^ 32) 0
  (h ^^^ (h >>> 13)) % 8192

/-- The slots of a probe from slot `x` on: the first for which `stop` answers, ending at an empty entry or after 8,192. -/
def KvEnv.probe {α : Type} (e : KvEnv) (ctab x : Nat) (stop : Nat → Nat → KvM (Option α)) :
    Nat → Nat → KvM (Option α)
  | 0, _ => KvM.pure none
  | fuel + 1, k =>
    let slot := (x + k) % 8192
    (e.q (ctab + 8 * slot)).bind (fun v =>
      (stop slot v).bind (fun r =>
        match r with
        | some a => KvM.pure (some a)
        | none => if v = 0 then KvM.pure none else e.probe ctab x stop fuel (k + 1)))

/-- An entry is a node of the block that is not being removed. -/
def KvEnv.matches (e : KvEnv) (toks v : Nat) : KvM Bool :=
  if v < 2 then KvM.pure false
  else (e.rd 64 v).bind (fun n =>
    if n != toks then KvM.pure false
    else (e.q (nChild v)).bind (fun w => KvM.pure (!isEvicting w)))

/-- The first node of the probe for a block for which `take` answers with its group. -/
def KvEnv.find (e : KvEnv) (ctab toks : Nat) (take : Nat → KvM Bool) : KvM (Option (Nat × Nat)) :=
  if ctab = 0 then KvM.pure none
  else e.probe ctab (blockHash toks) (fun _ v =>
    (e.matches toks v).bind (fun m =>
      if m then
        (e.q (nGroup v)).bind (fun g => (take g).bind (fun ok => KvM.pure (if ok then some (v, g) else none)))
      else KvM.pure none)) 8192 0

/-- A node leaves the tree: its entry becomes removed, its parent loses a child, and it and its table go to their free
lists (R268 step 3). -/
def KvEnv.unlink (e : KvEnv) (c : Nat) : KvM PUnit :=
  (e.q (nParent c)).bind (fun par =>
    (e.q (nCtab par)).bind (fun ctab =>
      (e.rd 64 c).bind (fun toks =>
        (e.probe ctab (blockHash toks) (fun slot v => KvM.pure (if v = c then some slot else none)) 8192 0).bind
          (fun slot =>
            (match slot with
             | some i => e.upd (ctab + 8 * i) (fun _ => 1)
             | none => KvM.pure ⟨⟩).bind (fun _ =>
              (e.upd (nChild par) (fun w => w + 2 ^ 64 - 1)).bind (fun _ =>
                (e.q (nCtab c)).bind (fun ct =>
                  (e.pushNode c).bind (fun _ => if ct = 0 then KvM.pure ⟨⟩ else e.pushTable ct))))))))

/-! ### References (R254) -/

/-- The reference word of a retired group: poisoned, with no reference and no pin left. -/
def isRetired (w : Nat) : Bool := isPoisoned w && refCount w == 0 && refPins w == 0

/-- A node leaves the tree. Where its parent's group is retired and it was the parent's last child, the parent follows: a
retired group's node is removed as soon as nothing hangs on it. A sequence has at most 65,536 blocks. -/
def KvEnv.leave (e : KvEnv) : Nat → Nat → KvM PUnit
  | 0, _ => KvM.pure ⟨⟩
  | fuel + 1, c =>
    (e.q (nParent c)).bind (fun par => (e.unlink c).bind (fun _ =>
      (e.q (nGroup par)).bind (fun g =>
        if g = 0 then KvM.pure ⟨⟩
        else (e.q (gRef g)).bind (fun w => (e.q (nChild par)).bind (fun k =>
          if !isRetired w || refCount k != 0 || isEvicting k then KvM.pure ⟨⟩
          else (e.st (gNode g) 0).bind (fun _ => e.leave fuel par))))))

/-- After a change of a reference word: the group is freed, or retired. -/
def KvEnv.after (e : KvEnv) (g : Nat) : KvM PUnit :=
  (e.q (gRef g)).bind (fun w =>
    if refCount w != 0 || refPins w != 0 then KvM.pure ⟨⟩
    else (e.q (gNode g)).bind (fun node =>
      if isPoisoned w then
        if node = 0 then KvM.pure ⟨⟩
        else (e.q (nChild node)).bind (fun cw =>
          if refCount cw != 0 || isEvicting cw then KvM.pure ⟨⟩
          else (e.st (gNode g) 0).bind (fun _ => e.leave 65537 node))
      else if node = 0 then (e.pushGroup g).bind (fun _ => e.st (gRows g) 0)
      else KvM.pure ⟨⟩))

/-- One reference dropped. -/
def KvEnv.dropRef (e : KvEnv) (g : Nat) : KvM PUnit := (e.upd (gRef g) (fun w => w + 2 ^ 64 - 1)).bind (fun _ => e.after g)

/-! ### Models and block tables (R252, R255) -/

/-- SLICES and TOKB of a descriptor's model. -/
def KvEnv.model (e : KvEnv) (d : Nat) : KvM (Nat × Nat) :=
  (e.q (d + 8)).bind (fun md =>
    (e.rd 64 md).bind (fun m =>
      let slices := fld m 8 7
      let log2 := fld m 0 4
      if m != slices * 256 + log2 || slices = 0 || 64 < slices || log2 < 5 || 12 < log2 then KvM.fail (illegal 2)
      else KvM.pure (slices, 2 ^ log2)))

/-- The place of L1 for a block. -/
def l1At (d b : Nat) : Nat := d + 32 + 8 * (b / 8192)

/-- The group of a block; 0 if none. -/
def KvEnv.entry (e : KvEnv) (d b : Nat) : KvM Nat :=
  (e.q (l1At d b)).bind (fun t => if t = 0 then KvM.pure 0 else e.q (t + 8 * (b % 8192)))

def KvEnv.setEntry (e : KvEnv) (d b g : Nat) : KvM PUnit := (e.q (l1At d b)).bind (fun t => e.st (t + 8 * (b % 8192)) g)

/-- The table page of a block is there, or is popped: false where no page is free. -/
def KvEnv.table (e : KvEnv) (d b : Nat) : KvM Bool :=
  (e.q (l1At d b)).bind (fun t =>
    if t != 0 then KvM.pure true
    else e.popTable.bind (fun p =>
      if p = 0 then KvM.pure false else (e.st (l1At d b) p).bind (fun _ => KvM.pure true)))

/-! ### Results (R259) -/

def kvOk : Nat := 0
def kvFreeEmpty : Nat := 1
def kvEvicting : Nat := 2
def kvPoisoned : Nat := 3
def kvTreeFull : Nat := 4
def kvRange : Nat := 5
def kvNotLive : Nat := 6
def kvTableEmpty : Nat := 7

/-- A result word: STATUS and value. -/
def kvWord (r : Nat × Nat) : W64 := w64 (r.1 * 2 ^ 56 + r.2 % 2 ^ 56)

/-! ### PFXM and PFXI (R261, R262, R402) -/

/-- The prompt length and the tokens of a block of a prompt: bytes beyond the block read as zero. -/
def State.promptLen (s : State) (h : W64) (b : Block) : Nat := s.blockNat (hStn h) b (hOff h) 8
def State.promptBlock (s : State) (h : W64) (b : Block) (m : Nat) : Nat :=
  s.blockNat (hStn h) b (hOff h + 8 + 64 * m) 64

/-- The bytes read of a block from an offset: the first beyond the block is recorded (R96). -/
def State.noteRun (s : State) (u : Nat) (h : W64) (b : Block) (o n : Nat) : State :=
  s.noteOor u h b ((List.range n).map (fun i => hOff h + o + i))

/-- The tokens of block `m` of a prompt as a walk reads them. -/
def promptTokens (u : Nat) (h : W64) (b : Block) (m : Nat) : KvM Nat := fun s =>
  .ok (s.promptBlock h b m) (s.noteRun u h b (8 + 64 * m) 64)

/-- A reference taken at the group's point of order, unless it is claimed or poisoned. -/
def KvEnv.takeRef (e : KvEnv) (g : Nat) : KvM Bool :=
  (e.rmw 8 (gRef g) (fun w => if isEvicting w || isPoisoned w then w else w + 1)).bind (fun w =>
    KvM.pure (!(isEvicting w || isPoisoned w)))

/-- A group that a probe may name. -/
def KvEnv.sound (e : KvEnv) (g : Nat) : KvM Bool :=
  (e.q (gRef g)).bind (fun w => KvM.pure (!(isEvicting w || isPoisoned w)))

/-- One line prefetched into L2: whatever would fault is dropped (R261). -/
def KvEnv.prefetch (e : KvEnv) (va : Nat) : KvM PUnit := fun s =>
  match e.tr s va wantRead with
  | (s, .ok loc page _ _) =>
    .ok ⟨⟩ (if loc.kind == .peer then s else (s.homeRead e.part loc 128 page.cmode page.depot).1)
  | (s, _) => .ok ⟨⟩ s

/-- The pages of a group prefetched. -/
def KvEnv.prefetchGroup (e : KvEnv) (g slices : Nat) : KvM PUnit :=
  KvM.each (fun k => (e.q (g + 8 * k)).bind (fun p =>
    KvM.each (fun i => e.prefetch (p + 128 * i)) (List.range 512))) (List.range slices)

/-- What a walk does at a block that it matched: a MATCH enters the group and stamps the node; a PROBE prefetches the
group's pages. -/
def KvEnv.matched (e : KvEnv) (probe : Bool) (d clock m c g : Nat) : KvM PUnit :=
  if probe then (e.model d).bind (fun md => e.prefetchGroup g md.1) else (e.setEntry d m g).bind (fun _ => e.st (nUse c) clock)

/-- The walk of PFXM from a node: status and blocks matched. A sequence has at most 65,536 blocks (R255). -/
def KvEnv.pfxmWalk (e : KvEnv) (probe : Bool) (d clock : Nat) (toks : Nat → KvM Nat) :
    Nat → Nat → Nat → KvM (Nat × Nat)
  | 0, _, m => KvM.pure (kvOk, m)
  | left + 1, node, m =>
    (if probe then KvM.pure true else e.table d m).bind (fun room =>
      if !room then KvM.pure (kvTableEmpty, m)
      else (toks m).bind (fun block => (e.q (nCtab node)).bind (fun ctab =>
        (e.find ctab block (if probe then e.sound else e.takeRef)).bind (fun f =>
          match f with
          | none => KvM.pure (kvOk, m)
          | some (c, g) =>
            (e.matched probe d clock m c g).bind (fun _ =>
              e.pfxmWalk probe d clock toks left c (m + 1))))))

def KvEnv.pfxm (e : KvEnv) (probe : Bool) (d n : Nat) (toks : Nat → KvM Nat) : KvM (Nat × Nat) :=
  (e.q d).bind (fun w0 =>
    if !sdLive w0 then KvM.pure (kvNotLive, 0)
    else if sdLen w0 != 0 then KvM.pure (kvRange, 0)
    else (e.cbupd 40 (· + 1)).bind (fun _ => (e.cbq 40).bind (fun clock =>
      (e.cbq 32).bind (fun root =>
        (e.pfxmWalk probe d clock toks (min (n / 16) 65536) root 0).bind (fun r =>
          (if probe then KvM.pure ⟨⟩ else e.upd d (fun w => withLen w (16 * r.2))).bind (fun _ =>
            KvM.pure (r.1, 16 * r.2)))))))

/-- The words of a new node (R256). USE holds the CLOCK of the insertion; R262 gives a new node none (DESIGN CHOICE, log entry
43). -/
def nodeBytes (toks g parent clock depth : Nat) : List Byte :=
  bytesOf 64 toks ++ [g, parent, 0, 0, clock, depth].flatMap (bytesOf 8) ++ List.replicate 144 0

/-- A block inserted under a node: the new node, or nothing where the tree is full. -/
def KvEnv.attach (e : KvEnv) (node g toks clock b : Nat) : KvM (Option Nat) :=
  (e.q (nChild node)).bind (fun cw =>
    (e.q (nCtab node)).bind (fun ctab =>
      (e.cbq 16).bind (fun nfree =>
        (e.cbq 24).bind (fun tfree =>
          if isEvicting cw || nfree = 0 || (ctab = 0 && tfree = 0) then KvM.pure none
          else (if ctab = 0 then e.popTable else KvM.pure ctab).bind (fun tab =>
            (e.probe tab (blockHash toks) (fun slot v => KvM.pure (if v < 2 then some slot else none)) 8192 0).bind
              (fun slot =>
                match slot with
                | none => KvM.pure none
                | some i =>
                  e.popNode.bind (fun c =>
                    (e.put c (nodeBytes toks g node clock (b + 1))).bind (fun _ =>
                      (if ctab = 0 then e.st (nCtab node) tab else KvM.pure ⟨⟩).bind (fun _ =>
                        (e.upd (nChild node) (· + 1)).bind (fun _ =>
                          (e.upd (tab + 8 * i) (fun _ => c)).bind (fun _ =>
                            (e.st (gNode g) c).bind (fun _ => KvM.pure (some c)))))))))))))

/-- A poisoned group is no match (R270). -/
def KvEnv.unpoisoned (e : KvEnv) (g : Nat) : KvM Bool := (e.q (gRef g)).bind (fun w => KvM.pure (!isPoisoned w))

/-- The blocks of PFXI from a node on. -/
def KvEnv.pfxiWalk (e : KvEnv) (d clock : Nat) (toks : Nat → KvM Nat) : Nat → Nat → Nat → KvM (Nat × Nat)
  | 0, _, b => KvM.pure (kvOk, b)
  | left + 1, node, b =>
    (toks b).bind (fun block => (e.q (nCtab node)).bind (fun ctab =>
      (e.find ctab block e.unpoisoned).bind (fun f =>
        match f with
        | some (c, _) => e.pfxiWalk d clock toks left c (b + 1)
        | none =>
          (e.entry d b).bind (fun g =>
            (e.q (gRef g)).bind (fun w =>
              if isPoisoned w then KvM.pure (kvPoisoned, b)
              else (e.q (gNode g)).bind (fun held =>
                if held != 0 then KvM.pure (kvTreeFull, b)
                else (e.attach node g block clock b).bind (fun r =>
                  match r with
                  | none => KvM.pure (kvTreeFull, b)
                  | some c => e.pfxiWalk d clock toks left c (b + 1))))))))

def KvEnv.pfxi (e : KvEnv) (d n : Nat) (toks : Nat → KvM Nat) : KvM (Nat × Nat) :=
  (e.q d).bind (fun w0 =>
    if !sdLive w0 then KvM.pure (kvNotLive, 0)
    else if n < sdLen w0 then KvM.pure (kvRange, 0)
    else (e.cbq 40).bind (fun clock => (e.cbq 32).bind (fun root =>
      e.pfxiWalk d clock toks (sdLen w0 / 16) root 0)))

/-! ### KVTRUNC, KVREL and KVPIN (R264, R265, R378) -/

/-- The blocks from `b` on: each gives up its group; with `clear` its entry too. -/
def KvEnv.dropBlocks (e : KvEnv) (d : Nat) (clear : Bool) (bs : List Nat) : KvM PUnit :=
  KvM.each (fun b => (e.entry d b).bind (fun g =>
    if g = 0 then KvM.pure ⟨⟩
    else (if clear then e.setEntry d b 0 else KvM.pure ⟨⟩).bind (fun _ => e.dropRef g))) bs

def KvEnv.trunc (e : KvEnv) (d len : Nat) : KvM (Nat × Nat) :=
  (e.q d).bind (fun w0 =>
    let old := sdLen w0
    let lo := (len + 15) / 16
    if !sdLive w0 then KvM.pure (kvNotLive, 0)
    else if old < len then KvM.pure (kvRange, old)
    else (e.dropBlocks d true ((List.range ((old + 15) / 16 - lo)).map (lo + ·))).bind (fun _ =>
      (e.upd d (fun w => withLen w len)).bind (fun _ => KvM.pure (kvOk, old))))

def KvEnv.rel (e : KvEnv) (d : Nat) : KvM (Nat × Nat) :=
  (e.q d).bind (fun w0 =>
    let old := sdLen w0
    if !sdLive w0 then KvM.pure (kvNotLive, 0)
    else (e.dropBlocks d false (List.range ((old + 15) / 16))).bind (fun _ =>
      (KvM.each (fun k => (e.q (d + 32 + 8 * k)).bind (fun t =>
        if t = 0 then KvM.pure ⟨⟩
        else (e.pushTable t).bind (fun _ => e.st (d + 32 + 8 * k) 0))) (List.range 8)).bind (fun _ =>
          (e.upd d (fun _ => 0)).bind (fun _ => KvM.pure (kvOk, old)))))

def KvEnv.pin (e : KvEnv) (unpin : Bool) (g : Nat) : KvM (Nat × Nat) :=
  if unpin then
    (e.rmw 8 (gRef g) (fun w => if refPins w = 0 then w else w - 2 ^ 32)).bind (fun w =>
      if refPins w = 0 then KvM.pure (kvRange, 0)
      else (e.after g).bind (fun _ => KvM.pure (kvOk, refPins w - 1)))
  else
    (e.rmw 8 (gRef g) (fun w => if isEvicting w || refPins w = 65535 then w else w + 2 ^ 32)).bind (fun w =>
      KvM.pure (if isEvicting w then (kvEvicting, refPins w)
        else if refPins w = 65535 then (kvRange, refPins w) else (kvOk, refPins w + 1)))

/-! ### KVAPP's entry (R266) -/

/-- The first part of an entry: its descriptor's checks and its table page. `some` ends the instruction with a status; else
the length, the slices and the row size. -/
def KvEnv.appendHead (e : KvEnv) (d : Nat) : KvM (Option Nat × Nat × Nat × Nat) :=
  (e.q d).bind (fun w0 =>
    let t := sdLen w0
    if !sdLive w0 then KvM.pure (some kvNotLive, 0, 0, 0)
    else if sdPoison w0 then KvM.pure (some kvPoisoned, 0, 0, 0)
    else if t = 1048576 then KvM.pure (some kvRange, 0, 0, 0)
    else (e.model d).bind (fun m =>
      (e.table d (t / 16)).bind (fun ok =>
        KvM.pure (if ok then none else some kvTableEmpty, t, m.1, m.2))))

/-- `n` bytes copied between pages. -/
def KvEnv.copyRows (e : KvEnv) (dst src n : Nat) : KvM PUnit :=
  if n = 0 then KvM.pure ⟨⟩ else (e.rd n src).bind (fun v => e.put dst (bytesOf n v))

/-- The group that a row is appended to: a fresh one, a copy of a shared one, or the sequence's own; 0 where the free list
is empty. -/
def KvEnv.appendGroup (e : KvEnv) (d t slices tokb : Nat) : KvM Nat :=
  let b := t / 16
  let r := t % 16
  if r = 0 then
    e.popGroup.bind (fun g =>
      if g = 0 then KvM.pure 0
      else (e.st (gRef g) 1).bind (fun _ => (e.st (gRows g) 0).bind (fun _ =>
        (e.setEntry d b g).bind (fun _ => KvM.pure g))))
  else
    (e.entry d b).bind (fun g =>
      (e.q (gRef g)).bind (fun w => (e.q (gNode g)).bind (fun node =>
        if refCount w ≤ 1 && node = 0 then KvM.pure g
        else e.popGroup.bind (fun g2 =>
          if g2 = 0 then KvM.pure 0
          else (KvM.each (fun k => (e.q (g2 + 8 * k)).bind (fun p2 => (e.q (g + 8 * k)).bind (fun p =>
              e.copyRows p2 p (r * tokb)))) (List.range slices)).bind (fun _ =>
            (e.st (gRef g2) 1).bind (fun _ => (e.st (gRows g2) r).bind (fun _ =>
              (e.setEntry d b g2).bind (fun _ => (e.dropRef g).bind (fun _ => KvM.pure g2)))))))))

/-- The second part of an entry: the group, the rows and the length. -/
def KvEnv.appendRows (e : KvEnv) (d t slices tokb : Nat) (row : Nat → List Byte) : KvM (Option Nat) :=
  (e.appendGroup d t slices tokb).bind (fun g =>
    if g = 0 then KvM.pure (some kvFreeEmpty)
    else (KvM.each (fun k => (e.q (g + 8 * k)).bind (fun p => e.put (p + t % 16 * tokb) (row k)))
        (List.range slices)).bind (fun _ =>
      (e.st (gRows g) (t % 16 + 1)).bind (fun _ =>
        (e.upd d (fun w => withLen w (t + 1))).bind (fun _ => KvM.pure none))))

/-! ### The lookup (R263, R284, R294) -/

/-- What a lookup finds. -/
inductive Look where
  | status (n : Nat)
  | poison
  | addr (va : Nat)
  deriving DecidableEq, Repr

/-- The descriptor marked POISON at its word 0. -/
def KvEnv.markPoison (e : KvEnv) (d : Nat) : KvM Look :=
  (e.upd d (fun w => w % 2 ^ 63 + 2 ^ 63)).bind (fun _ => KvM.pure .poison)

/-- The page of slice `sl` and token `t`, which the descriptor holds. -/
def KvEnv.tokenAt (e : KvEnv) (d w0 tokb sl t : Nat) : KvM Look :=
  (e.entry d (t / 16)).bind (fun g =>
    (e.q (gRef g)).bind (fun w =>
      if sdPoison w0 || isPoisoned w then e.markPoison d
      else (e.q (g + 8 * sl)).bind (fun p => KvM.pure (.addr (p + t % 16 * tokb)))))

def KvEnv.lookup (e : KvEnv) (d sel : Nat) : KvM Look :=
  (e.q d).bind (fun w0 =>
    let sl := fld sel 32 6
    let t := fld sel 0 21
    if !sdLive w0 then KvM.pure (.status kvNotLive)
    else (e.model d).bind (fun m =>
      if sel != sl * 2 ^ 32 + t || sdLen w0 ≤ t || m.1 ≤ sl then KvM.pure (.status kvRange)
      else e.tokenAt d w0 m.2 sl t))

/-! ### The instructions -/

/-- The structure accesses of a unit: through its port, or for a depot core, whose own reads they are, as JDEC's counter (R180,
R250, R284). -/
def kvEnv (u : Nat) (x : Unit) : KvEnv :=
  ⟨fun s va w => match s.translateFor u x va 1 w false with
    | (s, .ok loc page pte log2) => (if isCore u then s.noteRead u loc else s, .ok loc page pte log2)
    | r => r, x.part⟩

/-- The end of a KV instruction: its result word, its fault, or a withheld structure access, for whose sake nothing has
been done (R271). -/
def kvRes (u : Nat) (x : Unit) (s : State) (d : Dst) (phase : Nat) (r : Kv (Nat × Nat)) : Res :=
  match r with
  | .ok a s => .write s d 0 (kvWord a) 1
  | .fault t => .portFault s phase t
  | .hold va level access wb => let (s, h) := s.withhold u x va level access wb; .hold s phase h

/-- A descriptor or group record at its alignment; a prompt or list handle that resolves (R77, R259). -/
def kvAligned (a : W64) (n : Nat) : Option Trap := if a.toNat % n != 0 then some (misaligned a) else none

/-- The instructions on one descriptor or group: the checks at the firing, the prelude (R260), then `run` as one. -/
def kvBody (u : Nat) (x : Unit) (s : State) (d : Dst) (phase : Nat) (bad : Option Trap) (run : State → Kv (Nat × Nat)) :
    Res :=
  match bad with
  | some t => .trap t
  | none =>
    let r := s.publish u x
    if r.2 then kvRes u x r.1 d phase (run r.1) else .wait r.1 1

/-- A prompt's block. -/
def State.promptOf (s : State) (x : Unit) (h : W64) : Except Trap Block := s.needBlock x.ctx h

/-- The checks of PFXM and PFXI at the firing. -/
def State.promptBad (s : State) (x : Unit) (d h : W64) : Option Trap :=
  match kvAligned d 128 with
  | some t => some t
  | none =>
    match s.promptOf x h with
    | .error t => some t
    | .ok _ => none

def promptRun (u : Nat) (x : Unit) (h : W64) (f : Nat → (Nat → KvM Nat) → KvM (Nat × Nat)) : KvM (Nat × Nat) := fun s =>
  match s.promptOf x h with
  | .error t => .fault t
  | .ok b => f (s.promptLen h b) (promptTokens u h b) (s.noteRun u h b 0 8)

def execPfxm (probe : Bool) (d : Dst) (seq prompt : Src) (s : State) : Host.Outcome State Fault Refusal :=
  runUnit (.pfxm probe d seq prompt) avTS [seq, prompt] [d] (fun u x s vd vp phase =>
    if phase = 0 && !s.blockQuiet u vp then .wait s 0
    else kvBody u x s d phase (s.promptBad x vd vp)
      (promptRun u x vp (fun n toks => (kvEnv u x).pfxm probe vd.toNat n toks))) s

def execPfxi (d : Dst) (seq prompt : Src) (s : State) : Host.Outcome State Fault Refusal :=
  runUnit (.pfxi d seq prompt) avTS [seq, prompt] [d] (fun u x s vd vp phase =>
    if phase = 0 && !s.blockQuiet u vp then .wait s 0
    else kvBody u x s d phase (s.promptBad x vd vp)
      (promptRun u x vp (fun n toks => (kvEnv u x).pfxi vd.toNat n toks))) s

/-- The count of a KV list, checked at the firing (R266, R377). -/
def State.listCount (s : State) (u : Nat) (x : Unit) (h : W64) (i0 : Nat) : Except Trap (State × Nat) :=
  match s.needBlock x.ctx h with
  | .error t => .error t
  | .ok b =>
    let n := s.blockNat (hStn h) b (hOff h) 4
    if n = 0 || 65535 < n || s.blockNat (hStn h) b (hOff h + 4) 4 != 0 || n < i0 then .error (illegal 2)
    else .ok (s.noteRun u h b 0 8, n)

/-- Entry `i` of a list: the descriptor and the row block's handle. -/
def State.listEntry (s : State) (u : Nat) (x : Unit) (h : W64) (i : Nat) : Except Trap (State × W64 × W64) :=
  match s.needBlock x.ctx h with
  | .error t => .error t
  | .ok b => .ok (s.noteRun u h b (8 + 16 * i) 16, w64 (s.blockNat (hStn h) b (hOff h + 8 + 16 * i) 8),
      w64 (s.blockNat (hStn h) b (hOff h + 16 + 16 * i) 8))

/-- One entry of KVAPP. A fault is raised at the firing; what stands if it ends the second part is the state after the first
(R267, R271). -/
def appendEntry (u : Nat) (x : Unit) (s : State) (d : Dst) (i phase : Nat) (sd h : W64) : Res :=
  let e := kvEnv u x
  match kvAligned sd 128, s.needBlock x.ctx h with
  | some t, _ => .trapWith s t
  | none, .error t => .trapWith s t
  | none, .ok b =>
    match e.appendHead sd.toNat s with
    | .fault t => .trapWith s t
    | .hold va level access wb => let (s, w) := s.withhold u x va level access wb; .hold s phase w
    | .ok (some st, _) s => .write s d 0 (kvWord (st, i)) 1
    | .ok (none, t, slices, tokb) s1 =>
      match e.appendRows sd.toNat t slices tokb
          (fun k => s1.blockBytes (hStn h) b (hOff h + k * tokb) tokb) (s1.noteRun u h b 0 (slices * tokb)) with
      | .fault t => .trapWith s1 t
      | .hold va level access wb => let (s, w) := s1.withhold u x va level access wb; .hold s phase w
      | .ok (some st) _ => .write s1 d 0 (kvWord (st, i)) 1
      | .ok none s => .wait s (phase + 1)

/-- KVAPP: phase 0 checks the list, phase 1 is the prelude, phase i + 2 appends entry i. -/
def execKvapp (d : Dst) (list start : Src) (s : State) : Host.Outcome State Fault Refusal :=
  runUnit (.kvapp d list start) avTS [list, start] [d] (fun u x s vl vi phase =>
    let n := (s.cur.words.getD 0 0).toNat
    if phase = 0 then
      if !s.blockQuiet u vl then .wait s 0
      else match s.listCount u x vl vi.toNat with
        | .error t => .trap t
        | .ok (s, n) => .waitWith s 1 [w64 n]
    else if phase = 1 then
      let r := s.publish u x
      if r.2 then .wait r.1 (vi.toNat + 2) else .wait r.1 1
    else if n ≤ phase - 2 then .write s d 0 (kvWord (kvOk, n)) 1
    else match s.listEntry u x vl (phase - 2) with
      | .error t => .trapWith s t
      | .ok (s, sd, h) => appendEntry u x s d (phase - 2) phase sd h) s

def execKvtrunc (d : Dst) (seq len : Src) (s : State) : Host.Outcome State Fault Refusal :=
  runUnit (.kvtrunc d seq len) avTS [seq, len] [d] (fun u x s vd vl phase =>
    kvBody u x s d phase (kvAligned vd 128) ((kvEnv u x).trunc vd.toNat vl.toNat)) s

def execKvrel (d : Dst) (seq : Src) (s : State) : Host.Outcome State Fault Refusal :=
  runUnit (.kvrel d seq) avTS [seq] [d] (fun u x s vd _ phase =>
    kvBody u x s d phase (kvAligned vd 128) ((kvEnv u x).rel vd.toNat)) s

def execKvpin (unpin : Bool) (d : Dst) (grp : Src) (s : State) : Host.Outcome State Fault Refusal :=
  runUnit (.kvpin unpin d grp) avTS [grp] [d] (fun u x s vg _ phase =>
    kvBody u x s d phase (kvAligned vg 1024) ((kvEnv u x).pin unpin vg.toNat)) s

/-- POISON with the descriptor in SY.FADDR (R263). -/
def kvPoisonTrap (d : W64) : Trap := ⟨.poison, 0, d⟩

/-- KVMAP. A poisoned descriptor or group faults as at a memory port: the firing is committed and KVMAP stands as the blocked
instruction (R229, R263; DESIGN CHOICE, log entry 111). -/
def execKvmap (d : Dst) (seq slc : Src) (s : State) : Host.Outcome State Fault Refusal :=
  runUnit (.kvmap d seq slc) avTS [seq, slc] [d] (fun u x s vd vs phase =>
    match kvAligned vd 128 with
    | some t => .trap t
    | none =>
      match (kvEnv u x).lookup vd.toNat vs.toNat s with
      | .ok (.status n) s => .write s d 0 (kvWord (n, 0)) 1
      | .ok (.addr va) s => .write s d 0 (kvWord (kvOk, va)) 1
      | .ok .poison s => .portFault s phase (kvPoisonTrap vd)
      | .fault t => .portFault s phase t
      | .hold va level access wb => let (s, h) := s.withhold u x va level access wb; .hold s phase h) s

end Sys2Proof.Machine
end

