-- ==== Sys2Proof/Machine/Rng.lean ====
section
/-! DEFINITION. The generators: RNG, RNGSET and RNGGET (R118, R119, R291, R292, R416). -/
namespace Sys2Proof.Machine

/-- The state of a Philox round: the four counter words and the two key words. -/
structure Philox where
  c0 : Nat
  c1 : Nat
  c2 : Nat
  c3 : Nat
  k0 : Nat
  k1 : Nat
  deriving DecidableEq, Repr

/-- One round's mixing of the counter (R118). -/
def Philox.mix (p : Philox) : Philox :=
  let h0 := 0xD2511F53 * p.c0
  let h1 := 0xCD9E8D57 * p.c2
  { p with c0 := fld h1 32 32 ^^^ p.c1 ^^^ p.k0, c1 := fld h1 0 32, c2 := fld h0 32 32 ^^^ p.c3 ^^^ p.k1, c3 := fld h0 0 32 }

/-- The key of the next round. -/
def Philox.bump (p : Philox) : Philox :=
  { p with k0 := (p.k0 + 0x9E3779B9) % 2 ^ 32, k1 := (p.k1 + 0xBB67AE85) % 2 ^ 32 }

/-- `n` rounds, the key bumped between them. -/
def Philox.rounds : Nat → Philox → Philox
  | 0, p => p
  | 1, p => p.mix
  | n + 2, p => Philox.rounds (n + 1) p.mix.bump

/-- The block of a counter and a key: 128 bits, word 0 lowest (R118). -/
def philox (counter key : Nat) : Nat :=
  let p := Philox.rounds 10 ⟨fld counter 0 32, fld counter 32 32, fld counter 64 32, fld counter 96 32,
    fld key 0 32, fld key 32 32⟩
  p.c0 + p.c1 * 2 ^ 32 + p.c2 * 2 ^ 64 + p.c3 * 2 ^ 96

/-- Lane `j` of a draw. -/
def Gen.lane (g : Gen) (j : Nat) : Nat :=
  fld (philox ((g.counter.toNat + j / 4) % 2 ^ 128) g.key.toNat) (32 * (j % 4)) 32

/-- The generator after a draw of `lanes` lanes. -/
def Gen.advance (g : Gen) (lanes : Nat) : Gen := { g with counter := g.counter + BitVec.ofNat 128 ((lanes + 3) / 4) }

def Unit.gen (x : Unit) (g : Fin 4) : Gen := Tab.get x.gens g.val Gen.reset
def Unit.setGen (x : Unit) (g : Fin 4) (v : Gen) : Unit := { x with gens := Tab.set Gen.reset x.gens g.val v }

def execRng (g : Fin 4) (d : Dst) (s : State) : Host.Outcome State Fault Refusal :=
  runUnit (.rng g d) avTSD [] [d] (fun u x s _ _ _ =>
    let v := vecMk 32 x.lanes ((x.gen g).lane)
    .write (s.onUnit u (fun y => y.setGen g ((y.gen g).advance y.lanes))) d v (w64 ((x.gen g).lane 0)) 4) s

/-- A generator's image: counter, key and zeros (R292). -/
def Gen.image (g : Gen) : List Byte := bytesOf 16 g.counter.toNat ++ bytesOf 8 g.key.toNat ++ bytesOf 8 0

/-- The image's place: a block and the station, or an offset of the local SRAM; its alignment (R292). -/
def State.imageBlock (s : State) (x : Unit) (h : W64) : Except Trap Block :=
  match s.needBlock x.ctx h with
  | .error t => .error t
  | .ok b => if hOff h % 32 != 0 then .error (misaligned 0) else .ok b

/-- The generator set from an image of 32 bytes. -/
def setFromImage (u : Nat) (g : Fin 4) (s : State) (bs : List Byte) : Res :=
  if ofBytes (bs.drop 24) != 0 then .trap (illegal 2)
  else
    let v : Gen := ⟨BitVec.ofNat 128 (ofBytes (bs.take 16)), w64 (ofBytes ((bs.drop 16).take 8))⟩
    .write (s.onUnit u (fun y => y.setGen g v)) .discard 0 0 2

def execRngset (g : Fin 4) (img : Src) (s : State) : Host.Outcome State Fault Refusal :=
  runUnit (.rngset g img) avTSD [img] [] (fun u x s vi _ _ =>
    if isCore u then
      if vi.toNat % 32 != 0 then .trap (misaligned 0)
      else setFromImage u g (s.noteLocal u ((List.range 32).map (vi.toNat + ·))) (s.localBytes (coreOf u) vi.toNat 32)
    else match s.imageBlock x vi with
      | .error t => .trap t
      | .ok b =>
        let s := s.settleBlock u vi
        setFromImage u g (s.noteOor u vi b ((List.range 32).map (hOff vi + ·))) (s.blockBytes (hStn vi) b (hOff vi) 32)) s

def execRngget (g : Fin 4) (img : Src) (s : State) : Host.Outcome State Fault Refusal :=
  runUnit (.rngget g img) avTSD [img] [] (fun u x s vi _ _ =>
    let bs := (x.gen g).image
    if isCore u then
      if vi.toNat % 32 != 0 then .trap (misaligned 0)
      else .write ((s.noteLocal u ((List.range 32).map (vi.toNat + ·))).localPut (coreOf u)
        ((List.range 32).map (fun i => (vi.toNat + i, bs.getD i 0)))) .discard 0 0 2
    else match s.imageBlock x vi with
      | .error t => .trap t
      | .ok b =>
        let cells := (List.range 32).map (fun i => (hOff vi + i, bs.getD i 0))
        let s := s.noteOor u vi b (cells.map (·.1))
        if hStn vi = stnOf u then .write (s.blockPut (stnOf u) b cells) .discard 0 0 2
        else .write (s.send u (.blockWrite vi cells)).1 .discard 0 0 2) s

end Sys2Proof.Machine
end

