-- ==== Sys2Proof/Machine/Signals.lean ====
section
/-! DEFINITION. Signals, groups and priority: SIGSET to SIGADD, GJOIN, GLEAVE, GBAR and PRIO (R36 to R39, R97, R369 to
R371, R407, R422 to R424). -/
namespace Sys2Proof.Machine

/-- The signal that a handle names; a handle of another kind is ILLEGAL with DETAIL 2, one that does not resolve is
stale (R77, R423). -/
def State.needSignal (s : State) (x : Unit) (h : W64) : Except Trap Nat :=
  if !isSignalHandle h then .error (illegal 2)
  else if s.signalOk x.part h then .ok (hSignal h)
  else .error (stale h)

def execSigset (h v : Src) (s : State) : Host.Outcome State Fault Refusal :=
  runUnit (.sigset h v) avTSD [h, v] [] (fun u x s vh vv _ =>
    match s.needSignal x vh with
    | .error t => .trap t
    | .ok n => signalOp u s n (fun s => s.sigSet n vv) (.sigSet n vv)) s

def execSigclr (h : Src) (s : State) : Host.Outcome State Fault Refusal :=
  runUnit (.sigclr h) avTSD [h] [] (fun u x s vh _ _ =>
    match s.needSignal x vh with
    | .error t => .trap t
    | .ok n => signalOp u s n (fun s => s.sigSet n 0) (.sigSet n 0)) s

def execSigadd (h v : Src) (s : State) : Host.Outcome State Fault Refusal :=
  runUnit (.sigadd h v) avTSD [h, v] [] (fun u x s vh vv _ =>
    match s.needSignal x vh with
    | .error t => .trap t
    | .ok n => signalOp u s n (fun s => s.sigAdd n vv) (.sigAdd n vv)) s

/-- A request packet that is a signal operation or a query on signal `n`. -/
def Req.onSignal (r : Req) (n : Nat) : Bool :=
  match r with
  | .sigSet m _ | .sigAdd m _ | .sigTest m _ _ _ => m == n
  | .blockRead h _ _ _ | .blockWrite h _ => isSignalHandle h && hSignal h == n
  | _ => false

/-- Operations of one unit on one signal are applied in issue order (R424). -/
def State.signalQuiet (s : State) (u n : Nat) : Bool := !s.mesh.any (fun p => p.unit == u && p.req.onSignal n)

def execSigwait (cond : SigCond) (h v : Src) (s : State) : Host.Outcome State Fault Refusal :=
  runUnit (.sigwait cond h v) avTSD [h, v] [] (fun u x s vh vv _ =>
    match s.needSignal x vh with
    | .error t => .trap t
    | .ok n =>
      if !s.signalQuiet u n then .wait s 0
      else if sigHolds cond (s.signal n) vv then .done s
      else .block s (.signal n cond vv)) s

/-- SIGTEST: where its destination is a predicate that the word's update also names, the update comes after the write
(R17). -/
def execSigtest (cond : SigCond) (d : Dst) (h v : Src) (s : State) : Host.Outcome State Fault Refusal :=
  let defer := match d with
    | .p n => updNames s.cur.upd n
    | _ => false
  runWith (.sigtest cond d h v) avTSD [h, v] [h, v] (outsOf [d]) [d] defer (fun u x s vh vv _ =>
    match s.needSignal x vh with
    | .error t => .trap t
    | .ok n =>
      if !isCore u && n / 1024 == stnOf u then
        let b := b2n (sigHolds cond (s.signal n) vv)
        .write s d b (w64 b) 1
      else
        let r := s.send u (.sigTest n cond vv (x.landOf 0 d))
        .block r.1 (.answer [r.2])) s

/-! ### Groups (R36, R369 to R371) -/

/-- A group value above 4,095 is out of range; else the group's key, within the unit's context. -/
def groupKey (x : Unit) (g : W64) : Except Trap Nat :=
  if 4095 < g.toNat then .error (illegal 2) else .ok (x.ctx * 4096 + g.toNat)

def State.group (s : State) (k : Nat) : Group := Tab.get s.groups k Group.reset

/-- The groups that a member belongs to. -/
def State.memberships (s : State) (m : Nat) : Nat := (s.groups.filter (fun g => g.2.members.contains m)).length

def execGjoin (g : Src) (s : State) : Host.Outcome State Fault Refusal :=
  runUnit (.gjoin g) avTS [g] [] (fun u x s vg _ _ =>
    match groupKey x vg with
    | .error t => .trap t
    | .ok k =>
      let m := memberOf u x
      if (s.group k).members.contains m then .done s
      else if 4 ≤ s.memberships m then .trap (illegal 2)
      else .done { s with groups := Tab.put s.groups k { s.group k with members := (s.group k).members ++ [m] } }) s

def execGleave (g : Src) (s : State) : Host.Outcome State Fault Refusal :=
  runUnit (.gleave g) avTS [g] [] (fun u x s vg _ _ =>
    match groupKey x vg with
    | .error t => .trap t
    | .ok k => .done (s.leaveGroup (memberOf u x) k)) s

/-- A member's arrival: the episode completes if it is the last, else the unit waits (R371). -/
def State.arrive (s : State) (u k : Nat) : Res :=
  let x := s.group k
  let arrived := x.arrived ++ [u]
  if x.members.all (fun m => arrived.contains m) then
    .done (x.arrived.foldl (fun s m => s.unblockMember m) { s with groups := Tab.put s.groups k { x with arrived := [] } })
  else .block { s with groups := Tab.put s.groups k { x with arrived := arrived } } (.barrier k)

def execGbar (scope : Scope) (g : Src) (s : State) : Host.Outcome State Fault Refusal :=
  runUnit (.gbar scope g) avTS [g] [] (fun u x s vg _ _ =>
    match groupKey x vg with
    | .error t => .trap t
    | .ok k =>
      if !(s.group k).members.contains (memberOf u x) then .trap (illegal 2)
      else if s.performedAt u scope then s.arrive (memberOf u x) k
      else .wait s 0) s

/-- PRIO (R39, R407): the unit cannot rank itself above its queue. -/
def Unit.setBclass (x : Unit) (v : Nat) : Unit :=
  { x with sys := { x.sys with bclass := BitVec.ofNat 2 (max v x.qclass.toNat) } }

def execPrio (cls : Src) (s : State) : Host.Outcome State Fault Refusal :=
  runUnit (.prio cls) avTS [cls] [] (fun u _ s vc _ _ =>
    if 3 < vc.toNat then .trap (illegal 2) else .done (s.onUnit u (fun y => y.setBclass vc.toNat))) s

end Sys2Proof.Machine
end

