-- ==== Sys2Proof/Machine/Control.lean ====
section
/-! DEFINITION. Control flow and system registers: BR to LOOP, the return-address store, TRAP, BKPT, ERET, SYSRD, SYSWR,
HALT and WAIT (R47, R65, R231 to R235, R335, R336, R339, R358, R372, R384, R413, R436, R441, R447). -/
namespace Sys2Proof.Machine

/-! ### Targets -/

/-- PC + SignExtend(IMM22), where it lies in the store. -/
def relTarget (u pc : Nat) (imm : BitVec 22) : Option Nat :=
  let t := (pc : Int) + asInt 22 imm.toNat
  if 0 ≤ t && t < storeSize u then some t.toNat else none

/-- An absolute word address, where it lies in the store. -/
def absTarget (u : Nat) (v : W64) : Option Nat := if v.toNat < storeSize u then some v.toNat else none

/-- A transfer to a target; one outside the store is ILLEGAL with DETAIL 4 (R27). -/
def goto (s : State) (t : Option Nat) : Res :=
  match t with
  | some pc => .jump s pc
  | none => .trap (illegal 4)

def execBr (imm : BitVec 22) (s : State) : Host.Outcome State Fault Refusal :=
  runUnit (.br imm) avSD [] [] (fun u x s _ _ _ => goto s (relTarget u x.pc imm)) s

def execBri (a : Src) (s : State) : Host.Outcome State Fault Refusal :=
  runUnit (.bri a) avSD [a] [] (fun u _ s va _ _ => goto s (absTarget u va)) s

/-! ### The return-address store (R235) -/

/-- The offset that SY.RSPILL names, and the limit. -/
def spillOff (u : Nat) (x : Unit) : Nat := if isCore u then fld x.sys.rspill.toNat 0 20 else hOff x.sys.rspill
def spillLimit (u : Nat) (x : Unit) : Nat := fld x.sys.rslimit.toNat 0 (if isCore u then 20 else 16)

/-- SY.RSPILL with another offset. -/
def withSpillOff (u : Nat) (w : W64) (o : Nat) : W64 :=
  if isCore u then w64 (w.toNat - fld w.toNat 0 20 + o % 2 ^ 20) else withOff w o

/-- STACK_LIMIT with SY.RSPILL's value in SY.FADDR (R233). -/
def stackLimit (x : Unit) : Trap := ⟨.stackLimit, 0, x.sys.rspill⟩

/-- The block behind SY.RSPILL of a fabric unit. -/
def State.spillBlock (s : State) (x : Unit) : Except Trap Block := s.needBlock x.ctx x.sys.rspill

/-- Word `v` stored to the spill slot at an offset. -/
def State.spillStore (s : State) (u : Nat) (x : Unit) (o v : Nat) : Except Trap State :=
  let bs := wordBytes 8 o (w64 v)
  if isCore u then .ok ((s.noteLocal u (bs.map (·.1))).localPut (coreOf u) bs)
  else match s.spillBlock x with
    | .error t => .error t
    | .ok b => .ok ((s.noteOor u x.sys.rspill b (bs.map (·.1))).blockPut (hStn x.sys.rspill) b bs)

/-- The word in the spill slot at an offset. -/
def State.spillLoad (s : State) (u : Nat) (x : Unit) (o : Nat) : Except Trap (State × Nat) :=
  let os := (List.range 8).map (o + ·)
  if isCore u then .ok (s.noteLocal u os, ofBytes (s.localBytes (coreOf u) o 8))
  else match s.spillBlock x with
    | .error t => .error t
    | .ok b => .ok (s.noteOor u x.sys.rspill b os, s.blockNat (hStn x.sys.rspill) b o 8)

/-- A return address pushed: with 16 entries held, the oldest is spilled first. It has the 15 bits of a PC: behind the last
word of a depot core's store, 32,768 is pushed as 0 (DESIGN CHOICE, log entry 80). -/
def State.pushReturn (s : State) (u : Nat) (x : Unit) (a : Nat) : Except Trap State :=
  let top := BitVec.ofNat 15 a
  if x.rstack.length < 16 then .ok (s.onUnit u (fun y => { y with rstack := top :: y.rstack }))
  else
    let o := spillOff u x
    if spillLimit u x < o + 8 then .error (stackLimit x)
    else match s.spillStore u x o (x.rstack.getLastD 0).toNat with
      | .error t => .error t
      | .ok s => .ok (s.onUnit u (fun y => { y with
          rstack := top :: y.rstack.dropLast
          sys := { y.sys with rspill := withSpillOff u y.sys.rspill (o + 8), spilled := y.sys.spilled + 1 } }))

/-- A return address popped: from the store, or with none held from the spill area. -/
def State.popReturn (s : State) (u : Nat) (x : Unit) : Except Trap (State × Nat) :=
  match x.rstack with
  | a :: t => .ok (s.onUnit u (fun y => { y with rstack := t }), a.toNat)
  | [] =>
    if x.sys.spilled = 0 then .error (trapOf .retEmpty)
    else
      let o := (spillOff u x + (if isCore u then 2 ^ 20 else 2 ^ 16) - 8) % (if isCore u then 2 ^ 20 else 2 ^ 16)
      match s.spillLoad u x o with
      | .error t => .error t
      | .ok (s, v) => .ok (s.onUnit u (fun y => { y with
          sys := { y.sys with rspill := withSpillOff u y.sys.rspill o, spilled := y.sys.spilled - 1 } }), v % 2 ^ 15)

/-- CALL and CALLI: the target is checked before the push (R339). -/
def callTo (u : Nat) (x : Unit) (s : State) (t : Option Nat) : Res :=
  match t with
  | none => .trap (illegal 4)
  | some pc =>
    match s.pushReturn u x (x.pc + 1) with
    | .error t => .trap t
    | .ok s => .jump s pc

def execCall (imm : BitVec 22) (s : State) : Host.Outcome State Fault Refusal :=
  runUnit (.call imm) avSD [] [] (fun u x s _ _ _ => callTo u x s (relTarget u x.pc imm)) s

def execCalli (a : Src) (s : State) : Host.Outcome State Fault Refusal :=
  runUnit (.calli a) avSD [a] [] (fun u x s va _ _ => callTo u x s (absTarget u va)) s

def execRet (s : State) : Host.Outcome State Fault Refusal :=
  runUnit .ret avSD [] [] (fun u x s _ _ _ =>
    match s.popReturn u x with
    | .error t => .trap t
    | .ok (s, a) => goto s (absTarget u (w64 a))) s

/-! ### LOOP (R47, R233, R384) -/

/-- The count after a LOOP, whose count register a later discard saves. -/
def Unit.countDown (x : Unit) (n : SReg) : Unit := { x.setS n (x.sReg n - 1) with lastLoop := some n }

/-- LOOP: its target is a branch target, and looked at, only where it branches (R27, R47, R384; DEDUCED, log entry 45). -/
def execLoop (sn : SReg) (imm : BitVec 22) (s : State) : Host.Outcome State Fault Refusal :=
  runUnit (.loop sn imm) avSD [.s sn] [.s sn] (fun u x s _ _ _ =>
    let s := s.onUnit u (fun y => y.countDown sn)
    if x.sReg sn - 1 = 0 then .jump s (x.pc + 1) else goto s (relTarget u x.pc imm)) s

/-! ### TRAP, BKPT and ERET -/

def execTrap (n : BitVec 6) (s : State) : Host.Outcome State Fault Refusal :=
  runUnit (.trap n) avSD [] [] (fun _ _ _ _ _ _ => .trap ⟨.trap, n.toNat, 0⟩) s

def execBkpt (n : BitVec 6) (s : State) : Host.Outcome State Fault Refusal :=
  runUnit (.bkpt n) avSD [] [] (fun _ _ _ _ _ _ => .trap ⟨.bkpt, n.toNat, 0⟩) s

def execEret (s : State) : Host.Outcome State Fault Refusal :=
  runUnit .eret avSD [] [] (fun u x s _ _ _ =>
    if !x.sys.hm then .trap (illegal 5)
    else if storeSize u ≤ x.returnFromHandler.pc then .trap (illegal 4)
    else .jump (s.onUnit u Unit.returnFromHandler) x.returnFromHandler.pc) s

/-! ### System registers (R65, R231 to R233, R436) -/

/-- The invocation at the commit index of the unit's region is unrevocable; a depot core has none. -/
def State.unrevNow (s : State) (u : Nat) (x : Unit) : Bool :=
  !isCore u && s.unrevocable x.region (s.commitIndex x.region)

/-- SY.STATUS (R232). -/
def statusWord (x : Unit) (unrev : Bool) : W64 :=
  w64 (b2n x.sys.replay * 2 ^ 36 + b2n unrev * 2 ^ 35 + b2n x.sys.hm * 2 ^ 33 + b2n x.sys.hen * 2 ^ 32 + x.sys.hvec.toNat)

/-- The value of a system register. -/
def State.sysRead (s : State) (u : Nat) (x : Unit) : SysReg → W64
  | .cause => x.sys.cause
  | .faddr => x.sys.faddr
  | .ivec => x.sys.ivec
  | .oor => x.sys.oor
  | .epc => x.sys.epc
  | .status => statusWord x (s.unrevNow u x)
  | .prio => w64 (s.eclassOf u x * 4 + x.sys.bclass.toNat)
  | .nstn => w64 x.nstn
  | .rsdepth => w64 (x.sys.spilled.toNat * 32 + x.rstack.length)
  | .rspill => x.sys.rspill
  | .rslimit => x.sys.rslimit
  | .migth => (s.part x.part).migth.setWidth 64
  | .part => x.sys.partNo.getD (w64 x.part)

/-- SY.CAUSE without its reserved bits (R231). -/
def causeMask : W64 := 0x0000000000F0FFFF#64

/-- A system register of the unit written whole, but for its read-only and reserved fields. -/
def Unit.sysWrite (x : Unit) (r : SysReg) (v : W64) : Unit :=
  match r with
  | .cause => { x with sys := { x.sys with cause := v &&& causeMask } }
  | .oor => { x with sys := { x.sys with oor := v } }
  | .epc => { x with sys := { x.sys with epc := w64 (v.toNat % 2 ^ 15) } }
  | .status => { x with sys := { x.sys with hen := v.getLsbD 32, hvec := v.setWidth 15 } }
  | .prio => x.setBclass (v.toNat % 4)
  | .rspill => { x with sys := { x.sys with rspill := v } }
  | .rslimit => { x with sys := { x.sys with rslimit := v } }
  | .faddr | .ivec | .nstn | .rsdepth | .migth | .part => x

def execSysrd (reg : SysReg) (d : SReg) (s : State) : Host.Outcome State Fault Refusal :=
  runUnit (.sysrd reg d) avSD [] [.s d] (fun u x s _ _ _ => .write s (.s d) 0 (s.sysRead u x reg) 1) s

/-- A write to a read-only register, or to SY.MIGTH outside the pager configuration and firmware contexts, is a reserved
encoding (R65). -/
def execSyswr (reg : SysReg) (a : Src) (s : State) : Host.Outcome State Fault Refusal :=
  runUnit (.syswr reg a) avSD [a] [] (fun u x s va _ _ =>
    if !reg.writable || (reg == .migth && !s.privileged u x) then .trap (illegal 0)
    else if reg == .migth then .done (s.setPart x.part { s.part x.part with migth := va.setWidth 16 })
    else .done (s.onUnit u (fun y => y.sysWrite reg va))) s

/-! ### HALT and WAIT -/

def execHalt (s : State) : Host.Outcome State Fault Refusal :=
  runUnit .halt avSD [] [] (fun u _ s _ _ _ => .done (s.onUnit u (fun y => { y with halted := true }))) s

/-- WAIT.CYC blocks until the unit's clock has run on; WAIT.LAND until a landing that follows its issue; WAIT.DCNT until
DCOUNT is large enough. A depot kind in a fabric unit is a reserved encoding. -/
def execWait (kind : WaitKind) (a : Src) (s : State) : Host.Outcome State Fault Refusal :=
  runUnit (.wait kind a) avSD [a] [] (fun u _ s va _ phase =>
    match kind with
    | .cyc =>
      if va.toNat % 2 ^ 32 = 0 then .done s else .block s (.waitCyc (s.clockOf u + va.toNat % 2 ^ 32))
    | .land =>
      let n := w64 (s.core (coreOf u)).landings
      if !isCore u then .trap (illegal 0)
      else if phase = 0 then .waitWith s 1 [n]
      else if s.cur.words.getD 0 0 = n then .wait s 1
      else .done s
    | .dcnt =>
      if !isCore u then .trap (illegal 0)
      else if va.toNat ≤ (s.core (coreOf u)).dcount then .done s
      else .wait s 0) s

end Sys2Proof.Machine
end

