-- ==== Sys2Proof/Machine/IntLane.lean ====
section
/-! DEFINITION. NOP and the integer lane operations: the mould of R326 with the operations of R326, R354, R385 and R418,
and CMP (R342). -/
namespace Sys2Proof.Machine

/-- The 64-bit value that an S register or an output channel takes from a lane result: lane 0, or lanes 1 and 0 for a
64-bit type (R26, R51). -/
def scalarOf (w vec : Nat) : W64 := w64 (if w = 64 then vec else vec % 2 ^ 32)

/-- A lane operation of two operands: `f` on the patterns of each value position (R326, R361). -/
def laneOp2 (i : Instr) (w : Nat) (imm : BitVec 7 → Nat) (cyc : Nat) (f : Nat → Nat → Nat) (d : Dst) (a b : Src) :
    State → Host.Outcome State Fault Refusal :=
  runUnit i avTSD [a, b] [d] (fun u x s _ _ _ =>
    let va := s.laneVec u x w imm a
    let vb := s.laneVec u x w imm b
    let vec := vecMk w (x.count w) (fun v => f (valAt w va v) (valAt w vb v))
    .write s d vec (scalarOf w vec) cyc)

/-- A lane operation of one operand. -/
def laneOp1 (i : Instr) (w : Nat) (imm : BitVec 7 → Nat) (cyc : Nat) (f : Nat → Nat) (d : Dst) (a : Src) :
    State → Host.Outcome State Fault Refusal :=
  runUnit i avTSD [a] [d] (fun u x s _ _ _ =>
    let va := s.laneVec u x w imm a
    let vec := vecMk w (x.count w) (fun v => f (valAt w va v))
    .write s d vec (scalarOf w vec) cyc)

/-- A lane operation that reads its destination too (R52, R418). -/
def laneOp3 (i : Instr) (w : Nat) (imm : BitVec 7 → Nat) (cyc : Nat) (f : Nat → Nat → Nat → Nat) (d : Dst) (a b : Src) :
    State → Host.Outcome State Fault Refusal :=
  runUnit i avTSD [a, b] [d] (fun u x s _ _ _ =>
    let va := s.laneVec u x w imm a
    let vb := s.laneVec u x w imm b
    let vc := s.dstVec u x w d
    let vec := vecMk w (x.count w) (fun v => f (valAt w va v) (valAt w vb v) (valAt w vc v))
    .write s d vec (scalarOf w vec) cyc)

/-- The cycles of an operation with two figures: 32 bits or narrower, and 64 bits (R354, R385). -/
def cycOf (t : IntTy) (narrowCyc wideCyc : Nat) : Nat := if t.width = 64 then wideCyc else narrowCyc

/-! ### The operations, on the patterns of one value position -/

/-- An exact operation on integers, clamped or wrapped to the type (R326). -/
def exact2 (t : IntTy) (sat : Bool) (op : Int → Int → Int) (a b : Nat) : Nat := narrow t sat (op (t.read a) (t.read b))

/-- The quotient truncated towards zero; all ones for a division by zero (R354). -/
def divVal (t : IntTy) (sat : Bool) (a b : Nat) : Nat :=
  if t.read b = 0 then 2 ^ t.width - 1 else narrow t sat (Int.tdiv (t.read a) (t.read b))

/-- The remainder, with the sign of `a`; `a` for a division by zero (R385). -/
def remVal (t : IntTy) (a b : Nat) : Nat :=
  if t.read b = 0 then a else narrow t false (Int.tmod (t.read a) (t.read b))

/-- The upper half of the exact product (R385). -/
def mulhVal (t : IntTy) (a b : Nat) : Nat :=
  narrow t false ((t.read a * t.read b) / ((2 ^ t.width : Nat) : Int))

/-- a · 2^b exactly, then clamped or wrapped (R418). A shift of more than 2·w acts as one of 2·w: the product is then 0
for a = 0 and far out of range, with w low zero bits, otherwise. -/
def shlVal (t : IntTy) (sat : Bool) (a b : Nat) : Nat :=
  narrow t sat (t.read a * ((2 ^ min b (2 * t.width) : Nat) : Int))

/-- The pattern shifted right with zero fill (R418). -/
def shrVal (w a b : Nat) : Nat := if w ≤ b then 0 else a >>> b

/-- Floor(a ÷ 2^b) (R418). -/
def sraVal (t : IntTy) (a b : Nat) : Nat := narrow t false (t.read a / ((2 ^ min b t.width : Nat) : Int))

/-- The pattern rotated left (R385). -/
def rotVal (w a b : Nat) : Nat := let k := b % w; (a <<< k) % 2 ^ w + a >>> (w - k)

/-- CMP's condition (R342). -/
def condHolds (c : Cond) (a b : Int) : Bool :=
  match c with
  | .eq => decide (a = b)
  | .ne => decide (a ≠ b)
  | .lt => decide (a < b)
  | .le => decide (a ≤ b)
  | .gt => decide (b < a)
  | .ge => decide (b ≤ a)

/-! ### The instructions -/

/-- NOP (R398). -/
def execNop (s : State) : Host.Outcome State Fault Refusal := runUnit .nop avTSD [] [] (fun _ _ s _ _ _ => .done s) s

def execAdd (t : IntTy) (sat : Bool) (d : Dst) (a b : Src) (s : State) : Host.Outcome State Fault Refusal :=
  laneOp2 (.add t sat d a b) t.width (immInt t.width) 1 (exact2 t sat (· + ·)) d a b s

def execSub (t : IntTy) (sat : Bool) (d : Dst) (a b : Src) (s : State) : Host.Outcome State Fault Refusal :=
  laneOp2 (.sub t sat d a b) t.width (immInt t.width) 1 (exact2 t sat (· - ·)) d a b s

def execMul (t : IntTy) (sat : Bool) (d : Dst) (a b : Src) (s : State) : Host.Outcome State Fault Refusal :=
  laneOp2 (.mul t sat d a b) t.width (immInt t.width) (cycOf t 1 2) (exact2 t sat (· * ·)) d a b s

def execMulh (t : IntTy) (d : Dst) (a b : Src) (s : State) : Host.Outcome State Fault Refusal :=
  laneOp2 (.mulh t d a b) t.width (immInt t.width) (cycOf t 1 2) (mulhVal t) d a b s

def execMad (t : IntTy) (sat : Bool) (d : Dst) (a b : Src) (s : State) : Host.Outcome State Fault Refusal :=
  laneOp3 (.mad t sat d a b) t.width (immInt t.width) (cycOf t 1 2)
    (fun p q c => narrow t sat (t.read p * t.read q + t.read c)) d a b s

def execDiv (t : IntTy) (sat : Bool) (d : Dst) (a b : Src) (s : State) : Host.Outcome State Fault Refusal :=
  laneOp2 (.div t sat d a b) t.width (immInt t.width) (cycOf t 8 16) (divVal t sat) d a b s

def execRem (t : IntTy) (d : Dst) (a b : Src) (s : State) : Host.Outcome State Fault Refusal :=
  laneOp2 (.rem t d a b) t.width (immInt t.width) (cycOf t 8 16) (remVal t) d a b s

def execAbs (t : IntTy) (sat : Bool) (d : Dst) (a : Src) (s : State) : Host.Outcome State Fault Refusal :=
  laneOp1 (.abs t sat d a) t.width (immInt t.width) 1 (fun p => narrow t sat (t.read p).natAbs) d a s

def execMin (t : IntTy) (d : Dst) (a b : Src) (s : State) : Host.Outcome State Fault Refusal :=
  laneOp2 (.min t d a b) t.width (immInt t.width) 1 (exact2 t false min) d a b s

def execMax (t : IntTy) (d : Dst) (a b : Src) (s : State) : Host.Outcome State Fault Refusal :=
  laneOp2 (.max t d a b) t.width (immInt t.width) 1 (exact2 t false max) d a b s

def execAnd (t : IntTy) (d : Dst) (a b : Src) (s : State) : Host.Outcome State Fault Refusal :=
  laneOp2 (.and t d a b) t.width (immInt t.width) 1 (· &&& ·) d a b s

def execOr (t : IntTy) (d : Dst) (a b : Src) (s : State) : Host.Outcome State Fault Refusal :=
  laneOp2 (.or t d a b) t.width (immInt t.width) 1 (· ||| ·) d a b s

def execXor (t : IntTy) (d : Dst) (a b : Src) (s : State) : Host.Outcome State Fault Refusal :=
  laneOp2 (.xor t d a b) t.width (immInt t.width) 1 (· ^^^ ·) d a b s

def execShl (t : IntTy) (sat : Bool) (d : Dst) (a b : Src) (s : State) : Host.Outcome State Fault Refusal :=
  laneOp2 (.shl t sat d a b) t.width (immInt t.width) 1 (shlVal t sat) d a b s

def execShr (t : IntTy) (d : Dst) (a b : Src) (s : State) : Host.Outcome State Fault Refusal :=
  laneOp2 (.shr t d a b) t.width (immInt t.width) 1 (shrVal t.width) d a b s

def execSra (t : IntTy) (d : Dst) (a b : Src) (s : State) : Host.Outcome State Fault Refusal :=
  laneOp2 (.sra t d a b) t.width (immInt t.width) 1 (sraVal t) d a b s

def execRot (t : IntTy) (d : Dst) (a b : Src) (s : State) : Host.Outcome State Fault Refusal :=
  laneOp2 (.rot t d a b) t.width (immInt t.width) 1 (rotVal t.width) d a b s

def execClz (t : IntTy) (d : Dst) (a : Src) (s : State) : Host.Outcome State Fault Refusal :=
  laneOp1 (.clz t d a) t.width (immInt t.width) 1 (clzNat t.width) d a s

def execPopc (t : IntTy) (d : Dst) (a : Src) (s : State) : Host.Outcome State Fault Refusal :=
  laneOp1 (.popc t d a) t.width (immInt t.width) 1 (popNat t.width) d a s

def execSel (t : IntTy) (d : Dst) (a b : Src) (s : State) : Host.Outcome State Fault Refusal :=
  laneOp3 (.sel t d a b) t.width (immInt t.width) 1 (fun p q c => if c ≠ 0 then p else q) d a b s

/-- The value of value position 0, where the destination is a predicate; else every position's. -/
def predVec (w : Nat) (d : Dst) (vec : Nat) : Nat :=
  match d with
  | .p _ => vec % 2 ^ w
  | _ => vec

/-- CMP. A predicate gets the condition of value position 0, in the 8-bit and 16-bit types too (R342; DEDUCED, log entry
100). -/
def execCmp (t : IntTy) (cond : Cond) (d : Dst) (a b : Src) (s : State) : Host.Outcome State Fault Refusal :=
  runUnit (.cmp t cond d a b) avTSD [a, b] [d] (fun u x s _ _ _ =>
    let va := s.laneVec u x t.width (immInt t.width) a
    let vb := s.laneVec u x t.width (immInt t.width) b
    let vec := vecMk t.width (x.count t.width) (fun v =>
      b2n (condHolds cond (t.read (valAt t.width va v)) (t.read (valAt t.width vb v))))
    .write s d (predVec t.width d vec) (scalarOf t.width (predVec t.width d vec)) 1) s

end Sys2Proof.Machine
end

