-- ==== Sys2Proof/Machine/Convert.lean ====
section
/-! DEFINITION. Conversion and packing: CVT and QCVT with the converter counters (R107 to R110, R116, R350, R409), PACK
and UNPK (R400, R445). -/
namespace Sys2Proof.Machine

/-- The conversions that are written to a V destination: those of value positions in live lanes (R116). A 64-bit value
counts where either lane of its pair is live: R116 does not say (DESIGN CHOICE, log entry 98). -/
def writtenConvs (x : Unit) (w n : Nat) (f : Nat → Conv) : List Conv :=
  ((List.range n).filter (fun v =>
    if w = 64 then x.live (2 * v) || x.live (2 * v + 1) else x.live (v * w / 32))).map f

/-- `n` converted values of width `w` written to their destination (R107, R116): a V register's lanes at or beyond the
last value keep their contents; an S register or an output channel takes lane 0, or lanes 1 and 0. -/
def convWrite (u : Nat) (s : State) (d : Dst) (w n : Nat) (f : Nat → Conv) : Res :=
  let vec := vecMk w n (fun v => (f v).bits)
  match d with
  | .v r =>
    .done (s.onUnit u (fun x =>
      (x.setLanes r (x.lm &&& allLive (n * w / 32)) vec (List.range x.lanes)).countConv (writtenConvs x w n f)))
  | d =>
    .write (s.onUnit u (fun x => x.countConv ((List.range (if w = 64 then 1 else 32 / w)).map f))) d vec
      (scalarOf w vec) 1

def execCvt (dt : Ty) (r : Rnd) (st : Ty) (sat : Bool) (d : Dst) (a : Src) (s : State) :
    Host.Outcome State Fault Refusal :=
  runUnit (.cvt dt r st sat d a) avTSD [a] [d] (fun u x s _ _ _ =>
    let va := s.laneVec u x (tyWidth st) (immTy st) a
    let n := x.lanes * 32 / max (tyWidth dt) (tyWidth st)
    convWrite u s d (tyWidth dt) n (fun v => convert dt r st sat (valAt (tyWidth st) va v))) s

def execQcvt (ft : F8) (r : Rnd) (d : Dst) (a scale : Src) (s : State) : Host.Outcome State Fault Refusal :=
  runUnit (.qcvt ft r d a scale) avTSD [a, scale] [d] (fun u x s _ _ _ =>
    let va := s.laneVec u x 32 (immFl Fmt.fp32) a
    let vs := s.laneVec u x 32 (immInt 32) scale
    convWrite u s d 8 x.lanes (fun v => quantize ft r (valAt 32 va v) (valAt 32 vs v))) s

/-- The type of twice the width and the same sign rule (R400, R445), read as an exact integer. -/
def readWide (t : IntTy) (p : Nat) : Int :=
  if t.signed then asInt (2 * t.width) p else ((p % 2 ^ (2 * t.width) : Nat) : Int)

def execPack (t : IntTy) (sat : Bool) (d a b : VReg) (s : State) : Host.Outcome State Fault Refusal :=
  runUnit (.pack t sat d a b) avTSD [.v a, .v b] [.v d] (fun _ x s _ _ _ =>
    let w := t.width
    let n := x.count w
    let vec := vecMk w n (fun v =>
      narrow t sat (readWide t (if v < n / 2 then valAt (2 * w) (x.vVec a) v else valAt (2 * w) (x.vVec b) (v - n / 2))))
    .write s (.v d) vec 0 1) s

def execUnpk (t : IntTy) (hi : Bool) (d a : VReg) (s : State) : Host.Outcome State Fault Refusal :=
  runUnit (.unpk t hi d a) avTSD [.v a] [.v d] (fun _ x s _ _ _ =>
    let w := t.width
    let n := x.lanes * 32 / (2 * w)
    let vec := vecMk (2 * w) n (fun v => wrapInt (2 * w) (t.read (valAt w (x.vVec a) (v + if hi then n else 0))))
    .write s (.v d) vec 0 1) s

end Sys2Proof.Machine
end

