-- ==== Sys2Proof/Machine/Depot.lean ====
section
/-! DEFINITION. The instructions of a depot core: VLD, VST, VGATH, KVWALK, TRIPLE and MBXRD (R279 to R287). -/
namespace Sys2Proof.Machine

/-! ### VLD and VST (R282) -/

/-- The offsets of the bytes of the live lanes, from `a` on. -/
def laneOffs (x : Unit) (a : Nat) : List Nat :=
  (liveLanes x x.lm).flatMap (fun j => (List.range 4).map (fun i => a + 4 * j + i))

/-- The bytes of a VST by their place from its address. -/
def vstBytes (x : Unit) (vs : VReg) : List (Nat × Byte) :=
  (liveLanes x x.lm).flatMap (fun j => laneBytes (4 * j) (x.vLane vs j))

/-- Every piece of the 256 bytes, with the bytes that it stores; a piece without live lanes is translated too. -/
def vstPieces (a : Nat) (bs : List (Nat × Byte)) : List Piece :=
  (eventsOf a 256).map (fun e =>
    ⟨e.1, e.2, (bs.filter (fun b => decide (e.1 ≤ a + b.1) && decide (a + b.1 < e.1 + e.2))).map
      (fun b => (a + b.1 - e.1, b.2))⟩)

def execVld (loc : Bool) (d : VReg) (sa : SReg) (s : State) : Host.Outcome State Fault Refusal :=
  runUnit (.vld loc d sa) avD [.s sa] [.v d] (fun u x s va _ _ =>
    if va.toNat % 4 != 0 then .trap (misaligned va)
    else if loc then
      .write (s.noteLocal u (laneOffs x va.toNat)) (.v d) (ofBytes (s.localBytes (coreOf u) va.toNat 256)) 0 1
    else match s.translateAccess u x wantRead true (loadPieces va.toNat 256) with
      | (s, .fault t) => .portFault s 0 t
      | (s, .hold h) => .hold s 0 h
      | (s, .ok evs) => loadRes true [(evs, .v d x.lm)] (s.sendLoads u true [(evs, .v d x.lm)])) s

def execVst (loc : Bool) (sa : SReg) (vs : VReg) (s : State) : Host.Outcome State Fault Refusal :=
  runUnit (.vst loc sa vs) avD [.s sa, .v vs] [] (fun u x s va _ _ =>
    if va.toNat % 4 != 0 then .trap (misaligned va)
    else if loc then
      .done ((s.noteLocal u (laneOffs x va.toNat)).localPut (coreOf u)
        ((vstBytes x vs).map (fun b => (va.toNat + b.1, b.2))))
    else match s.translateAccess u x wantWrite true (vstPieces va.toNat (vstBytes x vs)) with
      | (s, .fault t) => .portFault s 0 t
      | (s, .hold h) => .hold s 0 h
      | (s, .ok evs) =>
        let evs := evs.filter (fun e => !e.wr.isEmpty)
        .done (if evs.isEmpty then s else (s.send u (.access evs none .none)).1)) s

/-- An event of a depot core's stack access: below the L2 (R281, R182); a write to a DEPOT page sends an invalidation to
the home slice and is complete when that has acknowledged (R159). A pinned line and one being filled stay, with the new
bytes (R155). -/
def State.depotEvent (s : State) (u p : Nat) (e : Event) : EvAns :=
  if e.wr.isEmpty then .done (s.noteRead u e.loc) (Memory.bytes s.dram e.loc.addr e.n)
  else
    let key := s.keyOf p e.loc
    match s.line? key with
    | some x =>
      if !x.pins.isEmpty || x.kind == .filling then
        .done (s.homeWrite p e.loc 0 true (e.wr.map (fun b => ((e.loc.addr + b.1) % 128, b.2))) [u]) []
      else
        let s := ((s.writeBack key).dropLine key).invalidate (e.loc.addr / 128) [u]
        .done (s.rawWrite .device (e.wr.map (fun b => (e.loc.addr + b.1, b.2)))) []
    | none =>
      .done ((s.rawWrite .device (e.wr.map (fun b => (e.loc.addr + b.1, b.2)))).invalidate (e.loc.addr / 128) [u]) []

/-! ### VGATH and KVWALK (R284, R285) -/

/-- Four bytes below the L2 at an address translated as a stack access. -/
def stackWord (u : Nat) (x : Unit) (va : Nat) : KvM Nat := fun s =>
  match s.translateFor u x va 1 wantRead true with
  | (s, .ok loc _ _ _) => .ok (ofBytes (Memory.bytes s.dram loc.addr 4)) (s.noteRead u loc)
  | (_, .fault t) => .fault t
  | (_, .invalid level) => .hold va level 0 false
  | (_, .wb) => .hold va 0 0 true

/-- The value of a lane; `none` where the descriptor or the group is poisoned. -/
def vgathLane (u : Nat) (x : Unit) (d w0 slices tokb sl off idx : Nat) : KvM (Option Nat) :=
  if !sdLive w0 || 2 ^ 21 ≤ idx || sdLen w0 ≤ idx || slices ≤ sl || tokb ≤ off then KvM.pure (some 0)
  else ((kvEnv u x).tokenAt d w0 tokb sl idx).bind (fun r =>
    match r with
    | .addr va => (stackWord u x (va + off)).bind (fun v => KvM.pure (some v))
    | _ => KvM.pure none)

/-- The live lanes in ascending order, each with its value. -/
def vgathLanes (lane : Nat → KvM (Option Nat)) : List Nat → KvM (Option (List (Nat × Nat)))
  | [] => KvM.pure (some [])
  | j :: t => (lane j).bind (fun r =>
      match r with
      | none => KvM.pure none
      | some v => (vgathLanes lane t).bind (fun rest => KvM.pure (rest.map (fun l => (j, v) :: l))))

def vgathAll (u : Nat) (x : Unit) (d sel : Nat) (vt : VReg) : KvM (Option (List (Nat × Nat))) :=
  ((kvEnv u x).q d).bind (fun w0 => ((kvEnv u x).model d).bind (fun m =>
    vgathLanes (fun j => vgathLane u x d w0 m.1 m.2 (fld sel 32 6) (fld sel 0 12) (x.vLane vt j).toNat)
      (liveLanes x x.lm)))

/-- Sn+1 is sound: a slice, an offset that is a multiple of 4, and no other bit. -/
def vgathSel (sel : Nat) : Bool := sel == fld sel 32 6 * 2 ^ 32 + fld sel 0 12 && fld sel 0 12 % 4 == 0

def execVgath (d : VReg) (sn : SReg) (vt : VReg) (s : State) : Host.Outcome State Fault Refusal :=
  runUnit (.vgath d sn vt) avD [.s sn, .v vt, .s (pairOf sn)] [.v d] (fun u x s vd _ _ =>
    if !vgathSel (x.sReg (pairOf sn)).toNat then .trap (illegal 2)
    else match kvAligned vd 128 with
      | some t => .trap t
      | none =>
        if !s.noPackets u then .wait s 0
        else match vgathAll u x vd.toNat (x.sReg (pairOf sn)).toNat vt s with
          | .ok (some vs) s => .done (s.onUnit u (fun y => vs.foldl (fun y l => y.setLane d l.1 (lane32 l.2)) y))
          | .ok none s => .portFault s 0 (kvPoisonTrap vd)
          | .fault t => .portFault s 0 t
          | .hold va level access wb => let (s, h) := s.withhold u x va level access wb; .hold s 0 h) s

/-- The page that an address lies in has its frame in a stack. -/
def State.frameIn (s : State) (x : Unit) (stack va : Nat) : Bool :=
  match s.walk x.ctx x.part va with
  | .leaf pte log2 => pteKind pte == .device && stackOf (pteFrame pte + va % 2 ^ log2) == stack
  | _ => false

def execKvwalk (d sdesc ssel : SReg) (s : State) : Host.Outcome State Fault Refusal :=
  runUnit (.kvwalk d sdesc ssel) avD [.s sdesc, .s ssel] [.s d] (fun u x s vd vs _ =>
    match kvAligned vd 128 with
    | some t => .trap t
    | none =>
      match (kvEnv u x).lookup vd.toNat vs.toNat s with
      | .ok (.status n) s => .write s (.s d) 0 (kvWord (n, 0)) 1
      | .ok (.addr va) s =>
        .write s (.s d) 0 (kvWord (kvOk, b2n (s.frameIn x (stackOfCore (coreOf u)) va) * 2 ^ 55 + va % 2 ^ 55)) 1
      | .ok .poison s => .portFault s 0 (kvPoisonTrap vd)
      | .fault t => .portFault s 0 t
      | .hold va level access wb => let (s, h) := s.withhold u x va level access wb; .hold s 0 h) s

/-! ### TRIPLE (R286, R287) -/

/-- The reserved bits of a landing word are 0. -/
def landingOk (w : Nat) : Bool := fld w 48 16 == 0 && fld w 0 30 == 0
def landingStn (w : Nat) : Nat := fld w 45 3 * 64 + fld w 39 6
def landingUnit (w : Nat) : Nat := landingStn w * 64 + fld w 33 6
def landingChan (w : Nat) : Nat := fld w 30 3

/-- The delivery path that a landing word names, with its region: one of the context that holds its stations and does not
drain (R286, R287). -/
def State.deliveryPath (s : State) (ctx w : Nat) : Option (Nat × Dest) :=
  ((s.station (landingStn w)).arcs.find? (fun a => a.2.path && a.2.unit == landingUnit w && a.2.ch == landingChan w
    && (match s.region? a.2.region with
        | some r => r.ctx == ctx && r.st != .draining && r.st != .released
        | none => false))).map (fun a =>
      (a.2.region, ⟨landingStn w, landingUnit w, landingChan w, a.1, a.2.floor⟩))

/-- The words of a triple's block: m, l, N, the core, zeros and the values, a dead lane as +0. -/
def tripleWords (x : Unit) (core : Nat) (ml : W64) (va : VReg) (wide : Bool) : List Lane :=
  let lanes := fun (r : VReg) => (List.range 64).map (fun j => if x.lm.getLsbD j then x.vLane r j else 0)
  [ml.setWidth 32, (ml >>> 32).setWidth 32, lane32 (if wide then 128 else 64), lane32 core, 0, 0, 0, 0]
    ++ lanes va ++ (if wide then lanes (va + 1) else [])

/-- The size class of a triple's block. -/
def tripleClassOf (words : List Lane) : Nat := if 72 < words.length then 5 else 4

/-- The region stands on its stations. -/
def State.isResident (s : State) (r : Nat) : Bool :=
  match s.region? r with
  | some x => x.st.resident
  | none => false

/-- A block of the region's shared pool and an inbox slot of the path taken for a triple in a cycle (R88). -/
def State.takeTriple (s : State) (cyc r : Nat) (p : Dest) (words : List Lane) : Option (State × W64) :=
  let st := (s.station p.station).settle cyc
  if st.hasGranted cyc (r + 1) then none
  else match st.grant r none (tripleClassOf words) 1 with
    | some (st, b) =>
      some ((s.setStation p.station ((st.markGrant cyc (r + 1)).grantSlot cyc p.entry)).noteGrant r,
        mkHandle b.gen.toNat p.station b.k b.first 0)
    | none => none

/-- A triple's request met as it is made: nothing of its class stands ahead of it (R88, R89). -/
def State.tripleNow (s : State) (c r : Nat) (p : Dest) (words : List Lane) : Option (State × W64) :=
  let cls := s.eclass (coreBase + c)
  let st := s.station p.station
  let now := s.stnNow p.station
  if s.isResident r && s.slotFree p cls && st.inOrder now (r + 1) p.entry
      && !(s.blockWaiters p.station r).any (fun e => decide (s.waitClass e.2 ≤ cls)) then
    (s.takeTriple now r p words).map (fun e =>
      (e.1.onStation p.station (fun st => st.arrive now (r + 1) p.entry), e.2))
  else none

/-- The block written and its token on its way along the path (R287). -/
def State.putTriple (s : State) (c : Nat) (p : Dest) (h : W64) (words : List Lane) : State :=
  let bs := words.flatMap (fun (w : Lane) => bytesOf 4 w.toNat)
  let s : State := match s.blockOf h with
    | some b => s.blockPut p.station b ((List.range b.bytes).map (fun i => (i, bs.getD i 0)))
    | none => s
  { s with flight := s.flight ++ [⟨some (coreBase + c), p, s.copyFor p (plainTok .dat h), true⟩] }

/-- A request enters the platform at its path's entry: it stands in the order of the region's blocks, and in that of the
inbox slots. -/
def State.queueTriple (s : State) (p : Dest) (w : WaitFor) : State :=
  let r := s.arcRegion p
  let now := s.stnNow p.station
  (s.noteWait r).onStation p.station (fun st => (st.arrive now 0 p.entry).enqueue now (r + 1) p.entry w)

/-- The core's TRIPLE still waits on the platform. -/
def State.tripleWaits (s : State) (c : Nat) : Bool :=
  s.stations.any (fun n => n.2.platform.any (fun e =>
    match e.2.what with
    | .triple k _ => k == c
    | _ => false))

/-- The request of a TRIPLE made (R287). -/
def tripleRequest (async : Bool) (c r : Nat) (p : Dest) (words : List Lane) (s : State) : Res :=
  let asyncAdd := fun (s : State) (h : Option W64) =>
    { s.onCore c (fun k => { k with async := k.async ++ [⟨s.ids, p, words, h⟩] }) with ids := s.ids + 1 }
  if async && decide (4 ≤ (s.core c).async.length) then .wait s 0
  else if (Tab.find (s.station p.station).platform p.entry).isSome then .wait s 0
  else match s.tripleNow c r p words with
    | some (s, h) => if async then .done (asyncAdd s (some h)) else .done (s.putTriple c p h words)
    | none =>
      if async then .done (asyncAdd (s.queueTriple p (.asyncTriple s.ids)) none)
      else .wait (s.queueTriple p (.triple c words)) 2

def execTriple (wide async : Bool) (va : VReg) (sn : SReg) (s : State) : Host.Outcome State Fault Refusal :=
  runUnit (.triple wide async va sn) avD
    ([.s sn, .s (pairOf sn), .v va] ++ (if wide then [.v (va + 1)] else [])) [] (fun u x s vl _ phase =>
    if phase = 2 && s.tripleWaits (coreOf u) then .wait s 2
    else if !landingOk vl.toNat then .trap (illegal 2)
    else match s.deliveryPath x.ctx vl.toNat with
      | none => .trap (trapOf .permission)
      | some (r, p) =>
        if phase = 0 && !s.performedAt u .package then .wait s 0
        else tripleRequest async (coreOf u) r p (tripleWords x (coreOf u) (x.sReg (pairOf sn)) va wide) s) s

/-! ### The mailbox (R279, R280) -/

/-- A message lands in an empty mailbox register; a landing in S15 overwrites what the kernel has written by then (R279,
R280). -/
def State.landMessage (s : State) (c n : Nat) (v : W64) (land : Bool) : State :=
  let s := s.onCore c (fun k => { k with
    m := Tab.set 0 k.m n v, full := k.full ||| BitVec.ofNat 8 (2 ^ n)
    landings := k.landings + b2n land })
  if land then (s.settleBusy (coreBase + c)).onUnit (coreBase + c) (fun x => x.setS 15 v) else s

/-- The held messages whose landing cycle lies before `lim` land (R279). -/
def State.landHeld (s : State) (c lim : Nat) : State :=
  ((s.core c).heldMsg.filter (fun e => !(s.core c).full.getLsbD e.1 && decide (e.2.2.2 < lim))).foldl (fun s e =>
    (s.onCore c (fun k => { k with heldMsg := Tab.del k.heldMsg e.1 })).landMessage c e.1 e.2.1 e.2.2.1) s

/-- The register emptied; a held message will land in the next cycle. -/
def State.emptyMailbox (s : State) (c n : Nat) : State :=
  s.onCore c (fun k => { k with
    full := k.full &&& ~~~(BitVec.ofNat 8 (2 ^ n))
    heldMsg := match Tab.find k.heldMsg n with
      | some (v, land, _) => Tab.put k.heldMsg n (v, land, s.coreNow c + 1)
      | none => k.heldMsg })

def execMbxrd (m : Fin 8) (d : SReg) (s : State) : Host.Outcome State Fault Refusal :=
  runUnit (.mbxrd m d) avD [] [.s d] (fun u _ s _ _ _ =>
    let c := coreOf u
    if (s.core c).full.getLsbD m.val then
      .done ((s.onUnit u (fun y => y.setS d (Tab.get (s.core c).m m.val 0))).emptyMailbox c m.val)
    else .wait s 0) s

end Sys2Proof.Machine
end

