-- ==== Sys2Proof/Machine/Pager.lean ====
section
/-! DEFINITION. The privileged instructions of the pager: PTEWR, TLBINV, MIGR and CNTRD (R191, R198 to R205, R343, R392,
R408, R438). -/
namespace Sys2Proof.Machine

/-! ### Withheld accesses handed back (R194, R202, R203) -/

/-- The withheld siding write of a queue: word 1 of its fault record and its address (R209, R213). -/
def Queue.writeHold (x : Queue) (q : Nat) : Option (W64 × Nat) :=
  if x.spill.isSome && !x.portWaits then some (faultWordSiding (qdCtx x.live) q 0 1, x.slotVa x.sidingNext) else none

/-- The withheld siding read of a queue. -/
def Queue.readHold (x : Queue) (q : Nat) : Option (W64 × Nat) :=
  if x.readback.isSome then x.siding.head?.map (fun e => (faultWordSiding (qdCtx x.live) q 0 0, x.slotVa e.1)) else none

/-- The withheld access, if any, is one that `pick` takes. -/
def picked (pick : W64 → Nat → Bool) (h : Option (W64 × Nat)) : Bool :=
  match h with
  | some (w1, va) => pick w1 va
  | none => false

/-- A blocked unit's withheld access handed back where `pick` takes its fault word and address. -/
def Unit.liftHold (x : Unit) (pick : W64 → Nat → Bool) : Unit :=
  match x.blocked with
  | some (.again i c) =>
    (match c.hold with
     | some h => if pick h.w1 h.va then { x with blocked := some (.again i { c with hold := none }) } else x
     | none => x)
  | some (.stream st) => { x with blocked := some (.stream { st with hold := st.hold.filter (fun h => !pick h.w1 h.va) }) }
  | _ => x

/-- The same of a copy channel. -/
def CopyChan.liftHold (c : CopyChan) (pick : W64 → Nat → Bool) : CopyChan :=
  match c.hold with
  | some h => if pick h.w1 h.va then { c with hold := none } else c
  | none => c

/-- The same of a junction's recovery fetch. -/
def Task.liftHold (t : Task) (pick : W64 → Nat → Bool) : Task :=
  match t.hold with
  | some (_, h) => if pick h.w1 h.va then { t with hold := none } else t
  | none => t

/-- A region that waits for service may resume once its record is served, or where the write-block bit withheld its access,
which posts none, once a TLBINV hands the access back (R197, R202, R241): one not yet switched out will not wait. -/
def Region.served (x : Region) (pick : W64 → Nat → Bool) (record : Bool) : Region :=
  match x.service with
  | some (_, h) =>
    if !pick h.w1 h.va || !(record || h.wb) then x
    else if x.st == .waitingService then { x with st := .saved, service := none }
    else { x with after := .saved, service := none }
  | none => x

/-- The context of a region. -/
def State.regionCtx (s : State) (r : Nat) : Nat :=
  match s.region? r with
  | some x => x.ctx
  | none => 0

/-- The withheld accesses that `pick` takes: place in the order of withholding, poster and agent. -/
def State.holdsAt (s : State) (pick : W64 → Nat → Bool) : List (Nat × Nat × Nat) :=
  let entry := fun (a : Nat) (h : Hold) => if pick h.w1 h.va then [(h.order, posterOf h.w1, a)] else []
  s.units.flatMap (fun e => match e.2.blocked with
      | some (.again _ c) => c.hold.toList.flatMap (entry e.1)
      | some (.stream st) => st.hold.toList.flatMap (entry e.1)
      | _ => [])
    ++ s.stations.flatMap (fun n => n.2.copies.flatMap (fun c => c.2.hold.toList.flatMap (entry (copyAgent n.1 c.1))))
    ++ s.junctions.flatMap (fun j => j.2.tasks.flatMap (fun t =>
        (t.hold.map (·.2)).toList.flatMap (entry (junctionAgent j.1))))
    ++ s.stations.flatMap (fun n => n.2.ports.flatMap (fun p => p.2.held.flatMap (fun h =>
        h.withheld.toList.flatMap (entry (heldAgent h.order)))))
    ++ s.partitions.flatMap (fun p => (p.2.evicting.bind (·.hold)).toList.flatMap (entry (engineAgent p.1))
        ++ p.2.poisons.flatMap (fun e => e.hold.toList.flatMap (entry (walkerAgent p.1 e.frame))))

/-- A list put in the order of its first components. -/
def byFirst {α : Type} : List (Nat × α) → List (Nat × α)
  | [] => []
  | e :: t =>
    let r := byFirst t
    r.takeWhile (fun f => decide (f.1 < e.1)) ++ e :: r.dropWhile (fun f => decide (f.1 < e.1))

/-- Withheld accesses handed back for repetition where `pick` takes the fault word of their poster and their address: of
units, of engines, of junctions, of held events, of sidings, of the eviction engine and the poison walker. They are repeated in
the order in which they were withheld. `record`: a record of them is served. -/
def State.liftHolds (s : State) (pick : W64 → Nat → Bool) (record : Bool) : State :=
  let s : State := { s with
    repeats := s.repeats ++ (byFirst (s.holdsAt pick)).map (·.2)
    partitions := s.partitions.map (fun p => (p.1, { p.2 with
      evicting := p.2.evicting.map (fun e => { e with hold := e.hold.filter (fun h => !pick h.w1 h.va) })
      poisons := p.2.poisons.map (fun e => { e with hold := e.hold.filter (fun h => !pick h.w1 h.va) }) }))
    units := s.units.map (fun e => (e.1, e.2.liftHold pick))
    regions := s.regions.map (fun r => (r.1, r.2.served pick record))
    junctions := s.junctions.map (fun j => (j.1, { j.2 with tasks := j.2.tasks.map (fun t => t.liftHold pick) }))
    stations := s.stations.map (fun n => (n.1, { n.2 with
      copies := n.2.copies.map (fun c => (c.1, c.2.liftHold pick))
      ports := n.2.ports.map (fun p => (p.1, { p.2 with
        held := p.2.held.map (fun h => { h with withheld := h.withheld.filter (fun w => !pick w.w1 w.va) }) })) })) }
  s.queues.foldl (fun s q =>
    let w := picked pick (q.2.writeHold q.1)
    let r := picked pick (q.2.readHold q.1)
    if w || r then s.retrySiding q.1 w r else s) s

/-! ### PTEWR (R408) -/

def execPtewr (d : Dst) (pa val : Src) (s : State) : Host.Outcome State Fault Refusal :=
  runUnit (.ptewr d pa val) avPriv [pa, val] [d] (fun u x s va vv phase =>
    if phase = 1 then
      if s.noInvals u .package then .write s d 0 (s.cur.words.getD 0 0) 1 else .wait s 1
    else if va.toNat % 8 != 0 then .trap (misaligned va)
    else if !s.ownsAddr x.part va.toNat then .trap ⟨.permission, 3, va⟩
    else
      let old := w64 (s.homeNat x.part ⟨.device, va.toNat⟩ 8)
      let s := s.homeStore x.part .device va.toNat (bytesOf 8 vv.toNat) 0 false [u]
      if s.noInvals u .package then .write s d 0 old 1 else .waitWith s 1 [old]) s

/-! ### TLBINV (R203, R438) -/

/-- The entry is a leaf of the context whose page contains the address. -/
def PageEntry.covers (e : PageEntry) (ctx va : Nat) : Bool :=
  e.ctx == ctx && decide (e.base ≤ va) && decide (va < e.base + 2 ^ e.log2)

/-- Every cached leaf of the context that contains the address dropped, in every memory port and every depot translator of
the partition. -/
def State.dropLeaves (s : State) (p ctx va : Nat) : State :=
  let keep := fun (c : List PageEntry) => c.filter (fun e => !e.covers ctx va)
  { s with
    stations := s.stations.map (fun n => (n.1,
      if s.partOfStn n.1 = some p then
        { n.2 with ports := n.2.ports.map (fun t => (t.1, { t.2 with cache := keep t.2.cache })) }
      else n.2))
    cores := s.cores.map (fun c => (c.1,
      if s.stackPart (stackOfCore c.1) = some p then { c.2 with cache := keep c.2.cache } else c.2)) }

/-- The unit belongs to the context. -/
def State.unitIn (s : State) (ctx u : Nat) : Bool :=
  match s.unit? u with
  | some x => x.ctx == ctx
  | none => false

/-- The unit or copy channel works for the context; a unit that is gone may have worked for it. -/
def State.agentIn (s : State) (ctx a : Nat) : Bool :=
  if a < copyAgent 0 0 then (s.unit? a).isNone || s.unitIn ctx a
  else match Tab.find (s.station ((a - copyAgent 0 0) / 8)).copies ((a - copyAgent 0 0) % 8) with
    | some c => s.unitIn ctx c.unit
    | none => false

/-- A packet of the context was translated within the page. -/
def State.packetIn (s : State) (ctx lo n : Nat) (p : Packet) : Bool :=
  match p.req with
  | .access evs _ _ => p.ctx == ctx && evs.any (fun e => decide (lo ≤ e.va) && decide (e.va < lo + n))
  | .mcast mc line _ _ =>
    (match Tab.find s.mcasts mc with
     | some m => m.ctx == ctx && decide (lo ≤ wordAt m.words 0 + 128 * line)
         && decide (wordAt m.words 0 + 128 * line < lo + n)
     | none => false)
  | _ => false

/-- Every access translated through a dropped entry of the page of `va` is performed (R203). The entry may have been one of
512 MiB, so the accesses to all of that block are awaited. -/
def State.pageQuiet (s : State) (ctx va : Nat) : Bool :=
  !s.mesh.any (s.packetIn ctx (floorTo va (2 ^ 29)) (2 ^ 29)) && !s.invals.any (fun i => i.waiters.any (s.agentIn ctx))

/-- The log of the size of the page that a TLBINV for `va` names: 512 MiB where the walk now finds such a leaf or one is cached,
else 64 KiB. -/
def State.tlbinvLog (s : State) (p ctx va : Nat) : Nat :=
  let big := fun (c : List PageEntry) => c.any (fun e => e.covers ctx va && e.log2 == 29)
  if (match s.walk ctx p va with
      | .leaf _ log2 => log2 == 29
      | _ => false)
    || s.stations.any (fun n => s.partOfStn n.1 == some p && n.2.ports.any (fun t => big t.2.cache))
    || s.cores.any (fun c => s.stackPart (stackOfCore c.1) == some p && big c.2.cache) then 29 else 16

/-- A withheld access of a context lies in the page of `va` of a size. -/
def pageHolds (ctx va log2 : Nat) (w1 : W64) (a : Nat) : Bool := fld w1.toNat 48 16 == ctx && a / 2 ^ log2 == va / 2 ^ log2

/-- What a TLBINV does at the partition's ports and translators: the cached leaves are dropped and the page's withheld accesses
taken for repetition (R203). It completes when the page is quiet. -/
def State.tlbinv (s : State) (p ctx va : Nat) : State :=
  (s.dropLeaves p ctx va).liftHolds (pageHolds ctx va (s.tlbinvLog p ctx va)) false

def execTlbinv (page slc : Src) (s : State) : Host.Outcome State Fault Refusal :=
  runUnit (.tlbinv page slc) avPriv [page, slc] [] (fun _ x s va vs phase =>
    let ctx := vs.toNat
    if 2 ^ 16 ≤ vs.toNat then .trap (illegal 2)
    else
      let s := if phase = 0 then s.tlbinv x.part ctx va.toNat else s
      if s.pageQuiet ctx va.toNat then .done s else .wait s 1) s

/-! ### MIGR and CNTRD (R343, R392) -/

/-- The counters of a page freed at every walker of the partition. -/
def State.freeCounters (s : State) (p ctx page : Nat) : State :=
  { s with stations := s.stations.map (fun n => (n.1,
      if s.partOfStn n.1 = some p then
        { n.2 with counters := n.2.counters.filter (fun c => !(c.ctx == ctx && c.page == page)) }
      else n.2)) }

def execMigr (page slc : Src) (s : State) : Host.Outcome State Fault Refusal :=
  runUnit (.migr page slc) avPriv [page, slc] [] (fun _ x s va vs _ =>
    if 2 ^ 16 ≤ vs.toNat then .trap (illegal 2)
    else .done (s.freeCounters x.part vs.toNat (va.toNat / 2 ^ 16))) s

/-- CNTRD's word. -/
def counterWord (c : Option Counter) : W64 :=
  match c with
  | some c => w64 (2 ^ 17 + b2n c.stopped * 2 ^ 16 + c.count % 2 ^ 16)
  | none => 0

def execCntrd (d : SReg) (page slc : Src) (s : State) : Host.Outcome State Fault Refusal :=
  runUnit (.cntrd d page slc) avPriv [page, slc] [.s d] (fun _ x s va vs _ =>
    let n := fld vs.toNat 16 3 * 64 + fld vs.toNat 19 6
    if 2 ^ 25 ≤ vs.toNat || s.partOfStn n != some x.part then .trap (illegal 2)
    else .write s (.s d) 0 (counterWord ((s.station n).counter? (fld vs.toNat 0 16) (va.toNat / 2 ^ 16))) 1) s

end Sys2Proof.Machine
end

