-- ==== Sys2Proof/Machine/EvFabric.lean ====
section
/-! DEFINITION. Events of the fabric: the end of a busy interval, clock gating, tokens on their way, the allocator's
platform, held events, records and the allocation watchdog (R18, R20, R24, R32, R35, R85 to R94, R162, R177 to R179,
R202, R204, R330, R355, R447). An event whose condition does not hold changes nothing. -/
namespace Sys2Proof.Machine

/-! ### Units -/

/-- What has come from the unit's own station by now lands, oldest first (R353, R380). -/
def State.landReads (s : State) (u : Nat) (rs : List OwnRead) : State :=
  rs.foldl (fun s r => s.landAnswer u r.id r.land r.bytes)
    (s.onUnit u (fun x => { x with reads := x.reads.filter (fun r => !rs.contains r) }))

/-- The end of a busy interval, or of the two cycles of a load from the unit's own station. -/
def execIssueIntervalEnd (u : Nat) (s : State) : Host.Outcome State Fault Refusal :=
  .next (match s.unit? u with
    | some x =>
      (match x.busy with
       | some b =>
         if s.clockOf u < b.until_ then s
         else (s.endInterval u b).dropEmission u
       | none => s).landReads u (x.reads.filter (fun r => decide (r.until_ ≤ s.clockOf u)))
    | none => s)

/-- A triggered unit with no ready slot, nothing blocked and nothing busy for 16 cycles (R20). -/
def State.mayGate (s : State) (u : Nat) (x : Unit) : Bool :=
  !isCore u && !x.isSeq && x.busy.isNone && x.blocked.isNone && (x.pickSlot 0 x.slots).isNone
    && (match x.idleSince with
        | some t => decide (t + 16 ≤ s.clockOf u)
        | none => false)

def execClockGate (u : Nat) (s : State) : Host.Outcome State Fault Refusal :=
  .next (match s.unit? u with
    | some x => if s.mayGate u x then s.putUnit u { x with gated := true } else s
    | none => s)

def execWaitCycleCountEnd (u : Nat) (s : State) : Host.Outcome State Fault Refusal :=
  .next (match s.unit? u with
    | some x =>
      (match x.blocked with
       | some (.waitCyc t) => if t ≤ s.clockOf u then s.unblock u else s
       | _ => s)
    | none => s)

def execInvixWaitEnd (u : Nat) (s : State) : Host.Outcome State Fault Refusal :=
  .next (match s.unit? u with
    | some x =>
      if x.blocked = some .invix then
        ((s.putUnit u { x with blocked := none }).advanceInvix u).onUnit u Unit.closeBlocked
      else s
    | none => s)

/-! ### Tokens on their way (R24, R162) -/

def Flight.sameArc (f g : Flight) : Bool := f.dest.station == g.dest.station && f.dest.entry == g.dest.entry

/-- A copy with no earlier one on its arc. -/
def State.firstOnArc (s : State) (i : Nat) (f : Flight) : Bool := !(s.flight.take i).any (fun g => g.sameArc f)

/-- A token at the tail of its inbox; a gated clock starts again (R20). -/
def Unit.receive (x : Unit) (c : Nat) (t : Token) : Unit :=
  { x.setBox c { x.box c with q := (x.box c).q ++ [t] } with
    gated := false, idleSince := if x.gated then none else x.idleSince }

def execTokenArrival (i : Nat) (s : State) : Host.Outcome State Fault Refusal :=
  .next (match s.flight[i]? with
    | some f =>
      if f.mailbox || !s.firstOnArc i f then s
      else { s with flight := s.flight.eraseIdx i }.onMember (s.arcRegion f.dest * 65536 + f.dest.unit)
        (fun x => x.receive f.dest.ch f.tok)
    | none => s)

def execMailboxForward (i : Nat) (s : State) : Host.Outcome State Fault Refusal :=
  .next (match s.flight[i]? with
    | some f =>
      if f.mailbox && s.firstOnArc i f then { s with flight := s.flight.set i { f with mailbox := false } } else s
    | none => s)

/-! ### The platform (R86 to R89) -/

/-- The head of a pool order: the lowest class, the earliest arrival within it. -/
def State.headOf (s : State) : List (Nat × Wait) → Option (Nat × Wait)
  | [] => none
  | e :: t =>
    match s.headOf t with
    | none => some e
    | some f =>
      if s.waitClass f.2 < s.waitClass e.2 || (s.waitClass f.2 == s.waitClass e.2 && decide (f.2.order < e.2.order))
      then some f else some e

/-- The entry is the head of its region's shared block pool order. -/
def State.heads (s : State) (n r entry : Nat) : Bool := (s.headOf (s.blockWaiters n r)).map (·.1) == some entry

/-- The arc's request can have its slot: from the arc's floor, or as the head of the slots' pool order (R88). -/
def State.slotGrant (s : State) (n entry : Nat) : Bool :=
  let st := s.station n
  st.floorRoom entry ||
    ((s.headOf (st.platform.filter st.wantsSlot)).map (·.1) == some entry && decide (st.sharedUsed < st.sharedSlots)
      && !st.hasGranted (s.stnNow n) 0)

def State.leavePlatform (s : State) (n entry : Nat) : State :=
  s.onStation n (fun st => { st with platform := Tab.del st.platform entry })

/-- ALLOC's handle handed to its unit: written, or emitted as the next blocked request (R19, R330). -/
def State.giveHandle (s : State) (u : Nat) (h : W64) : State :=
  match s.unit? u with
  | none => s
  | some x =>
    match x.blocked with
    | some (.alloc _ _ reg dests) =>
      let s := s.putUnit u { x with blocked := none }
      let s := match reg with
        | some r => s.onUnit u (fun y => { y.setS r h with turned := s.clockOf u + 1 })
        | none => s.emitAll u false [⟨dests, plainTok .dat h⟩]
      s.onUnit u Unit.closeBlocked
    | _ => s

/-- A unit's block: from its own floor, else from the shared pool if its request heads the order and it is no cover. -/
def State.grantBlock (s : State) (n entry u k m : Nat) : State :=
  match s.unit? u with
  | none => s
  | some x =>
    let now := s.stnNow n
    let st := (s.station n).settle now
    let own := st.grant x.region (some u) k m
    let got := if own.isSome then own
      else if !x.cover && s.heads n x.region entry && !st.hasGranted now (x.region + 1) then
        (st.grant x.region none k m).map (fun e => (e.1.markGrant now (x.region + 1), e.2))
      else none
    match got with
    | some (st, b) =>
      (((s.setStation n st).leavePlatform n entry).noteGrant x.region).giveHandle u (mkHandle b.gen.toNat n b.k b.first 0)
    | none => s

/-- One destination of a unit's waiting emission is served (R24, R434). -/
def State.emissionServed (s : State) (u : Nat) (d : Dest) : State :=
  match s.unit? u with
  | none => s
  | some x =>
    match x.blocked with
    | some (.emit cur more eoi) =>
      let left := cur.dests.filter (· != d)
      if left.isEmpty then
        ((s.putUnit u { x with blocked := none }).emitAll u eoi more).onUnit u Unit.closeBlocked
      else s.putUnit u { x with blocked := some (.emit { cur with dests := left } more eoi) }
    | some (.stream st) =>
      s.putUnit u { x with blocked := some (.stream { st with pend := st.pend.bind (fun e =>
        let left := e.dests.filter (· != d)
        if left.isEmpty then none else some { e with dests := left }) }) }
    | _ => s

/-- A copy's slot granted: it goes on its way. -/
def State.grantSlot (s : State) (n entry : Nat) (u : Option Nat) (f : Flight) : State :=
  let r := s.arcRegion f.dest
  let s := ((s.onStation n (fun st => st.grantSlot (s.stnNow n) entry)).leavePlatform n entry).noteGrant r
  let s : State := { s with flight := s.flight ++ [f] }
  match u with
  | some u => s.emissionServed u f.dest
  | none => s

/-- A triple's block and slot granted on its path. -/
def State.grantTriple (s : State) (n entry : Nat) (words : List Lane) (p : Dest) (done : State → W64 → State) : State :=
  let r := s.arcRegion p
  if s.heads n r entry && s.slotGrant n entry then
    match s.takeTriple (s.stnNow n) r p words with
    | some (s, h) => done (s.leavePlatform n entry) h
    | none => s
  else s

/-- The handle of an asynchronous triple entered at its core or in its saved kernel. -/
def State.tripleGranted (s : State) (id : Nat) (h : W64) : State :=
  let mark := fun (ts : List Triple) => ts.map (fun t => if t.id = id then { t with handle := some h } else t)
  { s with cores := s.cores.map (fun c => (c.1, { c.2 with
      async := mark c.2.async, saved := c.2.saved.map (fun v => { v with async := mark v.async }) })) }

def State.platformGrant (s : State) (n entry : Nat) (w : Wait) : State :=
  let p := s.pathAt n entry
  match w.what with
  | .block u k m => s.grantBlock n entry u k m
  | .slot _ u f => if s.isResident (s.arcRegion p) && s.slotGrant n entry then s.grantSlot n entry u f else s
  | .triple c words =>
    if s.isResident (s.arcRegion p) then
      s.grantTriple n entry words p (fun s h => (s.putTriple c p h words).unblock (coreBase + c))
    else s
  | .asyncTriple id =>
    if s.isResident (s.arcRegion p) then
      match s.triples.find? (fun t => t.2.id == id) with
      | some t => s.grantTriple n entry t.2.words p (fun s h => s.tripleGranted id h)
      | none => s.leavePlatform n entry
    else s

def execPlatformGrant (stn entry : Nat) (s : State) : Host.Outcome State Fault Refusal :=
  .next (match Tab.find (s.station stn).platform entry with
    | some w => if s.stnNow stn < w.start then s else s.platformGrant stn entry w
    | none => s)

def execRequestPromotion (stn entry : Nat) (s : State) : Host.Outcome State Fault Refusal :=
  .next (match Tab.find (s.station stn).platform entry with
    | some w =>
      if w.since + 2 ^ 16 ≤ s.stnNow stn then
        s.onStation stn (fun st => { st with
          platform := Tab.put st.platform entry { w with promos := w.promos + 1, since := s.stnNow stn } })
      else s
    | none => s)

/-! ### Held events (R177 to R179, R202, R204) -/

/-- A held event is to be performed: its invocation has committed or is unrevocable, or the event is due (R178, R179,
R333). -/
def State.performable (s : State) (h : Held) : Bool :=
  h.due || s.unrevocable h.region h.invoc || serialLater (s.commitIndex h.region) h.invoc

/-- A packet of the unit, sent before the event was accepted, covers some of its bytes (R168). -/
def State.packetAhead (s : State) (h : Held) : Bool :=
  s.mesh.any (fun p =>
    match p.req with
    | .access evs _ _ => evs.any (h.ownAfter p.unit p.id)
    | _ => false)

/-- What a held event needs of its entry. -/
def Held.want (h : Held) : Want := if h.rmw.isSome then wantAtomic h.scope else wantWrite

/-- The held event with acceptance number `order` replaced or dropped. -/
def State.setHeld (s : State) (n p : Nat) (h : Held) (f : Option Held) : State :=
  s.onPort n p (fun pt => { pt with held := pt.held.filterMap (fun g => if g.order = h.order then f else some g) })

/-- The first accepted of a list of held events. -/
def firstHeld : List Held → Option Held
  | [] => none
  | h :: t =>
    match firstHeld t with
    | some g => if g.order < h.order then some g else some h
    | none => some h

/-- The held event that a port performs next: the first accepted of those that no event of their own region goes before; while
it is withheld, the port performs none (R178, R204). -/
def State.nextHeld (s : State) (n p : Nat) : Option Held :=
  let hs := ((s.station n).port p).held.filter s.performable
  firstHeld (hs.filter (fun h => !hs.any (fun g => g.region == h.region && g.before h)))

/-- A held event that another causally follows goes first, performable or not, unless the two share a byte: there the order of
invocations stands (R173, R174). -/
def Held.leads (g h : Held) : Bool := g.precedes h.unit h.order && (g.before h || !g.ev.overlaps h.ev)

/-- A held event of the region goes first: one to a common byte that is to be performed and comes before it, or one that it
causally follows; so do the invalidations that such an event has sent (R173, R174). -/
def State.heldAhead (s : State) (h : Held) : Bool :=
  (s.heldOf h.region).any (fun g => g.order != h.order &&
      ((g.before h && s.performable g && g.ev.overlaps h.ev) || g.leads h))
    || s.pastInvals h.unit h.order

/-- Held events that a write of an unrevocable invocation follows are performed before it: their invocations become unrevocable
too (R174, R333; DEDUCED, log entry 93). -/
def State.urge (s : State) (leads : Held → Bool) : State :=
  (s.stations.flatMap (fun n => n.2.ports.flatMap (fun p => p.2.held.filter (fun g => leads g && !s.performable g)))).foldl
    (fun s g => s.makeUnrevocable g.region g.invoc) s

/-- The invalidations of a line are awaited by the writes that follow a held event (R174). -/
def State.notePast (s : State) (line : Nat) (past : Tab Nat) : State :=
  { s with invals := s.invals.map (fun i =>
      if i.line == line then { i with past := past.foldl (fun (t : Tab Nat) e =>
        Tab.put t e.1 (min e.2 (Tab.get t e.1 e.2))) i.past } else i) }

/-- A held event withheld at commit (R202). -/
def State.withholdHeld (s : State) (n p : Nat) (x : Region) (h : Held) (level : Nat) (wb : Bool) : State :=
  let w1 := faultWord x.ctx n p level (accessCode h.want)
  let s := if wb then s else s.postFault x.part w1 h.ev.va
  { s with ids := s.ids + 1 }.setHeld n p h (some { h with withheld := some ⟨h.ev.va, w1, wb, s.regionCycles h.region, s.ids⟩ })

/-- A held event performed at its home, under the entry that stands now (R178, R202). Every unit of the region may have
read it in the port, so each awaits its invalidations (R177, R180). -/
def State.performHeldEvent (s : State) (n p : Nat) (h : Held) : State :=
  let x := (s.region? h.region).getD (newRegion 0 0 0 0 false [] [] 0)
  match s.translate x.ctx x.part n p h.ev.va 0 h.want with
  | (s, .fault t) => (s.setHeld n p h none).raiseBy (some 2) h.unit t
  | (s, .wb) => s.withholdHeld n p x h 0 true
  | (s, .invalid level) => s.withholdHeld n p x h level false
  | (s, .ok loc page _ _) =>
    match s.performEvent h.unit (h.unit :: x.units) x.part { h.ev with loc := loc, page := page } h.rmw with
    | .done s _ => (if loc.kind == .device then s.notePast (loc.addr / 128) h.fenced else s).setHeld n p h none
    | .wait s _ => s

def execHeldEventPerform (stn port : Nat) (s : State) : Host.Outcome State Fault Refusal :=
  .next (match s.nextHeld stn port with
    | some h =>
      if h.withheld.isSome || s.packetAhead h || !s.mayRepeat (heldAgent h.order) then s
      else if s.heldAhead h then
        (if h.due || s.unrevocable h.region h.invoc then s.urge (fun g => g.region == h.region && g.order != h.order && g.leads h)
         else s)
      else (s.repeated (heldAgent h.order)).performHeldEvent stn port h
    | none => s)

/-! ### Records and the watchdog (R35, R90, R94, R355, R370) -/

/-- Conditions 2 to 4 of R355 for one unit. -/
def Unit.quiet (x : Unit) : Bool :=
  (!x.isSeq || x.halted) && x.busy.isNone && x.blocked.isNone && x.loads.isEmpty && x.reads.isEmpty && x.inbox.all (fun c => c.2.q.isEmpty)

/-- No token is on its way to the region. -/
def State.noFlights (s : State) (r : Nat) : Bool := !s.flight.any (fun f => s.arcRegion f.dest == r)

/-- Every commit is complete and no invocation has an event left (R35, R178). -/
def State.commitsDone (s : State) (r : Nat) (x : Region) : Bool :=
  s.commitIndex r == s.latestInvix r && (s.heldOf r).isEmpty
    && !s.mesh.any (fun p => x.units.contains p.unit) && !s.invals.any (fun i => i.waiters.any x.units.contains)

/-- No copy, multicast, collective or loop-line run of the region is in progress. -/
def State.enginesQuiet (s : State) (r : Nat) (x : Region) : Bool :=
  x.stations.all (fun n => (s.station n).copies.all (fun c => !(c.2.busy && x.units.contains c.2.unit)))
    && !s.mcasts.any (fun m => m.2.region == r) && s.collsDone r && !s.regionRuns r x && !s.triplesDue r

/-- The conditions of R355. -/
def State.recordDone (s : State) (r : Nat) (x : Region) : Bool :=
  x.st == .running && x.done
    && x.units.all (fun u => match s.unit? u with
        | some y => y.quiet
        | none => true)
    && s.noFlights r && s.commitsDone r x && s.enginesQuiet r x

/-- The region becomes idle and its quota is returned; its units leave their groups. -/
def State.completeRecord (s : State) (r : Nat) (x : Region) : State :=
  let s := x.units.foldl (fun s u => s.leaveGroups (r * 65536 + u)) s
  (s.returnQuota r).onRegion r (fun y => { y with
    st := .idle, idleAt := s.dieNow x.die, cyc := s.regionCycles r, since := s.dieNow x.die, record := [], unrev := none })

def execRecordComplete (rg : Nat) (s : State) : Host.Outcome State Fault Refusal :=
  .next (match s.region? rg with
    | some x => if s.recordDone rg x then s.completeRecord rg x else s
    | none => s)

/-- The request that has waited longest. -/
def longest : List (Nat × Nat) → Option (Nat × Nat)
  | [] => none
  | e :: t =>
    match longest t with
    | some f => if f.2 < e.2 then some f else some e
    | none => some e

def execAllocationWatchdog (rg : Nat) (s : State) : Host.Outcome State Fault Refusal :=
  .next (match s.region? rg with
    | some x =>
      (match longest (s.requestsOf rg x) with
       | some (u, _) =>
         if x.st.resident && decide ((s.part x.part).wdlimit ≤ s.regionCycles rg - x.wdBase) then
           s.raiseAsync u (trapOf .allocStall)
         else s
       | none => s)
    | none => s)

end Sys2Proof.Machine
end

