-- ==== Sys2Proof/Machine/EvMem.lean ====
section
/-! DEFINITION. Events of the mesh, the home slices and the engines: packets that arrive, fills, invalidations, the
host's answers and snoops, copies, multicasts and streams (R80, R99, R151 to R164, R168, R173, R297, R347 to R349, R353,
R380, R388 to R390, R424, R426, R433 to R435). -/
namespace Sys2Proof.Machine

/-! ### Packets at their homes (R161, R168, R173) -/

def Event.writes (e : Event) (rmw : Option Rmw) : Bool := rmw.isSome || !e.wr.isEmpty

/-- The station of a request that is no global access. -/
def Req.station : Req → Option Nat
  | .access _ _ _ | .mcast _ _ _ _ => none
  | .sigSet n _ | .sigAdd n _ | .sigTest n _ _ _ => some (n / 1024)
  | .blockRead h _ _ _ | .blockWrite h _ | .release h | .retain h _ | .bsize h _ => some (hStn h)

/-- Two requests of one unit that keep their order: accesses that overlap, and requests to one station. -/
def Req.ordered (a b : Req) : Bool :=
  match a, b with
  | .access es _ _, .access fs _ _ => es.any (fun e => fs.any (fun f => e.overlaps f))
  | .access _ _ _, _ | _, .access _ _ _ => false
  | a, b => a.station.isSome && a.station == b.station

/-- A held event stands before a write of a packet: one of the unit to the same bytes, or one that it causally follows (R168,
R174). -/
def Held.leadsPacket (h : Held) (p : Packet) : Bool :=
  match p.req with
  | .access evs rmw _ => evs.any (fun e => e.writes rmw && (h.ownBefore p.unit p.id e || h.precedes p.unit p.id))
  | _ => false

/-- Held events that an atomic is sent behind are not yet performed at PACKAGE scope (R333). -/
def State.behindHeld (s : State) (p : Packet) : Bool :=
  !p.behind.isEmpty && (s.stations.any (fun n => n.2.ports.any (fun t => t.2.held.any (fun h => p.behind.contains h.order)))
    || !s.noInvals p.unit .package)

/-- Packet number `i` waits for an earlier packet of its unit, or a write of it for held events that stand before it (R168,
R174, R333). -/
def State.heldBack (s : State) (i : Nat) (p : Packet) : Bool :=
  (s.mesh.take i).any (fun q => q.unit == p.unit && q.req.ordered p.req &&
      (match q.st with
       | .response _ => false
       | _ => true))
    || (match p.req with
        | .access evs rmw _ => s.stations.any (fun n => n.2.ports.any (fun t => t.2.held.any (fun h => h.leadsPacket p)))
            || s.behindHeld p || (evs.any (fun e => e.writes rmw) && s.pastInvals p.unit p.id)
        | .release h | .retain h _ => s.usesBlock p.unit h
        | _ => false)

/-- The first of the remaining events of an access performed (R176): the others follow one at a time, in ascending order.
One that waits for a fill keeps the packet at the line, and a read joins the fill entry (R163). -/
def State.serveAccess (s : State) (id u p : Nat) (rmw : Option Rmw) (l : Land) (evs : List Event) (got : List Byte) :
    State :=
  match evs with
  | [] => s.answer id got
  | e :: t =>
    if s.peerWaits e.loc then s
    else match (if isCore u then s.depotEvent u p e else s.performEvent u [u] p e rmw) with
    | .done s bs =>
      if t.isEmpty then s.answer id (got ++ bs)
      else s.setPacket id (fun q => { q with st := .request, req := .access t rmw l, got := got ++ bs })
    | .wait s key =>
      (if e.writes rmw then s else s.join key id).setPacket id (fun q => { q with st := .atFill key })

/-- The request of a packet served (R80, R97, R338, R380, R389, R424, R426). -/
def State.servePacket (s : State) (p : Packet) : State :=
  match s.unit? p.unit with
  | none =>
    -- the packet of a kernel that was discarded
    match p.req with
    | .access evs rmw l => s.serveAccess p.id p.unit ((s.partOf (districtOfUnit p.unit)).getD 0) rmw l evs p.got
    | .mcast _ _ loc _ => s.answer p.id (s.homeBytes 0 loc 128)
    | _ => s.answer p.id []
  | some x =>
    match p.req with
    | .access evs rmw l => s.serveAccess p.id p.unit x.part rmw l evs p.got
    | .sigSet n v => ((s.noteTurn (n / 1024) rankRemote).sigSet n v).answer p.id []
    | .sigAdd n v => ((s.noteTurn (n / 1024) rankRemote).sigAdd n v).answer p.id []
    | .sigTest n c v _ => (s.noteTurn (n / 1024) rankRemote).answer p.id (bytesOf 8 (b2n (sigHolds c (s.signal n) v)))
    | .blockRead h offs n _ =>
      if isSignalHandle h then (s.noteTurn (hStn h) rankRemote).answer p.id (bytesOf 8 (s.signal (hSignal h)).toNat)
      else s.serveBlockRead p.id h offs n
    | .blockWrite h bs =>
      if isSignalHandle h then
        ((s.noteTurn (hStn h) rankRemote).sigSet (hSignal h) (w64 (ofBytes ((List.range 8).map (fun i => (Tab.find bs i).getD 0))))).answer p.id []
      else s.serveBlockWrite p.id h bs
    | .release h =>
      (match s.resolveBlock x.ctx h with
       | .ok b => (s.onStation (hStn h) (fun st => st.release (s.stnNow (hStn h)) b)).answer p.id []
       | .error t => (s.answer p.id []).raiseAsync p.unit { t with detail := 1 })
    | .retain h m =>
      (match s.resolveBlock x.ctx h with
       | .ok b => (s.onStation (hStn h) (fun st => st.retain b m)).answer p.id []
       | .error t => (s.answer p.id []).raiseAsync p.unit { t with detail := 1 })
    | .bsize h _ =>
      if isSignalHandle h then s.answer p.id (bytesOf 8 bsizeSignal.toNat)
      else match s.resolveBlock x.ctx h with
       | .ok b => s.answer p.id (bytesOf 8 (bsizeWord b).toNat)
       | .error t =>
         let (n, s) := s.draw
         (s.answer p.id (bytesOf 8 n)).raiseAsync p.unit { t with detail := 1 }
    | .mcast _ _ loc page =>
      (match s.homeRead x.part loc 128 page.cmode page.depot with
       | (s, .bytes bs) => s.answer p.id bs
       | (s, .wait key) => (s.join key p.id).setPacket p.id (fun q => { q with st := .atFill key }))

def execMeshRequestArrival (i : Nat) (s : State) : Host.Outcome State Fault Refusal :=
  .next (match s.mesh[i]? with
    | some p =>
      if p.st != .request then s
      else if s.heldBack i p then s.urge (fun h => h.leadsPacket p)
      else s.servePacket p
    | none => s)

/-! ### Answers (R330, R353, R389) -/

/-- The station at which a packet's response arrives next: for a multicast one of those still to come, chosen by a free value,
and else its unit's. -/
def State.nextStation (s : State) (p : Packet) : State × Nat :=
  match p.req with
  | .mcast mc _ _ _ => (s.pickFree ((s.mcastStations mc).filter (fun n => !p.there.contains n))).getD (s, stnOf p.unit)
  | _ => (s, stnOf p.unit)

def execMeshResponseArrival (i : Nat) (s : State) : Host.Outcome State Fault Refusal :=
  .next (match s.mesh[i]? with
    | some p =>
      let (s, n) := s.nextStation p
      (s.arriving n p).foldl (State.landPacket n) s
    | none => s)

/-! ### Fills, invalidations, the host's cache (R154, R158, R297) -/

/-- A packet that waits at a line served again. -/
def State.serveAt (s : State) (key id : Nat) : State :=
  match s.mesh.find? (fun p => p.id == id && p.st == .atFill key) with
  | some p => s.servePacket p
  | none => s

/-- The bytes of a line as its home holds them. -/
def State.lineBytes (s : State) (key : Nat) : List Byte :=
  match s.line? key with
  | some x => (List.range 128).map (fun o => x.byteAt o (Memory.read (s.memOf x.loc.kind) (x.loc.addr + o)))
  | none => []

/-- One joined read served with the bytes of the delivery `d`. -/
def State.serveJoined (s : State) (key d who : Nat) : State :=
  if 2 ^ 64 ≤ who then { s with delivered := (who - 2 ^ 64, key, d, s.lineBytes key) :: s.delivered }
  else (s.serveAt key who).setPacket who (fun q =>
    match q.st with
    | .response _ => { q with deliv := d }
    | _ => q)

/-- The data of a fill returns: the joined reads are served by one delivery, then the other waiting accesses in their
order (R154, R163, R164). A line that is no longer Filling lets its packets try again. -/
def State.fillReturn (s : State) (key : Nat) : State :=
  let js := match s.line? key with
    | some x => x.joined
    | none => []
  let (d, s) := (s.fillDone key).stamp
  let s := js.foldl (fun s who => s.serveJoined key (d + 1) who) s
  (((s.mesh.filter (fun p => p.st == .atFill key)).map (·.id)).foldl (fun s id => s.serveAt key id) s).endBypass key

/-- A host line waits for the host's answer. -/
def State.hostFill (s : State) (key : Nat) : Bool :=
  match s.line? key with
  | some x => x.kind == .filling && x.loc.kind == .host
  | none => false

def execFillReturn (key : Nat) (s : State) : Host.Outcome State Fault Refusal :=
  .next (if s.hostFill key then s else s.fillReturn key)

def execHostCacheResponse (key : Nat) (grant : HostGrant) (s : State) : Host.Outcome State Fault Refusal :=
  .next (match s.line? key with
    | some x => if s.hostFill key then (s.putLine key { x with excl := some grant }).fillReturn key else s
    | none => s)

def execInvalidationAck (i : Nat) (s : State) : Host.Outcome State Fault Refusal :=
  .next (match s.invals[i]? with
    | some v => { s with
        invals := s.invals.eraseIdx i
        replicas := s.replicas.filter (fun r => !(r.district == v.district && r.line == v.line)) }
    | none => s)

/-- A snoop acts on a host line at its home slice; one of a Filling line waits (R297). -/
def State.snoop (s : State) (p line : Nat) (kind : Snoop) : State :=
  let l : Loc := ⟨.host, 128 * line⟩
  match s.line? (s.keyOf p l) with
  | none => s
  | some x =>
    if x.kind == .filling then s
    else match kind with
      | .cur => s
      | .inv => s.cleanLine p l
      | .data =>
        let s := s.writeBack (s.keyOf p l)
        match s.line? (s.keyOf p l) with
        | some y => s.putLine (s.keyOf p l) { y with excl := some .shared }
        | none => s

def execHostSnoop (part line : Nat) (kind : Snoop) (s : State) : Host.Outcome State Fault Refusal :=
  .next (s.snoop part line kind)

/-! ### Engine transfers (R192, R195, R348) -/

/-- What an engine's translation comes to: a location; a withheld event; a fault. -/
inductive EngRes where
  | ok (loc : Loc) (page : PageBits)
  | hold (h : Hold)
  | fault (t : Trap)

/-- A translation through the port of the issuing unit, as an engine transfer; one that is made again for an access that
waits at its home counts no line (`asked`). Every event of a transfer counts one line (DESIGN CHOICE, log entry 109). -/
def State.engine (s : State) (u : Nat) (x : Unit) (va : Nat) (w : Want) (asked : Bool) : State × EngRes :=
  match s.translate x.ctx x.part (stnOf u) (portOf u) va (b2n (!asked)) w with
  | (s, .ok loc page _ _) => (s, .ok loc page)
  | (s, .fault t) => (s, .fault t)
  | (s, .invalid level) => let (s, h) := s.withhold u x va level 3 false; (s, .hold h)
  | (s, .wb) => let (s, h) := s.withhold u x va 0 3 true; (s, .hold h)

/-- STALE_HANDLE raised in the issuing unit by an engine (R230, R349, R390, R434). -/
def engineStale (h : W64) : Trap := ⟨.staleHandle, 1, h⟩

/-- An engine's access to a side: done with its result; waiting at the home; withheld; a fault. -/
inductive SideRes (α : Type) where
  | ok (s : State) (a : α)
  | wait (s : State)
  | hold (s : State) (h : Hold)
  | fault (s : State) (t : Trap)

/-- `n` bytes read at offset `o` of a side, a handle or a virtual address, by engine `who`. -/
def State.readSide (s : State) (u : Nat) (x : Unit) (who : Nat) (asked global : Bool) (w : W64) (o n : Nat) :
    SideRes (List Byte) :=
  if global then
    match s.engine u x (w.toNat + o) wantRead asked with
    | (s, .ok loc page) =>
      if s.peerWaits loc then .wait s
      else (match s.engineRead who (districtOfUnit u) x.part loc n page with
       | (s, .bytes bs) => .ok (s.takeDelivered who (stnOf u)) bs
       | (s, .wait _) => .wait s)
    | (s, .hold h) => .hold s h
    | (s, .fault t) => .fault s t
  else match s.resolveBlock x.ctx w with
    | .ok b => .ok (s.noteOor u w b ((List.range n).map (fun i => hOff w + o + i))) (s.blockBytes (hStn w) b (hOff w + o) n)
    | .error _ => .fault s (engineStale w)

/-- Bytes written at offset `o` of a side; `who` stands for the engine in the invalidations that it must await. A host
line is first taken in E or M (R297). -/
def State.writeSide (s : State) (u : Nat) (x : Unit) (who : Nat) (asked global : Bool) (w : W64) (o : Nat)
    (bs : List Byte) : SideRes PUnit :=
  if global then
    match s.engine u x (w.toNat + o) wantWrite asked with
    | (s, .ok loc page) =>
      if s.peerWaits loc then .wait s
      else (match s.ownHost x.part loc page.cmode with
       | some (s, _) => .wait s
       | none => .ok (s.homeStore x.part loc.kind loc.addr bs page.cmode page.depot [who]) ⟨⟩)
    | (s, .hold h) => .hold s h
    | (s, .fault t) => .fault s t
  else match s.resolveBlock x.ctx w with
    | .ok b => .ok ((s.noteOor u w b ((List.range bs.length).map (fun i => hOff w + o + i))).blockPut (hStn w) b
        ((List.range bs.length).map (fun i => (hOff w + o + i, bs.getD i 0)))) ⟨⟩
    | .error _ => .fault s (engineStale w)

/-! ### COPY (R99, R347 to R349) -/

def State.setChan (s : State) (stn ch : Nat) (c : CopyChan) : State := s.onStation stn (fun st => st.setCopy ch c)

/-- The event of a copy is performed, and PTR goes on, once the invalidations that its write sent are acknowledged (R99, R181). -/
def State.copyWrote (s : State) (stn ch : Nat) (c : CopyChan) : State :=
  if s.noInvals (copyAgent stn ch) .package then
    s.setChan stn ch { c with ptr := c.ptr + 32, buf := [], asked := false, wrote := false }
  else s.setChan stn ch { c with wrote := true }

/-- The next 32-byte event of a copy: its bytes read, unless they are in hand, and written. A copy that runs on in a drain and then
meets an entry that withholds it waits for its service as at any time (DESIGN CHOICE, log entry 108). -/
def State.copyStep (s : State) (stn ch : Nat) (c : CopyChan) (x : Unit) : State :=
  match (if c.buf.isEmpty then
      s.readSide c.unit x (copyAgent stn ch) c.asked (copySrcGlobal c.desc) (copySrc c.desc) c.ptr 32 else .ok s c.buf) with
  | .wait s => s.setChan stn ch { c with asked := true }
  | .hold s h => s.setChan stn ch { c with hold := some h }
  | .fault s t => (s.setChan stn ch { c with busy := false }).raiseBy (some 3) c.unit t
  | .ok s bs =>
    match s.writeSide c.unit x (copyAgent stn ch) (c.asked && !c.buf.isEmpty) (copyDstGlobal c.desc) (copyDst c.desc) c.ptr
        bs with
    | .wait s => s.setChan stn ch { c with buf := bs, asked := true }
    | .hold s h => s.setChan stn ch { c with buf := bs, asked := false, hold := some h }
    | .fault s t => (s.setChan stn ch { c with busy := false }).raiseBy (some 3) c.unit t
    | .ok s _ => s.copyWrote stn ch c

def execCopyEvent (stn ch : Nat) (s : State) : Host.Outcome State Fault Refusal :=
  let c := (s.station stn).copy ch
  .next (match s.unit? c.unit with
    | some x =>
      if c.wrote then s.copyWrote stn ch c
      else if c.busy && c.hold.isNone && decide (c.ptr < copyLen c.desc) && s.mayRepeat (copyAgent stn ch) then
        (s.repeated (copyAgent stn ch)).copyStep stn ch c x
      else s
    | none => s)

/-- The signal and the token of word 3 of a copy or multicast descriptor (R348, R390): the token goes on the completion
path, whose platform entry is free. -/
def State.completion (s : State) (u w3 len : Nat) : State :=
  let s := if w3.testBit 10 then s.sigAdd (stnOf u * 1024 + fld w3 0 10) 1 else s
  match (if w3.testBit 63 then s.completionPath u (fld w3 60 3) else none) with
  | some (e, a) => (s.emitCopies none 0 (plainTok .dat (w64 len)) [⟨stnOf u, u, a.ch, e, a.floor⟩]).1
  | none => s

/-- The completion path can take a token now or let it wait. -/
def State.completionFree (s : State) (u w3 : Nat) : Bool :=
  match (if w3.testBit 63 then s.completionPath u (fld w3 60 3) else none) with
  | some (e, _) => (Tab.find (s.station (stnOf u)).platform e).isNone
  | none => true

def execCopyComplete (stn ch : Nat) (s : State) : Host.Outcome State Fault Refusal :=
  let c := (s.station stn).copy ch
  .next (if c.busy && decide (copyLen c.desc ≤ c.ptr) && s.noInvals (copyAgent stn ch) .package
        && s.completionFree c.unit (wordAt c.desc 3) && s.mayTurn stn rankCopy then
      ((s.noteTurn stn rankCopy).setChan stn ch { c with busy := false }).completion c.unit (wordAt c.desc 3) (copyLen c.desc)
    else s)

/-! ### MCAST (R390) -/

def execMcastComplete (i : Nat) (s : State) : Host.Outcome State Fault Refusal :=
  .next (match Tab.find s.mcasts i with
    | none => s
    | some m =>
      let waits := s.mesh.any (fun p => match p.req with
        | .mcast mc _ _ _ => mc == i
        | _ => false)
      let gone : State := { s with mcasts := Tab.del s.mcasts i }
      if waits || m.st == .sending then s
      else if let some h := m.stale then gone.raiseBy (some 3) m.unit (engineStale h)
      else if m.st == .broken then gone
      else if s.completionFree m.unit (wordAt m.words 3) && s.mayTurn (stnOf m.unit) rankCopy then
        (gone.noteTurn (stnOf m.unit) rankCopy).completion m.unit (wordAt m.words 3) (mcastLen m.words)
      else s)

/-! ### STRM (R433 to R435) -/

/-- A slot of the ring is released: no token that names it is on its way or in an inbox of a destination, and no
destination has an access through the block under way or still to make (R435). -/
def State.rowReleased (s : State) (dests : List Dest) (h : W64) : Bool :=
  dests.all (fun d =>
    !s.flight.any (fun f => f.dest == d && f.tok.payload == h)
      && (match s.unit? d.unit with
          | some x => !(x.box d.ch).q.any (fun t => t.payload == h && t.live.isSome) && !x.awaitsBlock h
          | none => true)
      && !s.mesh.any (fun p => p.unit == d.unit && p.req.usesBlock h)
      && !(s.junction (stnOf d.unit)).usesBlock d.unit h)

/-- The live bits of row `r`'s token. -/
def rowLive (d : List W64) (r : Nat) : BitVec 128 :=
  (List.range 128).foldl (fun m j =>
    if decide (4 * j < strmRowB d) && decide (r * strmStride d + 4 * j + 3 < strmValid d) then m ||| BitVec.ofNat 128 (2 ^ j)
    else m) 0

/-- The source events of row `r`: offsets from SADDR and lengths, up to VALID. -/
def rowEvents (d : List W64) (r : Nat) : List (Nat × Nat) :=
  let o := r * strmStride d
  let a := (d.getD 0 0).toNat + o
  (eventsOf a (min (strmRowB d) (strmValid d - o))).map (fun e => (e.1 - (d.getD 0 0).toNat, e.2))

/-- The events of a row that are still to be read, `n` of its bytes being in hand. -/
def eventsLeft : List (Nat × Nat) → Nat → List (Nat × Nat)
  | [], _ => []
  | e :: t, n => if e.2 ≤ n then eventsLeft t (n - e.2) else e :: t

def State.setStream (s : State) (u : Nat) (st : Stream) : State := s.onUnit u (fun y => { y with blocked := some (.stream st) })

/-- A stale side ends the stream with an asynchronous fault of its unit (R230, R434). -/
def State.endStream (s : State) (u : Nat) (h : W64) : State := (s.unblock u).raiseAsync u (engineStale h)

/-- A fault of the memory port in a stream: precise in a sequenced unit; in a triggered one the access stands as the blocked
request (R226, R228, R229). -/
def State.faultStream (s : State) (u : Nat) (x : Unit) (st : Stream) (t : Trap) : State :=
  if x.isSeq then
    ((s.onUnit u (fun y => { y with blocked := none, blockedUpd := .none })).giveTaken u st.taken).raise u st.slot t
  else (s.setStream u { st with hold := none, asked := false }).raise u st.slot t

/-- A row whose bytes are in hand: its slot is written and its token emitted. -/
def State.finishRow (s : State) (u : Nat) (x : Unit) (st : Stream) (bs : List Byte) : State :=
  let off := hOff st.blk + strmRowB st.desc * (st.row % strmDRows st.desc)
  let places := (List.range (strmRowB st.desc)).map (fun i => off + i)
  match s.resolveBlock x.ctx st.blk with
  | .error _ => s.endStream u st.blk
  | .ok b =>
    let s := (s.noteOor u st.blk b places).blockPut (stnOf u) b (places.map (fun o => (o, bs.getD (o - off) 0)))
    let tok : Token := ⟨withOff st.blk off, .dat, some (rowLive st.desc st.row), 0, false⟩
    let r := s.emitCopies (some u) (s.eclass u) tok st.dests
    r.1.setStream u { st with row := st.row + 1, pend := if r.2.isEmpty then none else some ⟨r.2, tok⟩, hold := none
                              got := [], asked := false }

/-- The next source event of a row read; behind the last the row is finished. -/
def State.strmRow (s : State) (u : Nat) (x : Unit) (st : Stream) : State :=
  match eventsLeft (rowEvents st.desc st.row) st.got.length with
  | [] => s.finishRow u x st st.got
  | e :: t =>
    match s.readSide u x u st.asked (strmSrcGlobal st.desc) (st.desc.getD 0 0) e.1 e.2 with
    | .wait s => s.setStream u { st with asked := true }
    | .hold s h => s.setStream u { st with hold := some h, asked := false }
    | .fault s t => if t.code = .staleHandle then s.endStream u t.addr else s.faultStream u x st t
    | .ok s bs =>
      if t.isEmpty then s.finishRow u x st (st.got ++ bs)
      else s.setStream u { st with got := st.got ++ bs, asked := false }

def execStrmRow (u : Nat) (s : State) : Host.Outcome State Fault Refusal :=
  .next (match s.unit? u with
    | none => s
    | some x =>
      match x.blocked with
      | some (.stream st) =>
        let slot := withOff st.blk (hOff st.blk + strmRowB st.desc * (st.row % strmDRows st.desc))
        if st.pend.isSome || st.hold.isSome then s
        else if strmRows st.desc ≤ st.row then s.unblock u
        else if !s.streamRuns u x || !s.mayRepeat u || (decide (strmDRows st.desc ≤ st.row) && !s.rowReleased st.dests slot) then s
        else (s.repeated u).strmRow u x st
      | _ => s)

end Sys2Proof.Machine
end

