-- ==== Sys2Proof/Machine/EvLinks.lean ====
section
/-! DEFINITION. Events of the main lines: flits, key epochs, ports that go down, and the flits of collectives (R304 to
R308, R310, R313, R316, R345, R346). -/
namespace Sys2Proof.Machine

/-! ### Ports (R305, R313, R316) -/

/-- The partition of a main-line port: that of its district. -/
def State.portPart (s : State) (port : Nat) : Option Nat := s.partOf port

/-- The error record of a main-line port (R247). -/
def linkRec (part port syndrome : Nat) : ErrRec :=
  { ErrRec.blank part 3 with kind := 6, die := port / 2, syndrome := syndrome, port := port }

/-- The link error posted to the port's partition, coalesced (R249, R305). -/
def State.linkError (s : State) (port syndrome : Nat) : State :=
  match s.portPart port with
  | some p => s.postCoalesced (linkRec p port syndrome)
  | none => s

/-- Lanes in service. -/
def MainPort.width (x : MainPort) : Nat := popNat 8 x.lanes.toNat

/-- Open collectives at a port are abandoned. -/
def State.abandonPort (s : State) (port : Nat) : State :=
  (s.colls.filter (fun e => e.1 / 64 == port)).foldl (fun s e =>
    match Tab.find s.colls e.1 with
    | some c => if c.status.isNone then s.collAbandoned c else s
    | none => s) s

/-- A port with fewer than four lanes goes down (R316). -/
def State.downPort (s : State) (port : Nat) : State :=
  let x := s.mainPort port
  if x.down || decide (4 ≤ x.width) then s else (s.setMainPort port { x with down := true }).abandonPort port

/-- A lane retired, with its record (R249, R313). Below four lanes the port is down. -/
def State.retireLane (s : State) (port lane : Nat) : State :=
  let x := s.mainPort port
  let s := s.setMainPort port { x with refusals := Tab.del x.refusals lane, lanes := x.lanes &&& ~~~(1#8 <<< lane) }
  (match s.portPart port with
   | some p => s.postCoalesced (linkRec p port 6)
   | none => s).downPort port

/-- A refusal counted on a lane; the sixteenth in a row retires the lane. -/
def State.refuse (s : State) (port lane : Nat) : State :=
  let x := s.mainPort port
  let n := Tab.get x.refusals lane 0 + 1
  if 16 ≤ n then s.retireLane port lane else s.setMainPort port { x with refusals := Tab.put x.refusals lane n }

/-- A flit taken in SEQ order: behind the last one of an epoch SEQ starts again in the next (R305). -/
def MainPort.received (x : MainPort) : MainPort :=
  if flitLimit ≤ x.rxSeq + 1 then { x with rxSeq := 0, rxEpoch := x.rxEpoch + 1 } else { x with rxSeq := x.rxSeq + 1 }

/-- The port holds the key of the epoch in which it receives: of one that it has sent in, or of the next (R305). -/
def MainPort.hears (x : MainPort) : Bool :=
  x.key == .live && (decide (x.rxEpoch ≤ x.epoch) || (x.nextKey && x.rxEpoch == x.epoch + 1))

/-- A flit arrives; `ok`, it passes its CRC and its tag. Without the key of its epoch no tag does (DEDUCED, log entry 65). -/
def execFlitReceive (port lane : Nat) (ok : Bool) (s : State) : Host.Outcome State Fault Refusal :=
  let x := s.mainPort port
  .next (if x.down || decide (16 ≤ port) || decide (8 ≤ lane) || !x.lanes.getLsbD lane then s
    else if ok && x.hears then s.setMainPort port { x.received with refusals := Tab.del x.refusals lane }
    else (s.linkError port 5).refuse port lane)

/-- What waited for a key is sent. -/
def MainPort.sendQueued (x : MainPort) : MainPort :=
  x.queued.foldl (fun y f => y.send f.1 f.2.1 f.2.2.1 f.2.2.2) { x with queued := [] }

/-- A port in its next epoch, under that epoch's key. -/
def MainPort.nextEpoch (x : MainPort) : MainPort :=
  { x with epoch := x.epoch + 1, txSeq := 0, nextKey := false, key := .live }.sendQueued

/-- The rollover at SEQ 2^40 - 2^20, once the next epoch's key is installed. -/
def execEpochRollover (port : Nat) (s : State) : Host.Outcome State Fault Refusal :=
  let x := s.mainPort port
  .next (if decide (16 ≤ port) || x.down || !x.nextKey || !x.spent then s
    else
      let t := s.setMainPort port x.nextEpoch
      match s.portPart port with
      | some p => s.keyNotify t p
      | none => t)

/-- What makes a port go down took its last lanes already; with four lanes or more it stays up. -/
def execPortDown (port : Nat) (s : State) : Host.Outcome State Fault Refusal :=
  .next (if decide (16 ≤ port) then s else s.downPort port)

/-! ### Flits of a collective (R307, R308, R345, R346) -/

/-- The flit is the first data flit from its side. -/
def Coll.firstFrom (c : Coll) (fromPrev : Bool) : Bool :=
  if fromPrev then c.partials == 0 else c.written == 0

/-- The flit comes from a side that sends such elements: partials from below, results from above. -/
def Coll.expects (c : Coll) (port : Nat) (fromPrev : Bool) (h : CollHdr) : Bool :=
  h.result == !fromPrev &&
    (if fromPrev then !c.first && c.prev == port && h.elem == c.partials && decide (c.partials < c.count)
     else !c.last && c.next == port && c.op != 3 && h.elem == c.written && decide (c.written < c.partials))

def execCollDataFlit (port cid : Nat) (fromPrev : Bool) (hdr : CollHdr) (val : BitVec 32) (s : State) :
    Host.Outcome State Fault Refusal :=
  .next (match (if cid < 64 then Tab.find s.colls (port * 64 + cid) else none) with
    | none => s
    | some c =>
      if c.status.isSome || s.portDead port || !(s.mainPort port).hears || !c.expects port fromPrev hdr then s
      else if c.firstFrom fromPrev && CollHdr.differs hdr c then s.collAbandoned c
      else if fromPrev then s.collPartial c (c.cut val)
      else s.collResult c (c.cut val))

/-- An abandon flit at a rank: it goes on along the chain, the CWAITs end with ABANDONED, and the event is raised. -/
def State.abandonFrom (s : State) (port : Nat) (c : Coll) : State :=
  let s := s.setColl { c with status := some false }
  ((c.ports.filter (· != port)).foldl (fun s p => s.sendFlit p 4 c.cid 0 0) s).collEvent c

def execCollAbandonFlit (port cid : Nat) (fromPrev : Bool) (s : State) : Host.Outcome State Fault Refusal :=
  .next (match (if cid < 64 then Tab.find s.colls (port * 64 + cid) else none) with
    | none => s
    | some c =>
      if c.status.isSome || s.portDead port || !(s.mainPort port).hears || (if fromPrev then c.first || c.prev != port else c.last || c.next != port)
      then s
      else s.abandonFrom port c)

end Sys2Proof.Machine
end

