-- ==== Sys2Proof/Machine/EvSched.lean ====
section
/-! DEFINITION. Events of the signal boxes: doorbells, queues, waiting enqueuers, decisions, switch-outs and resumes,
launch lists, wake registers, the fault-service limit, and the depot cores' dispatch and pre-emption (R197, R206 to R225,
R237, R239, R273 to R280, R317). -/
namespace Sys2Proof.Machine

/-! ### Queues (R206, R208, R213, R214) -/

/-- An event on the partition's local queue `j`. -/
def State.onLocalQueue (s : State) (p j : Nat) (f : Nat → State) : State :=
  match s.localQueue p j with
  | some q => f q
  | none => s

/-- TAIL written: a value that the ring cannot hold is not taken and breaks the queue (R208). -/
def Queue.doorbell (x : Queue) (tail : BitVec 32) : Queue :=
  if x.st = .disabled then x
  else if (tail - x.head).toNat ≤ 2 ^ qdLog2n x.live then { x with tail := tail }
  else { x with st := .broken }

def execDoorbellWrite (part j : Nat) (val : BitVec 64) (s : State) : Host.Outcome State Fault Refusal :=
  .next (s.onLocalQueue part j (fun q => s.setQueue q ((s.queueAt q).doorbell (val.setWidth 32))))

/-- Word 0 of a descriptor with EN as given. -/
def withEn (d : List W64) (en : Bool) : List W64 :=
  match d with
  | w :: t => (if en then w ||| 0x4000000#64 else w &&& ~~~(0x4000000#64)) :: t
  | [] => []

def execQueueEnable (part j : Nat) (s : State) : Host.Outcome State Fault Refusal :=
  .next (s.onLocalQueue part j (fun q =>
    let x := s.queueAt q
    if x.st != .disabled then s
    else if s.qdOk part x.desc then
      s.setQueue q { Queue.reset with desc := withEn x.desc true, live := withEn x.desc true, st := .open_ }
    else s.setMstat part 1 q))

/-- A JDEC whose record has entered its queue writes 0 (R211). -/
def Unit.jdecEnds (x : Unit) : Unit :=
  match x.blocked with
  | some (.again (.jdec d _ _) _) => x.write d 0 0
  | _ => x

/-- PERMISSION with DETAIL 4 raised at the ENQ or JDEC of a waiting enqueuer, precise or at the firing (R213, R228, R229). -/
def State.refuseWaiter (s : State) (q u : Nat) : State :=
  match s.unit? u with
  | none => s
  | some x =>
    let (slot, taken) := match x.blocked with
      | some (.again _ c) => (c.slot, c.taken)
      | _ => (0, none)
    ((s.putUnit u { x with blocked := none, blockedUpd := .none }).returnTaken u x.isSeq taken).raise u slot (queueTrap q)

/-- EN cleared: unstarted records are discarded and counted, waiting enqueuers fault (R213). HEAD and TAIL stand until the queue is
enabled again (R208). -/
def State.disableQueue (s : State) (p q : Nat) : State :=
  let x := s.queueAt q
  let n := x.window.length + x.siding.length + b2n x.spill.isSome
  let s := s.setQueue q { Queue.reset with desc := withEn x.desc false, head := x.head, tail := x.tail }
  let s := x.waiters.foldl (fun s w => s.refuseWaiter q w.1) s
  s.postHost p 3 (w64 q) (w64 n)

def execQueueDisable (part j : Nat) (s : State) : Host.Outcome State Fault Refusal :=
  .next (s.onLocalQueue part j (fun q => if (s.queueAt q).st = .disabled then s else s.disableQueue part q))

/-- The signal box may fetch a ring record (R208, R209, R212). -/
def Queue.mayFetch (x : Queue) : Bool :=
  x.st != .disabled && x.st != .broken && !x.halted && !x.listed && x.windowRoom && x.waiters.isEmpty && x.tail != x.head

def execRingFetch (q : Nat) (s : State) : Host.Outcome State Fault Refusal :=
  let x := s.queueAt q
  .next (match s.queuePart q with
    | some p =>
      if x.mayFetch && !(s.part p).keyless then
        let a := qdRing x.live + 32 * (x.head.toNat % 2 ^ qdLog2n x.live)
        (s.setQueue q { x with head := x.head + 1 }).enterQueue q (qdCtx x.live) (s.readRecord p ⟨.device, a⟩)
      else s
    | none => s)

/-- The contexts that issued the records of those siding accesses that have been withheld for the limit: the write of the spill
buffer, the read of the oldest siding record (R214). -/
def Queue.overdue (x : Queue) (limit now : Nat) : List Nat :=
  (x.spill.filter (fun _ => !x.portWaits && decide (x.spillSince + limit ≤ now))).toList.map (·.1)
    ++ (if x.readback.any (fun t => decide (t + limit ≤ now)) then x.siding.head?.toList.map (·.2.2.2) else [])

/-- SPILL_FAULT raised in a context (R214): its units' fault contexts, an error record and the context's drain. -/
def State.spillFault (s : State) (p q c : Nat) : State :=
  match s.context? c with
  | some x =>
    if x.removing then s
    else ((s.contextFault c (trapOf .spillFault)).postErr
      { ErrRec.blank p 0 with ctx := c, code := Code.num .spillFault, die := queueDie q } 1).drainContext c
  | none => s

def execSpillFaultTimeout (q : Nat) (s : State) : Host.Outcome State Fault Refusal :=
  let x := s.queueAt q
  .next (match s.queuePart q with
    | some p =>
      match x.overdue (s.part p).fslimit (s.queueNow q) with
      | [] => s
      | cs => (cs ++ x.waiters.filterMap (fun w => (s.unit? w.1).map (·.ctx))).foldl (fun s c => s.spillFault p q c) s
    | none => s)

/-- The first of the waiting enqueuers: the lowest class, the earliest arrival within it (R212). -/
def State.firstWaiter (s : State) : List (Nat × Nat × Nat × Nat) → Option (Nat × Nat × Nat × Nat)
  | [] => none
  | w :: t =>
    match s.firstWaiter t with
    | some v => if s.waiterClass v < s.waiterClass w then some v else some w
    | none => some w

/-- The record that a waiting unit carries. -/
def Unit.inHand (x : Unit) : List W64 :=
  match x.blocked with
  | some (.again _ c) => c.words
  | _ => []

/-- A waiting enqueuer served: its record enters, it goes on; on a queue that is now disabled it faults. -/
def State.serveWaiter (s : State) (q : Nat) (w : Nat × Nat × Nat × Nat) : State :=
  let y := s.queueAt q
  match s.unit? w.1 with
  | none => s
  | some x =>
    let out := s.setQueue q { y with waiters := y.waiters.filter (· != w) }
    if y.st = .disabled then out.refuseWaiter q w.1
    else if y.room && !y.listed then
      (((out.enterQueue q x.ctx x.inHand).noteGrant x.region).onUnit w.1 Unit.jdecEnds).unblock w.1
    else s

/-- The first waiting enqueuer is served where the queue has room; siding accesses that stood at a main-line port are made
first (R212, R213). -/
def execEnqueueWaitServed (q : Nat) (s : State) : Host.Outcome State Fault Refusal :=
  let s := s.retryPort q
  .next (match s.firstWaiter (s.queueAt q).waiters with
    | some w => s.serveWaiter q w
    | none => s)

def execEnqueueWaiterPromotion (q i : Nat) (s : State) : Host.Outcome State Fault Refusal :=
  let x := s.queueAt q
  .next (match x.waiters[i]? with
    | some w =>
      if w.2.2.1 + 2 ^ 16 ≤ s.queueNow q then
        s.setQueue q { x with waiters := x.waiters.set i (w.1, w.2.1 + 1, s.queueNow q, w.2.2.2) }
      else s
    | none => s)

/-- A record one class lower, for every 2^24 die cycles (R216). -/
def QRec.promote (r : QRec) (now : Nat) : QRec :=
  if r.since + 2 ^ 24 ≤ now && r.cls != 0 then { r with cls := r.cls - 1, since := r.since + 2 ^ 24 } else r

def execRecordPromotion (q i : Nat) (s : State) : Host.Outcome State Fault Refusal :=
  let x := s.queueAt q
  .next (match x.window[i]? with
    | some r => s.setQueue q { x with window := x.window.set i (r.promote (s.queueNow q)) }
    | none => s)

/-! ### Decisions, switch-outs, resumes (R217, R218, R220 to R223, R237, R239) -/

def execScheduleDecision (die part : Nat) (s : State) : Host.Outcome State Fault Refusal :=
  .next (s.decision die part)

def execTileTaskBoundary (rg : Nat) (s : State) : Host.Outcome State Fault Refusal :=
  .next (match s.region? rg with
    | some x =>
      if x.st = .switching && s.atBoundary rg x && !(x.after == .saved && s.frozen rg) then
        if x.discard then s.discardRegion rg x.after else (s.endYields x).saveRegion rg x.after
      else s
    | none => s)

def execRegionResume (rg : Nat) (s : State) : Host.Outcome State Fault Refusal :=
  .next (match s.region? rg with
    | some x =>
      if x.st != .saved then s else
      let (_, f) := s.search x.die x.part
      (match f.hit with
       | some (.saved r, s') => if r = rg then s'.preemptFor x.die x.part f.missed else s
       | _ => s)
    | none => s)

/-! ### Launch lists and wake registers (R224, R225) -/

/-- A launch list refused: REFUSED, with ADDRESS where LADDR is at fault, and MSTAT 4. -/
def State.refuseList (s : State) (p q : Nat) (addr : Bool) : State :=
  let x := s.part p
  (s.setPart p { x with lstat := (x.lstat &&& 1) ||| 2 ||| (if addr then 4 else 0) }).setMstat p 4 q

/-- The records that a queue can hold at most. -/
def Queue.capacity (x : Queue) : Nat := 8 + (if qdLog2s x.live = 0 then 0 else 2 ^ qdLog2s x.live)

/-- A list of `n` records at LADDR lies in the partition's stacks. -/
def State.listAddrOk (s : State) (p a n : Nat) : Bool := s.ownsAddr p a && s.ownsAddr p (a + 32 * n - 1)

/-- A launch list submitted (R225). A value with a bit set outside [8:0] and [30:16] is refused with REFUSED and MSTAT 4: R225
says only that the other bits are 0 (DESIGN CHOICE, log entry 57). -/
def execLaunchListSubmit (part : Nat) (val : BitVec 64) (s : State) : Host.Outcome State Fault Refusal :=
  let x := s.part part
  let n := fld val.toNat 0 9
  let q := fld val.toNat 16 15
  .next (if (Tab.find s.partitions part).isNone then s
    else if x.launch.isSome || n = 0 || decide (256 < n) || val.toNat != q * 2 ^ 16 + n || s.queuePart q != some part
        || (s.queueAt q).st == .disabled || decide ((s.queueAt q).capacity < n)
    then s.refuseList part q false
    else if !s.listAddrOk part x.laddr.toNat n then s.refuseList part q true
    else if x.laddr.toNat % 32 != 0 then s.refuseList part q false
    else s.setPart part { x with launch := some (q, x.laddr.toNat, n), lstat := 1 })

/-- Places that the queue can still take at once. -/
def Queue.places (x : Queue) : Nat :=
  if x.halted || x.st == .disabled then 0
  else (if x.siding.isEmpty then 8 - x.window.length else 0)
    + (if qdLog2s x.live = 0 then 0 else 2 ^ qdLog2s x.live - x.siding.length)

/-- The records of a list enter consecutively, and nothing else enters the queue until they all have: those behind a
withheld siding write stay in hand. -/
def State.enterList (s : State) (p q : Nat) : Nat → Nat → State
  | 0, _ => (s.setQueue q { s.queueAt q with listed := false }).setPart p
      { s.part p with launch := none, lstat := (s.part p).lstat &&& ~~~1#64 }
  | n + 1, a =>
    if (s.queueAt q).room then
      (s.enterQueue q (qdCtx (s.queueAt q).live) (s.readRecord p ⟨.device, a⟩)).enterList p q n (a + 32)
    else (s.setQueue q { s.queueAt q with listed := true }).setPart p { s.part p with launch := some (q, a, n + 1) }

def execLaunchListEntry (part : Nat) (s : State) : Host.Outcome State Fault Refusal :=
  .next (match (s.part part).launch with
    | some (q, a, n) =>
      if (s.queueAt q).st = .disabled then
        (s.setPart part { s.part part with launch := none, lstat := 0 }).refuseList part q false
      else if ((s.queueAt q).listed || n ≤ (s.queueAt q).places) && s.mayEnter q rankDispatch then
        (s.noteEnter q rankDispatch).enterList part q n a
      else s
    | none => s)

/-- A wake register's value that can be armed (R224). -/
def State.wakeOk (s : State) (p : Nat) (w : W64) : Bool :=
  fld w.toNat 61 2 != 3 && s.partOfStn (fld w.toNat 52 9) == some p

def execWakeArm (part w : Nat) (val : BitVec 64) (s : State) : Host.Outcome State Fault Refusal :=
  let x := s.part part
  .next (if (Tab.find s.partitions part).isNone || decide (64 ≤ w) then s
    else if val.getLsbD 63 && !s.wakeOk part val then s.setMstat part 3 w
    else
      let s := s.setPart part { x with wake := Tab.set 0 x.wake w (val &&& 0xFFFFFC00FFFFFFFF#64) }
      if val.getLsbD 63 then s.testWakes part (wakeSignal val) else s)

/-! ### The fault-service limit (R197) -/

/-- The withheld accesses of a unit. -/
def State.holdsOf (s : State) (u : Nat) (x : Unit) : List Hold :=
  (match x.blocked with
   | some (.again _ c) => c.hold.toList
   | some (.stream st) => st.hold.toList
   | _ => [])
  ++ ((s.station (stnOf u)).copies.filter (fun c => c.2.busy && c.2.unit == u)).filterMap (fun c => c.2.hold)
  ++ (s.junctions.flatMap (fun j => j.2.tasks)).filterMap (fun t => match t.hold with
      | some (v, h) => if v = u then some h else none
      | none => none)
  ++ ((s.station (stnOf u)).ports.flatMap (fun p =>
      (p.2.held.filter (fun h => h.unit == u && h.region == x.region)).filterMap (fun h => h.withheld)))

/-- The limit reached in a revocable invocation: the region will be discarded and wait for service. No word of the unit is at
fault, and SY.EPC and SY.FADDR hold 0, in a sequenced unit too (DESIGN CHOICE, log entry 99). -/
def State.serviceTimeout (s : State) (u : Nat) (x : Unit) (r : Region) (h : Hold) : State :=
  (s.putUnit u (x.setFault (trapOf .serviceTimeout) 0 0)).putRegion x.region
    { r with st := .switching, discard := true, after := .waitingService, service := some (u, h) }

def execServiceTimeout (u : Nat) (s : State) : Host.Outcome State Fault Refusal :=
  .next (match s.unit? u with
    | some x =>
      (match (if isCore u then none else s.region? x.region) with
       | some r =>
         if (r.st == .running || (r.st == .switching && !r.discard)) && !r.unrevocable (s.commitIndex x.region) then
           match (s.holdsOf u x).find? (fun h => decide (h.since + (s.part x.part).fslimit ≤ s.regionCycles x.region)) with
           | some h => s.serviceTimeout u x r h
           | none => s
         else s
       | none => s)
    | none => s)

/-! ### Depot cores (R219, R273 to R280, R317) -/

/-- The saved kernels of a stack: core, place in its save slots, kernel. -/
def State.savedKernels (s : State) (stack : Nat) : List (Nat × SavedKernel) :=
  (s.cores.filter (fun c => stackOfCore c.1 == stack)).flatMap (fun c => c.2.saved.map (fun k => (c.1, k)))

/-- Saved kernels of a class in order of save, by their order numbers. -/
def insertOrder (n : Nat) : List Nat → List Nat
  | [] => [n]
  | m :: t => if n < m then n :: m :: t else m :: insertOrder n t

def State.savedKernelsOf (s : State) (stack cls : Nat) : List Nat :=
  ((s.savedKernels stack).filter (fun k => k.2.unit.sys.bclass.toNat == cls)).foldl (fun l k => insertOrder k.2.order l) []

/-- The unit of a kernel at its record's start (R273). -/
def kernelUnit (ctx p cls : Nat) (g : Graph) (rec : List W64) : Unit :=
  let x : Unit := { Unit.reset with
    ctx := ctx
    part := p
    fuse := 8
    hi := g.code.length
    pc := g.entry
    lm := allLive 64
    qclass := BitVec.ofNat 2 cls
    sys := { Sys.reset with bclass := BitVec.ofNat 2 cls } }
  ((x.setS 0 (recFrame rec)).setS 1 (recArg rec)).setS 2 (recJoin rec)

/-- The core's local SRAM zeroed unless its previous kernel ran in the same context (R273). -/
def State.prepareSram (s : State) (c ctx : Nat) : State :=
  if (s.core c).used && (s.core c).ctx == ctx then s
  else { s with sram := Memory.clear s.sram (c * sramBytes) ((c + 1) * sramBytes) }

/-- A kernel started on an idle core (R273). -/
def State.startKernel (s : State) (c q p : Nat) (g : Graph) (rec : List W64) : State :=
  let x := s.queueAt q
  let ctx := qdCtx x.live
  let stack := stackOfCore c
  let u := { kernelUnit ctx p (qdClass x.live) g rec with nstn := s.usableOn p (stack / 2), ndie := s.usableDies p }
  let s := (s.prepareSram c ctx).putUnit (coreBase + c) u
  let s : State := { s with ids := s.ids + 1 }
  s.onCore c (fun k => { k with
    st := .running, ctx := ctx, used := true, queue := q, record := rec, code := g.code, cyc := 0, since := s.coreNow c
    started := s.ids, dcount := 0, landings := 0, async := [], m := [], full := 0, heldMsg := [] })

/-- The candidates of a stack, with the pointer moved: saved kernels, then heads (R216, R217, R219, R278). -/
def State.depotSearch (s : State) (stack p : Nat) : State × List (Nat × Cand) :=
  let s := s.checkQueues (s.queuesOf true stack p)
  s.candidates (s.queuesOf true stack p) (s.savedKernelsOf stack) (depotKey stack p)

/-- A queue's head started on core `c`, or dropped where its load is refused (R72, R213, R219). -/
def State.dispatchHead (s : State) (stack p cls c q : Nat) : State :=
  let qs := s.queuesOf true stack p
  match (s.queueAt q).window with
  | [] => s
  | r :: _ =>
    match s.graph? (qdCtx (s.queueAt q).live) (recGid r.words) with
    | none => s
    | some g =>
      match depotReason g with
      | some e => s.refuseHead q e (0, 0)
      | none => (s.startKernel c q p g r.words).dispatched (depotKey stack p cls) q (fun s => s.eligible qs cls)

def execDepotDispatch (stack : Nat) (s : State) : Host.Outcome State Fault Refusal :=
  .next (match s.stackPart stack with
    | none => s
    | some p =>
      match s.idleCore stack, s.depotSearch stack p with
      | some c, (s', (cls, .head q) :: _) => s'.dispatchHead stack p cls c q
      | _, _ => s.checkQueues (s.queuesOf true stack p))

/-- The saved kernel taken from its save slot back onto a core (R278). -/
def State.resumeKernel (s : State) (c : Nat) (from_ : Nat) (k : SavedKernel) : State :=
  let s := s.onCore from_ (fun y => { y with saved := y.saved.filter (fun v => v.order != k.order) })
  let s := s.putUnit (coreBase + c) k.unit
  let cleared := Memory.clear s.sram (c * sramBytes) ((c + 1) * sramBytes)
  let s : State := { s with
    sram := Memory.writes cleared (k.sram.map (fun b => (c * sramBytes + b.1 % sramBytes, b.2))), ids := s.ids + 1 }
  s.onCore c (fun y => { y with
    st := .running, ctx := k.unit.ctx, used := true, queue := k.queue, record := k.record, code := k.code, cyc := k.cyc
    since := s.coreNow c, started := s.ids, dcount := k.dcount, async := k.async, m := k.m, full := k.full, heldMsg := k.held })

def execDepotResume (stack : Nat) (s : State) : Host.Outcome State Fault Refusal :=
  .next (match s.stackPart stack, s.idleCore stack with
    | some p, some c =>
      (match s.depotSearch stack p with
       | (s', (_, .saved n) :: _) =>
         (match (s'.savedKernels stack).find? (fun k => k.2.order == n) with
          | some k => s'.resumeKernel c k.1 k.2
          | none => s)
       | _ => s)
    | _, _ => s)

/-- The kernel that a waiting record of lower class pre-empts: the highest BCLASS, the most recently started (R276). -/
def State.depotVictim (s : State) (stack p : Nat) : Option Nat :=
  let run := ((List.range 16).map (fun i => 16 * stack + i)).filter (fun c =>
    (s.core c).st == .running && decide ((s.core c).saved.length < 2)
      && s.depotWaits stack p (fun k => decide (k < s.kernelClass c)))
  worstOf (run.map (fun c => (c, s.kernelClass c, (s.core c).started)))

/-- A core of the stack is being freed. -/
def State.coreFreeing (s : State) (stack : Nat) : Bool :=
  (List.range 16).any (fun i => (s.core (16 * stack + i)).st == .stopping || (s.core (16 * stack + i)).st == .saving)

def execDepotPreempt (stack : Nat) (s : State) : Host.Outcome State Fault Refusal :=
  .next (match s.stackPart stack, s.idleCore stack with
    | some p, none =>
      if s.coreFreeing stack then s
      else (match s.depotVictim stack p with
        | some c => s.requestStop c
        | none => s)
    | _, _ => s)

/-- The kernel's accesses that have begun are complete, their invalidations acknowledged, and nothing else is busy (R277). -/
def State.kernelQuiet (s : State) (c : Nat) (x : Unit) : Bool :=
  x.busy.isNone && x.loads.isEmpty && s.noPackets (coreBase + c) && s.noInvals (coreBase + c) .package
    && (match x.blocked with
        | some (.answer _) => false
        | _ => true)

/-- A blocked instruction withdrawn: it will be issued again; a record already decremented for stays in hand (R277). -/
def Unit.withdrawn (x : Unit) : Unit :=
  let y := { x with blocked := none, blockedUpd := .none, sys := { x.sys with epc := w64 x.pc } }
  match x.blocked with
  | some (.again i c) =>
    (match i with
     | .enq _ | .jdec _ _ _ =>
       if c.phase = 2 || c.phase = 3 then { y with blocked := some (.again i { c with phase := 3 }), blockedUpd := x.blockedUpd } else y
     | _ => y)
  | some _ => y
  | none => x

def execDepotStop (core : Nat) (s : State) : Host.Outcome State Fault Refusal :=
  .next (match s.unit? (coreBase + core) with
    | some x =>
      if (s.core core).st = .stopping && s.kernelQuiet core x then
        ((s.withdraw (coreBase + core)).putUnit (coreBase + core) x.withdrawn).onCore core (fun k => { k with
          st := .saving })
      else s
    | none => s)

/-- The kernel copied out into a save slot; the core is idle (R278). -/
def State.saveKernel (s : State) (c : Nat) (x : Unit) : State :=
  let s := s.landHeld c (s.coreNow c + 2)
  let x := (s.unit? (coreBase + c)).getD x
  let k := s.core c
  let v : SavedKernel := ⟨x, k.record, k.queue, s.depotCycles c, k.dcount, k.m, k.full, k.heldMsg,
    (Tab.range s.sram (c * sramBytes) ((c + 1) * sramBytes)).map (fun b => (b.1 % sramBytes, b.2)), k.code, k.async, s.ids⟩
  let s : State := { s with units := Tab.del s.units (coreBase + c), ids := s.ids + 1 }
  s.setCore c { k with
    st := .idle, queue := 0, record := [], cyc := 0, dcount := 0, async := [], m := [], full := 0, heldMsg := []
    saved := k.saved ++ [v] }

def execDepotSaveComplete (core : Nat) (s : State) : Host.Outcome State Fault Refusal :=
  .next (match s.unit? (coreBase + core) with
    | some x => if (s.core core).st = .saving then s.saveKernel core x else s
    | none => s)

/-- A failing core goes out of service; its kernel's record re-enters the head of its queue order (R317). -/
def State.failCore (s : State) (c : Nat) : State :=
  let k := s.core c
  let live := (s.unit? (coreBase + c)).isSome && (k.st == .running || k.st == .stopping || k.st == .saving || k.st == .stopped)
  let s := (s.discardKernel c .outOfService).retireNote (stackOfCore c) (fun e => { e with kind := 1, depot := c, die := stackOfCore c / 2 })
  if live && (s.queueAt k.queue).st != .disabled then
    let x := s.queueAt k.queue
    s.setQueue k.queue { x with window := ⟨k.record, qdClass x.live, s.queueNow k.queue⟩ :: x.window }
  else s

def execDepotCoreFailure (core : Nat) (s : State) : Host.Outcome State Fault Refusal :=
  .next (if core < 256 && (s.core core).st != .outOfService then s.failCore core else s)

/-- A triple delivered to its path; DCOUNT lands in S14, in the saved image where its kernel is saved (R277, R280). -/
def State.deliverTriple (s : State) (c : Nat) (t : Triple) (h : W64) : State :=
  let s := s.putTriple c t.path h t.words
  let k := s.core c
  let drop := fun (ts : List Triple) => ts.filter (fun v => v.id != t.id)
  if k.async.any (fun v => v.id == t.id) then
    ((s.setCore c { k with async := drop k.async, dcount := k.dcount + 1, landings := k.landings + 1 }).settleBusy (coreBase + c)).onUnit (coreBase + c)
      (fun x => { x.setS 14 (w64 (k.dcount + 1)) with turned := s.coreNow c + 1 })
  else s.setCore c { k with saved := k.saved.map (fun v =>
    if v.async.any (fun w => w.id == t.id) then
      { v with async := drop v.async, dcount := v.dcount + 1, unit := v.unit.setS 14 (w64 (v.dcount + 1)) }
    else v) }

def execTripleDelivery (core i : Nat) (s : State) : Host.Outcome State Fault Refusal :=
  let k := s.core core
  .next (match (k.async ++ k.saved.flatMap (·.async))[i]? with
    | some t =>
      (match t.handle with
       | some h => s.deliverTriple core t h
       | none => s)
    | none => s)

/-- A message to a core: it lands in an empty register, is held by a full one, and is refused while one is held; one that lands at
the end of this very cycle is held until then (R183, R279). -/
def execMailboxSend (core n : Nat) (payload : BitVec 64) (land : Bool) (s : State) :
    Host.Outcome State Fault Refusal :=
  let t := s.landHeld core (s.coreNow core)
  let k := t.core core
  .next (if (s.unit? (coreBase + core)).isNone || decide (8 ≤ n) then s
    else if (Tab.find k.heldMsg n).isSome then t
    else if !k.full.getLsbD n then (t.landMessage core n payload land).noteLanding (coreBase + core)
    else t.setCore core { k with heldMsg := Tab.put k.heldMsg n (payload, land, 0) })

end Sys2Proof.Machine
end

