-- ==== Sys2Proof/Machine/EvHost.lean ====
section
/-! DEFINITION. What the host does to a partition: context commands, removal, the register window, settings, reports,
keys, registers and its window onto the partition's memory (R220, R241 to R246, R298 to R303, R308 to R312). -/
namespace Sys2Proof.Machine

def State.present (s : State) (p : Nat) : Bool := (Tab.find s.partitions p).isSome

/-! ### Context commands (R220, R241, R299) -/

/-- A write to the management block of logical device 0 in recovery mode, where no partition stands behind it: its registers
take it, and nothing else is there (R312). -/
def State.recoveryWrite (s : State) (p o : Nat) (f : State → State) : State :=
  if s.power = .recovery && p = 0 && decide (o < 0x1000) then
    { s with ld0 := (f { s with partitions := [(0, s.ld0)] }).part 0 }
  else s

/-- A context command is carried out where it names a context of the partition; else MSTAT is 6. -/
def State.ctxCommand (s : State) (p ctx : Nat) (f : State) : State :=
  if !s.present p then s.recoveryWrite p 0x048 (fun s => s.setMstat p 6 ctx)
  else match s.context? ctx with
    | some c => if c.desc.part = p then f else s.setMstat p 6 ctx
    | none => s.setMstat p 6 ctx

/-- A stopped unit goes on: one that a fault stopped at SY.EPC, behind the word that it may still be at, with its withheld
access translated again. -/
def Unit.goOn (x : Unit) : Unit :=
  let x := x.liftHold (fun _ _ => true)
  { x with stopped := false, gated := false
           pc := if x.stopped && x.isSeq then (x.sys.epc.toNat + (if x.issued then 2 ^ 15 - 1 else 0)) % 2 ^ 15 else x.pc }

/-- A region that is stopped resumes: a resident one runs on; a saved one waits to be placed and replayed. -/
def State.resumeStopped (s : State) (r : Nat) (x : Region) : State :=
  match x.st with
  | .stoppedResident =>
    let s := x.units.foldl (fun s u => s.onUnit u Unit.goOn) s
    let s := x.stations.foldl (fun s n => s.onStation n (fun st => { st with
      copies := st.copies.map (fun c => (c.1, if x.units.contains c.2.unit then { c.2 with hold := none } else c.2))
      ports := st.ports.map (fun p => (p.1, { p.2 with
        held := p.2.held.map (fun h => if h.region = r then { h with withheld := none } else h) })) })) s
    let s := x.stations.foldl (fun s n => s.onJunction n (fun j =>
      if j.claim = some r then { j with tasks := j.tasks.map (fun t => t.liftHold (fun _ _ => true)) } else j)) s
    s.putRegion r { x with st := .running }
  | .stoppedSaved => s.putRegion r { x with st := .saved }
  | _ => s

def RState.isStopped : RState → Bool
  | .stoppedResident | .stoppedSaved => true
  | _ => false

/-- A stopped kernel resumes from SY.EPC (R275). -/
def State.resumeCore (s : State) (c : Nat) : State :=
  (s.onUnit (coreBase + c) Unit.goOn).onCore c (fun k => { k with st := .running })

/-- The cores with a stopped kernel of a context. -/
def State.stoppedCores (s : State) (ctx : Nat) : List Nat :=
  (s.cores.filter (fun c => c.2.st == .stopped && c.2.ctx == ctx)).map (·.1)

def execCtxcmdResume (part ctx : Nat) (s : State) : Host.Outcome State Fault Refusal :=
  let rs := s.regions.filter (fun r => r.2.ctx == ctx && r.2.st.isStopped)
  let cs := s.stoppedCores ctx
  .next (s.ctxCommand part ctx
    (if rs.isEmpty && cs.isEmpty then s.setMstat part 2 ctx
     else cs.foldl (fun s c => s.resumeCore c) (rs.foldl (fun s r => s.resumeStopped r.1 r.2) s)))

def execCtxcmdKill (part ctx : Nat) (s : State) : Host.Outcome State Fault Refusal :=
  .next (s.ctxCommand part ctx (s.drainContext ctx))

def execCtxcmdSwitchOut (part ctx : Nat) (s : State) : Host.Outcome State Fault Refusal :=
  .next (s.ctxCommand part ctx
    ((s.cores.filter (fun c => c.2.st == .running && c.2.ctx == ctx)).foldl (fun s c => s.requestStop c.1)
      ((s.regions.filter (fun r => r.2.ctx == ctx)).foldl (fun s r => s.requestSwitch r.1) s)))

/-! ### The end of a drain (R242 to R246, R311) -/

/-- A copy waits for a slot of an arc that enters the region. -/
def State.slotDue (s : State) (r : Nat) : Bool :=
  s.stations.any (fun n => n.2.platform.any (fun e =>
    match e.2.what with
    | .slot _ _ _ => n.2.arcIn e.1 r
    | _ => false))

/-- What a draining region has begun is complete, and no token is in its inboxes or on its way to them (R244). -/
def State.drained (s : State) (r : Nat) (x : Region) : Bool :=
  s.noFlights r && !s.slotDue r && !s.regionRuns r x && !s.triplesDue r
    && x.units.all (fun u => match s.unit? u with
        | some y => y.busy.isNone && y.reads.isEmpty && !y.mustFinish && y.inbox.all (fun b => b.2.q.isEmpty)
        | none => true)
    && !s.mesh.any (fun p => x.units.contains p.unit)
    && x.stations.all (fun n => (s.station n).copies.all (fun c => !(c.2.busy && x.units.contains c.2.unit)))
    && !s.mcasts.any (fun m => m.2.region == r)
    && x.stations.all (fun n => (s.junction n).claim != some r || !(s.junction n).working)

/-- A drained region released: quota, arcs, mailbox lines and claims (R244). -/
def State.releaseRegion (s : State) (r : Nat) : State :=
  let s : State := { s with stations := s.stations.map (fun n => (n.1, { n.2 with
    arcs := n.2.arcs.filter (fun a => a.2.region != r)
    platform := n.2.platform.filter (fun e => !n.2.arcIn e.1 r) })) }
  s.unload r

def execRegionRelease (rg : Nat) (s : State) : Host.Outcome State Fault Refusal :=
  .next (match s.region? rg with
    | some x => if x.st = .draining && s.drained rg x then s.releaseRegion rg else s
    | none => s)

/-- Stations that fail their self-test, or were retired before, stay out of service (R313, R322). -/
def retiredStations (s : State) (failing : List Failing) : Tab Station :=
  (List.range 512).filterMap (fun n =>
    if failing.contains (.station n) || (s.station n).retired then some (n, { Station.reset with retired := true }) else none)

/-- Depot cores that fail their self-test, or were out of service before, stay so (R313, R322). -/
def keptCores (s : State) (failing : List Failing) : Tab Core :=
  (List.range 256).filterMap (fun n =>
    if failing.contains (.core n) || (s.core n).st == .outOfService then some (n, { Core.reset with st := .outOfService })
    else none)

/-- The drain of a revoked partition completes with its last context (R311). -/
def State.revokeDone (s : State) (p : Nat) : State :=
  let x := s.part p
  if x.memKey = .revoked && !s.contexts.any (fun c => c.2.desc.part == p) then
    s.keyNotify (s.setPart p { x with memKey := .empty, st := .revoked }) p
  else s

/-- Dirty lines of the L2 written back to the stacks. -/
def State.writeBackAll (s : State) : State := (s.lines.map (·.1)).foldl (fun s k => s.writeBack k) s

/-- Core power removed (R324): what the fabric, the junctions and the L2 held is lost; the stacks, the retirement record and
what stands in the host, at the peers and in the management path stay. Dirty lines are written back first, so that the
records stay (DESIGN CHOICE, log entry 71). -/
def State.dropCore (s : State) : State :=
  let t := s.writeBackAll
  { State.reset with
    agenda := t.agenda, free := t.free, ids := t.ids, boots := t.boots, clocks := t.clocks, dclocks := t.dclocks
    dram := t.dram, host := t.host, peer := t.peer, poisoned := t.poisoned
    stations := retiredStations t [], cores := keptCores t []
    mainPorts := t.mainPorts, partitions := t.partitions, retiredCh := t.retiredCh, marked := t.marked
    power := .off }

/-- A die is at its critical temperature and every partition is drained: a record of class 0 to each, and core power goes
(R324). -/
def State.coolDown (s : State) : State :=
  match s.critical with
  | some die =>
    if s.contexts.isEmpty then
      ((s.partitions.map (·.1)).foldl (fun s p => s.postErr { ErrRec.blank p 0 with die := die } 1) s).dropCore
    else s
  | none => s

/-- The context of a fault or migration record. -/
def wordCtx (w : W64) : Nat := fld w.toNat 48 16

/-- No kernel of the context is on a core or saved. -/
def State.noKernels (s : State) (ctx : Nat) : Bool :=
  s.cores.all (fun c => !((c.2.st != .idle && c.2.st != .outOfService) && c.2.ctx == ctx)
    && !c.2.saved.any (fun k => k.unit.ctx == ctx))

/-- A context removed: the pager drops its records and an error record of class 4 marks the removal; the faults counted
during the drain are added to its COUNT (R198, R245, R246, R249). An access of the eviction engine or the poison walker that
is withheld in its tables loses its record, and the engine waits for ever: the spec says nothing of it (DESIGN CHOICE, log
entry 87). -/
def State.removeContext (s : State) (ctx : Nat) (c : Context) : State :=
  let p := c.desc.part
  let x := s.part p
  let s := s.setPart p { x with faultq := x.faultq.filter (fun r => wordCtx r.w1 != ctx)
                                migq := x.migq.filter (fun m => wordCtx m.1 != ctx) }
  let s : State := { s with contexts := Tab.del s.contexts ctx }
  ((s.postErr { ErrRec.blank p 4 with ctx := ctx } (1 + c.drainFaults)).revokeDone p).coolDown

def execContextRemoval (ctx : Nat) (s : State) : Host.Outcome State Fault Refusal :=
  .next (match s.context? ctx with
    | some c =>
      if c.removing && !s.regions.any (fun r => r.2.ctx == ctx) && s.noKernels ctx then s.removeContext ctx c else s
    | none => s)

/-! ### The register window (R300) -/

/-- What UNITSEL names: a core, or an element. -/
structure Sel where
  ctx : Nat
  core : Option Nat
  station : Nat
  element : Nat
  deriving DecidableEq, Repr

def selOf (w : W64) : Sel :=
  let n := w.toNat
  ⟨fld n 0 16, if n.testBit 31 then some (fld n 32 8) else none, fld n 16 3 * 64 + fld n 19 6, fld n 25 6⟩

/-- The unit's elements contain element `e` of station `n`. -/
def Unit.covers (u : Nat) (x : Unit) (n e : Nat) : Bool :=
  match fuseShape x.fuse with
  | some (r, c) =>
    let t := elemOf u
    stnOf u == n && decide (t / 8 ≤ e / 8) && decide (e / 8 < t / 8 + r) && decide (t % 8 ≤ e % 8)
      && decide (e % 8 < t % 8 + c)
  | none => false

/-- Where the selected unit stands: on its station or core, or saved with region `r`. -/
inductive Shown where
  | live (u : Nat) (x : Unit)
  | saved (r u : Nat) (x : Unit)
  | none
  deriving DecidableEq, Repr

/-- The stopped unit that the window shows (R241, R275). -/
def State.shown (s : State) (p : Nat) (d : Sel) : Shown :=
  let mine := match s.context? d.ctx with
    | some c => c.desc.part == p
    | none => false
  if !mine then .none
  else match d.core with
    | some c =>
      (match s.unit? (coreBase + c) with
       | some x => if (s.core c).st = .stopped && x.ctx = d.ctx then .live (coreBase + c) x else .none
       | none => .none)
    | none =>
      match s.units.find? (fun e => !isCore e.1 && e.2.ctx == d.ctx && Unit.covers e.1 e.2 d.station d.element
          && (match s.region? e.2.region with
              | some r => r.st == .stoppedResident
              | none => false)) with
      | some e => .live e.1 e.2
      | none =>
        match (s.regions.filter (fun r => r.2.ctx == d.ctx && r.2.st == .stoppedSaved)).findSome? (fun r =>
            (r.2.savedUnits.find? (fun e => Unit.covers e.1 e.2 d.station d.element)).map (fun e => (r.1, e))) with
        | some (r, e) => .saved r e.1 e.2
        | none => .none

/-- The system register numbered `f`. -/
def sysRegOf (f : Nat) : Option SysReg :=
  [SysReg.cause, .faddr, .ivec, .oor, .epc, .status, .prio, .nstn, .rsdepth, .rspill, .rslimit, .migth, .part][f]?

/-- One lane of a V register: lanes at or above the unit's lane count read 0 and ignore writes. An access at an odd
multiple of 4 is to that lane alone, one at a multiple of 8 to two lanes. -/
def Unit.laneAt (x : Unit) (v j : Nat) : W64 := if j < x.lanes then w64 (x.vLane (Fin.ofNat 32 v) j).toNat else 0

def Unit.setLaneAt (x : Unit) (v j n : Nat) : Unit := if j < x.lanes then x.setLane (Fin.ofNat 32 v) j (lane32 n) else x

def Unit.lanePair (x : Unit) (v j : Nat) : W64 := w64 ((x.laneAt v (j + 1)).toNat * 2 ^ 32 + (x.laneAt v j).toNat)

def Unit.setLanePair (x : Unit) (v j : Nat) (w : W64) : Unit :=
  (x.setLaneAt v j w.toNat).setLaneAt v (j + 1) (w.toNat >>> 32)

/-- Return-address entry `e`, the oldest being entry 0. -/
def Unit.retEntry (x : Unit) (e : Nat) : Nat := (x.rstack.reverse[e]?.getD 0).toNat

/-- Token `k` of a channel, word `i`. -/
def tokenWord (t : Token) (i : Nat) : W64 :=
  match i with
  | 0 => t.payload
  | 1 => w64 (b2n t.live.isSome * 4 + t.tag.code)
  | 2 => (t.live.getD 0).setWidth 64
  | _ => ((t.live.getD 0) >>> 64).setWidth 64

/-- The window's 64-bit word at an offset. `k` is the core of a depot kernel. -/
def State.windowRead (s : State) (u : Nat) (x : Unit) (o : Nat) : W64 :=
  let k := s.core (coreOf u)
  if o % 8 != 0 then (if o % 4 = 0 && decide (o < 0x4000) then x.laneAt (o / 512) (o % 512 / 4) else 0)
  else if o < 0x4000 then x.lanePair (o / 512) (o % 512 / 4)
  else if o < 0x4080 then x.sReg (Fin.ofNat 16 ((o - 0x4000) / 8))
  else if o = 0x4080 then x.p.setWidth 64
  else if o = 0x4088 then w64 ((x.kReg 3).toNat * 2 ^ 32 + (x.kReg 2).toNat * 2 ^ 16 + (x.kReg 1).toNat)
  else if o = 0x4090 then x.lm.setWidth 64
  else if o = 0x4098 then (x.lm >>> 64).setWidth 64
  else if o = 0x40A0 then w64 (if x.isSeq then x.pc else 0)
  else if o = 0x40A8 then x.invix.setWidth 64
  else if o = 0x40B0 then w64 (x.nanp.toNat * 2 ^ 32 + x.ovf.toNat)
  else if o = 0x40B8 then x.satn.setWidth 64
  else if o = 0x40C0 then x.enable.setWidth 64
  else if 0x4100 ≤ o && o < 0x4180 then w64 (x.retEntry ((o - 0x4100) / 8))
  else if 0x4200 ≤ o && o < 0x4280 then
    let g := x.gen (Fin.ofNat 4 ((o - 0x4200) / 32))
    match (o - 0x4200) % 32 / 8 with
    | 0 => g.counter.setWidth 64
    | 1 => (g.counter >>> 64).setWidth 64
    | 2 => g.key
    | _ => 0
  else if 0x4300 ≤ o && o < 0x4340 && isCore u then Tab.get k.m ((o - 0x4300) / 8) 0
  else if o = 0x4340 && isCore u then k.full.setWidth 64
  else if 0x4400 ≤ o && o < 0x4468 then
    match sysRegOf ((o - 0x4400) / 8) with
    | some r => s.sysRead u x r
    | none => 0
  else if 0x4600 ≤ o && o < 0x4640 then
    let b := x.box ((o - 0x4600) / 8)
    w64 (b.q.length % 2 ^ 16 * 2 ^ 16 + b.resid.toNat)
  else if 0x4800 ≤ o && o < 0x5800 then
    match (x.box ((o - 0x4800) / 512)).q[(o - 0x4800) % 512 / 32]? with
    | some t => tokenWord t (o % 32 / 8)
    | none => 0
  else 0

/-- The return-address store with `held` entries, the oldest kept: entries beyond those it held read 0 (R300). -/
def Unit.setHeldEntries (x : Unit) (held : Nat) : Unit :=
  { x with rstack := if held ≤ x.rstack.length then x.rstack.drop (x.rstack.length - held)
                     else List.replicate (held - x.rstack.length) 0 ++ x.rstack }

/-- The host's write of a system register: every field, read-only ones too, but for SY.STATUS.UNREV, which is the
region's, and SY.MIGTH, which is the partition's. -/
def Unit.hostSysWrite (x : Unit) (r : SysReg) (v : W64) : Unit :=
  match r with
  | .status => { x with sys := { x.sys with
      hen := v.getLsbD 32, hm := v.getLsbD 33, hvec := v.setWidth 15, replay := v.getLsbD 36 } }
  | .rsdepth =>
    let y := x.setHeldEntries (min 16 (fld v.toNat 0 5))
    { y with sys := { y.sys with spilled := (v >>> 5).setWidth 27 } }
  | .part => { x with sys := { x.sys with partNo := some v } }
  | .faddr => { x with sys := { x.sys with faddr := v } }
  | .ivec => { x with sys := { x.sys with ivec := v } }
  | .nstn => { x with nstn := v.toNat }
  | r => x.sysWrite r v

/-- A generator register with word `i` of its image written. -/
def Gen.setWord (g : Gen) (i : Nat) (v : W64) : Gen :=
  match i with
  | 0 => { g with counter := BitVec.ofNat 128 (g.counter.toNat / 2 ^ 64 * 2 ^ 64 + v.toNat) }
  | 1 => { g with counter := BitVec.ofNat 128 (v.toNat * 2 ^ 64 + g.counter.toNat % 2 ^ 64) }
  | 2 => { g with key := v }
  | _ => g

/-- A write through the window to what the unit holds itself. -/
def Unit.windowWrite (x : Unit) (o : Nat) (v : W64) : Unit :=
  if o % 8 != 0 then (if o % 4 = 0 && decide (o < 0x4000) then x.setLaneAt (o / 512) (o % 512 / 4) v.toNat else x)
  else if o < 0x4000 then x.setLanePair (o / 512) (o % 512 / 4) v
  else if o < 0x4080 then x.setS (Fin.ofNat 16 ((o - 0x4000) / 8)) v
  else if o = 0x4080 then { x with p := v.setWidth 8 }
  else if o = 0x4088 then
    ((x.setK 1 (v.setWidth 16)).setK 2 ((v >>> 16).setWidth 16)).setK 3 ((v >>> 32).setWidth 16)
  else if o = 0x4090 then
    { x with lm := BitVec.ofNat 128 (x.lm.toNat / 2 ^ 64 * 2 ^ 64 + v.toNat) &&& allLive x.lanes }
  else if o = 0x4098 then
    { x with lm := BitVec.ofNat 128 (v.toNat * 2 ^ 64 + x.lm.toNat % 2 ^ 64) &&& allLive x.lanes }
  else if o = 0x40A0 then (if x.isSeq then { x with pc := v.toNat % 2 ^ 15 } else x)
  else if o = 0x40A8 then { x with invix := v.setWidth 32 }
  else if o = 0x40B0 then { x with ovf := v.setWidth 32, nanp := (v >>> 32).setWidth 32 }
  else if o = 0x40B8 then { x with satn := v.setWidth 32 }
  else if 0x4100 ≤ o && o < 0x4180 then
    let e := (o - 0x4100) / 8
    if e < x.rstack.length then { x with rstack := x.rstack.set (x.rstack.length - 1 - e) (v.setWidth 15) } else x
  else if 0x4200 ≤ o && o < 0x4280 then
    let g := (o - 0x4200) / 32
    { x with gens := Tab.set Gen.reset x.gens g ((x.gen (Fin.ofNat 4 g)).setWord ((o - 0x4200) % 32 / 8) v) }
  else if 0x4400 ≤ o && o < 0x4468 then
    match sysRegOf ((o - 0x4400) / 8) with
    | some r => x.hostSysWrite r v
    | none => x
  else x

/-- The mailbox registers of a stopped kernel written. -/
def Core.windowWrite (k : Core) (o : Nat) (v : W64) : Core :=
  if o % 8 = 0 && decide (0x4300 ≤ o) && decide (o < 0x4340) then { k with m := Tab.set 0 k.m ((o - 0x4300) / 8) v }
  else if o = 0x4340 then { k with full := v.setWidth 8 }
  else k

/-- SY.STATUS.UNREV written through the window: whether the invocation at the region's commit index is unrevocable. -/
def State.setUnrev (s : State) (rg : Nat) (b : Bool) : State :=
  let i := s.commitIndex rg
  s.onRegion rg (fun x => if x.unrevocable i == b then x else { x with unrev := if b then some i else none })

/-- What a write through the window changes outside the unit: SY.STATUS.UNREV, the region's, and SY.MIGTH, the
partition's. -/
def State.windowShared (s : State) (p rg o : Nat) (v : W64) : State :=
  if o = 0x4428 then (if rg = 0 then s else s.setUnrev rg (v.getLsbD 35))
  else if o = 0x4458 then s.setPart p { s.part p with migth := v.setWidth 16 }
  else s

/-- An access through the window to what it shows. -/
def State.windowAccess (s : State) (p : Nat) (d : Sel) (o : Nat) (wr : Option W64) : State :=
  match s.shown p d, wr with
  | .live u x, none => s.setPart p { s.part p with winData := s.windowRead u x o }
  | .saved _ u x, none => s.setPart p { s.part p with winData := s.windowRead u x o }
  | .live u x, some v =>
    let s := (s.putUnit u (x.windowWrite o v)).windowShared p x.region o v
    if isCore u then s.onCore (coreOf u) (fun k => k.windowWrite o v) else s
  | .saved r u x, some v =>
    (s.onRegion r (fun y => { y with savedUnits := Tab.put y.savedUnits u (x.windowWrite o v) })).windowShared p r o v
  | .none, none => (s.setPart p { s.part p with winData := 0 }).setMstat p 7 d.ctx
  | .none, some _ => s.setMstat p 7 d.ctx

def execRegisterWindowAccess (part off : Nat) (wr : Option (BitVec 64)) (s : State) : Host.Outcome State Fault Refusal :=
  .next (if s.present part then s.windowAccess part (selOf (s.part part).unitsel) off wr else s)

/-! ### Settings (R301) -/

def limitOk (v : W64) : Bool := decide (2 ^ 16 ≤ v.toNat) && decide (v.toNat ≤ 2 ^ 40)

def State.settingWrite (s : State) (part off : Nat) (val : W64) : State :=
  let x := s.part part
  if off = 0x100 then (if limitOk val then s.setPart part { x with wdlimit := val.toNat } else s.setMstat part 8 0)
  else if off = 0x108 then (if limitOk val then s.setPart part { x with fslimit := val.toNat } else s.setMstat part 8 0)
  else s

def execPartitionSettingWrite (part off : Nat) (val : BitVec 64) (s : State) : Host.Outcome State Fault Refusal :=
  .next (if s.present part then s.settingWrite part off val
    else s.recoveryWrite part off (fun s => s.settingWrite part off val))

/-! ### The window onto the partition's memory (R298) -/

/-- Bytes written at an offset of the partition's window: its stacks stand one behind the other. -/
def State.storeWindow (s : State) (p o : Nat) (bs : List Byte) : State :=
  let room := stackBytes - o % stackBytes
  let put := fun (s : State) o (bs : List Byte) =>
    if bs.isEmpty then s else s.homeSync p .device (s.windowLoc p o).addr bs 0 false
  put (put s o (bs.take room)) (o + room) (bs.drop room)

/-- The bytes lie in the window, and in at most two stacks. -/
def State.inWindow (s : State) (p o n : Nat) : Bool :=
  decide (o + n ≤ (s.districts p).length * stackBytes) && decide (n ≤ stackBytes)

/-- The keys of the partition serve accesses from outside. -/
def Partition.keyed (x : Partition) : Bool := x.memKey == .active

def execHostMemRead (part o n : Nat) (s : State) : Host.Outcome State Fault Refusal :=
  let x := s.part part
  let frames := (List.range n).map (fun i => (s.windowLoc part (o + i)).addr / 2 ^ 16)
  .next (if !s.present part || !s.inWindow part o n then s
    else if !x.keyed || frames.any s.poisoned.contains then
      s.setPart part { x with hostData := List.replicate n 0, hostPoison := true }
    else s.setPart part { x with
      hostData := (List.range n).map (fun i => s.homeByte part (s.windowLoc part (o + i))), hostPoison := false })

def execHostMemWrite (part o : Nat) (data : List (BitVec 8)) (s : State) : Host.Outcome State Fault Refusal :=
  .next (if s.present part && s.inWindow part o data.length && (s.part part).keyed then s.storeWindow part o data else s)

/-! ### Attestation (R312) -/

/-- Byte `i` of the transport public key, 384 bytes of modulus and the exponent; another key after every bring-up (R310). -/
def State.keyByte (s : State) (i : Nat) : Byte := Config.freeByte (2 ^ 64 * (s.boots + 1) + i)

/-- The 48 bytes of a SHA-384 hash. -/
def digest (bs : List Byte) : List Byte := (List.range 48).map (Config.sha384 bs)

/-- The bytes of a report: the nonce, the digests and the signatures. The boot ROM, the image, the pager configuration,
the layout and the transport key have the same digests in every report while they are the same; the signatures are free (DESIGN
CHOICE, log entry 69). -/
def State.reportBytes (s : State) (p : Nat) : List Byte :=
  (List.range 4).flatMap (fun i => bytesOf 8 (Tab.get (s.part p).attNonce i 0).toNat)
    ++ digest Config.bootRom ++ digest (Config.firmware s.boots)
    ++ digest (Config.pagerConfig s.boots)
    ++ digest (Config.layout (s.districts p) (s.part p).pager)
    ++ digest ((List.range 388).map s.keyByte)
    ++ (List.range 36048).map (fun i => Config.freeByte (s.free + i))

def execAttestationReport (part : Nat) (_val : BitVec 64) (s : State) : Host.Outcome State Fault Refusal :=
  let x := s.part part
  let a := x.attAddr.toNat
  .next (if !s.present part then s
    else
      let bs := s.reportBytes part
      let s : State := { s with free := s.free + 36048 }
      if s.inWindow part a 36320 && x.keyed then
        let s := s.storeWindow part a bs
        s.setPart part ((s.part part).notify 3)
      else s)

/-! ### Keys (R305, R308, R310, R311) -/

/-- Every frame of the partition's stacks filled with zeros; what caches held of them is gone. -/
def State.scrub (s : State) (p : Nat) : State :=
  let ds := s.districts p
  { s with
    dram := ds.foldl (fun m d => Memory.clear m (devAddr d 0) (devAddr d stackBytes)) s.dram
    lines := s.lines.filter (fun l => !(l.2.loc.kind == .device && ds.contains (stackOf l.2.loc.addr)))
    replicas := s.replicas.filter (fun r => !ds.contains (stackOf (128 * r.line))) }

def State.badKey (s : State) (p : Nat) : State := s.setMstat p 5 0

def execKeyInstallMemory (part : Nat) (ok : Bool) (s : State) : Host.Outcome State Fault Refusal :=
  let x := s.part part
  .next (if !s.present part then s
    else if !ok || x.memKey != .empty then s.badKey part
    else s.keyNotify ((s.scrub part).setPart part { x with memKey := .scrubbing, st := .scrubbing }) part)

def execScrubComplete (part : Nat) (s : State) : Host.Outcome State Fault Refusal :=
  let x := s.part part
  .next (if s.present part && x.memKey == .scrubbing then
      s.keyNotify (s.setPart part { x with memKey := .active, st := .active }) part
    else s)

/-- A port with a new key: that of epoch 0 at a port that has had none, that of the next epoch at a port that has one; a
port whose key was zeroed goes over to a new epoch in both directions at once, since a key serves one epoch only (R305;
DEDUCED, log entry 65). -/
def MainPort.keyIn (x : MainPort) : MainPort :=
  match x.key with
  | .none => { x with key := .live }.sendQueued
  | .live => { x with nextKey := true }
  | .zeroed =>
    let e := max x.epoch x.rxEpoch + 1
    { x with epoch := e, rxEpoch := e, txSeq := 0, rxSeq := 0, nextKey := false, key := .live }.sendQueued

/-- A port keyed; the far partition's window is what the far end has opened. -/
def State.keyPort (s : State) (port : Nat) : State :=
  let (n, s) := s.draw
  s.setMainPort port { (s.mainPort port).keyIn with window := n % 2 ^ 37 }

/-- The keys of a port zeroed, with what waits at it to be sent (R311). -/
def MainPort.zeroKeys (x : MainPort) : MainPort :=
  { x with key := if x.key = .none then .none else .zeroed, nextKey := false, queued := [] }

def execKeyInstallMainLine (part : Nat) (ok : Bool) (s : State) : Host.Outcome State Fault Refusal :=
  .next (if !s.present part then s
    else if !ok then s.badKey part
    else
      s.keyNotify ((s.part part).districts.foldl (fun s d => s.keyPort d) s) part)

def execKeyInstallIde (part : Nat) (ok : Bool) (s : State) : Host.Outcome State Fault Refusal :=
  let x := s.part part
  .next (if !s.present part then s
    else if !ok || x.ideKey == .installed || x.ideKey == .active || x.memKey == .revoked then s.badKey part
    else s.keyNotify (s.setPart part { x with ideKey := .installed }) part)

def execIdeStreamActive (part : Nat) (s : State) : Host.Outcome State Fault Refusal :=
  let x := s.part part
  .next (if s.present part && x.ideKey == .installed then
      s.keyNotify (s.setPart part { x with ideKey := .active }) part
    else s)

/-- The contexts of a partition. -/
def State.contextsOf (s : State) (p : Nat) : List Nat := (s.contexts.filter (fun c => c.2.desc.part == p)).map (·.1)

/-- KEY_REVOKED in a context: its record (R226, R249). -/
def revokedRec (p ctx : Nat) : ErrRec := { ErrRec.blank p 0 with ctx := ctx, code := Code.num .keyRevoked }

/-- Revocation: KEY_REVOKED is raised in every context of the partition, with its record, and the drains begin, which send
the abandon flits; then every key is zeroed. -/
def State.revoke (s : State) (p : Nat) : State :=
  let s := (s.contextsOf p).foldl (fun s c =>
    (((s.contextFault c (trapOf .keyRevoked)).postErr (revokedRec p c) 1).drainContext c)) s
  let t := (s.part p).districts.foldl (fun s d => s.setMainPort d (s.mainPort d).zeroKeys) s
  let x := t.part p
  (s.keyNotify (t.setPart p { x with
    memKey := .revoked, ideKey := if x.ideKey = IdeKey.none then IdeKey.none else .revoked, st := .draining }) p).revokeDone p

def execKeyRevoke (part : Nat) (s : State) : Host.Outcome State Fault Refusal :=
  .next (if !s.present part then s else if (s.part part).memKey = .active then s.revoke part else s.badKey part)

/-! ### Registers (R206, R225, R299, R303, R310) -/

/-- The fields of a descriptor's word; reserved bits are not written (R10), and EN has its own events. -/
def descMask : Nat → W64
  | 0 => 0x000000FF3BFFFFFF#64
  | 1 => 0x000001FFFFFFFFFF#64
  | 2 => 0x007FFFFFFFFFFFFF#64
  | _ => 0

/-- A queue descriptor's word written; while the queue is enabled it is ignored, and EN has its own events. -/
def State.writeDescriptor (s : State) (p o : Nat) (v : W64) : State :=
  match s.localQueue p (o / 32) with
  | none => s
  | some q =>
    let x := s.queueAt q
    if x.st != .disabled then s
    else s.setQueue q { x with desc := x.desc.set (o % 32 / 8) (v &&& descMask (o % 32 / 8)) }

/-- A write in BAR0 to a register without behaviour of its own, or with a value that its behaviour ignores. -/
def State.bar0Write (s : State) (p o : Nat) (v : W64) : State :=
  let x := s.part p
  if o = 0x020 then s.setPart p { x with errTail := v.setWidth 32 }
  else if o = 0x048 then s.ctxCommand p (fld v.toNat 0 16) s
  else if o = 0x050 then s.setPart p { x with unitsel := w64 (v.toNat % 2 ^ 40) }
  else if o = 0x058 then s.setPart p { x with hreqTail := v.setWidth 32 }
  else if o = 0x060 then s.setPart p { x with hframe := some v }
  else if 0x080 ≤ o && o < 0x0A0 && o % 8 = 0 then s.setPart p { x with attNonce := Tab.set 0 x.attNonce ((o - 0x080) / 8) v }
  else if o = 0x0A8 then s.setPart p { x with attAddr := v }
  else if o = 0x0C0 then (if fld v.toNat 0 4 = 0 || 4 < fld v.toNat 0 4 then s.badKey p else s)
  else if 0x200000 ≤ o && o < 0x200000 + 32 * 2048 * x.districts.length && o % 8 = 0 then
    s.writeDescriptor p (o - 0x200000) v
  else s

def State.dispatchWrite (s : State) (p o : Nat) (v : W64) : State :=
  if o = 0x000 then s.setPart p { s.part p with laddr := v }
  else if o = 0x040 then s.setPart p { s.part p with kvcb := w64 (v.toNat % 2 ^ 55) }
  else s

def execRegisterWrite (blk : RegBlock) (part off : Nat) (val : BitVec 64) (s : State) : Host.Outcome State Fault Refusal :=
  .next (match blk with
    | .bar0 =>
      if s.present part then s.bar0Write part off val
      else s.recoveryWrite part off (fun s => s.bar0Write part off val)
    | .dispatch => if s.present part then s.dispatchWrite part off val else s)

/-! ### What the host reads (R208, R299, R301, R318) -/

def PState.code : PState → Nat
  | .absent => 0
  | .scrubbing => 1
  | .active => 2
  | .draining => 3
  | .revoked => 4

/-- PSTAT: the state and the district mask. -/
def Partition.pstat (x : Partition) : W64 :=
  w64 (x.districts.foldl (fun n d => n + 2 ^ (16 + d)) 0 + x.st.code)

/-- The register at an offset of a partition's BAR0. -/
def State.bar0Word (s : State) (p : Nat) (x : Partition) (o : Nat) : W64 :=
  if o = 0x000 then x.pstat
  else if o = 0x008 then x.mstat
  else if o = 0x010 then w64 x.errBase
  else if o = 0x018 then x.errHead.setWidth 64
  else if o = 0x020 then x.errTail.setWidth 64
  else if o = 0x028 then x.lost
  else if o = 0x030 then w64 x.hreqBase
  else if o = 0x038 then x.hreqHead.setWidth 64
  else if o = 0x050 then x.unitsel
  else if o = 0x058 then x.hreqTail.setWidth 64
  else if o = 0x0A8 then x.attAddr
  else if o = 0x0C8 then s.keystat x
  else if o = 0x100 then w64 x.wdlimit
  else if o = 0x108 then w64 x.fslimit
  else if o = 0x110 then x.migth.setWidth 64
  else if o = 0x118 then x.kvcb
  else if 0x200 ≤ o && o < 0x220 && o % 8 = 0 then Tab.get x.wear ((o - 0x200) / 8) wearReset
  else if 0x400 ≤ o && o < 0x584 && o % 8 = 0 then
    w64 (ofBytes ((List.range 8).map (fun i => if o - 0x400 + i < 388 then s.keyByte (o - 0x400 + i) else 0)))
  else if 0x100000 ≤ o && o < 0x200000 && o % 8 = 0 then
    match s.localQueue p ((o - 0x100000) / 8) with
    | some q => w64 ((s.queueAt q).head.toNat * 2 ^ 32 + (s.queueAt q).tail.toNat)
    | none => 0
  else if 0x200000 ≤ o && o < 0x400000 && o % 8 = 0 then
    match s.localQueue p ((o - 0x200000) / 32) with
    | some q => (s.queueAt q).desc.getD (o % 32 / 8) 0
    | none => 0
  else 0

/-- The logical device is presented: that of a partition; in recovery mode number 0 (R296, R312). -/
def State.presented (s : State) (p : Nat) : Bool := s.present p || (s.power == .recovery && p == 0)

/-- The 64-bit register at an offset of BAR0, as the host reads it; none where the logical device is not present. The
transport public key is free, and another one after every bring-up (R310). -/
def State.bar0Read (s : State) (p o : Nat) : Option W64 :=
  if s.present p then some (s.bar0Word p (s.part p) o)
  else if s.presented p then some (s.bar0Word p s.ld0 o) else none

end Sys2Proof.Machine
end

