-- ==== Sys2Proof/Machine/EvJunction.lean ====
section
/-! DEFINITION. Events of the junctions and the loop lines: vectors that enter and are applied, fills, accumulator
transfers, the beat, tasks and recovery fetches (R111 to R113, R120 to R144, R293, R328, R329, R393 to R395). -/
namespace Sys2Proof.Machine

/-! ### Products (R111, R112) -/

/-- The modes of R111. -/
inductive JMode where
  | fp8 | fp16 | bf16 | int8
  deriving DecidableEq, Repr

def jMode : JFmt → JMode
  | .e4m3 | .e5m2 => .fp8
  | .fp16 => .fp16
  | .bf16 => .bf16
  | .i8 => .int8

def jFormat : JFmt → Fmt
  | .e4m3 | .i8 => Fmt.e4m3Fmt
  | .e5m2 => Fmt.e5m2
  | .fp16 => Fmt.fp16
  | .bf16 => Fmt.bf16

/-- Chunk length. -/
def JMode.chunk : JMode → Nat
  | .fp8 | .int8 => 128
  | .fp16 | .bf16 => 32

/-- Value `k` of an activation vector, as bits. -/
def Wavefront.value (w : Wavefront) (k : Nat) : Nat :=
  ofBytes ((List.range (jBytes w.fmt)).map (fun i => w.data.getD (jBytes w.fmt * k + i) 0))

/-- Value (k, j) of a weight tile, as bits (R124). -/
def Bank.value (b : Bank) (k j : Nat) : Nat :=
  ofBytes (Memory.bytes b.data (jBytes b.fmt * (128 * k + j)) (jBytes b.fmt))

/-- One chunk of a contribution to an FP32 accumulator element. -/
def chunkStep (w : Wavefront) (b : Bank) (j : Nat) (acc c : Nat) : Nat :=
  let l := (jMode b.fmt).chunk
  let ps := (List.range l).map (fun i =>
    FVal.mul ((jFormat w.fmt).decode (w.value (l * c + i))) ((jFormat b.fmt).decode (b.value (l * c + i) j)))
  let f := Fmt.fp32.decode
  let p := rne32 (chunkSum ps)
  let p := match jMode b.fmt with
    | .fp8 => rne32 (FVal.mul (f p) (f (rne32 (FVal.mul (f w.scale.toNat) (f b.scale.toNat)))))
    | _ => p
  rne32 (FVal.add .rne (f acc) (f p))

/-- An element of the accumulator after a vector's contribution (R112, R394). -/
def accAfter (w : Wavefront) (b : Bank) (j : Nat) (acc : Lane) : Lane :=
  match jMode b.fmt with
  | .int8 =>
    if w.fmt = .i8 then
      acc + BitVec.ofInt 32 ((List.range 128).foldl (fun n k => n + asInt 8 (w.value k) * asInt 8 (b.value k j)) 0)
    else acc
  | m =>
    if jMode w.fmt = m then lane32 ((List.range (128 / m.chunk)).foldl (chunkStep w b j) acc.toNat)
    else lane32 Fmt.fp32.nan

/-- A vector's contributions made. -/
def Junction.contribute (x : Junction) (w : Wavefront) : Junction :=
  { x with acc := (List.range 128).foldl (fun t j =>
      let k := w.slot * 16384 + 128 * w.row + j
      Tab.set 0 t k (accAfter w (x.bank w.bank) j (Tab.get t k 0))) x.acc }

/-! ### Vectors that enter (R123, R125, R329, R394, R395) -/

/-- An accumulator instruction on the slot heads the arrival order: no vector for the slot enters. -/
def Junction.slotShut (j : Junction) (slot : Nat) : Bool :=
  match j.xfer with
  | some (_, op) => op.accSlot == some slot
  | none => false

/-- Vector `k` of an MMA. -/
def State.mmaVector (s : State) (n : Nat) (h : W64) (fmt : JFmt) (slot cnt row0 k : Nat) : Wavefront :=
  let b := handleSpan h
  let len := 128 * jBytes fmt
  ⟨(s.junction n).active, slot, row0 + k, fmt,
   if jIsF8 fmt then lane32 (s.blockNat n b (hOff h + 128 * cnt + 4 * k) 4) else 0,
   s.blockBytes n b (hOff h + len * k) len, s.stnNow n, none⟩

/-- The places in its block that vector `k` is read from. -/
def mmaPlaces (h : W64) (fmt : JFmt) (cnt k : Nat) : List Nat :=
  (List.range (128 * jBytes fmt)).map (fun i => hOff h + 128 * jBytes fmt * k + i)
    ++ (if jIsF8 fmt then (List.range 4).map (fun i => hOff h + 128 * cnt + 4 * k + i) else [])

/-- Vector `k` of the MMA enters, and later arrivals are performed; with the last vector, the MMA completes (R123). -/
def State.enterMma (s : State) (n u : Nat) (op : JOp) (k : Nat) : State :=
  match op with
  | .mma h fmt slot cnt row0 =>
    let j := s.junction n
    if j.slotShut slot then s
    else
      let j : Junction := { j with waves := j.waves ++ [s.mmaVector n h fmt slot cnt row0 k] }
      let s := s.noteOor u h (handleSpan h) (mmaPlaces h fmt cnt k)
      if k + 1 < cnt then (s.setJunction n { j with mma := some (u, op, k + 1) }).pump n
      else ((s.setJunction n { j with mma := none }).unblockJunction u).pump n
  | _ => s

/-- The first task that streams. -/
def streamingTask : List Task → Option Task
  | [] => none
  | t :: ts => if t.stage = .streaming && decide (t.next < 128) then some t else streamingTask ts

def Junction.onTask (j : Junction) (entry : Nat) (f : Task → Task) : Junction :=
  { j with tasks := j.tasks.map (fun t => if t.entry = entry then f t else t) }

/-- The slot of a timetable entry. -/
def Junction.entrySlot (j : Junction) (e : Nat) : Nat :=
  match j.table with
  | some t => (t.entries.getD e (0, 0, 0)).2.2
  | none => 0

/-- The next row of a streaming task enters (R135). -/
def State.enterTask (s : State) (n : Nat) (fmt : JFmt) (t : Task) : State :=
  let j := s.junction n
  match t.a with
  | some (data, scale) =>
    let slot := j.entrySlot t.entry
    let len := 128 * jBytes fmt
    if j.slotShut slot then s
    else
      let j := j.onTask t.entry (fun t => { t with next := t.next + 1 })
      s.setJunction n { j with waves := j.waves ++
        [⟨j.active, slot, t.next, fmt, scale, Memory.bytes data (len * t.next) len, s.stnNow n, some t.entry⟩] }
  | none => s

/-- A vector enters behind the instructions that are performed in its cycle (R123). -/
def execWavefrontEntry (stn : Nat) (s : State) : Host.Outcome State Fault Refusal :=
  let s := s.pump stn
  let j := s.junction stn
  .next (match j.mma, (if s.lineRuns stn then [] else j.queue) with
    | some (u, op, k), _ => s.enterMma stn u op k
    | none, (u, .mma h fmt slot n row0) :: rest =>
      if j.slotShut slot then s
      else (s.setJunction stn { j with mma := some (u, .mma h fmt slot n row0, 0), queue := rest }).enterMma stn u
        (.mma h fmt slot n row0) 0
    | none, _ =>
      match streamingTask j.tasks with
      | some t => s.enterTask stn (armFmt (s.loopLine (lineOf stn)).arm false) t
      | none => s)

/-! ### The end of a run (R141, R143, R144) -/

/-- Entries of the timetable. -/
def Junction.total (j : Junction) : Nat :=
  match j.table with
  | some t => t.entries.length
  | none => 0

/-- The completion path of a junction: its entry and what stands there. -/
def State.junctionPath (s : State) (n : Nat) : Option (Nat × ArcState) :=
  (s.station n).arcs.find? (fun a => a.2.path && a.2.unit == junctionUnit n)

/-- The junction's platform entry is free to take a token. -/
def State.junctionPathFree (s : State) (n : Nat) : Bool :=
  match s.junctionPath n with
  | some (e, _) => (Tab.find (s.station n).platform e).isNone
  | none => true

/-- The rank of station `n`'s junction at the signals of station `m` (R97). At its own station it is the junction's, though R141
has the add made as a remote agent (DESIGN CHOICE, log entry 105). -/
def signalRank (n m : Nat) : Nat := if m = n then rankJunction else rankRemote

/-- The junction's operation on the timetable's signal may be applied now (R97). -/
def State.signalTurn (s : State) (n : Nat) (stns : List Nat) (t : Timetable) : Bool :=
  match t.signal with
  | some (rel, _) => s.mayTurn (stns.getD rel 0) (signalRank n (stns.getD rel 0))
  | none => true

/-- The signal and the token of a completed timetable (R141). -/
def State.junctionSignals (s : State) (n : Nat) (stns : List Nat) (j : Junction) (t : Timetable) : State :=
  let s := match t.signal with
    | some (rel, sig) => (s.noteTurn (stns.getD rel 0) (signalRank n (stns.getD rel 0))).sigAdd (stns.getD rel 0 * 1024 + sig) 1
    | none => s
  match t.token, s.junctionPath n with
  | some (el, ch), some (e, a) =>
    let v := j.completed % 2 ^ 16 + j.orphan % 512 * 2 ^ 16 + n % 8 * 2 ^ 25
    (s.emitCopies none 0 (plainTok .dat (w64 v)) [⟨n, n * 64 + el, ch, e, a.floor⟩]).1
  | _, _ => s

/-- A junction whose COMPLETED has reached E signals, once. -/
def State.finishJunction (s : State) (n : Nat) : State :=
  let j := s.junction n
  match j.claim, j.table with
  | some r, some t =>
    (match s.region? r with
     | some x =>
       if !j.signalled && j.completed == t.entries.length && (t.token.isNone || s.junctionPathFree n)
           && s.signalTurn n x.stations t then
         (s.setJunction n { j with signalled := true }).junctionSignals n x.stations j t
       else s
     | none => s)
  | _, _ => s

/-- The stations of the region that claims a line. -/
def State.lineStations (s : State) (key : Nat) : List Nat :=
  match (s.loopLine key).claim with
  | some r =>
    (match s.region? r with
     | some x => x.stations
     | none => [])
  | none => []

/-- The run ends when the line has disarmed and every junction of the line has completed. What waited for its end goes on, at
the junctions of through positions too (R127). -/
def State.endRun (s : State) (key : Nat) : State :=
  let l := s.loopLine key
  if l.running && !l.armed && (s.lineStations key).all (fun n => (s.junction n).signalled) then
    ((List.range 8).map (fun i => key * 8 + i)).foldl (fun s n => s.endAwait n) (s.setLoopLine key { l with running := false })
  else s

/-- Every junction of the line that can signal does, and the run ends where all have. -/
def State.finishLine (s : State) (key : Nat) : State :=
  ((s.lineStations key).foldl (fun s n => s.finishJunction n) s).endRun key

/-! ### Vectors applied (R112, R113, R125, R126, R136) -/

/-- A draining bank is ready once no vector tagged with it is in flight. -/
def Junction.drained (j : Junction) (n : Nat) : Junction :=
  if (j.bank n).st = .draining && !j.inFlight n then j.setBank n { j.bank n with st := .ready } else j

/-- The last row of a task is applied: its entry is Done. -/
def Junction.taskDone (j : Junction) (e : Nat) : Junction :=
  let recovered := j.tasks.any (fun t => t.entry == e && t.recovered)
  { j with tasks := j.tasks.filter (fun t => t.entry != e), entries := Tab.put j.entries e .done
           completed := j.completed + 1, recov := j.recov + b2n recovered }

def execWavefrontApply (stn : Nat) (s : State) : Host.Outcome State Fault Refusal :=
  let j := s.junction stn
  .next (match j.waves with
    | w :: rest =>
      if s.stnNow stn < w.entered + 264 then s
      else
        let j := Junction.drained { j.contribute w with waves := rest } w.bank
        match (if w.row = 127 then w.task else none) with
        | some e => ((s.setJunction stn (j.taskDone e)).pump stn).finishLine (lineOf stn)
        | none => (s.setJunction stn j).pump stn
    | [] => s)

/-! ### Fills and accumulator transfers (R126, R293, R328, R329) -/

/-- The task whose B tile is being loaded. -/
def loadingTask : List Task → Option Task
  | [] => none
  | t :: ts => if t.stage = .loading then some t else loadingTask ts

/-- The fill completes: the inactive bank holds the tile and is ready. -/
def Junction.filled (j : Junction) (data : Memory) : Junction :=
  { j.setBank j.idle { j.bank j.idle with data := data, st := .ready } with load := none }

/-- The rows of an earlier task are still entering. -/
def rowsEntering (ts : List Task) : Bool := ts.any (fun t => t.stage == .streaming && decide (t.next < 128))

/-- A fill completes: a unit's WLOAD is done; a task swaps and streams (R135). The tile of a WLOAD is read here in one step
(log entry 28). A task's swap waits until the rows of the task before it, and the vectors of an MMA that was entering at RING,
have entered, which must meet their own tile (R137; DEDUCED, log entry 84). -/
def State.fillComplete (s : State) (n : Nat) : State :=
  let j := s.junction n
  match j.load with
  | some (some u, .wload h fmt _) =>
    let places := (List.range (16384 * jBytes fmt)).map (fun i => hOff h + i)
    (((s.noteOor u h (handleSpan h) places).setJunction n
      (j.filled (sparse (s.blockBytes n (handleSpan h) (hOff h) (16384 * jBytes fmt))))).unblockJunction u).pump n
  | some (none, _) =>
    (match loadingTask j.tasks with
     | some t =>
       if rowsEntering j.tasks || j.mma.isSome then s
       else
       let data := match t.b with
         | some (m, _) => m
         | none => []
       (s.setJunction n (((j.filled data).swap).onTask t.entry (fun t => { t with stage := .streaming }))).pump n
     | none => s.setJunction n (j.filled []))
  | _ => s

def execBankFillComplete (stn : Nat) (s : State) : Host.Outcome State Fault Refusal := .next (s.fillComplete stn)

/-- The bytes of an accumulator slot in a block (R127). -/
def Junction.slotBytes (j : Junction) (slot : Nat) : List Byte :=
  (List.range 16384).flatMap (fun i => bytesOf 4 (Tab.get j.acc (slot * 16384 + i) 0).toNat)

/-- An accumulator instruction of unit `u` performed. -/
def State.transfer (s : State) (n u : Nat) (op : JOp) : State :=
  let j := s.junction n
  let lo := fun slot => slot * 16384
  let note := fun h => s.noteOor u h (handleSpan h) ((List.range 65536).map (fun i => hOff h + i))
  match op with
  | .accrd h slot =>
    (note h).blockPut n (handleSpan h) ((List.range 65536).map (fun i => (hOff h + i, (j.slotBytes slot).getD i 0)))
  | .accwr h slot =>
    let bs := s.blockBytes n (handleSpan h) (hOff h) 65536
    (note h).setJunction n { j with acc := (List.range 16384).foldl (fun (t : Tab Lane) i =>
      Tab.set 0 t (lo slot + i) (lane32 (ofBytes ((List.range 4).map (fun b => bs.getD (4 * i + b) 0))))) j.acc }
  | .accclr slot => s.setJunction n { j with acc := Tab.delRange j.acc (lo slot) (lo slot + 16384) }
  | _ => s

def execAccumulatorTransferDone (stn : Nat) (s : State) : Host.Outcome State Fault Refusal :=
  let j := s.junction stn
  .next (match j.xfer with
    | some (u, op) =>
      if j.waves.any (fun w => op.accSlot == some w.slot) then s
      else
        let s := (s.transfer stn u op).onJunction stn (fun j => { j with xfer := none })
        let s := match op with
          | .accclr _ => s
          | _ => s.unblockJunction u
        s.pump stn
    | none => s)

/-! ### The beat (R128, R130, R134 to R139) -/

/-- A tile's number and direction. -/
def Tile.is (t : Tile) (down : Bool) (num : Nat) : Bool := t.down == down && t.num == num

/-- The tile of a direction at a position. -/
def LoopLine.tileAt (l : LoopLine) (p : Nat) (down : Bool) : Option Tile :=
  (l.tiles.find? (fun t => t.1 == p && t.2.down == down)).map (·.2)

/-- The tile still travels on the line. -/
def LoopLine.carries (l : LoopLine) (down : Bool) (num : Nat) : Bool := l.tiles.any (fun t => t.2.is down num)

/-- A tile one position further, with a lap counted at its injection position. -/
def moveTile (t : Nat × Tile) : Nat × Tile :=
  let p := (if t.2.down then t.1 + 7 else t.1 + 1) % 8
  (p, { t.2 with laps := t.2.laps + b2n (p == t.2.start) })

/-- All tiles advance; those that have made L laps are withdrawn (R138). -/
def LoopLine.advance (l : LoopLine) : LoopLine × List Tile :=
  let ts := l.tiles.map moveTile
  let out := fun (t : Nat × Tile) => t.1 == t.2.start && t.2.laps == fld l.arm.toNat 16 8
  ({ l with tiles := ts.filter (fun t => !out t) }, (ts.filter out).map (·.2))

/-- The TINJ of a unit that waits for its tile's ring position completes. -/
def State.injected (s : State) (u : Nat) : State :=
  match s.unit? u with
  | some x =>
    (match x.blocked with
     | some (.inject _ _) => s.unblock u
     | _ => s)
  | none => s

/-- Tiles that have been read enter where their position's slot is free (R130). Of two that wait for one position and
direction, the one whose read ended first enters: R130 and R437 give no order (DESIGN CHOICE, log entry 62). -/
def State.injectTiles (s : State) (key : Nat) : List (Nat × Tile) → State
  | [] => s
  | (p, t) :: rest =>
    let l := s.loopLine key
    if (l.tileAt p t.down).isSome then s.injectTiles key rest
    else
      let l : LoopLine := { l with tiles := l.tiles ++ [(p, t)], injected := l.injected + 1
                                   inject := l.inject.filter (fun e => !e.2.is t.down t.num) }
      ((s.setLoopLine key l).injected t.unit).injectTiles key rest

/-- The tile number that entry `e` names in a direction. -/
def entryTile (e : Nat × Nat × Nat) (down : Bool) : Nat := if down then e.2.1 else e.1

/-- The entries in a state that satisfy `p`, ascending. -/
def Junction.entriesWhere (j : Junction) (p : EntryState → Nat × Nat × Nat → Bool) : List Nat :=
  match j.table with
  | some t => (List.range t.entries.length).filter (fun i => p (Tab.get j.entries i .none) (t.entries.getD i (0, 0, 0)))
  | none => []

/-- Open entries that name a tile. -/
def Junction.openFor (j : Junction) (down : Bool) (num : Nat) : List Nat :=
  j.entriesWhere (fun st e => st == .open_ && entryTile e down == num)

/-- No other entry of the slot stands in the way of entry `i` (R135). -/
def Junction.mayRun (j : Junction) (i : Nat) : Bool :=
  (List.range j.total).all (fun k => k == i || j.entrySlot k != j.entrySlot i
    || (Tab.get j.entries k .none != .running && (decide (i < k) || Tab.get j.entries k .none == .done)))
  && decide (j.tasks.length < 4)

/-- The passing loops whose tile no Open entry names are freed (R134). -/
def State.tidyLoops (s : State) (n : Nat) : State :=
  let j := s.junction n
  let stays := fun (e : Tile × W64) => !(j.openFor e.1.down e.1.num).isEmpty
  let s := s.setJunction n { j with loops := j.loops.filter stays }
  (j.loops.filter (fun e => !stays e)).foldl (fun s e =>
    match s.blockOf e.2 with
    | some b => s.onStation n (fun st => st.free (s.stnNow n) b)
    | none => s) s

/-- A use of a tile counted; at 0 the tile leaves the line and is returned (R139). -/
def State.useTile (s : State) (key : Nat) (down : Bool) (num : Nat) : State × List Tile :=
  let l := s.loopLine key
  let ts := l.tiles.map (fun t => if t.2.is down num then (t.1, { t.2 with uses := t.2.uses - 1 }) else t)
  let out := fun (t : Nat × Tile) => t.2.is down num && t.2.uses == 0
  (s.setLoopLine key { l with tiles := ts.filter (fun t => !out t) }, (ts.filter out).map (·.2))

/-- A meeting of entry `i` at station `n` (R135): counts, then Running with both tiles captured, or Deferred. -/
def State.meet (s : State) (key n i : Nat) (a b : Tile) : State × List Tile :=
  let (s, g1) := s.useTile key false a.num
  let (s, g2) := s.useTile key true b.num
  let j := s.junction n
  let j : Junction :=
    if j.mayRun i then
      { j with entries := Tab.put j.entries i .running
               tasks := j.tasks ++ [⟨i, false, some (a.data, a.scale), some (b.data, b.scale), .waiting, 0, none, []⟩] }
    else { j with entries := Tab.put j.entries i .deferred }
  (s.setJunction n j, g1 ++ g2)

/-- The partner of a tile for an entry: arriving in the same beat, or in a passing loop here. -/
def State.partner (s : State) (key n p : Nat) (down : Bool) (num : Nat) : Option Tile :=
  match (s.loopLine key).tileAt p down with
  | some t => if t.num = num then some t
    else ((s.junction n).loops.find? (fun e => e.1.is down num)).map (·.1)
  | none => ((s.junction n).loops.find? (fun e => e.1.is down num)).map (·.1)

/-- The meetings of a tile with the partners present, by ascending entry number: the entries left and the tiles gone. A
tile whose use count reaches 0 has left the line and meets no more; its other entries are left to the notice of its
retirement (R139; DESIGN CHOICE, log entry 85). -/
def State.meetings (s : State) (key n p : Nat) (t : Tile) : List Nat → State × List Nat × List Tile
  | [] => (s, [], [])
  | i :: rest =>
    let other := entryTile ((s.junction n).table.elim (0, 0, 0) (fun tt => tt.entries.getD i (0, 0, 0))) (!t.down)
    let who := if (s.loopLine key).carries t.down t.num then s.partner key n p (!t.down) other else none
    match who with
    | some o =>
      let (s, g) := if t.down then s.meet key n i o t else s.meet key n i t o
      let (s, left, gone) := s.meetings key n p t rest
      (s, left, g ++ gone)
    | none =>
      let (s, left, gone) := s.meetings key n p t rest
      (s, i :: left, gone)

/-- A block for a passing loop, without waiting, from the region's shared pool under the conditions of ALLOCT (R134). Of two tiles
that need one at a position in one beat, both decisions fall in one allocator cycle, and the second finds its grant made (DESIGN
CHOICE, log entry 104). -/
def State.loopSlot (s : State) (n r k : Nat) : Option (State × W64) :=
  let now := s.stnNow n
  let st := (s.station n).settle now
  if !(s.blockWaiters n r).isEmpty || st.hasGranted now (r + 1) then none
  else match st.grant r none k 1 with
    | some (st, b) => some ((s.setStation n (st.markGrant now (r + 1))).noteGrant r, mkHandle b.gen.toNat n b.k b.first 0)
    | none => none

/-- A tile with open entries and no partner parks, or is missed. -/
def State.park (s : State) (key n r : Nat) (t : Tile) : State :=
  let j := s.junction n
  let k := if jBytes (armFmt (s.loopLine key).arm t.down) = 1 then 9 else 10
  match (if j.loops.length < 2 then s.loopSlot n r k else none) with
  | some (s, h) => s.onJunction n (fun j => { j with loops := j.loops ++ [(t, h)] })
  | none => s.setJunction n { j with missed := min (j.missed + 1) 511 }

/-- What a junction decides for an arriving tile (R134); the tiles that retire here are returned. A passing-loop slot that
the tile's own meetings free is free behind the decision, not for this tile's park (DESIGN CHOICE, log entry 85). -/
def State.decideTile (s : State) (key n r p : Nat) (down : Bool) : State × List Tile :=
  match (s.loopLine key).tileAt p down with
  | none => (s, [])
  | some t =>
    let (s, left, gone) := s.meetings key n p t ((s.junction n).openFor down t.num)
    let parked := (s.junction n).loops.any (fun e => e.1.is down t.num)
    let s := if left.isEmpty || parked || !(s.loopLine key).carries down t.num then s else s.park key n r t
    (s.tidyLoops n, gone)

/-- Every junction of the line decides, the A tile first. -/
def State.decideAll (s : State) (key r : Nat) : List Nat → State × List Tile
  | [] => (s, [])
  | n :: rest =>
    let (s, g1) := s.decideTile key n r (n % 8) false
    let (s, g2) := s.decideTile key n r (n % 8) true
    let (s, g3) := s.decideAll key r rest
    (s, g1 ++ g2 ++ g3)

/-- Open entries in a state become Deferred. -/
def Junction.setEntries (j : Junction) (is : List Nat) (st : EntryState) : Junction :=
  { j with entries := is.foldl (fun t i => Tab.put t i st) j.entries }

/-- The notice of a retirement at every junction (R139). -/
def State.retire (s : State) (key : Nat) (stns : List Nat) (t : Tile) : State :=
  let l := s.loopLine key
  stns.foldl (fun s n => s.onJunction n (fun j => j.setEntries (j.openFor t.down t.num) .deferred))
    (s.setLoopLine key { l with retired := l.retired + 1 })

/-- The tile was never injected in this run. -/
def LoopLine.never (l : LoopLine) (down : Bool) (num : Nat) : Bool := !l.seen.any (fun t => t.1 == down && t.2.1 == num)

/-- At the disarm the entries that name a tile never injected are Done as orphans (R136, R143). -/
def Junction.orphans (j : Junction) (l : LoopLine) : Junction :=
  let is := j.entriesWhere (fun st e => (st == .open_ || st == .deferred) && (l.never false e.1 || l.never true e.2.1))
  let j := j.setEntries is .done
  { j with orphan := j.orphan + is.length, completed := j.completed + is.length }

/-- The line disarms when T tiles have retired. -/
def State.disarm (s : State) (key : Nat) (stns : List Nat) : State :=
  let l := s.loopLine key
  if l.armed && decide (fld l.arm.toNat 0 13 ≤ l.retired) then
    stns.foldl (fun s n => s.onJunction n (fun j => j.orphans l)) (s.setLoopLine key { l with armed := false })
  else s

/-- A stopped line (R140, R144): tiles are dropped and passing loops freed, tasks forgotten with the rows that have entered
and are not yet applied, and the run ends. A fill that has begun completes. -/
def State.stopJunction (s : State) (n : Nat) : State :=
  let j := s.junction n
  let j := match j.load, loadingTask j.tasks with
    | some (none, _), some t => j.filled (match t.b with | some (m, _) => m | none => [])
    | _, _ => j
  let loops := j.loops
  let j := { j with tasks := [], loops := [], signalled := true, waves := j.waves.filter (fun w => w.task.isNone) }
  let s := s.setJunction n ((j.drained 0).drained 1)
  (loops.foldl (fun s e =>
    match s.blockOf e.2 with
    | some b => s.onStation n (fun st => st.free (s.stnNow n) b)
    | none => s) s).pump n

def State.stopLine (s : State) (key : Nat) (stns : List Nat) : State :=
  let l := s.loopLine key
  let s := stns.foldl (fun s n => s.stopJunction n)
    (s.setLoopLine key { l with armed := false, running := false, stopping := false, tiles := [], inject := [] })
  ((List.range 8).map (fun i => key * 8 + i)).foldl (fun s n => s.endAwait n) s

/-- One beat of an armed line. A tile that is withdrawn at its injection position leaves its slot before tiles are injected,
so that a waiting one enters in the same beat: R128, R130 and R138 do not say (DESIGN CHOICE, log entry 62). -/
def State.beat (s : State) (key r : Nat) (stns : List Nat) : State :=
  let (l, out) := (s.loopLine key).advance
  let s := (s.setLoopLine key l).injectTiles key l.inject
  let (s, gone) := s.decideAll key r stns
  let s := (out ++ gone).foldl (fun s t => s.retire key stns t) s
  (stns.foldl (fun s n => s.tidyLoops n) s).disarm key stns

def execLineBeat (die row : Nat) (s : State) : Host.Outcome State Fault Refusal :=
  let key := die * 8 + row
  let l := s.loopLine key
  let stns := s.lineStations key
  .next (match l.claim with
    | none => s
    | some r =>
      if !l.running then s
      else if l.stopping then s.stopLine key stns
      else (if l.armed then (s.beat key r stns).finishLine key else s.finishLine key))

/-! ### Tasks and recovery (R135, R136, R140) -/

/-- The next task whose tiles are in hand, where every earlier task has swapped. -/
def nextTask : List Task → Option Task
  | [] => none
  | t :: ts => match t.stage with
    | .streaming => nextTask ts
    | .waiting => some t
    | _ => none

def execLineTaskStart (stn : Nat) (s : State) : Host.Outcome State Fault Refusal :=
  let j := s.junction stn
  .next (match nextTask j.tasks with
    | some t =>
      if j.canLoad then
        let scale := match t.b with
          | some (_, c) => c
          | none => 0
        let fmt := armFmt (s.loopLine (lineOf stn)).arm true
        s.setJunction stn ((j.startLoad none (.wload 0 fmt scale) fmt scale).onTask t.entry
          (fun t => { t with stage := .loading }))
      else s
    | none => s)

/-- Positions that a tile has passed since its injection. -/
def LoopLine.passed (l : LoopLine) (p : Nat) (down : Bool) (num : Nat) : Bool :=
  match l.tiles.find? (fun t => t.2.is down num) with
  | some (q, t) =>
    let far := fun x => if down then (t.start + 8 - x) % 8 else (x + 8 - t.start) % 8
    decide (1 ≤ t.laps) || decide (far p ≤ far q)
  | none => !l.never down num && !l.inject.any (fun t => t.2.is down num)

/-- The lowest Deferred entry that may be recovered: both home addresses are known here. -/
def State.recoverable (s : State) (n : Nat) (l : LoopLine) : Option Nat :=
  let j := s.junction n
  (j.entriesWhere (fun st e => st == .deferred && l.passed (n % 8) false e.1 && l.passed (n % 8) true e.2.1)).find?
    j.mayRun

/-- A recovery fetch that met a fault: the fault is raised in the unit that injected the tile, the entry stays Deferred
and the line stops at the next beat (R140). -/
def State.fetchFault (s : State) (n u : Nat) (e : Nat) (t : Trap) : State :=
  let s := s.onJunction n (fun j => { j with
    tasks := j.tasks.filter (fun t => t.entry != e), entries := Tab.put j.entries e .deferred })
  let l := s.loopLine (lineOf n)
  (s.setLoopLine (lineOf n) { l with stopping := true }).raiseBy (some 4) u t

/-- The read of one tile by a recovery fetch. -/
inductive TileRead where
  | ok (s : State) (m : Memory) (scale : Lane)
  | stop (s : State)

def State.fetchTile (s : State) (n r e : Nat) (x : Region) (l : LoopLine) (down : Bool) (num : Nat) : TileRead :=
  match l.seen.find? (fun t => t.1 == down && t.2.1 == num) with
  | none => .stop s
  | some (_, _, home, scale, u) =>
    let counted := (s.junction n).tasks.any (fun t => t.entry == e && t.asked.contains down)
    match s.engineLines x.ctx x.part n 0 (b2n (!counted)) home (128 * jBytes (armFmt l.arm down)) with
    | .ok s ls =>
      let s := if counted then s else s.onJunction n (fun j => j.onTask e (fun t => { t with asked := down :: t.asked }))
      (match s.gather (junctionAgent n) (districtOfStn n) x.part ls with
       | (s, some bs) => .ok s (sparse bs) scale
       | (s, none) => .stop s)
    | .fault s t => .stop (s.fetchFault n u e t)
    | .wb s va => .stop (s.fetchFault n u e ⟨.permission, 0, w64 va⟩)
    | .invalid s va level =>
      let w1 := faultWord x.ctx n 0 level 3
      let o := s.ids
      if x.st == .draining then .stop (s.setLoopLine (lineOf n) { s.loopLine (lineOf n) with stopping := true })
      else .stop (({ s with ids := o + 1 }.postFault x.part w1 va).onJunction n (fun j =>
        j.onTask e (fun t => { t with hold := some (u, ⟨va, w1, false, s.regionCycles r, o⟩) })))

/-- Both tiles of a recovered entry read from their homes. -/
def State.fetchBoth (s : State) (n r e : Nat) (x : Region) (l : LoopLine) : State :=
  let (a, b, _) := (s.junction n).table.elim (0, 0, 0) (fun t => t.entries.getD e (0, 0, 0))
  match s.fetchTile n r e x l false a with
  | .stop s => s
  | .ok s ma ca =>
    match s.fetchTile n r e x l true b with
    | .stop s => s
    | .ok s mb cb => (s.takeDelivered (junctionAgent n) n).onJunction n (fun j =>
        j.onTask e (fun t => { t with a := some (ma, ca), b := some (mb, cb), stage := .waiting }))

/-- The task whose tiles are being fetched. -/
def fetchingTask (ts : List Task) : Option Task := ts.find? (fun t => t.stage == .fetching)

def execRecoveryFetch (stn : Nat) (s : State) : Host.Outcome State Fault Refusal :=
  let l := s.loopLine (lineOf stn)
  let j := s.junction stn
  .next (match l.claim.bind (fun r => (s.region? r).map (fun x => (r, x))) with
    | none => s
    | some (r, x) =>
      if !l.running || l.stopping then s
      else match fetchingTask j.tasks with
        | some t =>
          if t.hold.isSome || !s.mayRepeat (junctionAgent stn) then s
          else (s.repeated (junctionAgent stn)).fetchBoth stn r t.entry x l
        | none =>
          match s.recoverable stn l with
          | some e => s.setJunction stn { j with
              entries := Tab.put j.entries e .running, tasks := j.tasks ++ [⟨e, true, none, none, .fetching, 0, none, []⟩] }
          | none => s)

/-- Recovery fetches whose withheld read is denied (R140, R196). -/
def State.denyFetches (s : State) (pick : W64 → Nat → Bool) : State :=
  (s.junctions.flatMap (fun j => j.2.tasks.map (fun t => (j.1, t)))).foldl (fun s e =>
    match e.2.hold with
    | some (u, h) => if pick h.w1 h.va then s.fetchFault e.1 u e.2.entry ⟨.notPresent, 0, w64 h.va⟩ else s
    | none => s) s

end Sys2Proof.Machine
end

