-- ==== Sys2Proof/Machine/EvPager.lean ====
section
/-! DEFINITION. Events of the pager, the poison walker and the eviction engine (R193 to R203, R254, R268, R270, R303). -/
namespace Sys2Proof.Machine

/-! ### Table entries written by the pager -/

/-- The tables of a context that the pager writes: root and partition. -/
def State.rootOf (s : State) (ctx : Nat) : Option Nat := (s.context? ctx).map (·.desc.root)

/-- A 64 KiB frame filled with zeros at its homes (R196). -/
def State.zeroFrame (s : State) (p frame : Nat) : State :=
  s.homeSync p .device (2 ^ 16 * frame) (List.replicate 65536 0) 0 false

/-- An entry written. -/
def State.putEntry (s : State) (p a : Nat) (e : W64) : State := s.homeSync p .device a (bytesOf 8 e.toNat) 0 false

/-- The entry of a table node: VALID with the frame of the next node. -/
def nodeEntry (frame : Nat) : W64 := w64 (2 ^ 16 * frame + 1)

/-- The address of the level-2 entry of an address, missing table nodes taken from a list of free frames; none where the
tables hold something else there or no frame is left. -/
def State.leafPlace (s : State) (p va : Nat) : Nat → Nat → Nat → List Nat → Option (State × Nat)
  | 0, _, _, _ => none
  | left + 1, node, level, free =>
    let a := node + 8 * vaIndex va level
    if level = 2 then some (s, a)
    else
      let e := w64 (s.homeNat p ⟨.device, a⟩ 8)
      if pteValid e then
        if pteLeaf e || pteMalformed e level then none else s.leafPlace p va left (pteFrame e) (level + 1) free
      else match free with
        | f :: fs => ((s.zeroFrame p f).putEntry p a (nodeEntry f)).leafPlace p va left (2 ^ 16 * f) (level + 1) fs
        | [] => none

/-- A level-2 leaf written for an address and a TLBINV issued for the page (R196, R303). -/
def State.mapPage (s : State) (p ctx va : Nat) (nodes : List Nat) (leaf : W64) : Option State :=
  match s.rootOf ctx with
  | none => none
  | some root =>
    match s.leafPlace p va 3 root 0 nodes with
    | some (s, a) => some ((s.putEntry p a leaf).tlbinv p ctx va)
    | none => none

/-- The leaf with which the pager maps a free frame: R and W, KIND device, for a depot core's record with DEPOT. -/
def freshLeaf (frame : Nat) (depot : Bool) : W64 := w64 (2 ^ 16 * frame + 0xF + b2n depot * 2 ^ 7)

/-! ### Fault records (R193 to R196, R303) -/

def State.onPart (s : State) (p : Nat) (f : Partition → Partition) : State :=
  if (Tab.find s.partitions p).isSome then s.setPart p (f (s.part p)) else s

def setRec (q : List FaultRec) (i : Nat) (f : FaultRec → FaultRec) : List FaultRec :=
  (List.range q.length).filterMap (fun j => (q[j]?).map (fun r => if j = i then f r else r))

def recCtx (r : FaultRec) : Nat := fld r.w1.toNat 48 16
def recDepot (r : FaultRec) : Bool := r.w1.getLsbD 24

/-- The queues have just become empty, or not: the cycle from which the pager is idle (R193). -/
def Partition.idleFrom (x : Partition) (now : Nat) : Partition :=
  if x.faultq.isEmpty && x.migq.isEmpty then { x with pagerIdle := now } else x

/-- The places of a table node that are not 0: those with a byte in memory or in a line. -/
def State.nodePlaces (s : State) (node : Nat) : List Nat :=
  let cells := s.dram.map (·.1) ++ s.lines.flatMap (fun x =>
    if x.2.loc.kind = .device then x.2.data.map (fun b => x.2.loc.addr + b.1) else [])
  ((cells.filter (fun a => decide (node ≤ a) && decide (a < node + 2 ^ 16))).map (fun a => a / 8 * 8)).eraseDups

/-- The frames in use below a table node, each run with its first frame and length: the node's own, and those that its
entries name. -/
def State.framesUnder (s : State) (p : Nat) : Nat → Nat → Nat → List (Nat × Nat)
  | 0, _, _ => []
  | left + 1, level, node =>
    (node / 2 ^ 16, 1) :: (s.nodePlaces node).flatMap (fun a =>
      let e := w64 (s.homeNat p ⟨.device, a⟩ 8)
      if !pteValid e || pteMalformed e level || pteKind e != .device then []
      else if pteLeaf e then [(pteFrame e / 2 ^ 16, if level = 1 then 2 ^ 13 else 1)]
      else s.framesUnder p left (level + 1) (pteFrame e))

/-- The frames of the rings of the partition's enabled work queues (R206). -/
def State.ringFrames (s : State) (p : Nat) : List (Nat × Nat) :=
  (s.queues.filter (fun q => q.2.st != .disabled && s.queuePart q.1 == some p)).map (fun q =>
    (qdRing q.2.live / 2 ^ 16, (2 ^ qdLog2n q.2.live * 32 + 65535) / 2 ^ 16))

/-- The frames of the partition that are in use: tables and mapped pages, pages of range entries, the rings of its work queues,
the two rings that the host reads, and frames set aside for a migration or for a record that the host is to answer. -/
def State.framesUsed (s : State) (p : Nat) : List (Nat × Nat) :=
  let x := s.part p
  let ring := fun (base n : Nat) => ((s.windowLoc p base).addr / 2 ^ 16, n)
  (s.contexts.filter (fun c => c.2.desc.part == p)).flatMap (fun c =>
      s.framesUnder p 3 0 c.2.desc.root ++ c.2.desc.ranges.filterMap (fun e =>
        match rangeOf e with
        | some (_, log2) => if pteKind e.2 == .device then some (pteFrame e.2 / 2 ^ 16, 2 ^ (log2 - 16)) else none
        | none => none))
    ++ s.ringFrames p ++ [ring x.errBase 5, ring x.hreqBase 3]
    ++ (x.migration.map (fun m => (m.frame, 1))).toList ++ x.faultq.flatMap (fun r => r.nodes.map (fun f => (f, 1)))

/-- The frame is free: it lies in the partition's stacks and nothing uses it (R196, R201). -/
def State.frameFree (s : State) (p f : Nat) : Bool :=
  s.ownsAddr p (2 ^ 16 * f) && s.ownsAddr p (2 ^ 16 * f + 65535)
    && (s.framesUsed p).all (fun e => decide (f < e.1) || decide (e.1 + e.2 ≤ f))

/-- The first frame from `f` on that no run of a list covers; `fuel` is the length of the list. -/
def skipUsed (us : List (Nat × Nat)) : Nat → Nat → Nat
  | 0, f => f
  | fuel + 1, f =>
    match us.find? (fun e => decide (e.1 ≤ f) && decide (f < e.1 + e.2)) with
    | some e => skipUsed us fuel (e.1 + e.2)
    | none => f

/-- The partition has no free device frame (R196, R201). -/
def State.noFrameFree (s : State) (p : Nat) : Bool :=
  let us := s.framesUsed p
  (s.districts p).all (fun d =>
    decide (devAddr d stackBytes ≤ 2 ^ 16 * skipUsed us us.length (devAddr d 0 / 2 ^ 16)))

/-- Up to so many free device frames of the partition, the lowest of its first stack that has one first, beside the runs in use. -/
def State.spareFrames (s : State) (p : Nat) : Nat → List (Nat × Nat) → List Nat
  | 0, _ => []
  | n + 1, us =>
    match (s.districts p).findSome? (fun d =>
        let f := skipUsed us us.length (devAddr d 0 / 2 ^ 16)
        if 2 ^ 16 * f < devAddr d stackBytes then some f else none) with
    | some f => f :: s.spareFrames p n ((f, 1) :: us)
    | none => []

/-- Different free frames. -/
def State.framesFree (s : State) (p : Nat) (fs : List Nat) : Bool := fs.all (s.frameFree p) && decide fs.Nodup

/-- The release of record `i` on its way; `denied` where the record is denied. -/
def State.release (s : State) (p i : Nat) (denied : Bool) : State :=
  s.onPart p (fun x => { x with faultq := setRec x.faultq i (fun r => { r with release := some denied }) })

/-- The page is mapped by now. -/
def State.mapped (s : State) (p : Nat) (r : FaultRec) : Bool :=
  match s.walk (recCtx r) p r.w0.toNat with
  | .leaf _ _ => true
  | _ => false

/-- A record served by mapping a free frame filled with zeros; a page that is mapped by now is only released; with no way
to map it, the record is denied (R196). -/
def State.serveMap (s : State) (p i : Nat) (r : FaultRec) (frame : Nat) (nodes : List Nat) : State :=
  if s.mapped p r then s.release p i false
  else if !s.framesFree p (frame :: nodes) then s
  else match (s.zeroFrame p frame).mapPage p (recCtx r) r.w0.toNat nodes (freshLeaf frame (recDepot r)) with
    | some s => s.release p i false
    | none => s.release p i true

/-- A record posted to the host: its sequence number follows those that wait (R303). -/
def State.serveHost (s : State) (p i : Nat) (r : FaultRec) (nodes : List Nat) : State :=
  let x := s.part p
  let seq := (x.hreqHead + BitVec.ofNat 32 x.hreqWait.length).toNat
  (s.onPart p (fun x => { x with faultq := setRec x.faultq i (fun r => { r with host := some seq, nodes := nodes }) })).postHost
    p 1 r.w0 r.w1

def execPagerServe (part i : Nat) (act : PagerAct) (s : State) : Host.Outcome State Fault Refusal :=
  let x := s.part part
  .next (match x.faultq[i]? with
    | none => s
    | some r =>
      if !x.pagerIn || decide (1024 ≤ i) || r.release.isSome || r.host.isSome then s
      else if (s.context? (recCtx r)).isNone then
        s.onPart part (fun x => { x with faultq := x.faultq.eraseIdx i }.idleFrom (s.pagerNow part))
      else match act with
        | .map frame nodes => s.serveMap part i r frame nodes
        | .host nodes => if s.framesFree part nodes then s.serveHost part i r nodes else s
        | .deny => s.release part i true)

/-- NOT_PRESENT as a denied access raises it. -/
def notPresent (va : Nat) : Trap := ⟨.notPresent, 0, w64 va⟩

/-- A unit's withheld access denied: precise in a sequenced unit, whose multicast is cut short (R389); in a triggered one the access stands as the blocked
request (R196, R228, R229). -/
def State.denyUnit (s : State) (u : Nat) (x : Unit) (pick : W64 → Nat → Bool) : State :=
  match x.blocked with
  | some (.again i c) =>
    (match c.hold with
     | some h =>
       if !pick h.w1 h.va then s
       else if x.isSeq then
         let s := match i with
           | .mcast _ => s.breakMcasts x.region (some u)
           | _ => s
         (s.putUnit u { x with blocked := none, blockedUpd := .none }).raise u c.slot (notPresent h.va)
       else (s.putUnit u { x with blocked := some (.again i { c with hold := none, faulted := true }) }).raise u c.slot (notPresent h.va)
     | none => s)
  | some (.stream st) =>
    (match st.hold with
     | some h => if pick h.w1 h.va then s.faultStream u x st (notPresent h.va) else s
     | none => s)
  | _ => s

/-- A copy's withheld event denied: the copy ends. -/
def State.denyCopies (s : State) (pick : W64 → Nat → Bool) : State :=
  (s.stations.flatMap (fun n => n.2.copies.map (fun c => (n.1, c.1, c.2)))).foldl (fun s e =>
    match e.2.2.hold with
    | some h =>
      if e.2.2.busy && pick h.w1 h.va then
        (s.setChan e.1 e.2.1 { e.2.2 with busy := false, hold := none }).raiseBy (some 3) e.2.2.unit (notPresent h.va)
      else s
    | none => s) s

/-- Withheld held events denied: each is dropped (R202). -/
def State.denyHeld (s : State) (pick : W64 → Nat → Bool) : State :=
  (s.stations.flatMap (fun n => n.2.ports.flatMap (fun p => p.2.held.map (fun h => (n.1, p.1, h))))).foldl (fun s e =>
    let h := e.2.2
    if h.withheld.any (fun w => pick w.w1 w.va) then
      (s.setHeld e.1 e.2.1 h none).raiseBy (some 2) h.unit (notPresent h.ev.va)
    else s) s

/-- A siding's withheld access denied: the record concerned is dropped (R213). -/
def State.denySidings (s : State) (pick : W64 → Nat → Bool) : State :=
  s.queues.foldl (fun s q =>
    let drop := fun (s : State) (x : Queue) (h : Option (W64 × Nat)) =>
      (s.setQueue q.1 x.settle).dropNote q.1 (Code.num .notPresent) 0 (w64 ((h.map (·.2)).getD 0)) 1
    let x := s.queueAt q.1
    let t := if picked pick (x.writeHold q.1) then drop s { x with spill := none } (x.writeHold q.1) else s
    let y := t.queueAt q.1
    if picked pick (y.readHold q.1) then
      (drop t { y with readback := none, siding := y.siding.drop 1 } (y.readHold q.1)).refillAll q.1
    else if picked pick (x.writeHold q.1) then t.refillAll q.1
    else t) s

/-- A region that waited for a record that is denied becomes Stopped and saved: NOT_PRESENT with SLOT 0 and EPC 0 stands in its
unit, and an error record is posted. R241's table gives only what follows where the record is served (DESIGN CHOICE, log
entry 39). -/
def State.denyRegions (s : State) (pick : W64 → Nat → Bool) : State :=
  s.regions.foldl (fun s r =>
    match r.2.service with
    | some (u, h) =>
      if pick h.w1 h.va && r.2.st != .waitingService then
        s.onRegion r.1 (fun x => { x with after := .stoppedSaved, service := none })
      else if pick h.w1 h.va then
        let t := notPresent h.va
        let s := s.onRegion r.1 (fun x => { x with
          st := .stoppedSaved, service := none
          savedUnits := x.savedUnits.map (fun e => (e.1, if e.1 = u then { e.2.setFault t 0 0 with stopped := true } else e.2)) })
        match Tab.find r.2.savedUnits u with
        | some x => s.postErr (s.faultRec u x t 0 0 0) 1
        | none => s
      else s
    | none => s) s

/-- The error record of a fault that the eviction engine meets. -/
def evictRec (p ctx : Nat) (t : Trap) : ErrRec :=
  { ErrRec.blank p 0 with ctx := ctx, code := t.code.num, detail := t.detail, addr := t.addr, akind := addrKind t }

def State.setEvicting (s : State) (p : Nat) (e : Option Evicting) : State := s.onPart p (fun x => { x with evicting := e })

def State.setPoison (s : State) (p : Nat) (e : Poison) : State :=
  s.onPart p (fun x => { x with poisons := e :: x.poisons.filter (fun f => f.frame != e.frame) })

/-- The eviction engine's withheld access denied: before its claim the node is abandoned; after it the access is retried
(R268). The poison walker's is retried too. -/
def State.denyEngines (s : State) (pick : W64 → Nat → Bool) : State :=
  s.partitions.foldl (fun s p =>
    let s := match p.2.evicting with
      | some e =>
        (match e.hold with
         | some h =>
           if pick h.w1 h.va then
             (s.setEvicting p.1 (if e.step = 0 then none else some { e with step := 3, since := s.pagerNow p.1, hold := none })).postCoalesced
               (evictRec p.1 (fld h.w1.toNat 48 16) (notPresent h.va))
           else s
         | none => s)
      | none => s
    p.2.poisons.foldl (fun s e => match e.hold with
      | some h => if pick h.w1 h.va then s.setPoison p.1 ⟨e.frame, some (s.pagerNow p.1), none⟩ else s
      | none => s) s) s

/-- Every withheld access that `pick` takes denied. -/
def State.denyHolds (s : State) (pick : W64 → Nat → Bool) : State :=
  let s := s.units.foldl (fun s u => s.denyUnit u.1 u.2 pick) s
  ((((((s.denyCopies pick).denyFetches pick).denyHeld pick).denySidings pick).denyRegions pick).denyEngines pick)

/-- The poster of a record and its page. -/
def FaultRec.picks (r : FaultRec) (w1 : W64) (va : Nat) : Bool :=
  posterOf w1 == posterOf r.w1 && va / 2 ^ 16 == r.w0.toNat / 2 ^ 16

/-- The release of a served record: the TLBINV that was issued for the page is complete (R196, R203). -/
def execFaultRelease (part i : Nat) (s : State) : Host.Outcome State Fault Refusal :=
  .next (match (s.part part).faultq[i]? with
    | none => s
    | some r =>
      match r.release with
      | none => s
      | some denied =>
        if !denied && !s.pageQuiet (recCtx r) r.w0.toNat then s
        else
        let s := s.onPart part (fun x => { x with faultq := x.faultq.eraseIdx i }.idleFrom (s.pagerNow part))
        if denied then s.denyHolds r.picks else s.liftHolds r.picks true)

def execHostRequestPost (part : Nat) (s : State) : Host.Outcome State Fault Refusal :=
  let x := s.part part
  .next (match x.hreqWait with
    | ws :: t =>
      if x.hreqRoom then
        (s.setPart part { x with hreqWait := t }).writeHostReq part (wordAt ws 0) (ws.getD 1 0) (ws.getD 2 0)
      else s
    | [] => s)

/-- HFRAME as a mapped answer needs it: R, W, CMODE and the frame, and nothing else (R303). -/
def hframeOk (w : Nat) : Bool :=
  fld w 0 2 == 0 && fld w 6 10 == 0 && fld w 57 7 == 0 && fld w 4 2 != 3 && fld w 2 2 != 0

/-- The level-2 leaf that HFRAME gives: KIND host. -/
def hostLeaf (w : W64) : W64 := w64 (w.toNat + 2 ^ 62 + 3)

def execHanswer (part : Nat) (val : BitVec 64) (s : State) : Host.Outcome State Fault Refusal :=
  let x := s.part part
  let seq := fld val.toNat 32 32
  let posted := decide (x.hreqWait.length ≤ (BitVec.ofNat 32 seq - x.hreqHead).toNat)
  .next (match (List.range x.faultq.length).find? (fun i => match x.faultq[i]? with
        | some r => r.host == some seq && r.release.isNone
        | none => false) with
    | none => s
    | some i =>
      if !posted then s
      else
        let s := s.setPart part { x with hframe := none }
        match (if val.getLsbD 0 then x.hframe else none), x.faultq[i]? with
        | some h, some r =>
          if hframeOk h.toNat then
            let nodes := r.nodes ++ s.spareFrames part 2 (s.framesUsed part)
            match s.mapPage part (recCtx r) r.w0.toNat nodes (hostLeaf h) with
            | some s => s.release part i false
            | none => s.release part i true
          else s.release part i true
        | _, _ => s.release part i true)

/-! ### The pager's place (R193) -/

def execPagerSwapIn (part : Nat) (s : State) : Host.Outcome State Fault Refusal :=
  .next (s.onPart part (fun x =>
    if !x.pagerIn && !(x.faultq.isEmpty && x.migq.isEmpty) then { x with pagerIn := true, pagerIdle := s.pagerNow part } else x))

def execPagerSwapOut (part : Nat) (s : State) : Host.Outcome State Fault Refusal :=
  .next (s.onPart part (fun x =>
    if x.pagerIn && x.faultq.isEmpty && x.migq.isEmpty && x.migration.isNone && decide (x.pagerIdle + 2 ^ 20 ≤ s.pagerNow part)
    then { x with pagerIn := false } else x))

/-! ### Migration (R200 to R203, R205) -/

/-- The level-2 entry of an address: its place. -/
def State.leafAt (s : State) (p ctx va : Nat) : Option Nat :=
  match s.rootOf ctx with
  | some root => (s.leafPlace p va 3 root 0 []).map (·.2)
  | none => none

/-- A migration record: context and page address. -/
def migCtx (r : W64 × W64) : Nat := fld r.1.toNat 48 16
def migPage (r : W64 × W64) : Nat := fld r.2.toNat 0 55

/-- The record dropped and the page's counters freed (R201). -/
def State.dropMigration (s : State) (p : Nat) (r : W64 × W64) : State :=
  (s.onPart p (fun x => { x with migq := x.migq.drop 1 }.idleFrom (s.pagerNow p))).freeCounters p (migCtx r) (migPage r / 2 ^ 16)

/-- A record ignored: it leaves the queue (R200). -/
def State.ignoreMigration (s : State) (p : Nat) : State :=
  s.onPart p (fun x => { x with migq := x.migq.drop 1 }.idleFrom (s.pagerNow p))

/-- Step 1: the entry with WB = 1, and a TLBINV for the page. A record for a page that is no longer of KIND host is
ignored (R200). -/
def State.beginMigration (s : State) (p : Nat) (r : W64 × W64) (frame : Nat) : State :=
  match s.leafAt p (migCtx r) (migPage r) with
  | none => s.ignoreMigration p
  | some a =>
    let old := w64 (s.homeNat p ⟨.device, a⟩ 8)
    if pteValid old && pteLeaf old && pteKind old == .host && !pteMalformed old 2 then
      let s := (s.putEntry p a (old ||| 0x100#64)).tlbinv p (migCtx r) (migPage r)
      s.onPart p (fun x => { x with
        migq := x.migq.drop 1, migration := some ⟨migCtx r, migPage r, old, frame, 1⟩ })
    else s.ignoreMigration p

/-- The entry of step 4: KIND device and the new frame, WB 0, every other field kept. -/
def migratedLeaf (old : W64) (frame : Nat) : W64 :=
  w64 (fld old.toNat 0 8 + fld old.toNat 9 7 * 2 ^ 9 + 2 ^ 16 * frame + fld old.toNat 57 5 * 2 ^ 57)

/-- The next of steps 2 to 6. -/
def State.stepMigration (s : State) (p : Nat) (m : Migration) : State :=
  let at_ := fun (s : State) (n : Nat) => s.onPart p (fun x => { x with migration := some { m with step := n } })
  match m.step with
  | 1 =>
    if s.pageQuiet m.ctx m.page then
      let bs := s.homeBytes p ⟨.host, pteFrame m.old⟩ 65536
      at_ (s.homeSync p .device (2 ^ 16 * m.frame) bs 0 false) 2
    else s
  | 2 => at_ ((List.range 512).foldl (fun s i => s.invlLine p ⟨.host, pteFrame m.old + 128 * i⟩ []) s) 3
  | 3 =>
    (match s.leafAt p m.ctx m.page with
     | some a => at_ ((s.putEntry p a (migratedLeaf m.old m.frame)).tlbinv p m.ctx m.page) 4
     | none => at_ s 4)
  | 4 => if s.pageQuiet m.ctx m.page then at_ (s.freeCounters p m.ctx (m.page / 2 ^ 16)) 5 else s
  | _ =>
    if (s.part p).hreqWait.isEmpty && (s.part p).hreqRoom then
      (s.onPart p (fun x => { x with migration := none }.idleFrom (s.pagerNow p))).writeHostReq p 2 (w64 (pteFrame m.old)) (w64 m.page)
    else s

def execPageMigration (part : Nat) (frame : Option Nat) (s : State) : Host.Outcome State Fault Refusal :=
  let x := s.part part
  .next (if !x.pagerIn then s
    else match x.migration, x.migq with
      | some m, _ => s.stepMigration part m
      | none, [] => s
      | none, r :: _ =>
        match frame with
        | some f => if s.frameFree part f then s.beginMigration part r f else s
        | none => if s.noFrameFree part then s.dropMigration part r else s)

/-! ### Poison and eviction (R254, R268, R270) -/

/-- The context in whose tables firmware engines translate: the lowest of the partition that is not being removed. -/
def State.engineCtx (s : State) (p : Nat) : Option Nat :=
  (s.contexts.find? (fun c => c.2.desc.part == p && !c.2.removing)).map (·.1)

/-- The structure accesses of the partition's own engines (R250, R268). -/
def engineEnv (p ctx : Nat) : KvEnv := ⟨fun s va w => (s, s.translatePlain ctx p va w), p⟩

/-- The rank of a frame's stack among the partition's stacks (R247). -/
def State.stackRank (s : State) (p frame : Nat) : Nat :=
  ((s.districts p).filter (fun d => decide (d < stackOf (2 ^ 16 * frame)))).length

/-- The index of a frame in FMAP: its place among the frames of the partition's stacks. -/
def State.frameIndex (s : State) (p frame : Nat) : Nat :=
  s.stackRank p frame * (stackBytes / 2 ^ 16) + stackOffset (2 ^ 16 * frame) / 2 ^ 16

/-- The group of a descriptor's block table, sought from block `b` on. -/
def KvEnv.holdsGroup (e : KvEnv) (d g : Nat) : Nat → Nat → KvM Bool
  | 0, _ => KvM.pure false
  | left + 1, b => (e.entry d b).bind (fun h => if h = g then KvM.pure true else e.holdsGroup d g left (b + 1))

/-- Steps 1 and 2 of R270. -/
def KvEnv.poisonGroup (e : KvEnv) (index : Nat) : KvM PUnit :=
  (e.cbq 56).bind (fun fmap => (e.q (fmap + 8 * index)).bind (fun g =>
    if g = 0 then KvM.pure ⟨⟩
    else (e.upd (gRef g) (fun w => if isPoisoned w then w else w + groupPoison)).bind (fun _ =>
      (e.q (gNode g)).bind (fun node =>
        (if node = 0 then KvM.pure ⟨⟩
         else e.upd (nChild node) (fun w => if isPoisoned w then w else w + groupPoison)).bind (fun _ =>
          (e.after g).bind (fun _ => (e.cbq 48).bind (fun tab =>
            KvM.each (fun j => (e.q (tab + 8 * j)).bind (fun d =>
              if d = 0 then KvM.pure ⟨⟩
              else (e.q d).bind (fun w0 =>
                if !sdLive w0 then KvM.pure ⟨⟩
                else (e.holdsGroup d g ((sdLen w0 + 15) / 16) 0).bind (fun h =>
                  if h then (e.markPoison d).bind (fun _ => KvM.pure ⟨⟩) else KvM.pure ⟨⟩)))) (List.range 65536))))))))

/-- The error record of an uncorrectable frame, which its stack reports (R247, R270). -/
def State.poisonRec (s : State) (p frame : Nat) : ErrRec :=
  { ErrRec.blank p 2 with
    kind := 5, die := stackOf (2 ^ 16 * frame) / 2, akind := 2, syndrome := 3
    addr := w64 (s.stackRank p frame * 2 ^ 37 + stackOffset (2 ^ 16 * frame)) }

/-- A structure access of an engine is withheld: a fault record as of the pager station's port 0. -/
def State.engineHold (s : State) (p ctx va level access : Nat) (wb : Bool) : State × Hold :=
  let w1 := faultWord ctx (s.part p).pager 0 level access
  let t := if wb then s else s.postFault p w1 va
  ({ t with ids := t.ids + 1 }, ⟨va, w1, wb, s.pagerNow p, t.ids⟩)

def State.dropPoison (s : State) (p frame : Nat) : State :=
  s.onPart p (fun x => { x with poisons := x.poisons.filter (fun f => f.frame != frame) })

/-- The walker marks what holds a frame, and only then posts the record. A structure access that is withheld makes it wait;
after another fault it begins again 2^16 die cycles later. It waits for a context in whose tables it can translate; a
partition without a KV control block has nothing to mark (DESIGN CHOICE, log entry 87). -/
def State.poisonTry (s : State) (p frame : Nat) : State :=
  if (s.part p).kvcb = 0 then (s.dropPoison p frame).postCoalesced (s.poisonRec p frame)
  else match s.engineCtx p with
    | none => s
    | some c =>
      match (engineEnv p c).poisonGroup (s.frameIndex p frame) s with
      | .ok _ s => (s.dropPoison p frame).postCoalesced (s.poisonRec p frame)
      | .fault _ => s.setPoison p ⟨frame, some (s.pagerNow p), none⟩
      | .hold va level access wb =>
        let r := s.engineHold p c va level access wb
        r.1.setPoison p ⟨frame, none, some r.2⟩

/-- A frame's data is found uncorrectable, or its marking goes on. -/
def State.poisonFrame (s : State) (part frame : Nat) : State :=
  if !s.ownsAddr part (2 ^ 16 * frame) then s
  else match (s.part part).poisons.find? (fun e => e.frame == frame) with
    | some e =>
      if e.hold.isSome || e.since.any (fun t => decide (s.pagerNow part < t + 2 ^ 16))
        || !s.mayRepeat (walkerAgent part frame) then s
      else (s.repeated (walkerAgent part frame)).poisonTry part frame
    | none =>
      let s : State := { s with poisoned := if s.poisoned.contains frame then s.poisoned else frame :: s.poisoned }
      (s.setPoison part ⟨frame, none, none⟩).poisonTry part frame

def execPoisonWalk (part frame : Nat) (s : State) : Host.Outcome State Fault Refusal := .next (s.poisonFrame part frame)

/-- Steps 1 and 2 of R268, while GCOUNT < LOWMARK: the group that was claimed. -/
def KvEnv.claim (e : KvEnv) (c : Nat) : KvM (Option Nat) :=
  (e.cbq 8).bind (fun mark => if fld mark 32 32 ≤ fld mark 0 32 then KvM.pure none else
  (e.q (nGroup c)).bind (fun g => (e.q (gNode g)).bind (fun n =>
    if g = 0 || n != c then KvM.pure none
    else (e.rmw 8 (gRef g) (fun w => if w = 0 then evictBit else w)).bind (fun w =>
      if w != 0 then KvM.pure none
      else (e.rmw 8 (nChild c) (fun w => if w = 0 then evictBit else w)).bind (fun k =>
        if k != 0 then (e.st (gRef g) 0).bind (fun _ => KvM.pure none) else KvM.pure (some g))))))

/-- Steps 3 and 4 of R268. A group that was poisoned while it was claimed never returns to the free list (R254). -/
def KvEnv.remove (e : KvEnv) (c g : Nat) : KvM PUnit :=
  (e.leave 65537 c).bind (fun _ => (e.st (gNode g) 0).bind (fun _ => (e.st (gRows g) 0).bind (fun _ =>
    (e.q (gRef g)).bind (fun w => if isPoisoned w then KvM.pure ⟨⟩ else e.pushGroup g))))

/-- Steps 3 and 4 carried out, or tried again later. -/
def State.evictRemove (s : State) (p ctx node g : Nat) : State :=
  match (engineEnv p ctx).remove node g s with
  | .ok _ s => s.setEvicting p none
  | .fault t => (s.setEvicting p (some ⟨node, g, 3, s.pagerNow p, none⟩)).postCoalesced (evictRec p ctx t)
  | .hold va level access wb =>
    let r := s.engineHold p ctx va level access wb
    r.1.setEvicting p (some ⟨node, g, 4, s.pagerNow p, some r.2⟩)

/-- A node tried from step 1, where the free groups are below their mark. A fault leaves nothing claimed: the node is
abandoned. -/
def State.evictTry (s : State) (p ctx node : Nat) : State :=
  match (engineEnv p ctx).claim node s with
  | .ok none s => s.setEvicting p none
  | .ok (some g) s => s.evictRemove p ctx node g
  | .fault t => (s.setEvicting p none).postCoalesced (evictRec p ctx t)
  | .hold va level access wb =>
    let r := s.engineHold p ctx va level access wb
    r.1.setEvicting p (some ⟨node, 0, 0, s.pagerNow p, some r.2⟩)

def execEvictionTry (part node : Nat) (s : State) : Host.Outcome State Fault Refusal :=
  .next (match s.engineCtx part with
    | some c => if (s.part part).evicting.isNone && (s.part part).kvcb != 0 then s.evictTry part c node else s
    | none => s)

def execEvictionRetry (part : Nat) (s : State) : Host.Outcome State Fault Refusal :=
  .next (match s.engineCtx part, (s.part part).evicting with
    | some c, some e =>
      if e.hold.isSome || !s.mayRepeat (engineAgent part) then s
      else
        let s := s.repeated (engineAgent part)
        if e.step = 0 then s.evictTry part c e.node
        else if e.step = 4 || decide (e.since + 2 ^ 16 ≤ s.pagerNow part) then s.evictRemove part c e.node e.group
        else s
    | _, _ => s)

end Sys2Proof.Machine
end

