-- ==== Sys2Proof/Machine/EvFirmware.lean ====
section
/-! DEFINITION. What the signed firmware does, and the resets: contexts, partitions, retirement, wear, throttling and the
bring-up (R186, R309, R313 to R315, R318, R321 to R324). -/
namespace Sys2Proof.Machine

/-! ### Contexts (R186) -/

/-- Firmware refuses a table root that is not aligned or lies outside the partition's stacks. -/
def execContextCreate (ctx : Nat) (desc : CtxDesc) (s : State) : Host.Outcome State Fault Refusal :=
  .next (if (s.part desc.part).st = .active && s.critical.isNone && s.present desc.part && decide (ctx < 2 ^ 16) && (s.context? ctx).isNone
        && desc.root % 2 ^ 16 == 0 && s.ownsAddr desc.part desc.root then
      { s with contexts := Tab.put s.contexts ctx ⟨desc, false, 0⟩ }
    else s)

/-! ### Partitions (R160, R193, R309) -/

/-- A district's column and row among the districts of the package. -/
def districtPlace (d : Nat) : Nat × Nat := (2 * (d / 4 % 2) + d / 2 % 2, 2 * (d / 8) + d % 2)

/-- Two districts that a mesh link joins. -/
def districtsAdjacent (d e : Nat) : Bool :=
  let a := districtPlace d
  let b := districtPlace e
  (a.1 - b.1) + (b.1 - a.1) + (a.2 - b.2) + (b.2 - a.2) == 1

/-- The districts that adjacency reaches within a set. -/
def reachable (ds : List Nat) : Nat → List Nat → List Nat
  | 0, seen => seen
  | n + 1, seen => reachable ds n (ds.filter (fun d => seen.contains d || seen.any (districtsAdjacent d)))

/-- Adjacency connects the districts. -/
def connected (ds : List Nat) : Bool :=
  match ds with
  | d :: _ => ds.all ((reachable ds ds.length [d]).contains ·)
  | [] => false

/-- Distinct districts in ascending order. -/
def ascending : List Nat → Bool
  | a :: b :: t => decide (a < b) && ascending (b :: t)
  | _ => true

/-- The error ring and the host request ring at free places of 2^18 bytes in the partition's window, apart from each
other. -/
def ringPlaces (k n m : Nat) : Nat × Nat :=
  let slots := k * stackBytes / 2 ^ 18
  let e := n % slots
  let h := m % (slots - 1)
  (2 ^ 18 * e, 2 ^ 18 * (if h < e then h else h + 1))

def State.createPartition (s : State) (p : Nat) (ds : List Nat) (pager : Nat) : State :=
  let (n, s) := s.draw
  let (m, s) := s.draw
  let (f, s) := s.draw
  let r := ringPlaces ds.length n m
  s.setPart p { Partition.reset with
    districts := ds, pager := pager, errBase := r.1, hreqBase := r.2, fixedShare := f % 2 == 1 }

/-- Firmware creates a partition from free districts that adjacency connects, with a pager station among them. Its keys,
its scrub and its activation follow (R309 to R311). -/
def execPartitionCreate (part : Nat) (districts : List Nat) (pager : Nat) (s : State) : Host.Outcome State Fault Refusal :=
  .next (if s.power = .up && s.critical.isNone && decide (part < 16) && !s.present part && ascending districts && districts.all (· < 16)
        && districts.all (fun d => (s.partOf d).isNone) && connected districts
        && districts.contains (districtOfStn pager) && decide (pager < 512) && !(s.station pager).retired then
      s.createPartition part districts pager
    else s)

/-- The queues of a partition are all disabled. -/
def State.queuesOff (s : State) (p : Nat) : Bool := s.queues.all (fun q => s.queuePart q.1 != some p || q.2.st == .disabled)

/-- A partition without contexts, its queues disabled, is destroyed and its keys are zeroed. -/
def State.removePartition (s : State) (p : Nat) : State :=
  let s := (s.part p).districts.foldl (fun s d => s.setMainPort d { s.mainPort d with
    key := .none, nextKey := false, window := 0, epoch := 0, rxEpoch := 0, txSeq := 0, rxSeq := 0, queued := [], sent := [] }) s
  { s with partitions := Tab.del s.partitions p }

def execPartitionDestroy (part : Nat) (s : State) : Host.Outcome State Fault Refusal :=
  .next (if s.present part && (s.contextsOf part).isEmpty && s.queuesOff part then s.removePartition part else s)

/-! ### Retirement (R313 to R315) -/

/-- Regions resident or saved on a station. -/
def State.regionsAt (s : State) (n : Nat) : List (Nat × Region) := s.regions.filter (fun r => r.2.stations.contains n)

/-- A station retired once no region is on it, with its record. -/
def State.retireStation (s : State) (stn : Nat) : State :=
  if decide (512 ≤ stn) || (s.station stn).retired || !(s.regionsAt stn).isEmpty then s
  else (s.onStation stn (fun st => { st with retired := true })).retireNote (districtOfStn stn)
    (fun e => { e with kind := 4, die := dieOfStn stn, station := stn % 64 })

/-- A failing station is retired once no region is on it; with an uncorrectable failure the contexts of the regions saved
there are removed first. -/
def execStationRetire (stn : Nat) (uncorrectable : Bool) (s : State) : Host.Outcome State Fault Refusal :=
  .next (if uncorrectable && decide (stn < 512) && !(s.station stn).retired then
      (((s.regionsAt stn).filter (fun r => !r.2.st.resident)).foldl (fun s r => s.drainContext r.2.ctx) s).retireStation stn
    else s.retireStation stn)

/-- A frame of a stack found uncorrectable: which frames of a failing channel fail is free, one at a time (DESIGN CHOICE,
log entry 71). In a stack of no partition no structure holds the frame, and it is poisoned only. -/
def State.poisonFailing (s : State) (stack : Nat) : State :=
  let (n, s) := s.draw
  let frame := devAddr stack 0 / 2 ^ 16 + n % (stackBytes / 2 ^ 16)
  match s.partOf stack with
  | some p => s.poisonFrame p frame
  | none => if s.poisoned.contains frame then s else { s with poisoned := frame :: s.poisoned }

/-- Pseudo-channel `ch` of a stack, 0 to 159: channel `ch % 5` behind slice `ch / 5` of the stack's 32 (R150); package slices
are numbered 32 to a stack (R5). A second failing channel of a slice is not retired: a failing frame is poisoned and the
module is marked for replacement. Contents and results do not change. -/
def State.retireChannel (s : State) (stack ch : Nat) : State :=
  let slice := stack * 32 + ch / 5
  if decide (16 ≤ stack) || decide (160 ≤ ch) || s.retiredCh.contains (slice, ch % 5) then s
  else if s.retiredCh.any (fun c => c.1 == slice) then { s.poisonFailing stack with marked := true }
  else { s with retiredCh := (slice, ch % 5) :: s.retiredCh }.retireNote stack (fun e => { e with die := stack / 2 })

def execPseudoChannelRetire (stack ch : Nat) (s : State) : Host.Outcome State Fault Refusal := .next (s.retireChannel stack ch)

/-! ### Wear and clocks (R318, R321) -/

/-- At end of life firmware spares the instance under R313: a station, a main-line lane or a pseudo-channel; where R315
forbids that, the module is marked. A rail phase has no spare. -/
def State.spare (s : State) (which unit : Nat) : State :=
  if which = 1 then s.retireStation unit
  else if which = 2 then
    if unit < 128 && (s.mainPort (unit / 8)).lanes.getLsbD (unit % 8) then s.retireLane (unit / 8) (unit % 8) else s
  else if which = 3 then s.retireChannel (unit / 160) (unit % 160)
  else s

/-- The instance that UNIT of a wear register names lies in the partition's own districts: a station, a lane of a main-line port or
a pseudo-channel; core rail phases, of which UNIT names 64, are in no district (R318). -/
def State.wearUnit (s : State) (p which unit : Nat) : Bool :=
  if which = 0 then decide (unit < 64)
  else if which = 1 then decide (unit < 512) && (s.districts p).contains (districtOfStn unit)
  else if which = 2 then decide (unit < 128) && (s.districts p).contains (unit / 8)
  else (s.districts p).contains (unit / 160)

/-- A wear register refreshed: of an instance that is the partition's (R318). -/
def execWearRefresh (part which : Nat) (val : BitVec 64) (s : State) : Host.Outcome State Fault Refusal :=
  let x := s.part part
  .next (if !s.present part || decide (4 ≤ which) || !s.wearUnit part which (fld val.toNat 32 16) then s
    else
      let v := w64 (val.toNat % 2 ^ 48)
      let s := s.setPart part { x with wear := Tab.set wearReset x.wear which v }
      if fld v.toNat 0 16 = 0 then s.spare which (fld v.toNat 32 16) else s)

def execThermalThrottle (depotClock : Bool) (level : Nat) (s : State) : Host.Outcome State Fault Refusal :=
  .next (if depotClock then { s with dclock := level } else { s with clock := level })

/-! ### Power (R322 to R324) -/

/-- Pseudo-channels that fail are spared under R315: one to a slice; with a second one a failing frame is poisoned and the module
is marked. -/
def State.failChannel (s : State) (n : Nat) : State :=
  if decide (2560 ≤ n) || s.retiredCh.contains (n / 5, n % 5) then s
  else if s.retiredCh.any (fun c => c.1 == n / 5) then { s.poisonFailing (n / 160) with marked := true }
  else { s with retiredCh := (n / 5, n % 5) :: s.retiredCh }

/-- Lanes in service after the ports have trained: those retired before and those that fail now are not; below four lanes
the port is down (R313, R316). -/
def trainedPorts (s : State) (failing : List Failing) : Tab MainPort :=
  (List.range 16).filterMap (fun p =>
    let lanes := failing.foldl (fun (v : BitVec 8) f => match f with
      | .lanes q bad => if q = p then v &&& ~~~bad else v
      | _ => v) (s.mainPort p).lanes
    let x := { MainPort.reset with lanes := lanes }
    if lanes = 0xFF#8 then none else some (p, { x with down := decide (x.width < 4) }))

/-- Every partition is drained: each context begins its drain, and core power goes once the last one is removed. -/
def execCriticalTemperature (die : Nat) (s : State) : Host.Outcome State Fault Refusal :=
  .next (if !s.power.runs || decide (8 ≤ die) || s.critical.isSome then s
    else ((s.contexts.map (·.1)).foldl State.drainContext { s with critical := some die }).coolDown)

/-- The module brought up (R322): nothing is left but the host's and the peers' memory and the retirement record. Where the
rails do not rise the module is held in reset; an image that does not verify leaves it in recovery mode. -/
def State.bringUp (s : State) (verified : Bool) (failing : List Failing) : State :=
  let t : State := { State.reset with
    agenda := s.agenda
    free := s.free
    ids := s.ids
    host := s.host
    peer := s.peer
    stations := retiredStations s failing
    cores := keptCores s failing
    mainPorts := trainedPorts s failing
    boots := s.boots + 1
    retiredCh := s.retiredCh
    marked := s.marked
    power := if failing.contains .rails then .held else if verified then .up else .recovery }
  failing.foldl (fun s f => match f with
    | .channel n => s.failChannel n
    | _ => s) t

def execPowerOnReset (verified : Bool) (failing : List Failing) (s : State) : Host.Outcome State Fault Refusal :=
  .next (s.bringUp verified failing)

def execConventionalReset (verified : Bool) (failing : List Failing) (s : State) : Host.Outcome State Fault Refusal :=
  .next (s.bringUp verified failing)

/-- A function-level reset acts on the partition as a revocation, whatever keys it has (R323). -/
def execFunctionLevelReset (part : Nat) (s : State) : Host.Outcome State Fault Refusal :=
  .next (if s.present part then s.revoke part else s)

end Sys2Proof.Machine
end

