-- ==== Sys2Proof/Machine/FloatLane.lean ====
section
/-! DEFINITION. The floating-point lane operations (R360, R361). -/
namespace Sys2Proof.Machine

/-- An operation of two values, rounded once (R361). -/
def fl2 (t : FTy) (r : Rnd) (op : FVal → FVal → FVal) (a b : Nat) : Nat :=
  (fmtOfF t).encode r (op ((fmtOfF t).decode a) ((fmtOfF t).decode b))

def fl1 (t : FTy) (r : Rnd) (op : FVal → FVal) (a : Nat) : Nat := (fmtOfF t).encode r (op ((fmtOfF t).decode a))

def flWidth (t : FTy) : Nat := (fmtOfF t).w
def flImm (t : FTy) : BitVec 7 → Nat := immFl (fmtOfF t)

def execFadd (t : FTy) (r : Rnd) (d : Dst) (a b : Src) (s : State) : Host.Outcome State Fault Refusal :=
  laneOp2 (.fadd t r d a b) (flWidth t) (flImm t) 1 (fl2 t r (FVal.add r)) d a b s

def execFsub (t : FTy) (r : Rnd) (d : Dst) (a b : Src) (s : State) : Host.Outcome State Fault Refusal :=
  laneOp2 (.fsub t r d a b) (flWidth t) (flImm t) 1 (fl2 t r (fun x y => FVal.add r x y.neg)) d a b s

def execFmul (t : FTy) (r : Rnd) (d : Dst) (a b : Src) (s : State) : Host.Outcome State Fault Refusal :=
  laneOp2 (.fmul t r d a b) (flWidth t) (flImm t) 1 (fl2 t r FVal.mul) d a b s

def execFma (t : FTy) (r : Rnd) (d : Dst) (a b : Src) (s : State) : Host.Outcome State Fault Refusal :=
  laneOp3 (.fma t r d a b) (flWidth t) (flImm t) 1
    (fun p q c => (fmtOfF t).encode r
      (FVal.add r (FVal.mul ((fmtOfF t).decode p) ((fmtOfF t).decode q)) ((fmtOfF t).decode c))) d a b s

def execFmin (t : FTy) (d : Dst) (a b : Src) (s : State) : Host.Outcome State Fault Refusal :=
  laneOp2 (.fmin t d a b) (flWidth t) (flImm t) 1 ((fmtOfF t).minmax false) d a b s

def execFmax (t : FTy) (d : Dst) (a b : Src) (s : State) : Host.Outcome State Fault Refusal :=
  laneOp2 (.fmax t d a b) (flWidth t) (flImm t) 1 ((fmtOfF t).minmax true) d a b s

def execFabs (t : FTy) (d : Dst) (a : Src) (s : State) : Host.Outcome State Fault Refusal :=
  laneOp1 (.fabs t d a) (flWidth t) (flImm t) 1 (fun p => p % 2 ^ (flWidth t - 1)) d a s

def execFneg (t : FTy) (d : Dst) (a : Src) (s : State) : Host.Outcome State Fault Refusal :=
  laneOp1 (.fneg t d a) (flWidth t) (flImm t) 1 (fun p => p ^^^ 2 ^ (flWidth t - 1)) d a s

def execFcmp (t : FTy) (cond : FCond) (d : Dst) (a b : Src) (s : State) : Host.Outcome State Fault Refusal :=
  laneOp2 (.fcmp t cond d a b) (flWidth t) (flImm t) 1
    (fun p q => b2n (FVal.cond cond ((fmtOfF t).decode p) ((fmtOfF t).decode q))) d a b s

def execFdiv (t : FTy) (r : Rnd) (d : Dst) (a b : Src) (s : State) : Host.Outcome State Fault Refusal :=
  laneOp2 (.fdiv t r d a b) (flWidth t) (flImm t) 8 (fl2 t r FVal.div) d a b s

def execFsqrt (t : FTy) (r : Rnd) (d : Dst) (a : Src) (s : State) : Host.Outcome State Fault Refusal :=
  laneOp1 (.fsqrt t r d a) (flWidth t) (flImm t) 8 (fl1 t r FVal.sqrt) d a s

def execFrcp (t : FTy) (r : Rnd) (d : Dst) (a : Src) (s : State) : Host.Outcome State Fault Refusal :=
  laneOp1 (.frcp t r d a) (flWidth t) (flImm t) 4 (fl1 t r (FVal.div FVal.one)) d a s

def execFrsq (t : FTy) (r : Rnd) (d : Dst) (a : Src) (s : State) : Host.Outcome State Fault Refusal :=
  laneOp1 (.frsq t r d a) (flWidth t) (flImm t) 4 (fl1 t r FVal.rsqrt) d a s

def execFexp2 (t : FTy) (r : Rnd) (d : Dst) (a : Src) (s : State) : Host.Outcome State Fault Refusal :=
  laneOp1 (.fexp2 t r d a) (flWidth t) (flImm t) 4 (fl1 t r FVal.exp2) d a s

def execFlog2 (t : FTy) (r : Rnd) (d : Dst) (a : Src) (s : State) : Host.Outcome State Fault Refusal :=
  laneOp1 (.flog2 t r d a) (flWidth t) (flImm t) 4 (fl1 t r FVal.log2) d a s

end Sys2Proof.Machine
end

