-- ==== Sys2Proof/Machine/Move.lean ====
section
/-! DEFINITION. Moves, lane permutations, reductions, scans, single values and predicates: MOV to INSL and PSET to PREAD
(R114, R115, R334, R359, R373, R396, R397, R401, R404, R405, R410, R419, R421). -/
namespace Sys2Proof.Machine

/-- The lanes of a MOV's source: bits 31 to 0 of a scalar in every lane, LANE's own index, a register's lanes (R396). -/
def State.movVec (s : State) (u : Nat) (x : Unit) (a : Src) : Nat := s.laneVec u x 32 (immInt 32) a

def execMov (d : Dst) (a : Src) (s : State) : Host.Outcome State Fault Refusal :=
  runUnit (.mov d a) avTSD [a] [d] (fun u x s va _ _ => .write s d (s.movVec u x a) va 1) s

def execMovi (d : Dst) (imm : BitVec 22) (s : State) : Host.Outcome State Fault Refusal :=
  runUnit (.movi d imm) avTSD [] [d] (fun _ x s _ _ _ =>
    .write s d (spread 32 x.lanes (imm.signExtend 64)) (imm.signExtend 64) 1) s

def execMovh (d : Dst) (imm : BitVec 22) (s : State) : Host.Outcome State Fault Refusal :=
  runUnit (.movh d imm) avTSD [] [d] (fun _ x s _ _ _ =>
    match d with
    | .s n => .write s d 0 ((x.sReg n <<< 22) ||| imm.setWidth 64) 1
    | .v n => .write s d (vecMk 32 x.lanes (fun j => ((x.vLane n j <<< 22) ||| imm.setWidth 32).toNat)) 0 1
    | _ => .done s) s

def widthBits : Width → Nat
  | .w8 => 8
  | .w16 => 16
  | .w32 => 32
  | .w64 => 64

/-- SHFL (R421): by an index register, or rotated by a scalar. -/
def execShfl (w : Width) (d a : VReg) (b : Src) (s : State) : Host.Outcome State Fault Refusal :=
  runUnit (.shfl w d a b) avTSD [.v a, b] [.v d] (fun _ x s _ vb _ =>
    let k := widthBits w
    let n := x.count k
    let src := x.vVec a
    let idx := match b with
      | .v m => fun v => valAt k (x.vVec m) v % n
      | _ => fun v => (v + vb.toNat) % n
    .write s (.v d) (vecMk k n (fun v => valAt k src (idx v))) 0 1) s

def execBcst (w : Width) (d : Dst) (a : VReg) (idx : Src) (s : State) : Host.Outcome State Fault Refusal :=
  runUnit (.bcst w d a idx) avTSD [.v a, idx] [d] (fun _ x s _ vi _ =>
    let k := widthBits w
    let n := x.count k
    let p := valAt k (x.vVec a) (vi.toNat % n)
    let vec := vecMk k n (fun _ => p)
    .write s d vec (scalarOf k vec) 1) s

/-! ### Reductions (R114, R115) -/

/-- One level of the pairwise tree. -/
def pairUp (op : Nat → Nat → Nat) : List Nat → List Nat
  | a :: b :: t => op a b :: pairUp op t
  | l => l

/-- The pairwise tree in value order, level by level (R114). -/
def treeReduce (op : Nat → Nat → Nat) : Nat → List Nat → Nat
  | 0, l => l.headD 0
  | n + 1, l => treeReduce op n (pairUp op l)

/-- The blocks of a prefix, largest first, each reduced by the tree, combined from left to right; `b` runs down (R115). -/
def scanBlocks (op : Nat → Nat → Nat) (xs : List Nat) (m : Nat) : Nat → Nat → Option Nat → Nat
  | 0, base, acc =>
    if m.testBit 0 then
      let blk := xs.getD base 0
      match acc with
      | some y => op y blk
      | none => blk
    else acc.getD 0
  | b + 1, base, acc =>
    if m.testBit (b + 1) then
      let blk := treeReduce op (b + 1) ((xs.drop base).take (2 ^ (b + 1)))
      scanBlocks op xs m b (base + 2 ^ (b + 1)) (some (match acc with | some y => op y blk | none => blk))
    else scanBlocks op xs m b base acc

/-- The operation of RDCE and SCAN on the patterns of a type (R114, R410). -/
def redApply (ty : Ty) (op : RedOp) (sat : Bool) (r : Rnd) (a b : Nat) : Nat :=
  match ty, op with
  | .int t, .add => exact2 t sat (· + ·) a b
  | .int t, .min => exact2 t false min a b
  | .int t, .max => exact2 t false max a b
  | .fl t, .add => (fmtOfF t).encode r (FVal.add r ((fmtOfF t).decode a) ((fmtOfF t).decode b))
  | .fl t, .min => (fmtOfF t).minmax false a b
  | .fl t, .max => (fmtOfF t).minmax true a b
  | .f8 _, _ => a

/-- The value positions of a register, in value order. -/
def valuesOf (x : Unit) (a : VReg) (w : Nat) : List Nat := (List.range (x.count w)).map (valAt w (x.vVec a))

def execRdce (ty : Ty) (op : RedOp) (sat : Bool) (r : Rnd) (d : Dst) (a : VReg) (s : State) :
    Host.Outcome State Fault Refusal :=
  runUnit (.rdce ty op sat r d a) avTSD [.v a] [d] (fun _ x s _ _ _ =>
    let w := tyWidth ty
    let n := x.count w
    let y := treeReduce (redApply ty op sat r) n.log2 (valuesOf x a w)
    let vec := vecMk w n (fun _ => y)
    .write s d vec (scalarOf w vec) 4) s

def execScan (ty : Ty) (op : RedOp) (sat : Bool) (r : Rnd) (d a : VReg) (s : State) :
    Host.Outcome State Fault Refusal :=
  runUnit (.scan ty op sat r d a) avTSD [.v a] [.v d] (fun _ x s _ _ _ =>
    let w := tyWidth ty
    let n := x.count w
    let xs := valuesOf x a w
    .write s (.v d) (vecMk w n (fun i => scanBlocks (redApply ty op sat r) xs (i + 1) n.log2 0 none)) 0 4) s

/-! ### Single values -/

def execExtl (w : Width) (sx : Bool) (d : Dst) (a : VReg) (idx : Src) (s : State) : Host.Outcome State Fault Refusal :=
  runUnit (.extl w sx d a idx) avTSD [.v a, idx] [d] (fun _ x s _ vi _ =>
    let k := widthBits w
    let p := valAt k (x.vVec a) (vi.toNat % x.count k)
    .write s d p (w64 (if sx then sextTo k 64 p else p)) 1) s

/-- INSL's source: value position 0 of a V register, the immediate at width w, or the low bits of a scalar (R373). -/
def inslVal (x : Unit) (k : Nat) (va : W64) : Src → Nat
  | .v n => valAt k (x.vVec n) 0
  | .imm i => immInt k i
  | _ => va.toNat % 2 ^ k

def execInsl (w : Width) (d : VReg) (a idx : Src) (s : State) : Host.Outcome State Fault Refusal :=
  runUnit (.insl w d a idx) avTSD [a, idx, .v d] [.v d] (fun _ x s va vi _ =>
    let k := widthBits w
    let n := x.count k
    let at' := vi.toNat % n
    let old := x.vVec d
    .write s (.v d) (vecMk k n (fun v => if v = at' then inslVal x k va a else valAt k old v)) 0 1) s

/-! ### Predicates -/

def execPset (a : Src) (s : State) : Host.Outcome State Fault Refusal :=
  runUnit (.pset a) avTSD [a] [] (fun u _ s va _ _ => .done (s.onUnit u (fun x => { x with p := x.p ||| va.setWidth 8 }))) s

def execPclr (a : Src) (s : State) : Host.Outcome State Fault Refusal :=
  runUnit (.pclr a) avTSD [a] []
    (fun u _ s va _ _ => .done (s.onUnit u (fun x => { x with p := x.p &&& ~~~(va.setWidth 8) }))) s

/-- PLD (R404): over the live lanes only; the predicate is written whatever lane 0 is. -/
def execPld (all : Bool) (p : Fin 8) (a : VReg) (s : State) : Host.Outcome State Fault Refusal :=
  runUnit (.pld all p a) avTSD [.v a] [.p p] (fun u x s _ _ _ =>
    let live := (List.range x.lanes).filter (fun j => x.live j)
    let r := if all then live.all (fun j => x.vLane a j != 0) else live.any (fun j => x.vLane a j != 0)
    .done (s.onUnit u (fun x => { x with p := setPred x.p p r }))) s

/-- PREAD. LM as the source of a write is not masked (R43). -/
def execPread (d : Dst) (a : Src) (s : State) : Host.Outcome State Fault Refusal :=
  runUnit (.pread d a) avTSD [a] [d] (fun u x s va _ _ =>
    if 2 < va.toNat then .trap (illegal 2)
    else
      let lm : BitVec 128 := match s.unit? u with | some y => y.lm | none => x.lm
      let v : W64 := if va = 0 then x.p.setWidth 64 else if va = 1 then lm.setWidth 64 else (lm >>> 64).setWidth 64
      if va = 0 then .write s d (spread 32 x.lanes v) v 1
      else match d with
        | .o _ => .write s d (spread 32 x.lanes v) v 1
        | d => .done (s.onUnit u (fun y => y.writeAll d (spread 32 x.lanes v) v))) s

end Sys2Proof.Machine
end

