-- ==== Sys2Proof/Machine/Dispatch.lean ====
section
/-! DEFINITION. The dispatch: one arm for each constructor of `Instr`, each one direct call of its meaning. -/
namespace Sys2Proof.Machine

def exec (i : Instr) (s : State) : Host.Outcome State Fault Refusal :=
  match i with
  | .nop => Sys2Proof.Machine.execNop s
  | .add t sat d a b => Sys2Proof.Machine.execAdd t sat d a b s
  | .sub t sat d a b => Sys2Proof.Machine.execSub t sat d a b s
  | .mul t sat d a b => Sys2Proof.Machine.execMul t sat d a b s
  | .mulh t d a b => Sys2Proof.Machine.execMulh t d a b s
  | .mad t sat d a b => Sys2Proof.Machine.execMad t sat d a b s
  | .div t sat d a b => Sys2Proof.Machine.execDiv t sat d a b s
  | .rem t d a b => Sys2Proof.Machine.execRem t d a b s
  | .abs t sat d a => Sys2Proof.Machine.execAbs t sat d a s
  | .min t d a b => Sys2Proof.Machine.execMin t d a b s
  | .max t d a b => Sys2Proof.Machine.execMax t d a b s
  | .and t d a b => Sys2Proof.Machine.execAnd t d a b s
  | .or t d a b => Sys2Proof.Machine.execOr t d a b s
  | .xor t d a b => Sys2Proof.Machine.execXor t d a b s
  | .shl t sat d a b => Sys2Proof.Machine.execShl t sat d a b s
  | .shr t d a b => Sys2Proof.Machine.execShr t d a b s
  | .sra t d a b => Sys2Proof.Machine.execSra t d a b s
  | .rot t d a b => Sys2Proof.Machine.execRot t d a b s
  | .clz t d a => Sys2Proof.Machine.execClz t d a s
  | .popc t d a => Sys2Proof.Machine.execPopc t d a s
  | .sel t d a b => Sys2Proof.Machine.execSel t d a b s
  | .cmp t cond d a b => Sys2Proof.Machine.execCmp t cond d a b s
  | .fadd t r d a b => Sys2Proof.Machine.execFadd t r d a b s
  | .fsub t r d a b => Sys2Proof.Machine.execFsub t r d a b s
  | .fmul t r d a b => Sys2Proof.Machine.execFmul t r d a b s
  | .fma t r d a b => Sys2Proof.Machine.execFma t r d a b s
  | .fmin t d a b => Sys2Proof.Machine.execFmin t d a b s
  | .fmax t d a b => Sys2Proof.Machine.execFmax t d a b s
  | .fabs t d a => Sys2Proof.Machine.execFabs t d a s
  | .fneg t d a => Sys2Proof.Machine.execFneg t d a s
  | .fcmp t cond d a b => Sys2Proof.Machine.execFcmp t cond d a b s
  | .fdiv t r d a b => Sys2Proof.Machine.execFdiv t r d a b s
  | .fsqrt t r d a => Sys2Proof.Machine.execFsqrt t r d a s
  | .frcp t r d a => Sys2Proof.Machine.execFrcp t r d a s
  | .frsq t r d a => Sys2Proof.Machine.execFrsq t r d a s
  | .fexp2 t r d a => Sys2Proof.Machine.execFexp2 t r d a s
  | .flog2 t r d a => Sys2Proof.Machine.execFlog2 t r d a s
  | .cvt dt r st sat d a => Sys2Proof.Machine.execCvt dt r st sat d a s
  | .qcvt ft r d a scale => Sys2Proof.Machine.execQcvt ft r d a scale s
  | .pack t sat d a b => Sys2Proof.Machine.execPack t sat d a b s
  | .unpk t hi d a => Sys2Proof.Machine.execUnpk t hi d a s
  | .mov d a => Sys2Proof.Machine.execMov d a s
  | .movi d imm => Sys2Proof.Machine.execMovi d imm s
  | .movh d imm => Sys2Proof.Machine.execMovh d imm s
  | .shfl w d a b => Sys2Proof.Machine.execShfl w d a b s
  | .bcst w d a idx => Sys2Proof.Machine.execBcst w d a idx s
  | .rdce ty op sat r d a => Sys2Proof.Machine.execRdce ty op sat r d a s
  | .scan ty op sat r d a => Sys2Proof.Machine.execScan ty op sat r d a s
  | .extl w sx d a idx => Sys2Proof.Machine.execExtl w sx d a idx s
  | .insl w d a idx => Sys2Proof.Machine.execInsl w d a idx s
  | .pset a => Sys2Proof.Machine.execPset a s
  | .pclr a => Sys2Proof.Machine.execPclr a s
  | .pld all p a => Sys2Proof.Machine.execPld all p a s
  | .pread d a => Sys2Proof.Machine.execPread d a s
  | .send o a mask => Sys2Proof.Machine.execSend o a mask s
  | .drop c => Sys2Proof.Machine.execDrop c s
  | .fwd d a => Sys2Proof.Machine.execFwd d a s
  | .mark d => Sys2Proof.Machine.execMark d s
  | .retag tag d a => Sys2Proof.Machine.execRetag tag d a s
  | .steer o a slc => Sys2Proof.Machine.execSteer o a slc s
  | .merge o ca cb => Sys2Proof.Machine.execMerge o ca cb s
  | .alloc d k n => Sys2Proof.Machine.execAlloc d k n s
  | .alloct d k n => Sys2Proof.Machine.execAlloct d k n s
  | .release h => Sys2Proof.Machine.execRelease h s
  | .retain h m => Sys2Proof.Machine.execRetain h m s
  | .bsize d h => Sys2Proof.Machine.execBsize d h s
  | .ldb d h => Sys2Proof.Machine.execLdb d h s
  | .stb h src => Sys2Proof.Machine.execStb h src s
  | .ldbx sc d h vi => Sys2Proof.Machine.execLdbx sc d h vi s
  | .stbx sc vs h vi => Sys2Proof.Machine.execStbx sc vs h vi s
  | .ldt d sn idx => Sys2Proof.Machine.execLdt d sn idx s
  | .stt vs sn idx => Sys2Proof.Machine.execStt vs sn idx s
  | .tmap d sn idx => Sys2Proof.Machine.execTmap d sn idx s
  | .sigset h v => Sys2Proof.Machine.execSigset h v s
  | .sigclr h => Sys2Proof.Machine.execSigclr h s
  | .sigwait cond h v => Sys2Proof.Machine.execSigwait cond h v s
  | .sigtest cond d h v => Sys2Proof.Machine.execSigtest cond d h v s
  | .sigadd h v => Sys2Proof.Machine.execSigadd h v s
  | .gjoin g => Sys2Proof.Machine.execGjoin g s
  | .gleave g => Sys2Proof.Machine.execGleave g s
  | .gbar scope g => Sys2Proof.Machine.execGbar scope g s
  | .prio cls => Sys2Proof.Machine.execPrio cls s
  | .ldg sz sx d addr => Sys2Proof.Machine.execLdg sz sx d addr s
  | .stg sz addr src => Sys2Proof.Machine.execStg sz addr src s
  | .gath ew sx sc d base vi => Sys2Proof.Machine.execGath ew sx sc d base vi s
  | .scat ew sc vs base vi => Sys2Proof.Machine.execScat ew sc vs base vi s
  | .pref addr n => Sys2Proof.Machine.execPref addr n s
  | .order scope o => Sys2Proof.Machine.execOrder scope o s
  | .fence scope => Sys2Proof.Machine.execFence scope s
  | .atom op w scope d addr v => Sys2Proof.Machine.execAtom op w scope d addr v s
  | .cas w scope d addr sn => Sys2Proof.Machine.execCas w scope d addr sn s
  | .fatom ty op scope d addr v => Sys2Proof.Machine.execFatom ty op scope d addr v s
  | .strm o desc => Sys2Proof.Machine.execStrm o desc s
  | .copy desc ch => Sys2Proof.Machine.execCopy desc ch s
  | .wptr d ch => Sys2Proof.Machine.execWptr d ch s
  | .mcast desc => Sys2Proof.Machine.execMcast desc s
  | .fill sn cnt => Sys2Proof.Machine.execFill sn cnt s
  | .pin d addr n => Sys2Proof.Machine.execPin d addr n s
  | .unpin addr n => Sys2Proof.Machine.execUnpin addr n s
  | .clean addr n => Sys2Proof.Machine.execClean addr n s
  | .invl addr n => Sys2Proof.Machine.execInvl addr n s
  | .wload fmt h scale => Sys2Proof.Machine.execWload fmt h scale s
  | .wswap => Sys2Proof.Machine.execWswap s
  | .mma fmt h ctl => Sys2Proof.Machine.execMma fmt h ctl s
  | .accrd h slot => Sys2Proof.Machine.execAccrd h slot s
  | .accwr slot h => Sys2Proof.Machine.execAccwr slot h s
  | .accclr slot => Sys2Proof.Machine.execAccclr slot s
  | .ttload h => Sys2Proof.Machine.execTtload h s
  | .ring arm => Sys2Proof.Machine.execRing arm s
  | .tinj home desc => Sys2Proof.Machine.execTinj home desc s
  | .rstat d slc => Sys2Proof.Machine.execRstat d slc s
  | .turn o a => Sys2Proof.Machine.execTurn o a s
  | .statc d => Sys2Proof.Machine.execStatc d s
  | .coll d desc => Sys2Proof.Machine.execColl d desc s
  | .cwait d ticket => Sys2Proof.Machine.execCwait d ticket s
  | .enq rec => Sys2Proof.Machine.execEnq rec s
  | .jdec d ctr rec => Sys2Proof.Machine.execJdec d ctr rec s
  | .yield => Sys2Proof.Machine.execYield s
  | .done => Sys2Proof.Machine.execDone s
  | .pfxm probe d seq prompt => Sys2Proof.Machine.execPfxm probe d seq prompt s
  | .pfxi d seq prompt => Sys2Proof.Machine.execPfxi d seq prompt s
  | .kvapp d list start => Sys2Proof.Machine.execKvapp d list start s
  | .kvtrunc d seq len => Sys2Proof.Machine.execKvtrunc d seq len s
  | .kvrel d seq => Sys2Proof.Machine.execKvrel d seq s
  | .kvpin unpin d grp => Sys2Proof.Machine.execKvpin unpin d grp s
  | .kvmap d seq slc => Sys2Proof.Machine.execKvmap d seq slc s
  | .rng g d => Sys2Proof.Machine.execRng g d s
  | .rngset g img => Sys2Proof.Machine.execRngset g img s
  | .rngget g img => Sys2Proof.Machine.execRngget g img s
  | .br imm => Sys2Proof.Machine.execBr imm s
  | .bri a => Sys2Proof.Machine.execBri a s
  | .call imm => Sys2Proof.Machine.execCall imm s
  | .calli a => Sys2Proof.Machine.execCalli a s
  | .ret => Sys2Proof.Machine.execRet s
  | .loop sn imm => Sys2Proof.Machine.execLoop sn imm s
  | .trap n => Sys2Proof.Machine.execTrap n s
  | .eret => Sys2Proof.Machine.execEret s
  | .sysrd reg d => Sys2Proof.Machine.execSysrd reg d s
  | .syswr reg a => Sys2Proof.Machine.execSyswr reg a s
  | .halt => Sys2Proof.Machine.execHalt s
  | .bkpt n => Sys2Proof.Machine.execBkpt n s
  | .wait kind a => Sys2Proof.Machine.execWait kind a s
  | .vld loc d sa => Sys2Proof.Machine.execVld loc d sa s
  | .vst loc sa vs => Sys2Proof.Machine.execVst loc sa vs s
  | .vgath d sn vt => Sys2Proof.Machine.execVgath d sn vt s
  | .kvwalk d sdesc ssel => Sys2Proof.Machine.execKvwalk d sdesc ssel s
  | .triple wide async va sn => Sys2Proof.Machine.execTriple wide async va sn s
  | .mbxrd m d => Sys2Proof.Machine.execMbxrd m d s
  | .ptewr d pa val => Sys2Proof.Machine.execPtewr d pa val s
  | .tlbinv page slc => Sys2Proof.Machine.execTlbinv page slc s
  | .migr page slc => Sys2Proof.Machine.execMigr page slc s
  | .cntrd d page slc => Sys2Proof.Machine.execCntrd d page slc s
  | .issueIntervalEnd u => Sys2Proof.Machine.execIssueIntervalEnd u s
  | .clockGate u => Sys2Proof.Machine.execClockGate u s
  | .tokenArrival idx => Sys2Proof.Machine.execTokenArrival idx s
  | .mailboxForward idx => Sys2Proof.Machine.execMailboxForward idx s
  | .platformGrant stn entry => Sys2Proof.Machine.execPlatformGrant stn entry s
  | .requestPromotion stn entry => Sys2Proof.Machine.execRequestPromotion stn entry s
  | .invixWaitEnd u => Sys2Proof.Machine.execInvixWaitEnd u s
  | .heldEventPerform stn port => Sys2Proof.Machine.execHeldEventPerform stn port s
  | .recordComplete rg => Sys2Proof.Machine.execRecordComplete rg s
  | .allocationWatchdog rg => Sys2Proof.Machine.execAllocationWatchdog rg s
  | .doorbellWrite part j val => Sys2Proof.Machine.execDoorbellWrite part j val s
  | .queueEnable part j => Sys2Proof.Machine.execQueueEnable part j s
  | .queueDisable part j => Sys2Proof.Machine.execQueueDisable part j s
  | .ringFetch q => Sys2Proof.Machine.execRingFetch q s
  | .spillFaultTimeout q => Sys2Proof.Machine.execSpillFaultTimeout q s
  | .enqueueWaitServed q => Sys2Proof.Machine.execEnqueueWaitServed q s
  | .enqueueWaiterPromotion q idx => Sys2Proof.Machine.execEnqueueWaiterPromotion q idx s
  | .recordPromotion q idx => Sys2Proof.Machine.execRecordPromotion q idx s
  | .scheduleDecision die part => Sys2Proof.Machine.execScheduleDecision die part s
  | .tileTaskBoundary rg => Sys2Proof.Machine.execTileTaskBoundary rg s
  | .regionResume rg => Sys2Proof.Machine.execRegionResume rg s
  | .launchListSubmit part val => Sys2Proof.Machine.execLaunchListSubmit part val s
  | .launchListEntry part => Sys2Proof.Machine.execLaunchListEntry part s
  | .wakeArm part w val => Sys2Proof.Machine.execWakeArm part w val s
  | .serviceTimeout u => Sys2Proof.Machine.execServiceTimeout u s
  | .pagerSwapIn part => Sys2Proof.Machine.execPagerSwapIn part s
  | .pagerSwapOut part => Sys2Proof.Machine.execPagerSwapOut part s
  | .pagerServe part idx act => Sys2Proof.Machine.execPagerServe part idx act s
  | .faultRelease part idx => Sys2Proof.Machine.execFaultRelease part idx s
  | .pageMigration part frame => Sys2Proof.Machine.execPageMigration part frame s
  | .hostRequestPost part => Sys2Proof.Machine.execHostRequestPost part s
  | .hanswer part val => Sys2Proof.Machine.execHanswer part val s
  | .fillReturn key => Sys2Proof.Machine.execFillReturn key s
  | .invalidationAck idx => Sys2Proof.Machine.execInvalidationAck idx s
  | .hostSnoop part line kind => Sys2Proof.Machine.execHostSnoop part line kind s
  | .hostMemRead part o n => Sys2Proof.Machine.execHostMemRead part o n s
  | .hostMemWrite part o data => Sys2Proof.Machine.execHostMemWrite part o data s
  | .poisonWalk part frame => Sys2Proof.Machine.execPoisonWalk part frame s
  | .evictionTry part node => Sys2Proof.Machine.execEvictionTry part node s
  | .evictionRetry part => Sys2Proof.Machine.execEvictionRetry part s
  | .wavefrontApply stn => Sys2Proof.Machine.execWavefrontApply stn s
  | .bankFillComplete stn => Sys2Proof.Machine.execBankFillComplete stn s
  | .lineBeat die row => Sys2Proof.Machine.execLineBeat die row s
  | .lineTaskStart stn => Sys2Proof.Machine.execLineTaskStart stn s
  | .recoveryFetch stn => Sys2Proof.Machine.execRecoveryFetch stn s
  | .copyComplete stn ch => Sys2Proof.Machine.execCopyComplete stn ch s
  | .mcastComplete idx => Sys2Proof.Machine.execMcastComplete idx s
  | .strmRow u => Sys2Proof.Machine.execStrmRow u s
  | .tripleDelivery core idx => Sys2Proof.Machine.execTripleDelivery core idx s
  | .mailboxSend core n payload land => Sys2Proof.Machine.execMailboxSend core n payload land s
  | .depotDispatch stack => Sys2Proof.Machine.execDepotDispatch stack s
  | .depotPreempt stack => Sys2Proof.Machine.execDepotPreempt stack s
  | .depotStop core => Sys2Proof.Machine.execDepotStop core s
  | .depotSaveComplete core => Sys2Proof.Machine.execDepotSaveComplete core s
  | .depotResume stack => Sys2Proof.Machine.execDepotResume stack s
  | .depotCoreFailure core => Sys2Proof.Machine.execDepotCoreFailure core s
  | .collDataFlit port cid fromPrev hdr val => Sys2Proof.Machine.execCollDataFlit port cid fromPrev hdr val s
  | .collAbandonFlit port cid fromPrev => Sys2Proof.Machine.execCollAbandonFlit port cid fromPrev s
  | .flitReceive port lane ok => Sys2Proof.Machine.execFlitReceive port lane ok s
  | .epochRollover port => Sys2Proof.Machine.execEpochRollover port s
  | .portDown port => Sys2Proof.Machine.execPortDown port s
  | .ctxcmdResume part ctx => Sys2Proof.Machine.execCtxcmdResume part ctx s
  | .ctxcmdKill part ctx => Sys2Proof.Machine.execCtxcmdKill part ctx s
  | .ctxcmdSwitchOut part ctx => Sys2Proof.Machine.execCtxcmdSwitchOut part ctx s
  | .regionRelease rg => Sys2Proof.Machine.execRegionRelease rg s
  | .contextRemoval ctx => Sys2Proof.Machine.execContextRemoval ctx s
  | .registerWindowAccess part off wr => Sys2Proof.Machine.execRegisterWindowAccess part off wr s
  | .partitionSettingWrite part off val => Sys2Proof.Machine.execPartitionSettingWrite part off val s
  | .attestationReport part val => Sys2Proof.Machine.execAttestationReport part val s
  | .keyInstallMemory part ok => Sys2Proof.Machine.execKeyInstallMemory part ok s
  | .keyInstallMainLine part ok => Sys2Proof.Machine.execKeyInstallMainLine part ok s
  | .keyInstallIde part ok => Sys2Proof.Machine.execKeyInstallIde part ok s
  | .keyRevoke part => Sys2Proof.Machine.execKeyRevoke part s
  | .scrubComplete part => Sys2Proof.Machine.execScrubComplete part s
  | .registerWrite blk part off val => Sys2Proof.Machine.execRegisterWrite blk part off val s
  | .partitionCreate part districts pager => Sys2Proof.Machine.execPartitionCreate part districts pager s
  | .partitionDestroy part => Sys2Proof.Machine.execPartitionDestroy part s
  | .stationRetire stn uncorrectable => Sys2Proof.Machine.execStationRetire stn uncorrectable s
  | .pseudoChannelRetire stack ch => Sys2Proof.Machine.execPseudoChannelRetire stack ch s
  | .wearRefresh part which val => Sys2Proof.Machine.execWearRefresh part which val s
  | .thermalThrottle depotClock level => Sys2Proof.Machine.execThermalThrottle depotClock level s
  | .criticalTemperature die => Sys2Proof.Machine.execCriticalTemperature die s
  | .powerOnReset verified failing => Sys2Proof.Machine.execPowerOnReset verified failing s
  | .conventionalReset verified failing => Sys2Proof.Machine.execConventionalReset verified failing s
  | .functionLevelReset part => Sys2Proof.Machine.execFunctionLevelReset part s
  | .contextCreate ctx desc => Sys2Proof.Machine.execContextCreate ctx desc s
  | .ideStreamActive part => Sys2Proof.Machine.execIdeStreamActive part s
  | .meshRequestArrival idx => Sys2Proof.Machine.execMeshRequestArrival idx s
  | .meshResponseArrival idx => Sys2Proof.Machine.execMeshResponseArrival idx s
  | .hostCacheResponse key grant => Sys2Proof.Machine.execHostCacheResponse key grant s
  | .wavefrontEntry stn => Sys2Proof.Machine.execWavefrontEntry stn s
  | .accumulatorTransferDone stn => Sys2Proof.Machine.execAccumulatorTransferDone stn s
  | .copyEvent stn ch => Sys2Proof.Machine.execCopyEvent stn ch s
  | .waitCycleCountEnd u => Sys2Proof.Machine.execWaitCycleCountEnd u s

end Sys2Proof.Machine
end

