-- ==== Sys2Proof/Machine/Step.lean ====
section
/-! DEFINITION. One step of the machine: the next turn of the agenda is taken, the clocks advance, and the turn is that of
a unit or an event. What a unit does with its turn is chosen by its rules (R15 to R19, R27). -/
namespace Sys2Proof.Machine

/-- The choice of a unit carried out. -/
def runChoice (u : Nat) (c : Choice) (s : State) : Host.Outcome State Fault Refusal :=
  match c with
  | .none => .next (s.noteIdle u)
  | .skip => .next (s.skipWord u)
  | .trap t => .next (s.raise u 0 t)
  | .fire f i => exec i (s.begin f)

/-- Under the release bypass a blocked triggered unit may fire a RELEASE slot (R19). -/
def bypass (u : Nat) (s : State) : Host.Outcome State Fault Refusal :=
  match s.unit? u with
  | some x => if x.blocked.isSome && s.canTurn u x then runChoice u (s.choose u x) s else .next s
  | none => .next s

/-- A region that is to be switched out, or is being drained, lets an instruction that is to complete first run on (R271,
R341, R365, R374). -/
def State.runsOn (s : State) (u : Nat) (x : Unit) : Bool :=
  !isCore u && x.mustFinish && !x.stopped &&
    (match s.region? x.region with
     | some r => r.st == .switching || r.st == .draining
     | none => false)

/-- A depot core's held messages land once their cycle has come (R279). -/
def State.landCore (s : State) (u lim : Nat) : State := if isCore u then s.landHeld (coreOf u) lim else s

/-- The turn from `s` to `t` made a request that would come behind one of a higher entry of its cycle, and sent nothing
before it (R87). -/
def State.late (s t : State) (u : Nat) : Bool :=
  !isCore u && decide (t.flight.length ≤ s.flight.length) && t.stations.any (fun n =>
    n.2.platform.any (fun e => e.2.what.unitOf == some u && decide (t.stnNow n.1 < e.2.start)))

/-- The end of a unit's turn that began in state `s`: what lands at the end of the cycle lands. A turn whose request would
come out of the order of its cycle is not taken (R87). -/
def State.endTurn (s : State) (u : Nat) (r : Host.Outcome State Fault Refusal) : Host.Outcome State Fault Refusal :=
  match r with
  | .next t => .next (if s.late t u then s else t.landCore u (t.clockOf u + 1))
  | r => r

/-- What a unit does in its turn: what it is blocked on is carried on, an access that was withheld in its order (R196); else
it fires. -/
def takeUp (u : Nat) (x : Unit) (s : State) : Host.Outcome State Fault Refusal :=
  match (if s.mayRepeat u then x.retry u else none) with
  | some (f, i) =>
    (match exec i ((s.repeated u).begin f) with
     | .next s => bypass u s
     | r => r)
  | none => runChoice u (s.choose u x) s

/-- The turn of a unit. -/
def unitTurn (u : Nat) (s : State) : Host.Outcome State Fault Refusal :=
  let s := s.landCore u (s.clockOf u)
  match s.unit? u with
  | none => .next s
  | some x =>
    if !s.inTurn u x then .next s
    else if s.canTurn u x || s.runsOn u x then s.endTurn u (takeUp u x (s.takeTurn u))
    else .next (if s.drains u x then (s.takeTurn u).drainFire u x else s)

/-- The turn of an event. A unit instruction is no event. -/
def eventTurn (i : Instr) (s : State) : Host.Outcome State Fault Refusal :=
  if i.avail.isSome then .next s else exec i s

/-- With core power removed, or the module held in reset, nothing happens but a power-on or a conventional reset (R322,
R324). -/
def wakes (i : Instr) : Bool :=
  match i with
  | .powerOnReset _ _ | .conventionalReset _ _ => true
  | _ => false

/-- One step. -/
def step (s : State) : Host.Outcome State Fault Refusal :=
  match s.nextTurn with
  | (s, .unit u) => if s.power.runs then unitTurn u s else .next s
  | (s, .event i) => if s.power.runs || wakes i then eventTurn i s else .next s

/-- `s` with the word `w` where the next step fetches (see `State.bench`). -/
def State.withFetchWord (s : State) (nbits w : Nat) : State := s.bench (w % 2 ^ nbits)

end Sys2Proof.Machine
end

