-- ==== Sys2Proof/Safety.lean ====
section
/-! DEFINITION. The terms in which claims about the machine are stated: what an instruction reads and writes, when nothing
holds a firing back, the canonical form of the memories, and what it means that memory or a unit stays as it was. -/
namespace Sys2Proof
open Sys2Proof.Machine

/-- Every operand code whose register or channel an instruction reads, the registers that it reads besides its operand
fields among them (R52, R353). -/
def Instr.reads : Instr → List Src
  | .add _ _ _ a b | .sub _ _ _ a b | .mul _ _ _ a b | .mulh _ _ a b | .mad _ _ _ a b | .div _ _ _ a b
  | .rem _ _ a b | .min _ _ a b | .max _ _ a b | .and _ _ a b | .or _ _ a b | .xor _ _ a b | .shl _ _ _ a b
  | .shr _ _ a b | .sra _ _ a b | .rot _ _ a b | .sel _ _ a b | .cmp _ _ _ a b | .fadd _ _ _ a b
  | .fsub _ _ _ a b | .fmul _ _ _ a b | .fma _ _ _ a b | .fmin _ _ a b | .fmax _ _ a b | .fcmp _ _ _ a b
  | .fdiv _ _ _ a b => [a, b]
  | .abs _ _ _ a | .clz _ _ a | .popc _ _ a | .fabs _ _ a | .fneg _ _ a | .fsqrt _ _ _ a | .frcp _ _ _ a
  | .frsq _ _ _ a | .fexp2 _ _ _ a | .flog2 _ _ _ a | .cvt _ _ _ _ _ a | .mov _ a | .pset a | .pclr a
  | .pread _ a | .fwd _ a | .retag _ _ a | .bri a | .calli a | .syswr _ a | .wait _ a => [a]
  | .qcvt _ _ _ a scale => [a, scale]
  | .pack _ _ _ a b => [.v a, .v b]
  | .unpk _ _ _ a | .rdce _ _ _ _ _ a | .scan _ _ _ _ _ a | .pld _ _ a | .turn _ a => [.v a]
  | .shfl _ _ a b => [.v a, b]
  | .bcst _ _ a idx | .extl _ _ _ a idx => [.v a, idx]
  | .insl _ d a idx => [a, idx, .v d]
  | .send _ a mask => [a, mask]
  | .steer _ c slc => [c, slc]
  | .alloc _ k n | .alloct _ k n => [k, n]
  | .release h | .bsize _ h | .ldb _ h | .sigclr h | .ttload h => [h]
  | .retain h m => [h, m]
  | .stb h src => [h, src]
  | .ldbx _ _ h vi => [h, .v vi]
  | .stbx _ vs h vi => [h, .v vi, .v vs]
  | .ldt _ sn idx | .tmap _ sn idx => [.s sn, idx, .s (pairOf sn)]
  | .stt vs sn idx => [.s sn, idx, .s (pairOf sn), .v vs]
  | .sigset h v | .sigwait _ h v | .sigtest _ _ h v | .sigadd h v => [h, v]
  | .gjoin g | .gleave g | .gbar _ g => [g]
  | .prio cls => [cls]
  | .ldg _ _ _ addr => [addr]
  | .stg _ addr src => [addr, src]
  | .gath _ _ _ _ base vi => [base, .v vi]
  | .scat _ _ vs base vi => [base, .v vi, .v vs]
  | .pref addr n | .pin _ addr n | .unpin addr n | .clean addr n | .invl addr n => [addr, n]
  | .atom _ _ _ _ addr v | .fatom _ _ _ _ addr v => [addr, v]
  | .cas _ _ _ addr sn => [addr, .s sn, .s (pairOf sn)]
  | .strm _ desc | .mcast desc | .coll _ desc => [desc]
  | .copy desc ch => [desc, ch]
  | .wptr _ ch => [ch]
  | .fill sn cnt => [.s sn, cnt, .s (pairOf sn)]
  | .wload _ h scale => [h, scale]
  | .mma _ h ctl => [h, ctl]
  | .accrd h slot => [h, slot]
  | .accwr slot h => [slot, h]
  | .accclr slot => [slot]
  | .ring arm => [arm]
  | .tinj home desc => [home, desc]
  | .rstat _ slc => [slc]
  | .cwait _ ticket => [ticket]
  | .enq rec => [rec]
  | .jdec _ ctr rec => [ctr, rec]
  | .pfxm _ _ seq prompt | .pfxi _ seq prompt => [seq, prompt]
  | .kvapp _ list start => [list, start]
  | .kvtrunc _ seq len => [seq, len]
  | .kvrel _ seq => [seq]
  | .kvpin _ _ grp => [grp]
  | .kvmap _ seq slc => [seq, slc]
  | .rngset _ img | .rngget _ img => [img]
  | .loop sn _ => [.s sn]
  | .vld _ _ sa => [.s sa]
  | .vst _ sa vs => [.s sa, .v vs]
  | .vgath _ sn vt => [.s sn, .v vt, .s (pairOf sn)]
  | .kvwalk _ sdesc ssel => [.s sdesc, .s ssel]
  | .triple wide _ va sn => [.s sn, .s (pairOf sn), .v va] ++ (if wide then [.v (va + 1)] else [])
  | .ptewr _ pa val => [pa, val]
  | .tlbinv page slc | .migr page slc | .cntrd _ page slc => [page, slc]
  | _ => []

/-- Every destination that an instruction writes (R51, R353). -/
def Instr.writes : Instr → List Dst
  | .add _ _ d _ _ | .sub _ _ d _ _ | .mul _ _ d _ _ | .mulh _ d _ _ | .mad _ _ d _ _ | .div _ _ d _ _
  | .rem _ d _ _ | .abs _ _ d _ | .min _ d _ _ | .max _ d _ _ | .and _ d _ _ | .or _ d _ _ | .xor _ d _ _
  | .shl _ _ d _ _ | .shr _ d _ _ | .sra _ d _ _ | .rot _ d _ _ | .clz _ d _ | .popc _ d _ | .sel _ d _ _
  | .cmp _ _ d _ _ | .fadd _ _ d _ _ | .fsub _ _ d _ _ | .fmul _ _ d _ _ | .fma _ _ d _ _ | .fmin _ d _ _
  | .fmax _ d _ _ | .fabs _ d _ | .fneg _ d _ | .fcmp _ _ d _ _ | .fdiv _ _ d _ _ | .fsqrt _ _ d _
  | .frcp _ _ d _ | .frsq _ _ d _ | .fexp2 _ _ d _ | .flog2 _ _ d _ | .cvt _ _ _ _ d _ | .qcvt _ _ d _ _
  | .mov d _ | .movi d _ | .movh d _ | .bcst _ d _ _ | .rdce _ _ _ _ d _ | .extl _ _ d _ _ | .pread d _
  | .fwd d _ | .mark d | .retag _ d _ | .alloc d _ _ | .alloct d _ _ | .bsize d _ | .ldb d _ | .tmap d _ _
  | .sigtest _ d _ _ | .ldg _ _ d _ | .atom _ _ _ d _ _ | .cas _ _ d _ _ | .fatom _ _ _ d _ _ | .wptr d _
  | .pin d _ _ | .rstat d _ | .statc d | .coll d _ | .cwait d _ | .jdec d _ _ | .pfxm _ d _ _ | .pfxi d _ _
  | .kvapp d _ _ | .kvtrunc d _ _ | .kvrel d _ | .kvpin _ d _ | .kvmap d _ _ | .rng _ d | .ptewr d _ _ => [d]
  | .pack _ _ d _ _ | .unpk _ _ d _ | .shfl _ d _ _ | .scan _ _ _ _ d _ | .insl _ d _ _ | .ldbx _ d _ _
  | .ldt d _ _ | .gath _ _ _ d _ _ | .vld _ d _ | .vgath d _ _ => [.v d]
  | .pld _ p _ => [.p p]
  | .send o _ _ | .order _ o | .strm o _ | .turn o _ => [.o o]
  | .loop sn _ => [.s sn]
  | .sysrd _ d | .kvwalk d _ _ | .mbxrd _ d | .cntrd d _ _ => [.s d]
  | _ => []
end Sys2Proof

namespace Sys2Proof.Machine

/-! ### A firing that nothing holds back -/

/-- Unit `x` is the unit of the firing in progress; the firing is fresh; the instruction is available to the unit and, if
privileged, its context is a firmware context (R58, R59); every channel named is bound (R24, R453) and every input read
holds a token (R15, R27); and no load is outstanding into a register that a sequenced word reads or writes (R353). -/
structure State.Fires (s : State) (i : Instr) (x : Unit) : Prop where
  unit : s.unit? s.cur.unit = some x
  fresh : s.cur.cap = none
  avail : i.avail.any (fun a => s.available s.cur.unit x a) = true
  bound : x.bound i.srcs i.outs = true
  ready : x.operandsReady i = true
  clear : (x.isSeq && x.hazard i.reads i.writes) = false

/-- The state after the firing has consumed its tokens (R17, R25). -/
def State.taken (s : State) (srcs : List Src) : State := s.consume s.cur.unit srcs s.cur.test

/-- The 64-bit value of an operand of the firing (R26). -/
def State.opVal (s : State) (x : Unit) (a : Src) : W64 := s.value s.cur.unit x a

/-- Value position `v` of an operand of an integer lane operation (R26, R49, R53). -/
def State.intElem (s : State) (x : Unit) (i : Instr) (t : IntTy) (a : Src) (v : Nat) : Nat :=
  valAt t.width ((s.taken i.srcs).laneVec s.cur.unit x t.width (immInt t.width) a) v

/-- Value position `v` of an operand of a floating-point lane operation (R26, R49, R53). -/
def State.flElem (s : State) (x : Unit) (i : Instr) (t : FTy) (a : Src) (v : Nat) : Nat :=
  valAt (flWidth t) ((s.taken i.srcs).laneVec s.cur.unit x (flWidth t) (flImm t) a) v

/-- Value position `v` of a destination that is read too (R52). -/
def State.dstElem (s : State) (x : Unit) (i : Instr) (w : Nat) (d : Dst) (v : Nat) : Nat :=
  valAt w ((s.taken i.srcs).dstVec s.cur.unit x w d) v

/-- Instruction `i` answers a next state in which a lane result is written to `d`, or is held for the `cyc` cycles of its
interval, and `P v r` holds of the pattern `r` of each value position `v` of the result (R18, R53, R326). -/
def LaneResult (s : State) (x : Unit) (i : Instr) (w cyc : Nat) (d : Dst) (P : Nat → Nat → Prop) : Prop :=
  ∃ vec, exec i s = .next ((s.taken i.srcs).finish s.cur.unit s.cur.upd d vec (scalarOf w vec) cyc) ∧
    ∀ v, v < x.count w → valAt w vec v < 2 ^ w ∧ P v (valAt w vec v)

/-- The exact integer `m` in the type: clamped where `sat`, else the pattern congruent to it modulo 2^w (R326). -/
def fitsInt (t : IntTy) (sat : Bool) (m : Int) (r : Nat) : Prop :=
  if sat then t.read r = max t.minVal (min t.maxVal m) else ∃ q : Int, m = (r : Int) + q * ((2 ^ t.width : Nat) : Int)

/-- The rational number that a finite value is. -/
def FVal.rat : FVal → Option ℚ
  | .fin neg m e => some ((if neg then -1 else 1) * m * 2 ^ e)
  | _ => none

/-- A firing whose word is done with nothing to write: the predicate update, and the next word in a sequenced unit. -/
def State.doneWith (s : State) (t : State) : State := t.onUnit s.cur.unit (fun y => y.close s.cur.upd)

/-- A firing whose word goes on at word `pc`: the predicate update, and the program counter. -/
def State.jumpTo (s : State) (t : State) (pc : Nat) : State :=
  t.onUnit s.cur.unit (fun y => { y.applyUpd s.cur.upd with pc := pc })

/-- A fault that a firing raises: nothing of the word takes effect (R228, R229). -/
def State.raised (s : State) (t : Trap) : State := s.raise s.cur.unit s.cur.slot t

/-- A firing with a request outstanding: the unit is blocked on it. A triggered unit applies the word's update now, a
sequenced one when the word is done (R17, R19, R27). -/
def State.blockedOn (s t : State) (b : Blocked) : State := t.onUnit s.cur.unit (fun y => y.block b s.cur.upd false)

/-- A load under way, under the number `r.2`: a sequenced unit goes on, with the load outstanding into its register; every other
reader is blocked until the value comes (R353). -/
def State.loadUnderWay (s : State) (r : State × Nat) (x : Unit) (l : Land) : State :=
  if x.isSeq && !landBlocks x.isSeq l then
    s.doneWith (r.1.onUnit s.cur.unit (fun y => { y with loads := y.loads ++ [(r.2, l)] }))
  else s.blockedOn r.1 (.answer [r.2])

/-- A load sent to another station or to a home. -/
def State.loadSent (s t : State) (x : Unit) (l : Land) (req : Req) : State := s.loadUnderWay (t.send s.cur.unit req) x l

/-- A load from the unit's own station: its bytes land two cycles later (R380). -/
def State.loadHere (s t : State) (x : Unit) (l : Land) (bs : List Byte) : State :=
  s.loadUnderWay ({ t.onUnit s.cur.unit (fun y => { y with
    reads := y.reads ++ [⟨t.ids, t.clockOf s.cur.unit + 2, l, bs⟩] }) with ids := t.ids + 1 }, t.ids) x l

/-- A firing of instruction `i` by unit `x` that is carried on at the unit's turn, with what it captured (R19, R28). -/
structure State.Carried (s : State) (i : Instr) (x : Unit) (c : Captured) : Prop where
  unit : s.unit? s.cur.unit = some x
  cap : s.cur.cap = some c
  avail : i.avail.any (fun a => s.available s.cur.unit x a) = true
  bound : x.bound i.srcs i.outs = true

/-- The state in which a firing that is carried on goes on: a sequenced word consumes its tokens now, a triggered firing
has consumed them already (R28). -/
def State.resumed (s : State) (x : Unit) (srcs : List Src) : State :=
  if x.isSeq then (s.lift s.cur.unit).consume s.cur.unit srcs none else s.lift s.cur.unit

/-- A firing that was carried on is done: the update that stood for it, and the next word in a sequenced unit. -/
def State.carriedTo (s : State) (x : Unit) (t : State) : State := t.onUnit s.cur.unit (fun y => y.close x.blockedUpd)

/-- A firing that was carried on has a request outstanding: the update that stood for it goes on standing (R19). -/
def State.carriedBlock (s : State) (x : Unit) (t : State) (b : Blocked) : State :=
  t.onUnit s.cur.unit (fun y => if x.isSeq then y.block b x.blockedUpd false else { y with blocked := some b })

/-- The unit whose firing is in progress is sequenced. -/
def State.curSeq (s : State) : Bool := (s.unit? s.cur.unit).any (·.isSeq)

/-- What the firing in progress has taken, where it is carried on (R229). -/
def State.curTaken (s : State) : Option Taken := s.cur.cap.bind (·.taken)

/-- A fault that an instruction raises at its firing or where it is carried on: nothing of the firing takes effect, and a
triggered firing that is carried on gives back what it has taken (R228, R229). -/
def State.trapped (s : State) (t : Trap) : State :=
  let u := s.cur.unit
  ((if s.cur.cap.isSome then s.lift u else s).returnTaken u s.curSeq s.curTaken).raise u s.cur.slot t

/-- A fault that the memory port raises at a firing of instruction `i`, or where it is carried on: in a sequenced unit nothing
of the word takes effect in the unit; in a triggered one the firing stands, to be carried on once the region resumes (R228,
R229). -/
def State.portRaised (s : State) (x : Unit) (i : Instr) (t : State) (a b : W64) (phase : Nat) (tr : Trap) : State :=
  let u := s.cur.unit
  let again := Blocked.again i ⟨a, b, phase, none, s.cur.words, s.cur.slot, s.takenBy t u s.cur, true⟩
  (if x.isSeq then t.giveBack s u
   else t.onUnit u (fun y =>
     if s.cur.cap.isSome then { y with blocked := some again } else y.block again s.cur.upd false)).raise u s.cur.slot tr

/-- A fault raised at the firing by an instruction that has come some way: what `t` has done elsewhere than in the unit
stands (R271). -/
def State.trappedAfter (s : State) (x : Unit) (t : State) (tr : Trap) : State :=
  let u := s.cur.unit
  (if s.cur.cap.isSome && !x.isSeq then t.giveTaken u s.curTaken
   else t.giveBack (if s.cur.cap.isSome then s.lift u else s) u).raise u s.cur.slot tr

/-- An access of instruction `i` is withheld: the unit is to carry it on from a phase once the hold is lifted (R194, R202). -/
def State.WithheldAt (t : State) (u : Nat) (i : Instr) (phase : Nat) (h : Hold) : Prop :=
  ∃ y c, t.unit? u = some y ∧ y.blocked = some (.again i c) ∧ c.phase = phase ∧ c.hold = some h

/-- A run of structure accesses that neither faults nor is withheld: its value and the state after it. -/
def KvM.To {α : Type} (m : KvM α) (s : State) (a : α) (t : State) : Prop := m s = .ok a t

/-- The unit is to carry instruction `i` on from a phase at its next turn. -/
def State.CarriesOn (t : State) (u : Nat) (i : Instr) (phase : Nat) : Prop :=
  ∃ y c, t.unit? u = some y ∧ y.blocked = some (.again i c) ∧ c.phase = phase ∧ c.hold = none

/-- A run of lines from line `i` on: each is translated in ascending order, `asked` saying that the first was translated
before and counts no more, and acted on. -/
def State.LinesRun (u : Nat) (x : Unit) (a : Nat) (w : Want) (act : Nat → State → Loc → PageBits → State → Prop) :
    Nat → Nat → Bool → State → State → Prop
  | 0, _, _, s, t => s = t
  | left + 1, i, asked, s, t => ∃ s1 loc pg e f s2,
      s.translateFor u x (a + 128 * i) (if asked then 0 else 1) w true = (s1, .ok loc pg e f) ∧ act i s1 loc pg s2 ∧
        LinesRun u x a w act left (i + 1) false s2 t

/-- A scalar result written at once or held for its interval. -/
def State.scalarTo (s : State) (t : State) (d : Dst) (v : W64) (cyc : Nat) : State :=
  t.finish s.cur.unit s.cur.upd d 0 v cyc

/-- The state in which the agenda's first turn is taken: the rest of the agenda is left, and the cycles before the turn have
passed at every die and every stack (R6, R320). -/
def State.afterCycles (s : State) (ts : List Turn) (dts ddts : List Nat) : State :=
  { s with agenda := ts, clocks := tick 0 dts s.clocks, dclocks := tick 0 ddts s.dclocks }

/-! ### Memory -/

/-- Every memory has its canonical form. -/
def State.memWf (s : State) : Bool :=
  s.dram.wf && s.host.wf && s.peer.wf && s.scratch.wf && s.sram.wf

/-- Every byte of memory, every scratchpad and local byte and every signal reads as before. -/
structure State.SameMemory (s t : State) : Prop where
  global : ∀ k a, Memory.read (t.memOf k) a = Memory.read (s.memOf k) a
  lines : t.lines = s.lines
  scratch : ∀ a, Memory.read t.scratch a = Memory.read s.scratch a
  sram : ∀ a, Memory.read t.sram a = Memory.read s.sram a
  signals : ∀ n, t.signal n = s.signal n

/-- The registers and flags of a unit that no result names: everything but its V and S registers, its predicates, live
mask, sticky counts, program counter, and what stands for a pending result. -/
structure Unit.SameElse (x y : Unit) : Prop where
  sys : y.sys = x.sys
  invix : y.invix = x.invix
  counters : y.ovf = x.ovf ∧ y.nanp = x.nanp ∧ y.satn = x.satn
  gens : y.gens = x.gens
  turn : y.turn = x.turn ∧ y.fill = x.fill
  rstack : y.rstack = x.rstack ∧ y.lastLoop = x.lastLoop

end Sys2Proof.Machine
end

