-- ==== Sys2Proof/Certificates/Slice0/Obligations.lean ====
section
/-! DEFINITION. The statements for the provers: what each instruction and each event does, where it traps or waits, and the
invariants and encodings of the whole machine. Each says which rules of the specification it follows. -/
open Sys2Proof Sys2Proof.Machine

/-- R326, R385, R418: ADD, SUB, MUL and MAD give the exact result, clamped with SAT and modulo 2^w without. R354, R385: DIV
truncates towards zero and gives all ones for a division by zero; REM gives a - b · Trunc(a ÷ b), and a for a division by zero;
MULH gives bits 2w - 1 to w of the exact product. R326, R385, R418: the operations on bit patterns: AND, OR, XOR, the shifts,
ROT, CLZ and POPC. R385, R418, R326, R342: MIN, MAX, ABS, SEL and CMP. A CMP that is written to a predicate writes the condition
of value position 0, in a unit of at least one value position; in the 8-bit and 16-bit types, where R51 looks at the whole lane,
that is the model's reading (log entry 100). -/
def Obligations.IntegerArithmetic : Prop :=
  (∀ (s : State) (x : Machine.Unit) (t : IntTy) (sat : Bool) (d : Dst) (a b : Src),
    (s.Fires (.add t sat d a b) x → LaneResult s x (.add t sat d a b) t.width 1 d fun v r =>
      fitsInt t sat (t.read (s.intElem x (.add t sat d a b) t a v) + t.read (s.intElem x (.add t sat d a b) t b v)) r) ∧
    (s.Fires (.sub t sat d a b) x → LaneResult s x (.sub t sat d a b) t.width 1 d fun v r =>
      fitsInt t sat (t.read (s.intElem x (.sub t sat d a b) t a v) - t.read (s.intElem x (.sub t sat d a b) t b v)) r) ∧
    (s.Fires (.mul t sat d a b) x → LaneResult s x (.mul t sat d a b) t.width (if t.width = 64 then 2 else 1) d fun v r =>
      fitsInt t sat (t.read (s.intElem x (.mul t sat d a b) t a v) * t.read (s.intElem x (.mul t sat d a b) t b v)) r) ∧
    (s.Fires (.mad t sat d a b) x → LaneResult s x (.mad t sat d a b) t.width (if t.width = 64 then 2 else 1) d fun v r =>
      fitsInt t sat (t.read (s.intElem x (.mad t sat d a b) t a v) * t.read (s.intElem x (.mad t sat d a b) t b v)
        + t.read (s.dstElem x (.mad t sat d a b) t.width d v)) r)) ∧
  (∀ (s : State) (x : Machine.Unit) (t : IntTy) (sat : Bool) (d : Dst) (a b : Src),
    (s.Fires (.div t sat d a b) x → LaneResult s x (.div t sat d a b) t.width (if t.width = 64 then 16 else 8) d fun v r =>
      let p := t.read (s.intElem x (.div t sat d a b) t a v)
      let q := t.read (s.intElem x (.div t sat d a b) t b v)
      if q = 0 then r = 2 ^ t.width - 1 else fitsInt t sat (Int.sign p * Int.sign q * (p.natAbs / q.natAbs : Nat)) r) ∧
    (s.Fires (.rem t d a b) x → LaneResult s x (.rem t d a b) t.width (if t.width = 64 then 16 else 8) d fun v r =>
      let p := t.read (s.intElem x (.rem t d a b) t a v)
      let q := t.read (s.intElem x (.rem t d a b) t b v)
      if q = 0 then r = s.intElem x (.rem t d a b) t a v
      else fitsInt t false (p - q * (Int.sign p * Int.sign q * (p.natAbs / q.natAbs : Nat))) r) ∧
    (s.Fires (.mulh t d a b) x → LaneResult s x (.mulh t d a b) t.width (if t.width = 64 then 2 else 1) d fun v r =>
      ∃ low : Nat, low < 2 ^ t.width ∧ ∃ high : Int, fitsInt t false high r ∧
        t.read (s.intElem x (.mulh t d a b) t a v) * t.read (s.intElem x (.mulh t d a b) t b v)
          = high * ((2 ^ t.width : Nat) : Int) + (low : Int))) ∧
  (∀ (s : State) (x : Machine.Unit) (t : IntTy) (sat : Bool) (d : Dst) (a b : Src),
    (s.Fires (.and t d a b) x → LaneResult s x (.and t d a b) t.width 1 d fun v r =>
      ∀ k, r.testBit k = ((s.intElem x (.and t d a b) t a v).testBit k && (s.intElem x (.and t d a b) t b v).testBit k)) ∧
    (s.Fires (.or t d a b) x → LaneResult s x (.or t d a b) t.width 1 d fun v r =>
      ∀ k, r.testBit k = ((s.intElem x (.or t d a b) t a v).testBit k || (s.intElem x (.or t d a b) t b v).testBit k)) ∧
    (s.Fires (.xor t d a b) x → LaneResult s x (.xor t d a b) t.width 1 d fun v r =>
      ∀ k, r.testBit k = ((s.intElem x (.xor t d a b) t a v).testBit k ^^ (s.intElem x (.xor t d a b) t b v).testBit k)) ∧
    (s.Fires (.shl t sat d a b) x → LaneResult s x (.shl t sat d a b) t.width 1 d fun v r =>
      fitsInt t sat (t.read (s.intElem x (.shl t sat d a b) t a v)
        * ((2 ^ (s.intElem x (.shl t sat d a b) t b v) : Nat) : Int)) r) ∧
    (s.Fires (.shr t d a b) x → LaneResult s x (.shr t d a b) t.width 1 d fun v r =>
      r = s.intElem x (.shr t d a b) t a v / 2 ^ s.intElem x (.shr t d a b) t b v) ∧
    (s.Fires (.sra t d a b) x → LaneResult s x (.sra t d a b) t.width 1 d fun v r =>
      fitsInt t false (t.read (s.intElem x (.sra t d a b) t a v)
        / ((2 ^ (s.intElem x (.sra t d a b) t b v) : Nat) : Int)) r) ∧
    (s.Fires (.rot t d a b) x → LaneResult s x (.rot t d a b) t.width 1 d fun v r =>
      ∀ k, k < t.width → r.testBit ((k + s.intElem x (.rot t d a b) t b v) % t.width)
        = (s.intElem x (.rot t d a b) t a v).testBit k) ∧
    (s.Fires (.clz t d a) x → LaneResult s x (.clz t d a) t.width 1 d fun v r =>
      r ≤ t.width ∧ (∀ k, t.width - r ≤ k → (s.intElem x (.clz t d a) t a v).testBit k = false) ∧
        (r < t.width → (s.intElem x (.clz t d a) t a v).testBit (t.width - 1 - r) = true)) ∧
    (s.Fires (.popc t d a) x → LaneResult s x (.popc t d a) t.width 1 d fun v r =>
      r = ((List.range t.width).filter fun k => (s.intElem x (.popc t d a) t a v).testBit k).length)) ∧
  (∀ (s : State) (x : Machine.Unit) (t : IntTy) (sat : Bool) (cond : Cond) (d : Dst) (a b : Src),
    (s.Fires (.min t d a b) x → LaneResult s x (.min t d a b) t.width 1 d fun v r =>
      r = if t.read (s.intElem x (.min t d a b) t a v) ≤ t.read (s.intElem x (.min t d a b) t b v)
        then s.intElem x (.min t d a b) t a v else s.intElem x (.min t d a b) t b v) ∧
    (s.Fires (.max t d a b) x → LaneResult s x (.max t d a b) t.width 1 d fun v r =>
      r = if t.read (s.intElem x (.max t d a b) t a v) ≤ t.read (s.intElem x (.max t d a b) t b v)
        then s.intElem x (.max t d a b) t b v else s.intElem x (.max t d a b) t a v) ∧
    (s.Fires (.abs t sat d a) x → LaneResult s x (.abs t sat d a) t.width 1 d fun v r =>
      fitsInt t sat |t.read (s.intElem x (.abs t sat d a) t a v)| r) ∧
    (s.Fires (.sel t d a b) x → LaneResult s x (.sel t d a b) t.width 1 d fun v r =>
      r = if s.dstElem x (.sel t d a b) t.width d v = 0
        then s.intElem x (.sel t d a b) t b v else s.intElem x (.sel t d a b) t a v) ∧
    (let holds (v : Nat) : Prop :=
       let p := t.read (s.intElem x (.cmp t cond d a b) t a v)
       let q := t.read (s.intElem x (.cmp t cond d a b) t b v)
       match cond with
        | .eq => p = q
        | .ne => p ≠ q
        | .lt => p < q
        | .le => p ≤ q
        | .gt => q < p
        | .ge => q ≤ p
     s.Fires (.cmp t cond d a b) x →
       ((∀ n, d ≠ .p n) → LaneResult s x (.cmp t cond d a b) t.width 1 d fun v r => (r = 0 ∨ r = 1) ∧ (r = 1 ↔ holds v)) ∧
       (∀ n, d = .p n → 0 < x.count t.width → ∃ r, exec (.cmp t cond d a b) s =
           .next ((s.taken [a, b]).finish s.cur.unit s.cur.upd (.p n) r (scalarOf t.width r) 1) ∧
         (r = 0 ∨ r = 1) ∧ (r = 1 ↔ holds 0))))

/-- R361: every rounding operation forms the exact result of its operands and rounds it once to the type; the intervals are
those of R360. The result of FEXP2 and of FLOG2 that is irrational is formed to about 300 bits with a sticky bit before it is
rounded: that is the model's choice (log entry 7). R105, R360: FMIN and FMAX take the operand that is a number over one that is
not, the canonical NaN for two NaNs, and order -0 below +0; FABS clears the sign and FNEG inverts it; FCMP gives 1 or 0. -/
def Obligations.FloatingArithmetic : Prop :=
  (∀ (s : State) (x : Machine.Unit) (t : FTy) (rnd : Rnd) (d : Dst) (a b : Src),
    let f := fmtOfF t
    let val (i : Instr) (o : Src) (v : Nat) := f.decode (s.flElem x i t o v)
    (s.Fires (.fadd t rnd d a b) x → LaneResult s x (.fadd t rnd d a b) (flWidth t) 1 d fun v r =>
      r = f.encode rnd (FVal.add rnd (val (.fadd t rnd d a b) a v) (val (.fadd t rnd d a b) b v))) ∧
    (s.Fires (.fsub t rnd d a b) x → LaneResult s x (.fsub t rnd d a b) (flWidth t) 1 d fun v r =>
      r = f.encode rnd (FVal.add rnd (val (.fsub t rnd d a b) a v) (val (.fsub t rnd d a b) b v).neg)) ∧
    (s.Fires (.fmul t rnd d a b) x → LaneResult s x (.fmul t rnd d a b) (flWidth t) 1 d fun v r =>
      r = f.encode rnd (FVal.mul (val (.fmul t rnd d a b) a v) (val (.fmul t rnd d a b) b v))) ∧
    (s.Fires (.fma t rnd d a b) x → LaneResult s x (.fma t rnd d a b) (flWidth t) 1 d fun v r =>
      r = f.encode rnd (FVal.add rnd (FVal.mul (val (.fma t rnd d a b) a v) (val (.fma t rnd d a b) b v))
        (f.decode (s.dstElem x (.fma t rnd d a b) (flWidth t) d v)))) ∧
    (s.Fires (.fdiv t rnd d a b) x → LaneResult s x (.fdiv t rnd d a b) (flWidth t) 8 d fun v r =>
      r = f.encode rnd (FVal.div (val (.fdiv t rnd d a b) a v) (val (.fdiv t rnd d a b) b v))) ∧
    (s.Fires (.fsqrt t rnd d a) x → LaneResult s x (.fsqrt t rnd d a) (flWidth t) 8 d fun v r =>
      r = f.encode rnd (FVal.sqrt (val (.fsqrt t rnd d a) a v))) ∧
    (s.Fires (.frcp t rnd d a) x → LaneResult s x (.frcp t rnd d a) (flWidth t) 4 d fun v r =>
      r = f.encode rnd (FVal.div FVal.one (val (.frcp t rnd d a) a v))) ∧
    (s.Fires (.frsq t rnd d a) x → LaneResult s x (.frsq t rnd d a) (flWidth t) 4 d fun v r =>
      r = f.encode rnd (FVal.rsqrt (val (.frsq t rnd d a) a v))) ∧
    (s.Fires (.fexp2 t rnd d a) x → LaneResult s x (.fexp2 t rnd d a) (flWidth t) 4 d fun v r =>
      r = f.encode rnd (FVal.exp2 (val (.fexp2 t rnd d a) a v))) ∧
    (s.Fires (.flog2 t rnd d a) x → LaneResult s x (.flog2 t rnd d a) (flWidth t) 4 d fun v r =>
      r = f.encode rnd (FVal.log2 (val (.flog2 t rnd d a) a v)))) ∧
  (∀ (s : State) (x : Machine.Unit) (t : FTy) (cond : FCond) (d : Dst) (a b : Src),
    let f := fmtOfF t
    let less (p q : Nat) := FVal.lt (f.decode p) (f.decode q) = true ∨
      (FVal.lt (f.decode q) (f.decode p) = false ∧ f.signBit p = true ∧ f.signBit q = false)
    (s.Fires (.fmin t d a b) x → LaneResult s x (.fmin t d a b) (flWidth t) 1 d fun v r =>
      let p := s.flElem x (.fmin t d a b) t a v
      let q := s.flElem x (.fmin t d a b) t b v
      (f.decode p = .nan → f.decode q = .nan → r = f.nan) ∧ (f.decode p = .nan → f.decode q ≠ .nan → r = q) ∧
        (f.decode q = .nan → f.decode p ≠ .nan → r = p) ∧
        (f.decode p ≠ .nan → f.decode q ≠ .nan → (r = p ∨ r = q) ∧ ¬ less p r ∧ ¬ less q r)) ∧
    (s.Fires (.fmax t d a b) x → LaneResult s x (.fmax t d a b) (flWidth t) 1 d fun v r =>
      let p := s.flElem x (.fmax t d a b) t a v
      let q := s.flElem x (.fmax t d a b) t b v
      (f.decode p = .nan → f.decode q = .nan → r = f.nan) ∧ (f.decode p = .nan → f.decode q ≠ .nan → r = q) ∧
        (f.decode q = .nan → f.decode p ≠ .nan → r = p) ∧
        (f.decode p ≠ .nan → f.decode q ≠ .nan → (r = p ∨ r = q) ∧ ¬ less r p ∧ ¬ less r q)) ∧
    (s.Fires (.fabs t d a) x → LaneResult s x (.fabs t d a) (flWidth t) 1 d fun v r =>
      f.signBit r = false ∧ ∀ k, k + 1 < (flWidth t) → r.testBit k = (s.flElem x (.fabs t d a) t a v).testBit k) ∧
    (s.Fires (.fneg t d a) x → LaneResult s x (.fneg t d a) (flWidth t) 1 d fun v r =>
      f.signBit r = !f.signBit (s.flElem x (.fneg t d a) t a v) ∧
        ∀ k, k + 1 < (flWidth t) → r.testBit k = (s.flElem x (.fneg t d a) t a v).testBit k) ∧
    (s.Fires (.fcmp t cond d a b) x → LaneResult s x (.fcmp t cond d a b) (flWidth t) 1 d fun v r =>
      let p := f.decode (s.flElem x (.fcmp t cond d a b) t a v)
      let q := f.decode (s.flElem x (.fcmp t cond d a b) t b v)
      let unordered := p = .nan ∨ q = .nan
      (r = 0 ∨ r = 1) ∧ (r = 1 ↔ match cond with
        | .eq => ¬ unordered ∧ FVal.lt p q = false ∧ FVal.lt q p = false
        | .ne => unordered ∨ FVal.lt p q = true ∨ FVal.lt q p = true
        | .lt => FVal.lt p q = true
        | .le => ¬ unordered ∧ FVal.lt q p = false
        | .gt => FVal.lt q p = true
        | .ge => ¬ unordered ∧ FVal.lt p q = false
        | .un => unordered
        | .ord => ¬ unordered)))

/-- R102, R104, R361: what the operations mean as rational numbers. A pattern's fields give its value; sums and products of
finite values are exact; the pattern of a finite value, and that of a quotient, is the representable number that the rounding
mode names: for RNE none is nearer, and of two equally near ones that with an even significand; for RTZ, RDN and RUP the nearest
on the side that the mode names. -/
def Obligations.FloatingResultsAreNearest : Prop :=
  let named (t : FTy) (rnd : Rnd) (v : ℚ) (r : Nat) : Prop :=
    ∀ y, ((fmtOfF t).decode r).rat = some y → ∀ q z, ((fmtOfF t).decode q).rat = some z →
      match rnd with
      | .rne => |y - v| ≤ |z - v| ∧ (|y - v| = |z - v| → z ≠ y → r % 2 = 0)
      | .rtz => |y| ≤ |v| ∧ 0 ≤ y * v ∧ (|z| ≤ |v| → |z| ≤ |y|)
      | .rdn => y ≤ v ∧ (z ≤ v → z ≤ y)
      | .rup => v ≤ y ∧ (v ≤ z → y ≤ z)
  (∀ (t : FTy) (p : Nat),
    let fb : Nat := match t with | .fp16 => 10 | .bf16 => 7 | .fp32 => 23
    let eb : Nat := match t with | .fp16 => 5 | .bf16 => 8 | .fp32 => 8
    let frac := p % 2 ^ fb
    let ex := p / 2 ^ fb % 2 ^ eb
    let sgn : ℚ := if p.testBit (fb + eb) then -1 else 1
    let v := (fmtOfF t).decode p
    (ex = 2 ^ eb - 1 → v = if frac = 0 then .inf (p.testBit (fb + eb)) else .nan) ∧
    (ex = 0 → v.rat = some (sgn * frac * 2 ^ (2 - 2 ^ (eb - 1) - fb : ℤ))) ∧
    (0 < ex → ex < 2 ^ eb - 1 → v.rat = some (sgn * (2 ^ fb + frac) * 2 ^ ((ex : ℤ) + 1 - 2 ^ (eb - 1) - fb)))) ∧
  (∀ (rnd : Rnd) (a b : FVal) (x y : ℚ), a.rat = some x → b.rat = some y →
    (FVal.add rnd a b).rat = some (x + y) ∧ (FVal.mul a b).rat = some (x * y) ∧ a.neg.rat = some (-x)) ∧
  (∀ (t : FTy) (rnd : Rnd) (a : FVal) (x : ℚ), a.rat = some x → named t rnd x ((fmtOfF t).encode rnd a)) ∧
  (∀ (t : FTy) (rnd : Rnd) (a b : FVal) (x y : ℚ), a.rat = some x → b.rat = some y → y ≠ 0 →
    named t rnd (x / y) ((fmtOfF t).encode rnd (FVal.div a b)))

/-- R107, R110, R116, R350, R400, R409, R445: the converted values stand in the first N value positions, and the counters count
the values that are written; PACK narrows the values of two registers, UNPK widens a half. R102, R104, R107 to R110, R116, R350,
R409: what a conversion makes of a value. The FP8 patterns have the values of R102. A value is rounded once, as the mode says:
to an integer, or to a number of so many significant bits, on the subnormal grid below, with an unbounded range. An integer
outside its type is clamped or wrapped; a NaN gives the integer 0, an infinity a limit of the type with SAT and 0 without. A
rounded magnitude beyond the largest finite one, and for FP8 an infinity, is an overflow: FP8 takes the largest finite value
with SAT, else infinity (E5M2) or the canonical NaN (E4M3); FP16, BF16 and FP32 take infinity or the largest finite value by
mode and sign. QCVT rounds the exact quotient once and saturates; x ÷ 0 saturates, 0 ÷ 0 and ∞ ÷ ∞ give the canonical NaN. Each
event of R116 is noted with the value. -/
def Obligations.ConversionsFillTheFirstPositions : Prop :=
  (∀ (s : State) (x : Machine.Unit) (dt st : Ty) (rnd : Rnd) (sat hi : Bool) (ft : F8) (t : IntTy) (d : Dst)
    (a scale : Src) (vd va vb : VReg),
    let written (i : Instr) (w n : Nat) (c : Nat → Conv) : Prop :=
      ∃ vec, (∀ v, v < n → valAt w vec v = (c v).bits % 2 ^ w) ∧
        exec i s = .next (match d with
          | .v r => s.doneWith ((s.taken i.srcs).onUnit s.cur.unit fun y =>
              (y.setLanes r (y.lm &&& allLive (n * w / 32)) vec (List.range y.lanes)).countConv (writtenConvs y w n c))
          | d => ((s.taken i.srcs).onUnit s.cur.unit fun y =>
              y.countConv ((List.range (if w = 64 then 1 else 32 / w)).map c)).finish s.cur.unit s.cur.upd d vec
                (scalarOf w vec) 1)
    (s.Fires (.cvt dt rnd st sat d a) x →
      written (.cvt dt rnd st sat d a) (tyWidth dt) (x.lanes * 32 / max (tyWidth dt) (tyWidth st)) fun v =>
        convert dt rnd st sat (valAt (tyWidth st)
          ((s.taken (Instr.cvt dt rnd st sat d a).srcs).laneVec s.cur.unit x (tyWidth st) (immTy st) a) v)) ∧
    (s.Fires (.qcvt ft rnd d a scale) x →
      written (.qcvt ft rnd d a scale) 8 x.lanes fun v => quantize ft rnd
        (valAt 32 ((s.taken (Instr.qcvt ft rnd d a scale).srcs).laneVec s.cur.unit x 32 (immFl Fmt.fp32) a) v)
        (valAt 32 ((s.taken (Instr.qcvt ft rnd d a scale).srcs).laneVec s.cur.unit x 32 (immInt 32) scale) v)) ∧
    (s.Fires (.pack t sat vd va vb) x → ∃ vec, exec (.pack t sat vd va vb) s =
        .next ((s.taken []).finish s.cur.unit s.cur.upd (.v vd) vec 0 1) ∧
      ∀ v, v < x.count t.width → fitsInt t sat (readWide t (if v < x.count t.width / 2
        then valAt (2 * t.width) (x.vVec va) v else valAt (2 * t.width) (x.vVec vb) (v - x.count t.width / 2)))
        (valAt t.width vec v)) ∧
    (s.Fires (.unpk t hi vd va) x → ∃ vec, exec (.unpk t hi vd va) s =
        .next ((s.taken []).finish s.cur.unit s.cur.upd (.v vd) vec 0 1) ∧
      ∀ v, v < x.lanes * 32 / (2 * t.width) → readWide t (valAt (2 * t.width) vec v) =
        t.read (valAt t.width (x.vVec va) (v + if hi then x.lanes * 32 / (2 * t.width) else 0)))) ∧
  (let fp8 (t : F8) : ℕ × ℤ × ℚ := match t with
    | .e4m3 => (3, -9, 448)
    | .e5m2 => (2, -16, 57344)
  let lane (t : FTy) : ℕ × ℤ × ℚ := match t with
    | .fp16 => (10, -24, 65504)
    | .bf16 => (7, -133, (2 ^ 8 - 1) * 2 ^ 120)
    | .fp32 => (23, -149, (2 ^ 24 - 1) * 2 ^ 104)
  let nan8 (t : F8) : Nat := match t with | .e4m3 => 0x7F | .e5m2 => 0x7E
  let nanL (t : FTy) : Nat := match t with | .fp16 => 0x7E00 | .bf16 => 0x7FC0 | .fp32 => 0x7FC00000
  let grid (g : ℕ × ℤ × ℚ) (y : ℚ) : Prop := ∃ n q : ℤ, g.2.1 ≤ q ∧ |n| < 2 ^ (g.1 + 1) ∧ y = n * (2 : ℚ) ^ q
  let even (g : ℕ × ℤ × ℚ) (y : ℚ) : Prop := ∃ n q : ℤ, g.2.1 ≤ q ∧ |n| < 2 ^ g.1 ∧ y = n * (2 : ℚ) ^ (q + 1)
  let rounded (g : ℕ × ℤ × ℚ) (r : Rnd) (v y : ℚ) : Prop := grid g y ∧ ∀ z, grid g z → match r with
    | .rne => |y - v| ≤ |z - v| ∧ (|y - v| = |z - v| → z ≠ y → even g y)
    | .rtz => |y| ≤ |v| ∧ 0 ≤ y * v ∧ (|z| ≤ |v| → 0 ≤ z * v → |z| ≤ |y|)
    | .rdn => y ≤ v ∧ (z ≤ v → z ≤ y)
    | .rup => v ≤ y ∧ (v ≤ z → y ≤ z)
  let toInt (r : Rnd) (v : ℚ) (z : ℤ) : Prop := match r with
    | .rne => |z - v| ≤ 1 / 2 ∧ (|z - v| = 1 / 2 → z % 2 = 0)
    | .rtz => |(z : ℚ)| ≤ |v| ∧ |v| < |(z : ℚ)| + 1 ∧ 0 ≤ z * v
    | .rdn => z ≤ v ∧ v < z + 1
    | .rup => z - 1 < v ∧ v ≤ z
  let quiet (c : Conv) : Prop := c.ovf = false ∧ c.nanp = false ∧ c.satn = false
  let isInt (d : IntTy) (sat : Bool) (z : ℤ) (c : Conv) : Prop := fitsInt d sat z c.bits ∧ c.bits < 2 ^ d.width ∧
    (c.ovf = true ↔ z < d.minVal ∨ d.maxVal < z) ∧ c.nanp = false ∧ c.satn = (c.ovf && sat)
  let past8 (t : F8) (sat neg : Bool) (c : Conv) : Prop := c.ovf = true ∧
    if sat then ((fmtOf8 t).decode c.bits).rat = some (if neg then -(fp8 t).2.2 else (fp8 t).2.2) ∧ c.nanp = false ∧ c.satn = true
    else c.satn = false ∧ match t with
      | .e4m3 => c.bits = nan8 t ∧ c.nanp = true
      | .e5m2 => (fmtOf8 t).decode c.bits = .inf neg ∧ c.nanp = false
  let is8 (t : F8) (r : Rnd) (sat neg : Bool) (v : ℚ) (c : Conv) : Prop := c.bits < 2 ^ 8 ∧ ∃ y, rounded (fp8 t) r v y ∧
    ((fp8 t).2.2 < |y| → past8 t sat neg c) ∧
    (|y| ≤ (fp8 t).2.2 → ((fmtOf8 t).decode c.bits).rat = some y ∧ c.bits.testBit 7 = neg ∧ quiet c)
  let isLane (t : FTy) (r : Rnd) (neg : Bool) (v : ℚ) (c : Conv) : Prop := ∃ y, rounded (lane t) r v y ∧ c.nanp = false ∧
    ((lane t).2.2 < |y| → c.ovf = true ∧
      if r = .rne ∨ (r = .rdn ∧ neg = true) ∨ (r = .rup ∧ neg = false) then
        (fmtOfF t).decode c.bits = .inf neg ∧ c.satn = false
      else ((fmtOfF t).decode c.bits).rat = some (if neg then -(lane t).2.2 else (lane t).2.2) ∧ c.satn = true) ∧
    (|y| ≤ (lane t).2.2 → ((fmtOfF t).decode c.bits).rat = some y ∧ (fmtOfF t).signBit c.bits = neg ∧ quiet c)
  (∀ (t : F8) (p : Nat),
    let mag := p % 128
    let v := (fmtOf8 t).decode p
    if t = .e4m3 ∧ mag = 127 ∨ t = .e5m2 ∧ 124 < mag then v = .nan
    else if t = .e5m2 ∧ mag = 124 then v = .inf (p.testBit 7)
    else v.rat = some ((if p.testBit 7 then -1 else 1) *
      (if mag < 2 ^ (fp8 t).1 then (mag : ℚ) else 2 ^ (fp8 t).1 + (mag % 2 ^ (fp8 t).1 : ℕ)) *
        (2 : ℚ) ^ ((fp8 t).2.1 + (max (mag / 2 ^ (fp8 t).1) 1 : ℕ) - 1))) ∧
  (∀ (d i : IntTy) (r : Rnd) (sat : Bool) (p : Nat), isInt d sat (i.read p) (convert (.int d) r (.int i) sat p)) ∧
  (∀ (d : IntTy) (st : Ty) (r : Rnd) (sat : Bool) (p : Nat), (∀ i, st ≠ .int i) →
    let v := readF st p
    let c := convert (.int d) r st sat p
    (v = .nan → c.bits = 0 ∧ c.ovf = true ∧ c.nanp = false ∧ c.satn = false) ∧
    (∀ neg, v = .inf neg → c.ovf = true ∧ c.nanp = false ∧
      if sat then d.read c.bits = (if neg then d.minVal else d.maxVal) ∧ c.satn = true else c.bits = 0 ∧ c.satn = false) ∧
    (∀ y, v.rat = some y → ∃ z, toInt r y z ∧ isInt d sat z c)) ∧
  (∀ (t : F8) (st : Ty) (r : Rnd) (sat : Bool) (p : Nat),
    let v := readF st p
    let c := convert (.f8 t) r st sat p
    (v = .nan → c.bits = nan8 t ∧ quiet c) ∧
    (∀ neg, v = .inf neg → past8 t sat neg c) ∧
    (∀ neg m e y, v = .fin neg m e → v.rat = some y → is8 t r sat neg y c)) ∧
  (∀ (t : FTy) (st : Ty) (r : Rnd) (sat : Bool) (p : Nat),
    let v := readF st p
    let c := convert (.fl t) r st sat p
    (v = .nan → c.bits = nanL t ∧ quiet c) ∧
    (∀ neg, v = .inf neg → (fmtOfF t).decode c.bits = .inf neg ∧ quiet c) ∧
    (∀ neg m e y, v = .fin neg m e → v.rat = some y → isLane t r neg y c)) ∧
  (∀ (t : F8) (r : Rnd) (x k : Nat),
    let a := Fmt.fp32.decode x
    let b := Fmt.fp32.decode k
    let c := quantize t r x k
    let made := c.bits = nan8 t ∧ c.ovf = false ∧ c.satn = false
    (a = .nan ∨ b = .nan → made ∧ c.nanp = false) ∧
    (∀ m n, a = .inf m → b = .inf n → made ∧ c.nanp = true) ∧
    (∀ m n f e, a = .inf m → b = .fin n f e → past8 t true (m != n) c) ∧
    (∀ m f e n, a = .fin m f e → b = .inf n → ((fmtOf8 t).decode c.bits).rat = some 0 ∧ c.bits.testBit 7 = (m != n) ∧ quiet c) ∧
    (∀ m f e n g h, a = .fin m f e → b = .fin n g h → g = 0 →
      (f = 0 → made ∧ c.nanp = true) ∧ (f ≠ 0 → past8 t true (m != n) c)) ∧
    (∀ m f e n g h y w, a = .fin m f e → b = .fin n g h → g ≠ 0 → a.rat = some y → b.rat = some w →
      is8 t r true (m != n) (y / w) c)))

/-- R396, R397, R334, R421, R359, R373: MOV, MOVI, MOVH, the permutations and the single-value instructions. R398, R401, R404,
R405: NOP; PSET and PCLR; PLD over the live lanes; PREAD, with ILLEGAL DETAIL 2 for a selector above 2. -/
def Obligations.MovesAndPredicates : Prop :=
  (∀ (s : State) (x : Machine.Unit) (d : Dst) (a b : Src) (imm : BitVec 22) (w : Width) (sx : Bool) (n : SReg)
    (vd va : VReg),
    let k := widthBits w
    (s.Fires (.mov d a) x → exec (.mov d a) s = .next ((s.taken [a]).finish s.cur.unit s.cur.upd d
      ((s.taken [a]).laneVec s.cur.unit x 32 (immInt 32) a) (s.opVal x a) 1)) ∧
    (s.Fires (.movi d imm) x → exec (.movi d imm) s = .next ((s.taken []).finish s.cur.unit s.cur.upd d
      (spread 32 x.lanes (imm.signExtend 64)) (imm.signExtend 64) 1)) ∧
    (s.Fires (.movh (.s n) imm) x → ∃ vec, exec (.movh (.s n) imm) s = .next ((s.taken []).finish s.cur.unit s.cur.upd
      (.s n) vec (x.sReg n <<< 22 ||| imm.setWidth 64) 1)) ∧
    (s.Fires (.movh (.v vd) imm) x → ∃ vec sc, exec (.movh (.v vd) imm) s =
        .next ((s.taken []).finish s.cur.unit s.cur.upd (.v vd) vec sc 1) ∧
      ∀ j, j < x.lanes → valAt 32 vec j = ((x.vLane vd j <<< 22) ||| imm.setWidth 32).toNat) ∧
    (s.Fires (.shfl w vd va b) x → ∃ vec sc, exec (.shfl w vd va b) s =
        .next ((s.taken [b]).finish s.cur.unit s.cur.upd (.v vd) vec sc 1) ∧
      ∀ v, v < x.count k → valAt k vec v = valAt k (x.vVec va) (match b with
        | .v m => valAt k (x.vVec m) v % x.count k
        | _ => (v + (s.opVal x b).toNat) % x.count k)) ∧
    (s.Fires (.bcst w d va b) x → ∃ vec, exec (.bcst w d va b) s =
        .next ((s.taken [b]).finish s.cur.unit s.cur.upd d vec (scalarOf k vec) 1) ∧
      ∀ v, v < x.count k → valAt k vec v = valAt k (x.vVec va) ((s.opVal x b).toNat % x.count k)) ∧
    (s.Fires (.extl w sx d va b) x → ∃ vec, exec (.extl w sx d va b) s =
        .next ((s.taken [b]).finish s.cur.unit s.cur.upd d vec
          (w64 (if sx then wrapInt 64 (asInt k (valAt k (x.vVec va) ((s.opVal x b).toNat % x.count k)))
            else valAt k (x.vVec va) ((s.opVal x b).toNat % x.count k))) 1)) ∧
    (s.Fires (.insl w vd a b) x → ∃ vec sc, exec (.insl w vd a b) s =
        .next ((s.taken [a, b]).finish s.cur.unit s.cur.upd (.v vd) vec sc 1) ∧
      ∀ v, v < x.count k → valAt k vec v = if v = (s.opVal x b).toNat % x.count k then
        (match a with
          | .v m => valAt k (x.vVec m) 0
          | .imm i => immInt k i
          | a => (s.opVal x a).toNat % 2 ^ k) else valAt k (x.vVec vd) v)) ∧
  (∀ (s : State) (x : Machine.Unit) (all : Bool) (p : Fin 8) (va : VReg) (d : Dst) (a : Src),
    let u := s.cur.unit
    (s.Fires .nop x → exec .nop s = .next (s.doneWith (s.taken []))) ∧
    (s.Fires (.pset a) x → exec (.pset a) s = .next (s.doneWith ((s.taken [a]).onUnit u fun y =>
      { y with p := y.p ||| (s.opVal x a).setWidth 8 }))) ∧
    (s.Fires (.pclr a) x → exec (.pclr a) s = .next (s.doneWith ((s.taken [a]).onUnit u fun y =>
      { y with p := y.p &&& ~~~((s.opVal x a).setWidth 8) }))) ∧
    (s.Fires (.pld all p va) x → ∃ r : Bool, exec (.pld all p va) s = .next (s.doneWith ((s.taken []).onUnit u fun y =>
        { y with p := setPred y.p p r })) ∧
      (r = true ↔ if all then ∀ j, j < x.lanes → x.live j = true → x.vLane va j ≠ 0
        else ∃ j, j < x.lanes ∧ x.live j = true ∧ x.vLane va j ≠ 0)) ∧
    (s.Fires (.pread d a) x → (s.opVal x a).toNat ≤ 2 → ∀ y, (s.taken [a]).unit? u = some y →
      ∀ v : W64, v = (if s.opVal x a = 0 then x.p.setWidth 64 else if s.opVal x a = 1 then y.lm.setWidth 64
          else (y.lm >>> 64).setWidth 64) →
      exec (.pread d a) s = .next ((s.taken [a]).finish u s.cur.upd d (spread 32 x.lanes v) v 1)) ∧
    (s.Fires (.pread d a) x → 2 < (s.opVal x a).toNat →
      exec (.pread d a) s = .next (s.raise u s.cur.slot (illegal 2))))

/-- R114, R115, R410, R419: RDCE gives the tree's result in every value position, SCAN the combinations of the prefixes. R115:
position i of a scan combines, from left to right, the reductions of the aligned blocks that the binary digits of i + 1 cut,
largest first; position 2 holds Op(Op(x0, x1), x2), position 6 the combination that R115 writes out, and position n - 1 the
reduction's result, whatever the operation. -/
def Obligations.ReductionsAndScans : Prop :=
  (∀ (s : State) (x : Machine.Unit) (ty : Ty) (op : RedOp) (sat : Bool) (rnd : Rnd) (d : Dst) (vd va : VReg),
    let w := tyWidth ty
    let f := redApply ty op sat rnd
    (s.Fires (.rdce ty op sat rnd d va) x → LaneResult s x (.rdce ty op sat rnd d va) w 4 d fun _ r =>
      r = treeReduce f (x.count w).log2 (valuesOf x va w) % 2 ^ w) ∧
    (s.Fires (.scan ty op sat rnd vd va) x → ∃ vec sc, exec (.scan ty op sat rnd vd va) s =
        .next ((s.taken []).finish s.cur.unit s.cur.upd (.v vd) vec sc 4) ∧
      ∀ v, v < x.count w → valAt w vec v = scanBlocks f (valuesOf x va w) (v + 1) (x.count w).log2 0 none % 2 ^ w)) ∧
  (∀ (op : Nat → Nat → Nat) (k i : Nat) (xs : List Nat), xs.length = 2 ^ k → i < 2 ^ k →
    (∀ first rest, (((List.range (k + 1)).reverse.filter fun b => (i + 1).testBit b).map fun b =>
        treeReduce op b ((xs.drop ((i + 1) / 2 ^ (b + 1) * 2 ^ (b + 1))).take (2 ^ b))) = first :: rest →
      scanBlocks op xs (i + 1) k 0 none = rest.foldl op first) ∧
    scanBlocks op xs (2 ^ k) k 0 none = treeReduce op k xs ∧
    (2 ≤ k → scanBlocks op xs 3 k 0 none = op (op (xs.getD 0 0) (xs.getD 1 0)) (xs.getD 2 0)) ∧
    (3 ≤ k → scanBlocks op xs 7 k 0 none = op (op (op (op (xs.getD 0 0) (xs.getD 1 0)) (op (xs.getD 2 0) (xs.getD 3 0)))
      (op (xs.getD 4 0) (xs.getD 5 0))) (xs.getD 6 0)))

/-- R17, R18, R25, R42, R51: what an instruction whose result goes to a register or an output channel leaves unchanged: every
byte of memory, every signal, every request under way and every other unit; in its own unit every register but its destination,
the predicate that its update names, LM where a stream token that it reads sets it, and the converter counters of CVT and QCVT
(R116); its inboxes may lose tokens, and its program counter moves. With a register destination no token leaves and no region
changes. -/
def Obligations.RegisterInstructionsFrame : Prop :=
  ∀ (s t : State) (x : Machine.Unit) (i : Instr) (d : Dst) (a b : Src) (ty : IntTy) (ft : FTy) (sat : Bool) (rnd : Rnd) (c : Cond)
    (fc : FCond) (imm : BitVec 22) (va : VReg) (w : Width) (rt st : Ty) (op : RedOp) (sx : Bool) (f8 : F8) (vd vb : VReg),
    let conversions := [Instr.cvt rt rnd st sat d a, .qcvt f8 rnd d a b]
    (i ∈ [Instr.add ty sat d a b, .sub ty sat d a b, .mul ty sat d a b, .mad ty sat d a b, .mulh ty d a b, .div ty sat d a b,
      .rem ty d a b, .abs ty sat d a, .min ty d a b, .max ty d a b, .and ty d a b, .or ty d a b, .xor ty d a b, .shl ty sat d a b,
      .shr ty d a b, .sra ty d a b, .rot ty d a b, .clz ty d a, .popc ty d a, .sel ty d a b, .cmp ty c d a b,
      .fadd ft rnd d a b, .fsub ft rnd d a b, .fmul ft rnd d a b, .fma ft rnd d a b, .fdiv ft rnd d a b, .fsqrt ft rnd d a,
      .frcp ft rnd d a, .frsq ft rnd d a, .fexp2 ft rnd d a, .flog2 ft rnd d a, .fmin ft d a b, .fmax ft d a b, .fabs ft d a,
      .fneg ft d a, .fcmp ft fc d a b, .mov d a, .movi d imm, .bcst w d va b, .movh d imm, .extl w sx d va b, .rdce rt op sat rnd d va] ∨
      i ∈ conversions ∨
      d = .v vd ∧ i ∈ [Instr.pack ty sat vd va vb, .unpk ty sx vd va, .shfl w vd va b, .scan rt op sat rnd vd va, .insl w vd a b]) →
    s.Fires i x → exec i s = .next t →
    s.SameMemory t ∧ (∀ u, u ≠ s.cur.unit → t.unit? u = s.unit? u) ∧ t.mesh = s.mesh ∧
    ((∀ n, d ≠ .o n) → t.regions = s.regions ∧ t.flight = s.flight) ∧
    ∃ y, t.unit? s.cur.unit = some y ∧
      Unit.SameElse x (if i ∈ conversions then { y with ovf := x.ovf, nanp := x.nanp, satn := x.satn } else y) ∧
      (∀ n : SReg, d ≠ .s n → y.sReg n = x.sReg n) ∧ (∀ (n : VReg) (j : Nat), j < 128 → d ≠ .v n → y.vLane n j = x.vLane n j) ∧
      (∀ n : Fin 4, (∀ m : Fin 3, d = .k m → m.val + 1 ≠ n.val) → y.kReg n = x.kReg n) ∧
      (∀ n : Fin 8, d ≠ .p n → d ≠ .pst → s.cur.upd ∉ [.set n, .clear n, .toggle n] → predBit y.p n = predBit x.p n) ∧
      (d ≠ .lm → s.cur.test = none → (∀ ch sel, .c ch sel ∉ i.srcs) → y.lm = x.lm)

/-- R42, R51: what a result writes in its unit: a V register in its live lanes, an S register whole, a predicate, a sticky count
and PST where lane 0 is live, LM always; nothing else of the unit changes. -/
def Obligations.DestinationWriteRules : Prop :=
  ∀ (x : Machine.Unit) (vec : Nat) (sc : W64),
    (∀ n : VReg, ∀ y, y = x.write (.v n) vec sc →
      (∀ (m : VReg) (j : Nat), j < 128 → y.vLane m j = if m = n ∧ j < x.lanes ∧ x.live j = true then laneAt vec j else x.vLane m j) ∧
        y = { x with v := y.v }) ∧
    (∀ n : SReg, ∀ y, y = x.write (.s n) vec sc →
      (∀ m : SReg, y.sReg m = if m = n then sc else x.sReg m) ∧ y = { x with s := y.s }) ∧
    (∀ n : Fin 8, ∀ y, y = x.write (.p n) vec sc →
      (∀ m : Fin 8, predBit y.p m = if m = n ∧ x.live 0 = true then laneAt vec 0 != 0 else predBit x.p m) ∧
        y = { x with p := y.p }) ∧
    (∀ n : Fin 3, ∀ y, y = x.write (.k n) vec sc →
      (∀ m : Fin 4, y.kReg m = if m.val = n.val + 1 ∧ x.live 0 = true then (laneAt vec 0).setWidth 16 else x.kReg m) ∧
        y = { x with k := y.k }) ∧
    x.write .pst vec sc = (if x.live 0 then { x with p := (laneAt vec 0).setWidth 8 } else x) ∧
    (∀ y, y = x.write .lm vec sc →
      (∀ j, j < 128 → y.live j = (decide (j < x.lanes) && (laneAt vec j != 0))) ∧ y = { x with lm := y.lm }) ∧
    x.write .discard vec sc = x

/-- R17, R18: a result that takes one cycle is written to its register at once, the predicate update follows, and a sequenced
unit goes on to the next word; one that takes more keeps the unit busy with the result until its interval ends. No other unit
changes, and nothing but units. A result that goes to an output channel is emitted as a DAT token (R24, R51): no register, inbox
or memory changes, and no other unit. R17, R27, R45: the update of a word sets, clears or toggles one predicate; then a
sequenced unit's program counter advances by one word and a triggered unit's does not move. -/
def Obligations.WordsEndWithTheirUpdate : Prop :=
  (∀ (s : State) (u : Nat) (x : Machine.Unit) (upd : Upd) (d : Dst) (vec : Nat) (sc : W64) (cyc : Nat),
    s.unit? u = some x →
    let t := s.finish u upd d vec sc cyc
    (cyc ≤ 1 → (∀ n, d ≠ .o n) → x.blocked = none → x.busy = none → t.unit? u = some ((x.write d vec sc).next upd)) ∧
    (1 < cyc → t.unit? u = some { x with busy := some ⟨s.clockOf u + cyc, d, vec, sc, upd⟩ }) ∧
    (∀ w, w ≠ u → t.unit? w = s.unit? w) ∧
    ((∀ n, d ≠ .o n) ∨ 1 < cyc → t = { s with units := t.units }) ∧
    (∀ n, d = .o n → cyc ≤ 1 →
      t = (s.emitAll u false [⟨Tab.get x.outs n.val [], plainTok .dat sc⟩]).onUnit u (fun y => y.close upd) ∧
      s.SameMemory t ∧ t.mesh = s.mesh ∧ ∃ y, t.unit? u = some y ∧
        y.v = x.v ∧ y.s = x.s ∧ y.k = x.k ∧ y.lm = x.lm ∧ y.inbox = x.inbox ∧ Unit.SameElse x y)) ∧
  (∀ (x : Machine.Unit) (upd : Upd),
    (∀ m : Fin 8, predBit (x.next upd).p m = match upd with
      | .none => predBit x.p m
      | .set n => if m = n then true else predBit x.p m
      | .clear n => if m = n then false else predBit x.p m
      | .toggle n => if m = n then !predBit x.p m else predBit x.p m) ∧
    (x.next upd).pc = (if x.mode = .sequenced then x.pc + 1 else x.pc) ∧
    x.next upd = { x with p := (x.next upd).p, pc := (x.next upd).pc })

/-- R26, R171, R356, R366, R386, R414, R420: SEND emits a DAT token to the destinations whose mask bit is set; DROP consumes the
head token and gains no order; FWD keeps the tag of the token it reads and the order that it conveys, MARK emits an EOI, RETAG
sets the tag of a token that conveys no order; an EOI to DISCARD still advances INVIX (R31) and empties a partly filled
turntable (R145). R40, R429, R430: a STEER sends a token that is not an EOI to the one output that its selector names, the last
one for a selector past it; an EOI leaves the selector's channel unread and goes to every output, and INVIX advances once. The
order that the token conveys goes with it. R41, R391: a MERGE takes the head token of the lowest-numbered configured input whose
head is not an EOI; with an EOI at every head it consumes them all and emits one EOI, whose payload is free. The order that the
taken token conveys goes with it. R116, R117, R145: STATC emits OVF, NANP and SATN in that order and zeroes them; TURN keeps
seven rows and at the eighth emits the 64 words of the block column by column. -/
def Obligations.TokenInstructions : Prop :=
  (∀ (s : State) (x : Machine.Unit) (o c : Chan) (d : Dst) (a mask : Src) (tag : Tag),
    let u := s.cur.unit
    let emitted (t : State) (ems : List Emission) (eoi : Bool) : State :=
      ((if eoi then t.emptyTurn u else t).emitAll u eoi ems).onUnit u fun y => y.close s.cur.upd
    let conveys : Bool := match a with
      | .c ch _ => (x.head? ch.val).any (·.order)
      | _ => false
    let one (tok : Token) : List Emission := match d with
      | .o n => [⟨Tab.get x.outs n.val [], tok⟩]
      | _ => []
    (s.Fires (.send o a mask) x → (maskDests (Tab.get x.outs o.val []) (s.opVal x mask)).isEmpty = true →
      exec (.send o a mask) s = .next (s.doneWith (s.taken [a, mask]))) ∧
    (s.Fires (.send o a mask) x → (maskDests (Tab.get x.outs o.val []) (s.opVal x mask)).isEmpty = false →
      exec (.send o a mask) s = .next (emitted (s.taken [a, mask])
        [⟨maskDests (Tab.get x.outs o.val []) (s.opVal x mask), plainTok .dat (s.opVal x a)⟩] false)) ∧
    (s.Fires (.drop c) x → exec (.drop c) s = .next (s.doneWith ((s.taken []).dequeue u c.val))) ∧
    (s.Fires (.fwd d a) x → exec (.fwd d a) s =
      .next (emitted (s.taken [a]) (one { plainTok (x.tagOf a) (s.opVal x a) with order := conveys }) (x.tagOf a == .eoi))) ∧
    (s.Fires (.mark d) x → exec (.mark d) s = .next (emitted (s.taken []) (one (plainTok .eoi 0)) true)) ∧
    (s.Fires (.retag tag d a) x → exec (.retag tag d a) s =
      .next (emitted (s.taken [a]) (one (plainTok tag (s.opVal x a))) (tag == .eoi)))) ∧
  (∀ (s : State) (x : Machine.Unit) (o : Chan) (c slc : Src), s.Fires (.steer o c slc) x →
    let u := s.cur.unit
    let conveys : Bool := match c with
      | .c ch _ => (x.head? ch.val).any (·.order)
      | _ => false
    let on (tag : Tag) : Token := { plainTok tag (s.opVal x c) with order := conveys }
    (x.tagOf c ≠ .eoi → exec (.steer o c slc) s = .next ((((s.taken [c, slc]).emitAll u false
      [⟨Tab.get x.outs (min ((s.opVal x slc).toNat % 8) o.val) [], on (x.tagOf c)⟩])).onUnit u
        fun y => y.close s.cur.upd)) ∧
    (x.tagOf c = .eoi → exec (.steer o c slc) s = .next ((((s.taken [c]).emptyTurn u).emitAll u true
      ((List.range (o.val + 1)).map fun k => ⟨Tab.get x.outs k [], on .eoi⟩)).onUnit u
        fun y => y.close s.cur.upd))) ∧
  (∀ (s : State) (x : Machine.Unit) (o ca cb : Chan), s.Fires (.merge o ca cb) x →
    let u := s.cur.unit
    (∀ (c : Chan) (t : Token), ca.val ≤ c.val → c.val ≤ cb.val → x.head? c.val = some t → t.tag ≠ .eoi →
      (∀ k : Nat, ca.val ≤ k → k < c.val → ∀ t', x.head? k = some t' → t'.tag = .eoi) →
      exec (.merge o ca cb) s = .next ((((s.taken []).mergeRead u c.val).emitAll u false
        [⟨Tab.get x.outs o.val [], { plainTok t.tag t.payload with order := t.order }⟩]).onUnit u fun y => y.close s.cur.upd)) ∧
    ((∀ k : Nat, ca.val ≤ k → k ≤ cb.val → ∃ t, x.head? k = some t ∧ t.tag = .eoi) →
      ∃ payload, exec (.merge o ca cb) s = .next
        (((((mergeIns ca cb).foldl (fun (t : State) k => t.mergeRead u k) ({ s.taken [] with free := (s.taken []).free + 1 })).emptyTurn u).emitAll u true
          [⟨Tab.get x.outs o.val [], plainTok .eoi payload⟩]).onUnit u fun y => y.close s.cur.upd))) ∧
  (∀ (s : State) (x : Machine.Unit) (o : Chan) (a : VReg),
    let u := s.cur.unit
    (s.Fires (.statc (.o o)) x → exec (.statc (.o o)) s = .next ((((s.taken []).onUnit u fun y =>
        { y with ovf := 0, nanp := 0, satn := 0 }).emitAll u false
        ([x.ovf, x.nanp, x.satn].map fun v => ⟨Tab.get x.outs o.val [], plainTok .dat (v.setWidth 64)⟩)).onUnit u
          fun y => y.close s.cur.upd)) ∧
    (s.Fires (.statc .discard) x → exec (.statc .discard) s = .next (s.doneWith ((s.taken []).onUnit u fun y =>
        { y with ovf := 0, nanp := 0, satn := 0 }))) ∧
    (s.Fires (.turn o a) x → x.fill < 7 → exec (.turn o a) s = .next (s.doneWith ((s.taken []).onUnit u fun y =>
        { y with turn := turnRow x a, fill := x.fill + 1 }))) ∧
    (s.Fires (.turn o a) x → 7 ≤ x.fill → ∃ words : List W64, words.length = 64 ∧
      (∀ n, n < 64 → words.getD n 0 = (Tab.get (turnRow x a) (n % 8 * 8 + n / 8) (0 : Lane)).setWidth 64) ∧
      exec (.turn o a) s = .next ((((s.taken []).onUnit u fun y => { y with turn := [], fill := 0 }).emitAll u false
        (words.map fun w => ⟨Tab.get x.outs o.val [], plainTok .dat w⟩)).onUnit u fun y => y.close s.cur.upd)))

/-- R24, R85, R88, R89: a copy whose destination has a slot for it goes on its way with its arc's mark; one that finds none
waits on the platform at its arc's entry, and the emitting unit is blocked until it is accepted. -/
def Obligations.CopiesAreSentOrWait : Prop :=
  ∀ (s : State) (x : Machine.Unit) (u : Nat) (d : Dest) (t : Token), s.unit? u = some x →
    (s.slotFree d (s.eclass u) = true →
      s.emitAll u false [⟨[d], t⟩] = s.dispatch (some u) d t ∧
      ∃ f : Flight, (s.dispatch (some u) d t).flight = s.flight ++ [f] ∧ f.dest = d ∧ f.tok.payload = t.payload ∧
        f.tok.tag = t.tag ∧ f.tok.arc = d.entry) ∧
    (s.slotFree d (s.eclass u) = false →
      (s.emitAll u false [⟨[d], t⟩]).unit? u = some { x with blocked := some (.emit ⟨[d], t⟩ [] false) } ∧
      (s.emitAll u false [⟨[d], t⟩]).flight = s.flight ∧
      ∃ w : Wait, Tab.find ((s.emitAll u false [⟨[d], t⟩]).station d.station).platform d.entry = some w ∧ w.promos = 0)

/-- R78, R79, R86, R330: ALLOC and ALLOCT write the granted block's handle after two cycles; where nothing can be granted, ALLOC
waits on the platform and ALLOCT writes 0; a class above 11 or a count of 0 is ILLEGAL with DETAIL 2. R76, R79 to R82: a granted
block takes the generation counter's value and its count; a release of a count from 2 to 65,534 lowers it by one, one of a count
of 1 frees the block, whose granules are to be had from the next cycle on, and advances the generation counter (65,535 to 1),
one of a saturated count does nothing; a retain adds to the count up to 65,535. R77, R80, R81, R338, R412: RELEASE and RETAIN
act on a block of the unit's own station at once, unless an earlier access or count operation of the unit on it is still to be
performed: then, as for another station's, they are sent. BSIZE gives the block's count and size, and 8 for a signal handle: for
a handle of the own station after two cycles, else the unit is blocked until the answer comes. A signal handle is ILLEGAL with
DETAIL 2 for RELEASE and RETAIN; a handle that does not resolve is stale: for RELEASE and RETAIN of another station's block when
they arrive there, where no count changes and the unit has an asynchronous STALE_HANDLE with DETAIL 1 (R226, R230). -/
def Obligations.AllocationsAndCounts : Prop :=
  (∀ (s : State) (x : Machine.Unit) (d : Dst) (k n : Src),
    let u := s.cur.unit
    let kk := (s.opVal x k).toNat
    let nn := (s.opVal x n).toNat % 2 ^ 16
    (s.Fires (.alloc d k n) x → kk ≤ 11 → nn ≠ 0 →
      (∀ s' h, (s.taken [k, n]).tryAlloc u x kk nn false = some (s', h) →
        exec (.alloc d k n) s = .next (s'.finish u s.cur.upd d 0 h 2)) ∧
      ((s.taken [k, n]).tryAlloc u x kk nn false = none → ∃ t, exec (.alloc d k n) s = .next t ∧
        (∃ y dests, t.unit? u = some y ∧ y.blocked = some (.alloc kk nn (dstS d) dests)) ∧
        ∃ w, Tab.find (t.station (stnOf u)).platform (elemOf u) = some w ∧ w.what = .block u kk nn ∧ w.promos = 0)) ∧
    (s.Fires (.alloct d k n) x → kk ≤ 11 → nn ≠ 0 →
      (∀ s' h, (s.taken [k, n]).tryAlloc u x kk nn true = some (s', h) →
        exec (.alloct d k n) s = .next (s'.finish u s.cur.upd d 0 h 2)) ∧
      ((s.taken [k, n]).tryAlloc u x kk nn true = none →
        exec (.alloct d k n) s = .next ((s.taken [k, n]).finish u s.cur.upd d 0 0 2))) ∧
    (11 < kk ∨ nn = 0 →
      (s.Fires (.alloc d k n) x → exec (.alloc d k n) s = .next (s.raise u s.cur.slot (illegal 2))) ∧
      (s.Fires (.alloct d k n) x → exec (.alloct d k n) s = .next (s.raise u s.cur.slot (illegal 2))))) ∧
  (∀ (st : Station) (b : Block) (m cyc : Nat),
    let same (c : Block) : Prop := c.first = b.first ∧ c.k = b.k
    (∀ r owner k n st' b', st.grant r owner k n = some (st', b') →
      b'.gen = st.gen ∧ b'.count = n ∧ b'.k = k ∧ st'.gen = st.gen ∧ st'.blocks = b' :: st.blocks) ∧
    (2 ≤ b.count → b.count < 65535 → (st.release cyc b).gen = st.gen ∧
      (st.release cyc b).blocks = st.blocks.map fun c => if sameBlock c b then { c with count := c.count - 1 } else c) ∧
    (b.count = 1 → (∀ c ∈ (st.release cyc b).blocks, ¬ same c) ∧
      (∀ c ∈ st.blocks, ¬ same c → c ∈ (st.release cyc b).blocks) ∧
      (st.release cyc b).pools = st.pools ∧ (st.release cyc b).freed = st.freed ++ [(cyc, b)] ∧
      (st.release cyc b).gen = if st.gen = 0xFFFF#16 then 1 else st.gen + 1) ∧
    (65535 ≤ b.count → st.release cyc b = st) ∧
    ((st.retain b m).blocks = st.blocks.map fun c => if sameBlock c b then { c with count := min (c.count + m) 65535 } else c)) ∧
  (∀ (s : State) (x : Machine.Unit) (d : Dst) (h m : Src),
    let u := s.cur.unit
    let hv := s.opVal x h
    let mm := (s.opVal x m).toNat % 2 ^ 16
    let own : Prop := hStn hv = stnOf u
    let counts (i : Instr) (t : State) (req : Req) (f : Station → Block → Station) : Prop := s.Fires i x →
      (isSignalHandle hv = true → exec i s = .next (s.raised (illegal 2))) ∧
      (isSignalHandle hv = false → ¬ own → exec i s = .next (s.doneWith (t.send u req).1)) ∧
      (isSignalHandle hv = false → own →
        ((∀ b, t.resolveBlock x.ctx hv ≠ .ok b) → exec i s = .next (s.raised (stale hv))) ∧
        (∀ b, t.resolveBlock x.ctx hv = .ok b → exec i s = .next (s.doneWith
          (if t.usesBlock u hv || t.mesh.any (fun p => p.unit == u && p.req.counts hv) then (t.send u req).1
           else t.onStation (stnOf u) fun st => f st b))))
    (∀ (r : State) (i : Nat) (p : Packet) (y : Machine.Unit) (g : W64), r.mesh[i]? = some p → p.st = .request →
      p.req = .release g ∨ (∃ k, p.req = .retain g k) → r.heldBack i p = false → r.unit? p.unit = some y →
      (∀ b, r.resolveBlock y.ctx g ≠ .ok b) → ∃ r', exec (.meshRequestArrival i) r = .next r' ∧
        r' = (r.answer p.id []).raiseAsync p.unit ⟨.staleHandle, 1, g⟩ ∧ ∀ n, (r'.station n).blocks = (r.station n).blocks) ∧
    counts (.release h) (s.taken [h]) (.release hv) (fun st b => st.release ((s.taken [h]).stnNow (stnOf u)) b) ∧
    counts (.retain h m) (s.taken [h, m]) (.retain hv mm) (fun st b => st.retain b mm) ∧
    (s.Fires (.bsize d h) x →
      let t := s.taken [h]
      let asked := t.send u (.bsize hv (x.landOf 0 d))
      let answers (w : W64) : Prop :=
        (own → exec (.bsize d h) s = .next (t.finish u s.cur.upd d 0 w 2)) ∧
        (¬ own → exec (.bsize d h) s = .next (s.blockedOn asked.1 (.answer [asked.2])))
      (isSignalHandle hv = true → t.signalOk x.part hv = true → answers 8) ∧
      (isSignalHandle hv = true → t.signalOk x.part hv = false → exec (.bsize d h) s = .next (s.raised (stale hv))) ∧
      (isSignalHandle hv = false → ∀ b, t.resolveBlock x.ctx hv = .ok b →
        answers (w64 (b.count % 2 ^ 16 * 2 ^ 32 + 32 * 2 ^ b.k))) ∧
      (isSignalHandle hv = false → (∀ b, t.resolveBlock x.ctx hv ≠ .ok b) →
        exec (.bsize d h) s = .next (s.raised (stale hv)))))

/-- R95 to R97, R353, R380, R381: LDB gives 8 bytes of a block to a scalar or channel destination, or 4 bytes for each lane to a
V register, and LDBX 4 bytes for each lane at its index; a byte at or past the block's end reads as 0. From the own station they
land after two cycles; from another one the read is sent there; in both cases a sequenced unit goes on with the load outstanding
into its register, and every other reader is blocked until the value has landed. A signal handle gives the signal to a
destination that is no V register. A wrong offset is MISALIGNED, a V register with a signal handle ILLEGAL with DETAIL 2, a
handle that does not resolve stale. A load from the own station is performed at its issue and lands after two cycles, by the
event ISSUE_INTERVAL_END (log entry 12). -/
def Obligations.ScratchpadLoads : Prop :=
  ∀ (s : State) (x : Machine.Unit) (d : Dst) (vd vi : VReg) (h : Src) (sc : Fin 4),
    let u := s.cur.unit
    let hv := s.opVal x h
    let t := s.taken [h]
    let own : Prop := hStn hv = stnOf u
    let byte (b : Block) (o : Nat) : Byte :=
      if o < 32 * 2 ^ b.k then Memory.read s.scratch (stnOf u * 2 ^ 22 + 32 * b.first + o) else 0
    let loads (i : Instr) (d : Dst) (b : Block) (offs : List Nat) (n : Nat) (seen : List Nat) : Prop :=
      (own → exec i s = .next (s.loadHere (t.noteOor u hv b seen) x (x.landOf (t.lmNow u x) d)
        (offs.flatMap fun o => (List.range n).map fun j => byte b (o + j)))) ∧
      (¬ own → exec i s = .next (s.loadSent (t.noteOor u hv b seen) x (x.landOf (t.lmNow u x) d)
        (.blockRead hv offs n (x.landOf (t.lmNow u x) d))))
    (s.Fires (.ldb d h) x →
      let n := if isVDst d then x.lanes * 4 else 8
      let align := if isVDst d then 4 else 8
      (isSignalHandle hv = false → ∀ b, t.resolveBlock x.ctx hv = .ok b →
        (hOff hv % align = 0 → loads (.ldb d h) d b [hOff hv] n ((List.range n).map fun j => hOff hv + j)) ∧
        (hOff hv % align ≠ 0 → exec (.ldb d h) s = .next (s.raised (misaligned 0)))) ∧
      (isSignalHandle hv = false → (∀ b, t.resolveBlock x.ctx hv ≠ .ok b) → exec (.ldb d h) s = .next (s.raised (stale hv))) ∧
      (isSignalHandle hv = true → t.signalOk x.part hv = false → exec (.ldb d h) s = .next (s.raised (stale hv))) ∧
      (isSignalHandle hv = true → t.signalOk x.part hv = true →
        (isVDst d = true → exec (.ldb d h) s = .next (s.raised (illegal 2))) ∧
        (isVDst d = false → own → exec (.ldb d h) s = .next (s.loadHere t x (x.landOf 0 d)
          (bytesOf 8 (s.signal (hSignal hv)).toNat))) ∧
        (isVDst d = false → ¬ own → exec (.ldb d h) s = .next (s.loadSent t x (x.landOf 0 d)
          (.blockRead hv [0] 8 (x.landOf 0 d)))))) ∧
    (s.Fires (.ldbx sc vd h vi) x →
      let live (j : Nat) : Prop := j < x.lanes ∧ (t.lmNow u x).getLsbD j = true
      (isSignalHandle hv = true → exec (.ldbx sc vd h vi) s = .next (s.raised (illegal 2))) ∧
      (isSignalHandle hv = false → (∀ b, t.resolveBlock x.ctx hv ≠ .ok b) →
        exec (.ldbx sc vd h vi) s = .next (s.raised (stale hv))) ∧
      (isSignalHandle hv = false → ∀ b, t.resolveBlock x.ctx hv = .ok b →
        ((∃ j, live j ∧ idxOff x hv sc vi j % 4 ≠ 0) → exec (.ldbx sc vd h vi) s = .next (s.raised (misaligned 0))) ∧
        ((∀ j, live j → idxOff x hv sc vi j % 4 = 0) →
          loads (.ldbx sc vd h vi) (.v vd) b ((List.range x.lanes).map (idxOff x hv sc vi)) 4
            (((List.range x.lanes).filter fun j => (t.lmNow u x).getLsbD j).flatMap
              fun j => (List.range 4).map fun k => idxOff x hv sc vi j + k))))

/-- R42, R95, R97, R423, R426, R427: STB writes 8 bytes of a scalar value, or 4 bytes for each live lane of a V register, and
STBX 4 bytes for each live lane at its index, the highest of the lanes that name one byte last. At the own station this is done
at once: a byte outside the block is dropped, and every other byte of every memory, and every signal, reads as before. To
another station the bytes are sent. A scalar through a signal handle sets the signal, at the own station at once. A wrong offset
is MISALIGNED, a V register with a signal handle ILLEGAL with DETAIL 2, a handle that does not resolve stale. -/
def Obligations.ScratchpadStores : Prop :=
  ∀ (s : State) (x : Machine.Unit) (vs vi : VReg) (h src : Src) (sc : Fin 4),
    let u := s.cur.unit
    let hv := s.opVal x h
    let own : Prop := hStn hv = stnOf u
    let lanesOf (t : State) : List Nat := (List.range x.lanes).filter fun j => (t.lmNow u x).getLsbD j
    let laneAt (v : VReg) (o j k : Nat) : Nat × Byte := (o + k, BitVec.ofNat 8 ((x.vLane v j).toNat >>> (8 * k)))
    let stores (i : Instr) (t : State) (b : Block) (bs : List (Nat × Byte)) : Prop :=
      let addr (o : Nat) : Nat := stnOf u * 2 ^ 22 + 32 * b.first + o
      (own → ∃ t', exec i s = .next t' ∧ t' = s.doneWith ((t.noteOor u hv b (bs.map (·.1))).blockPut (stnOf u) b bs) ∧
        (∀ p q o v, bs = p ++ (o, v) :: q → o < 32 * 2 ^ b.k → (∀ e ∈ q, e.1 ≠ o) → Memory.read t'.scratch (addr o) = v) ∧
        (∀ a, (∀ e ∈ bs, e.1 < 32 * 2 ^ b.k → a ≠ addr e.1) → Memory.read t'.scratch a = Memory.read s.scratch a) ∧
        t'.dram = s.dram ∧ t'.host = s.host ∧ t'.peer = s.peer ∧ t'.lines = s.lines ∧ t'.sram = s.sram ∧
        t'.signals = s.signals) ∧
      (¬ own → exec i s = .next (s.doneWith ((t.noteOor u hv b (bs.map (·.1))).send u (.blockWrite hv bs)).1))
    (s.Fires (.stb h src) x →
      let t := s.taken [h, src]
      let bytes := match src with
        | .v n => (lanesOf t).flatMap fun j => (List.range 4).map (laneAt n (hOff hv + 4 * j) j)
        | _ => (List.range 8).map fun k => (hOff hv + k, BitVec.ofNat 8 ((s.opVal x src).toNat >>> (8 * k)))
      let align := if (vSrc src).isSome then 4 else 8
      (isSignalHandle hv = false → ∀ b, t.resolveBlock x.ctx hv = .ok b →
        (hOff hv % align = 0 → stores (.stb h src) t b bytes) ∧
        (hOff hv % align ≠ 0 → exec (.stb h src) s = .next (s.raised (misaligned 0)))) ∧
      (isSignalHandle hv = false → (∀ b, t.resolveBlock x.ctx hv ≠ .ok b) →
        exec (.stb h src) s = .next (s.raised (stale hv))) ∧
      (isSignalHandle hv = true → t.signalOk x.part hv = false → exec (.stb h src) s = .next (s.raised (stale hv))) ∧
      (isSignalHandle hv = true → t.signalOk x.part hv = true →
        ((vSrc src).isSome = true → exec (.stb h src) s = .next (s.raised (illegal 2))) ∧
        ((vSrc src).isSome = false → exec (.stb h src) s = .next (s.doneWith
          (if !isCore u && hSignal hv / 1024 == stnOf u then t.sigSet (hSignal hv) (s.opVal x src)
           else (t.send u (.sigSet (hSignal hv) (s.opVal x src))).1))))) ∧
    (s.Fires (.stbx sc vs h vi) x →
      let t := s.taken [h]
      (isSignalHandle hv = true → exec (.stbx sc vs h vi) s = .next (s.raised (illegal 2))) ∧
      (isSignalHandle hv = false → (∀ b, t.resolveBlock x.ctx hv ≠ .ok b) →
        exec (.stbx sc vs h vi) s = .next (s.raised (stale hv))) ∧
      (isSignalHandle hv = false → ∀ b, t.resolveBlock x.ctx hv = .ok b →
        ((∃ j ∈ lanesOf t, idxOff x hv sc vi j % 4 ≠ 0) → exec (.stbx sc vs h vi) s = .next (s.raised (misaligned 0))) ∧
        ((∀ j ∈ lanesOf t, idxOff x hv sc vi j % 4 = 0) → stores (.stbx sc vs h vi) t b
          ((lanesOf t).flatMap fun j => (List.range 4).map (laneAt vs (idxOff x hv sc vi j) j)))))

/-- R77, R290, R383, R428, R440: a row of a tensor map stands ROWB bytes after the one before it, the row number taken modulo
ROWS. TMAP writes its handle; LDT loads a lane vector through that handle as LDB does, and STT stores one as STB does: at the
own station at once, else by a request that is sent. A malformed map, an offset of 65,536 or more, and for LDT and STT a signal
handle are ILLEGAL with DETAIL 2; a wrong offset is MISALIGNED; a handle that does not resolve is stale. -/
def Obligations.TensorMapRows : Prop :=
  ∀ (s : State) (x : Machine.Unit) (d : Dst) (vd vs : VReg) (sn : SReg) (idx : Src),
    let u := s.cur.unit
    let hv := x.sReg sn
    let geo := x.sReg (pairOf sn)
    let rowb := geo.toNat % 2 ^ 16
    let rows := geo.toNat / 2 ^ 16 % 2 ^ 16
    let off := hv.toNat % 2 ^ 16 + (s.opVal x idx).toNat % rows * rowb
    let rv := w64 (hv.toNat - hv.toNat % 2 ^ 16 + off)
    let sound : Prop := geo.toNat < 2 ^ 32 ∧ rows ≠ 0 ∧ rowb ≠ 0 ∧ rowb % 4 = 0 ∧ off < 65536
    let t := s.taken [idx]
    let own : Prop := hStn hv = stnOf u
    let lanes := (List.range x.lanes).filter fun j => (t.lmNow u x).getLsbD j
    let bs : List (Nat × Byte) := lanes.flatMap fun j =>
      (List.range 4).map fun k => (off + 4 * j + k, BitVec.ofNat 8 ((x.vLane vs j).toNat >>> (8 * k)))
    let seen := (List.range (x.lanes * 4)).map fun k => off + k
    let land := x.landOf (t.lmNow u x) (.v vd)
    (s.Fires (.tmap d sn idx) x →
      (sound → exec (.tmap d sn idx) s = .next (t.finish u s.cur.upd d 0 rv 1)) ∧
      (¬ sound → exec (.tmap d sn idx) s = .next (s.raised (illegal 2)))) ∧
    (s.Fires (.ldt vd sn idx) x →
      (¬ sound ∨ isSignalHandle hv = true → exec (.ldt vd sn idx) s = .next (s.raised (illegal 2))) ∧
      (sound → isSignalHandle hv = false →
        ((∀ b, t.resolveBlock x.ctx rv ≠ .ok b) → exec (.ldt vd sn idx) s = .next (s.raised (stale rv))) ∧
        ∀ b, t.resolveBlock x.ctx rv = .ok b →
          (off % 4 ≠ 0 → exec (.ldt vd sn idx) s = .next (s.raised (misaligned 0))) ∧
          (off % 4 = 0 → own → exec (.ldt vd sn idx) s = .next (s.loadHere (t.noteOor u rv b seen) x land
            ((List.range (x.lanes * 4)).map fun k => t.blockByte (stnOf u) b (off + k)))) ∧
          (off % 4 = 0 → ¬ own → exec (.ldt vd sn idx) s = .next (s.loadSent (t.noteOor u rv b seen) x land
            (.blockRead rv [off] (x.lanes * 4) land))))) ∧
    (s.Fires (.stt vs sn idx) x →
      (¬ sound ∨ isSignalHandle hv = true → exec (.stt vs sn idx) s = .next (s.raised (illegal 2))) ∧
      (sound → isSignalHandle hv = false →
        ((∀ b, t.resolveBlock x.ctx rv ≠ .ok b) → exec (.stt vs sn idx) s = .next (s.raised (stale rv))) ∧
        ∀ b, t.resolveBlock x.ctx rv = .ok b →
          (off % 4 ≠ 0 → exec (.stt vs sn idx) s = .next (s.raised (misaligned 0))) ∧
          (off % 4 = 0 → own → ∃ t', exec (.stt vs sn idx) s = .next t' ∧
            t' = s.doneWith ((t.noteOor u rv b (bs.map (·.1))).blockPut (stnOf u) b bs) ∧
            ∀ j k, j < x.lanes → (t.lmNow u x).getLsbD j = true → k < 4 → off + 4 * j + k < 32 * 2 ^ b.k →
              Memory.read t'.scratch (stnOf u * 2 ^ 22 + 32 * b.first + (off + 4 * j + k))
                = BitVec.ofNat 8 ((x.vLane vs j).toNat >>> (8 * k))) ∧
          (off % 4 = 0 → ¬ own → exec (.stt vs sn idx) s = .next (s.doneWith
            ((t.noteOor u rv b (bs.map (·.1))).send u (.blockWrite rv bs)).1))))

/-- R6, R15 to R17, R19, R27, R60, R61, R183, R196, R279: a turn of a unit whose region or core runs and whose turn of this
cycle is still to come. An idle sequenced unit fetches the eight bytes at its program counter: if they decode to an instruction,
no encoding is reserved in this unit, every channel that it names is bound and the guard holds, step is exec of that
instruction; where the guard does not hold, the unit goes on behind the word, also where the word is not available to the unit,
which is the model's choice (log entry 77). A program counter outside the store is ILLEGAL with DETAIL 4, a word with TEN = 1
with DETAIL 3, a reserved encoding with DETAIL 0, a channel that is not bound with DETAIL 1, whatever the guard. An idle
triggered unit runs the lowest-numbered ready slot's instruction. An instruction that waits is carried on by exec of it, where
its access is not withheld, and no earlier one of its port is still to be repeated. A triggered unit that is blocked, before or
behind that, fires its lowest-numbered ready RELEASE slot; else nothing more happens. Around exec, step passes the cycles before
the turn, lands what a depot core's mailbox holds, and notes that the unit's turn of this cycle is taken; a turn whose request
at an allocator would come behind one of a higher entry of its cycle is not taken (R87). -/
def Obligations.StepRunsDecodedInstruction : Prop :=
  ∀ (s : State) (x : Machine.Unit) (u : Nat) (dts ddts : List Nat) (ts : List Turn),
    s.agenda = ⟨dts, ddts, .unit u⟩ :: ts → s.power.runs = true →
    let s0 := s.afterCycles ts dts ddts
    let s1 := s0.landCore u (s0.clockOf u)
    let t := s1.takeTurn u
    let ends (r : Host.Outcome State Fault Refusal) : Prop := step s = s1.endTurn u r ∧
      ∀ t', r = .next t' → step s = .next (if s1.late t' u then s1 else t'.landCore u (t'.clockOf u + 1))
    let first (y : Machine.Unit) (n : Nat) (i : IWord) : Prop := ∃ w, y.slots[n]? = some w ∧ y.enable.getLsbD n = true ∧
      decode (leBytes 8 w.toNat) = .ok (i, []) ∧ y.slotReady i = true ∧
      ∀ m, m < n → ∀ v j, y.slots[m]? = some v → y.enable.getLsbD m = true → decodeWord v = .ok j → y.slotReady j = false
    let noSlot (y : Machine.Unit) : Prop :=
      ∀ m v j, y.slots[m]? = some v → y.enable.getLsbD m = true → decodeWord v = .ok j → y.slotReady j = false
    let bypass (r : State) (y : Machine.Unit) : Prop :=
      (∀ n i, y.mode = .triggered → first y n i → (∃ h, i.instr = .release h) ∧
        ends (exec i.instr (r.begin ⟨u, n, i.guard.test, i.upd, none⟩))) ∧
      (y.mode = .sequenced ∨ noSlot y → ends (.next (r.onUnit u fun y => y)))
    s1.unit? u = some x → s1.inTurn u x = true →
    (s1.canTurn u x = true → x.blocked = none →
      (∀ (w : W64) (i : IWord) (rest : List Byte), x.mode = .sequenced → t.fetch u x = some w → w.getLsbD 47 = false →
        decode (leBytes 8 w.toNat) = .ok (i, rest) → (isCore u && relvyReserved i.instr) = false →
        t.reservedHere u x i.instr = false → x.bound i.instr.srcs i.instr.outs = true →
        (x.guardOk i.guard = true → ends (exec i.instr (t.begin ⟨u, 0, none, i.upd, none⟩))) ∧
        (x.guardOk i.guard = false → ends (.next (t.onUnit u fun y => { y with pc := y.pc + 1 })))) ∧
      (x.mode = .sequenced → storeSize u ≤ x.pc → ends (.next (t.raise u 0 (illegal 4)))) ∧
      (∀ w, x.mode = .sequenced → t.fetch u x = some w →
        (w.getLsbD 47 = true → ends (.next (t.raise u 0 (illegal 3)))) ∧
        (w.getLsbD 47 = false → (∀ i, decodeWord w ≠ .ok i) → ends (.next (t.raise u 0 (illegal 0)))) ∧
        (∀ i, w.getLsbD 47 = false → decodeWord w = .ok i →
          ((isCore u && relvyReserved i.instr) = true ∨ t.reservedHere u x i.instr = true →
            ends (.next (t.raise u 0 (illegal 0)))) ∧
          ((isCore u && relvyReserved i.instr) = false → t.reservedHere u x i.instr = false →
            x.bound i.instr.srcs i.instr.outs = false → ends (.next (t.raise u 0 (illegal 1)))))) ∧
      (∀ n i, x.mode = .triggered → first x n i → ends (exec i.instr (t.begin ⟨u, n, i.guard.test, i.upd, none⟩)))) ∧
    (∀ (i : Instr) (c : Captured), s1.canTurn u x = true ∨ s1.runsOn u x = true → x.blocked = some (.again i c) → c.hold = none →
      t.mayRepeat u = true →
      let r := exec i ((t.repeated u).begin ⟨u, c.slot, none, .none, some c⟩)
      ((∀ t', r ≠ .next t') → ends r) ∧
      ∀ t' y, r = .next t' → t'.unit? u = some y →
        (y.blocked = none ∨ t'.canTurn u y = false → ends (.next t')) ∧
        (y.blocked ≠ none → t'.canTurn u y = true → bypass t' y)) ∧
    (∀ b, s1.canTurn u x = true → x.blocked = some b →
      (∀ i c, b = .again i c → c.hold ≠ none ∨ t.mayRepeat u = false) → bypass t x)

/-- R20, R21, R183, R241, R242, R322: with core power removed, or the module held in reset, nothing happens but a power-on or a
conventional reset; a unit that is not there, whose turn of this cycle is taken, or that is stopped, halted, gated or busy takes
no turn, but that in a region that is being drained a unit that is not busy, and has nothing to run to completion (R271, R341,
R365, R374), takes a token of its lowest channel that holds one into DISCARD, its own configuration not running any more; an
event's turn is exec of that event. -/
def Obligations.TurnsThatDoNothing : Prop :=
  ∀ (s : State) (x : Machine.Unit) (u : Nat) (dts ddts : List Nat) (ts : List Turn) (i : Instr),
    let s0 := s.afterCycles ts dts ddts
    let s1 := s0.landCore u (s0.clockOf u)
    let wake : Prop := ∃ v fs, i = .powerOnReset v fs ∨ i = .conventionalReset v fs
    (s.agenda = ⟨dts, ddts, .unit u⟩ :: ts → s.power.runs = false → step s = .next s0) ∧
    (s.agenda = ⟨dts, ddts, .event i⟩ :: ts → s.power.runs = false → ¬ wake → step s = .next s0) ∧
    (s.agenda = ⟨dts, ddts, .event i⟩ :: ts → s.power.runs = true ∨ wake → i.avail = none → step s = exec i s0) ∧
    (s.agenda = ⟨dts, ddts, .unit u⟩ :: ts → s.power.runs = true → s1.unit? u = none → step s = .next s1) ∧
    (s.agenda = ⟨dts, ddts, .unit u⟩ :: ts → s.power.runs = true → s1.unit? u = some x →
      (s1.inTurn u x = false → step s = .next s1) ∧
      (s1.draining x = false ∨ isCore u = true →
        (x.halted = true ∨ x.gated = true ∨ x.busy.isSome = true) → x.mustFinish = false → step s = .next s1) ∧
      (s1.draining x = false ∨ isCore u = true → x.stopped = true → step s = .next s1) ∧
      (isCore u = false → s1.draining x = true → s1.inTurn u x = true → x.busy = none → x.mustFinish = false →
        ((∀ b ∈ x.inbox, b.2.q = []) → step s = .next (s1.takeTurn u)) ∧
        (∀ p b q, x.inbox = p ++ b :: q → (∀ e ∈ p, e.2.q = []) → b.2.q ≠ [] →
          step s = .next ((s1.takeTurn u).dequeue u b.1))))

/-- R59, R453: an instruction that is not available to its unit, a privileged one outside a firmware context, or one that names
a channel with no arc raises ILLEGAL with DETAIL 1; R15, R27: one that names an empty channel waits; R353: a word of sequenced
code that names a register whose load has not landed waits. -/
def Obligations.ReadinessOfAWord : Prop :=
  ∀ (s : State) (x : Machine.Unit) (i : Instr) (a : Avail), s.unit? s.cur.unit = some x → i.avail = some a → s.cur.cap = none →
    (s.available s.cur.unit x a = false → exec i s = .next (s.raise s.cur.unit s.cur.slot (illegal 1))) ∧
    (s.available s.cur.unit x a = true → x.bound i.srcs i.outs = false →
      exec i s = .next (s.raise s.cur.unit s.cur.slot (illegal 1))) ∧
    (s.available s.cur.unit x a = true → x.bound i.srcs i.outs = true → x.operandsReady i = false → exec i s = .next s) ∧
    (s.available s.cur.unit x a = true → x.bound i.srcs i.outs = true → x.operandsReady i = true →
      x.isSeq = true → x.hazard i.reads i.writes = true → exec i s = .next s)

/-- R45 to R58: the words that the specification writes out stand for the instructions that it names. -/
def Obligations.WordsOfTheSpecification : Prop :=
  decodeTableWord 64 0x0000000020C04094 = some (.add .i16 true (.v 3) (.v 1) (.v 2)) ∧
  decodeTableWord 64 0x0000000AC0090040 = some (.stb (.s 4) (.v 1)) ∧
  decodeTableWord 64 0x00000016A87FFFFB = some (.loop 1 (BitVec.ofInt 22 (-5))) ∧
  decodeTableWord 64 0x00000016E0000000 = some .eret ∧
  decodeTableWord 64 0x000000178009C002 = some (.wait .dcnt (.s 7)) ∧
  decodeTableWord 64 0x00000017802A0000 = some (.wait .cyc (.imm 40))

/-- R45 to R58: encoding a well-formed word and decoding its eight bytes gives the word back, with every operand at every value
that the encoding admits. R45 to R58: each word has one meaning: what decodes to an instruction is that instruction's encoding,
and it is well formed. -/
def Obligations.EncodingRoundTrips : Prop :=
  (∀ (i : IWord) (rest : List Byte), i.wf = true →
    ∃ w, encode i = some w ∧ decode (leBytes 8 w.toNat ++ rest) = .ok (i, rest)) ∧
  (∀ (w : W64) (i : IWord), decodeWord w = .ok i → i.wf = true ∧ encode i = some w)

/-- R46, R57, R60: a word whose guard or update breaks R46 is refused as such, one whose OPC is not assigned as a reserved
opcode; every other refusal is that of a reserved field. HALT, RET, ERET and WSWAP, whose fields are all 0 but the guard (R358,
R372, R413, R449), are refused with a predicate update; that this makes a reserved encoding is the model's reading (log entry
96). -/
def Obligations.ReservedEncodingsAreRefused : Prop :=
  ∀ w : W64,
    let r := Raw.ofNat w.toNat
    let assigned : Prop := r.opc ≤ 0x15 ∨ (0x20 ≤ r.opc ∧ r.opc ≤ 0x2E) ∨ (0x30 ≤ r.opc ∧ r.opc ≤ 0x3C) ∨
      (0x40 ≤ r.opc ∧ r.opc ≤ 0x4A) ∨ (0x50 ≤ r.opc ∧ r.opc ≤ 0x5B) ∨ (0x60 ≤ r.opc ∧ r.opc ≤ 0x68) ∨
      (0x70 ≤ r.opc ∧ r.opc ≤ 0x79) ∨ (0x80 ≤ r.opc ∧ r.opc ≤ 0x88) ∨ (0x90 ≤ r.opc ∧ r.opc ≤ 0x9D) ∨
      (0xA0 ≤ r.opc ∧ r.opc ≤ 0xAD) ∨ (0xB0 ≤ r.opc ∧ r.opc ≤ 0xBC) ∨ (0xC0 ≤ r.opc ∧ r.opc ≤ 0xC9)
    let badGuard : Prop := (∃ k, (r.pval.testBit k = true ∧ r.pcare.testBit k = false)) ∨
      (r.ten = 0 ∧ (r.tch ≠ 0 ∨ r.tag ≠ 0)) ∨ (r.pupm = 0 ∧ r.pupi ≠ 0)
    (¬ badGuard → r.opc = 0xBA ∨ r.opc = 0xB4 ∨ r.opc = 0xB7 ∨ r.opc = 0x91 → r.pupm ≠ 0 →
      decodeWord w = .error .reservedField) ∧
    (badGuard → decodeWord w = .error .reservedGuard) ∧
    (¬ badGuard → ¬ assigned → decodeWord w = .error .reservedOpcode) ∧
    (¬ badGuard → assigned → (∃ i, decodeWord w = .ok i) ∨ decodeWord w = .error .reservedField)

/-- R34, R76, R97, R194, R198, R206, R318, R322: what reset leaves. R122 gives the bank scale 1.0 at a claim only: that the
banks of a junction that no configuration has claimed hold it too is the model's choice (log entry 3). -/
def Obligations.ResetState : Prop :=
  State.reset.power = .up ∧ (∀ n, (State.reset.station n).gen = 1) ∧ (∀ n, State.reset.signal n = 0) ∧
    (∀ n, (State.reset.station n).blocks = []) ∧ (∀ q, (State.reset.queueAt q).st = .disabled) ∧
    (∀ q, ((State.reset.queueAt q).head, (State.reset.queueAt q).tail) = (0, 0)) ∧
    (∀ p, (State.reset.part p).migth = 256) ∧ (∀ p, (State.reset.part p).wdlimit = 2 ^ 26) ∧
    (∀ p, (State.reset.part p).fslimit = 2 ^ 28) ∧ (∀ p, (State.reset.part p).st = .absent) ∧
    (∀ p, (State.reset.mainPort p).lanes = 0xFF) ∧ (∀ u, State.reset.unit? u = none) ∧
    (∀ n, (State.reset.junction n).bank0.scale = 0x3F800000) ∧ (∀ n, (State.reset.junction n).bank1.scale = 0x3F800000)

/-- The model's choice (the canonical form of memory): it holds at reset, where no memory lists anything. -/
def Obligations.MemoryFormAtReset : Prop := State.reset.memWf = true ∧ ∀ k a, Memory.read (State.reset.memOf k) a = 0

/-- The model's choice (the canonical form of memory): every step keeps it. -/
def Obligations.MemoryFormKept : Prop :=
  ∀ s s' : State, s.memWf = true → step s = .next s' → s'.memWf = true

/-- R234: a fault whose outcome is Handler, at a word of a unit whose handler is enabled and free, writes the cause, the address
and the word, sets HM and goes to HVEC; nothing else of the machine changes. R231: SY.CAUSE holds CODE in bits 7 to 0 and DETAIL
in bits 15 to 8. R243, R246: in a region that is being drained no handler is entered: the fault is counted, and the access that
met it is withdrawn. -/
def Obligations.HandlerEntry : Prop :=
  ∀ (s : State) (u slot : Nat) (x : Machine.Unit) (t : Trap), s.unit? u = some x →
    (isCore u = true ∨ s.draining x = false → x.mode = .sequenced →
      x.sys.hen = true → x.sys.hm = false → x.sys.hvec.toNat < storeSize u →
      t.code ∉ [Code.tablePlacement, .allocStall, .storeOverflow, .spillFault, .keyRevoked, .collAbandon, .serviceTimeout] →
      s.raise u slot t = s.putUnit u { x with
        pc := x.sys.hvec.toNat
        sys := { x.sys with
          cause := BitVec.ofNat 64 (t.detail % 256 * 256 + t.code.num)
          faddr := t.addr
          epc := BitVec.ofNat 64 (x.pc % 2 ^ 15)
          hm := true } }) ∧
    (isCore u = false → s.draining x = true → ∀ c, s.context? x.ctx = some c →
      s.raise u slot t = ({ s with contexts := Tab.put s.contexts x.ctx { c with drainFaults := c.drainFaults + 1 } }).putUnit u
        { x with blocked := none, blockedUpd := .none })

/-- R227, R231, R233, R234, R241: a fault of a triggered unit, of one whose handler is off or in use, or of one whose HVEC lies
outside its store stops the unit with its fault written, and with it the region: resident where its commit index is unrevocable,
else to be discarded and saved; of a depot core, the core's kernel. A fault in a handler stops the unit, one of the codes that
are otherwise fatal too. A code of outcome Handler whose HVEC lies outside the store leaves ILLEGAL with DETAIL 4 as the cause,
which is the model's choice (log entry 20). -/
def Obligations.FaultsThatStop : Prop :=
  ∀ (s : State) (u slot : Nat) (x : Machine.Unit) (t : Trap), s.unit? u = some x →
    t.code ∉ [Code.collAbandon, .serviceTimeout] →
    (x.sys.hm = true ∨ t.code ∉ [Code.tablePlacement, .allocStall, .storeOverflow, .spillFault, .keyRevoked]) →
    (x.mode = .triggered ∨ x.sys.hen = false ∨ x.sys.hm = true ∨ storeSize u ≤ x.sys.hvec.toNat) →
    let entered : Prop := x.mode = .sequenced ∧ x.sys.hen = true ∧ x.sys.hm = false
    let stops (e : State) : Prop := ∃ y : Machine.Unit, e.unit? u = some y ∧ y.stopped = true ∧
      (entered → y.sys.cause = 0x401) ∧
      (¬ entered → y.sys.faddr = t.addr ∧ y.sys.cause.toNat =
        (if x.mode = .sequenced then 0 else slot % 16) * 2 ^ 20 + t.detail % 256 * 256 + t.code.num) ∧
      y.sys.epc.toNat = (if x.mode = .sequenced then x.pc % 2 ^ 15 else 0) ∧ y.pc = x.pc ∧ y.s = x.s ∧ y.v = x.v ∧ y.p = x.p
    (isCore u = true → stops (s.raise u slot t) ∧ ((s.raise u slot t).core (coreOf u)).st = .stopped) ∧
    (isCore u = false → ∀ r, s.region? x.region = some r → (r.st = .running ∨ r.st = .switching) →
      stops (s.raise u slot t) ∧
      (r.unrevocable (s.commitIndex x.region) = true →
        (s.raise u slot t).region? x.region =
          some { r with st := .stoppedResident, stopCyc := some (s.dieNow r.die), service := none }) ∧
      (r.unrevocable (s.commitIndex x.region) = false → (s.raise u slot t).region? x.region =
        some { r with st := .switching, discard := true, after := .stoppedSaved, stopCyc := some (s.dieNow r.die),
                      service := none }))

/-- R335, R358, R441: TRAP and BKPT raise their codes with DETAIL n; ERET goes to SY.EPC and clears HM, and is ILLEGAL with
DETAIL 5 outside a handler and with DETAIL 4 for an address outside the store. What its word's predicate update does is the
model's reading: it is applied, and no word that decodes to an ERET carries one (log entry 96). R358: ERET stands for the word
that R358 writes out, and sequenced units and depot cores may hold it. -/
def Obligations.TrapsAndReturns : Prop :=
  (∀ (s : State) (x : Machine.Unit) (n : BitVec 6),
    let u := s.cur.unit
    let pc := x.sys.epc.toNat % 2 ^ 15
    (s.Fires (.trap n) x → exec (.trap n) s = .next (s.raised ⟨.trap, n.toNat, 0⟩)) ∧
    (s.Fires (.bkpt n) x → exec (.bkpt n) s = .next (s.raised ⟨.bkpt, n.toNat, 0⟩)) ∧
    (s.Fires .eret x → x.sys.hm = false → exec .eret s = .next (s.raised (illegal 5))) ∧
    (s.Fires .eret x → x.sys.hm = true → storeSize u ≤ pc → exec .eret s = .next (s.raised (illegal 4))) ∧
    (s.Fires .eret x → x.sys.hm = true → pc < storeSize u →
      exec .eret s = .next (s.jumpTo ((s.taken []).onUnit u fun y => { y with sys := { y.sys with hm := false } }) pc))) ∧
  (decodeTableWord 64 0x00000016E0000000 = some .eret ∧ Instr.eret.avail = some ⟨false, true, true, false⟩)

/-- R27, R47, R336, R384: BR goes to PC plus its immediate and BRI to the word that its operand names; LOOP decrements its count
and branches unless the count is then 0. A target that is to be taken and lies outside the store is ILLEGAL with DETAIL 4 and
changes nothing, the count included. That a LOOP that does not branch checks no target is the model's reading of R384 (log entry
45). -/
def Obligations.Branches : Prop :=
  ∀ (s : State) (x : Machine.Unit) (imm : BitVec 22) (a : Src) (n : SReg),
    let u := s.cur.unit
    let rel : Int := (x.pc : Int) + imm.toInt
    let inside : Prop := 0 ≤ rel ∧ rel < storeSize u
    (s.Fires (.br imm) x → inside → exec (.br imm) s = .next (s.jumpTo (s.taken []) rel.toNat)) ∧
    (s.Fires (.br imm) x → ¬ inside → exec (.br imm) s = .next (s.raised (illegal 4))) ∧
    (s.Fires (.bri a) x → (s.opVal x a).toNat < storeSize u →
      exec (.bri a) s = .next (s.jumpTo (s.taken [a]) (s.opVal x a).toNat)) ∧
    (s.Fires (.bri a) x → storeSize u ≤ (s.opVal x a).toNat → exec (.bri a) s = .next (s.raised (illegal 4))) ∧
    (s.Fires (.loop n imm) x → x.sReg n ≠ 1 → inside → exec (.loop n imm) s =
      .next (s.jumpTo ((s.taken []).onUnit u fun y => { y.setS n (y.sReg n - 1) with lastLoop := some n }) rel.toNat)) ∧
    (s.Fires (.loop n imm) x → x.sReg n = 1 → exec (.loop n imm) s =
      .next (s.jumpTo ((s.taken []).onUnit u fun y => { y.setS n 0 with lastLoop := some n }) (x.pc + 1))) ∧
    (s.Fires (.loop n imm) x → x.sReg n ≠ 1 → ¬ inside → exec (.loop n imm) s = .next (s.raised (illegal 4)))

/-- R77, R235, R339, R413: CALL and CALLI push the address of the next word and go to their target; RET pops the newest address.
The store holds 16 entries: with 16 held the oldest goes to the slot that SY.RSPILL names, and with none held a spilled one
comes back from there. STACK_LIMIT, RET_EMPTY, a target outside the store (ILLEGAL with DETAIL 4), and in a fabric unit a signal
handle (ILLEGAL with DETAIL 2) or a stale handle in SY.RSPILL, leave everything as it was. The 15 bits of a pushed address
behind the last word of a depot core's store are the model's choice (log entry 80), and so it is that a spill or a refill is
done at once within CALL or RET, in another station's block too (log entry 47). -/
def Obligations.CallsAndReturns : Prop :=
  ∀ (s : State) (x : Machine.Unit) (imm : BitVec 22) (a : Src),
    let u := s.cur.unit
    let rel : Int := (x.pc : Int) + imm.toInt
    let inside : Prop := 0 ≤ rel ∧ rel < storeSize u
    let ret := BitVec.ofNat 15 (x.pc + 1)
    let off := spillOff u x
    let size := if isCore u then 2 ^ 20 else 2 ^ 16
    let back := (off + size - 8) % size
    let spill := x.sys.rspill
    let noBlock (t : State) : Prop := isSignalHandle spill = false ∧ ∀ b, t.resolveBlock x.ctx spill ≠ .ok b
    let bytes : List (Nat × Byte) :=
      (List.range 8).map fun k => (off + k, BitVec.ofNat 8 ((x.rstack.getLastD 0).toNat >>> (8 * k)))
    let calls (i : Instr) (t : State) (pc : Nat) : Prop :=
      let spilled (t' : State) : Prop := exec i s = .next (s.jumpTo (t'.onUnit u fun y => { y with
        rstack := ret :: y.rstack.dropLast
        sys := { y.sys with rspill := withSpillOff u y.sys.rspill (off + 8), spilled := y.sys.spilled + 1 } }) pc)
      (x.rstack.length < 16 →
        exec i s = .next (s.jumpTo (t.onUnit u fun y => { y with rstack := ret :: y.rstack }) pc)) ∧
      (16 ≤ x.rstack.length → spillLimit u x < off + 8 → exec i s = .next (s.raised ⟨.stackLimit, 0, spill⟩)) ∧
      (16 ≤ x.rstack.length → off + 8 ≤ spillLimit u x →
        (isCore u = true → spilled ((t.noteLocal u (bytes.map (·.1))).localPut (coreOf u) bytes)) ∧
        (isCore u = false → isSignalHandle spill = true → exec i s = .next (s.raised (illegal 2))) ∧
        (isCore u = false → noBlock t → exec i s = .next (s.raised (stale spill))) ∧
        (isCore u = false → isSignalHandle spill = false → ∀ b, t.resolveBlock x.ctx spill = .ok b →
          spilled ((t.noteOor u spill b (bytes.map (·.1))).blockPut (hStn spill) b bytes)))
    let refills (t' : State) (v : Nat) : Prop :=
      (v % 2 ^ 15 < storeSize u → exec .ret s = .next (s.jumpTo (t'.onUnit u fun y => { y with
        sys := { y.sys with rspill := withSpillOff u y.sys.rspill back, spilled := y.sys.spilled - 1 } }) (v % 2 ^ 15))) ∧
      (storeSize u ≤ v % 2 ^ 15 → exec .ret s = .next (s.raised (illegal 4)))
    let t := s.taken []
    let slots := (List.range 8).map (back + ·)
    (s.Fires (.call imm) x → ¬ inside → exec (.call imm) s = .next (s.raised (illegal 4))) ∧
    (s.Fires (.call imm) x → inside → calls (.call imm) t rel.toNat) ∧
    (s.Fires (.calli a) x → storeSize u ≤ (s.opVal x a).toNat → exec (.calli a) s = .next (s.raised (illegal 4))) ∧
    (s.Fires (.calli a) x → (s.opVal x a).toNat < storeSize u → calls (.calli a) (s.taken [a]) (s.opVal x a).toNat) ∧
    (s.Fires .ret x → ∀ b rest, x.rstack = b :: rest →
      (b.toNat < storeSize u →
        exec .ret s = .next (s.jumpTo (t.onUnit u fun y => { y with rstack := rest }) b.toNat)) ∧
      (storeSize u ≤ b.toNat → exec .ret s = .next (s.raised (illegal 4)))) ∧
    (s.Fires .ret x → x.rstack = [] → x.sys.spilled = 0 → exec .ret s = .next (s.raised ⟨.retEmpty, 0, 0⟩)) ∧
    (s.Fires .ret x → x.rstack = [] → x.sys.spilled ≠ 0 →
      (isCore u = true → refills (t.noteLocal u slots) (ofBytes (t.localBytes (coreOf u) back 8))) ∧
      (isCore u = false → isSignalHandle spill = true → exec .ret s = .next (s.raised (illegal 2))) ∧
      (isCore u = false → noBlock t → exec .ret s = .next (s.raised (stale spill))) ∧
      (isCore u = false → isSignalHandle spill = false → ∀ b, t.resolveBlock x.ctx spill = .ok b →
        refills (t.noteOor u spill b slots) (t.blockNat (hStn spill) b back 8)))

/-- R39, R65, R96, R231 to R233, R407, R436: what SYSRD gives and what SYSWR changes. A write of a read-only register, or of
SY.MIGTH outside the pager configuration and firmware contexts, is ILLEGAL with DETAIL 0. What SY.PART gives is the model's
choice (log entry 68), and so are the bits of SY.CAUSE and SY.EPC that a write takes and UNREV = 0 in a depot core (log entry
46). -/
def Obligations.SystemRegisters : Prop :=
  ∀ (s : State) (x : Machine.Unit) (n : SReg) (a : Src) (reg : SysReg),
    let u := s.cur.unit
    let v := s.opVal x a
    let t := s.taken [a]
    let mayMigth : Bool := t.isFirmware x.ctx || (!isCore u && match Tab.find t.partitions x.part with
      | some p => p.pager == stnOf u
      | none => false)
    (s.Fires (.sysrd reg n) x → exec (.sysrd reg n) s = .next ((s.taken []).finish u s.cur.upd (.s n) 0 (match reg with
      | .cause => x.sys.cause
      | .faddr => x.sys.faddr
      | .ivec => x.sys.ivec
      | .oor => x.sys.oor
      | .epc => x.sys.epc
      | .status => BitVec.ofNat 64 ((if x.sys.replay then 2 ^ 36 else 0) + (if (s.taken []).unrevNow u x then 2 ^ 35 else 0)
          + (if x.sys.hm then 2 ^ 33 else 0) + (if x.sys.hen then 2 ^ 32 else 0) + x.sys.hvec.toNat)
      | .prio => BitVec.ofNat 64 ((s.taken []).eclassOf u x * 4 + x.sys.bclass.toNat)
      | .nstn => BitVec.ofNat 64 x.nstn
      | .rsdepth => BitVec.ofNat 64 (x.sys.spilled.toNat * 32 + x.rstack.length)
      | .rspill => x.sys.rspill
      | .rslimit => x.sys.rslimit
      | .migth => ((s.taken []).part x.part).migth.setWidth 64
      | .part => x.sys.partNo.getD (BitVec.ofNat 64 x.part)) 1)) ∧
    (s.Fires (.syswr reg a) x → reg ∈ [SysReg.faddr, .ivec, .nstn, .rsdepth, .part] →
      exec (.syswr reg a) s = .next (s.raised (illegal 0))) ∧
    (s.Fires (.syswr .migth a) x → mayMigth = false → exec (.syswr .migth a) s = .next (s.raised (illegal 0))) ∧
    (s.Fires (.syswr .migth a) x → mayMigth = true → exec (.syswr .migth a) s =
      .next (s.doneWith (t.setPart x.part { t.part x.part with migth := v.setWidth 16 }))) ∧
    (s.Fires (.syswr reg a) x → reg ∈ [SysReg.cause, .oor, .epc, .status, .prio, .rspill, .rslimit] →
      exec (.syswr reg a) s = .next (s.doneWith (t.onUnit u fun y => match reg with
        | .cause => { y with sys := { y.sys with cause := v &&& 0x0000000000F0FFFF#64 } }
        | .oor => { y with sys := { y.sys with oor := v } }
        | .epc => { y with sys := { y.sys with epc := v &&& 0x7FFF#64 } }
        | .status => { y with sys := { y.sys with hen := v.getLsbD 32, hvec := v.setWidth 15 } }
        | .prio => { y with sys := { y.sys with bclass := BitVec.ofNat 2 (max (v.toNat % 4) y.qclass.toNat) } }
        | .rspill => { y with sys := { y.sys with rspill := v } }
        | .rslimit => { y with sys := { y.sys with rslimit := v } }
        | _ => y)))

/-- R280, R372, R447: HALT stops issue; WAIT.CYC completes at once for 0 and else holds the unit for its cycles; WAIT.DCNT
completes once DCOUNT is large enough, at its issue or at a later turn; WAIT.LAND waits, and completes at a turn after a landing
that followed its issue; a depot kind in a fabric unit is ILLEGAL with DETAIL 0. -/
def Obligations.HaltsAndWaits : Prop :=
  ∀ (s : State) (x : Machine.Unit) (a : Src) (k : WaitKind),
    let u := s.cur.unit
    let n := (s.opVal x a).toNat
    let t := s.taken [a]
    let count (r : State) : W64 := BitVec.ofNat 64 (r.core (coreOf u)).landings
    (s.Fires .halt x → exec .halt s = .next (s.doneWith ((s.taken []).onUnit u fun y => { y with halted := true }))) ∧
    (s.Fires (.wait .cyc a) x → n % 2 ^ 32 = 0 → exec (.wait .cyc a) s = .next (s.doneWith t)) ∧
    (s.Fires (.wait .cyc a) x → n % 2 ^ 32 ≠ 0 →
      exec (.wait .cyc a) s = .next (s.blockedOn t (.waitCyc (t.clockOf u + n % 2 ^ 32)))) ∧
    (s.Fires (.wait .dcnt a) x → isCore u = true → n ≤ (t.core (coreOf u)).dcount →
      exec (.wait .dcnt a) s = .next (s.doneWith t)) ∧
    (s.Fires (.wait .dcnt a) x → isCore u = true → (t.core (coreOf u)).dcount < n →
      ∃ r, exec (.wait .dcnt a) s = .next r ∧ r.CarriesOn u (.wait .dcnt a) 0) ∧
    (s.Fires (.wait .land a) x → isCore u = true → ∃ r y c, exec (.wait .land a) s = .next r ∧ r.unit? u = some y ∧
      y.blocked = some (.again (.wait .land a) c) ∧ c.phase = 1 ∧ c.hold = none ∧ c.words = [count t]) ∧
    (∀ c, s.Carried (.wait .dcnt a) x c → isCore u = true →
      let r := s.resumed x [a]
      (c.a.toNat ≤ (r.core (coreOf u)).dcount → exec (.wait .dcnt a) s = .next (s.carriedTo x r)) ∧
      ((r.core (coreOf u)).dcount < c.a.toNat →
        ∃ r', exec (.wait .dcnt a) s = .next r' ∧ r'.CarriesOn u (.wait .dcnt a) 0)) ∧
    (∀ c, s.Carried (.wait .land a) x c → isCore u = true → c.phase = 1 →
      let r := s.resumed x [a]
      (c.words.getD 0 0 ≠ count r → exec (.wait .land a) s = .next (s.carriedTo x r)) ∧
      (c.words.getD 0 0 = count r → ∃ r', exec (.wait .land a) s = .next r' ∧ r'.CarriesOn u (.wait .land a) 1)) ∧
    (s.Fires (.wait k a) x → k ≠ .cyc → isCore u = false → exec (.wait k a) s = .next (s.raised (illegal 0)))

/-- R17, R77, R97, R422 to R424: SIGSET writes the operand, SIGCLR zero, SIGADD the sum modulo 2^64, at the unit's own station
at once and at another by a request; SIGTEST gives 1 or 0, for a signal of the own station at once and for another one by a
request whose answer the unit waits for; SIGWAIT goes on where its condition holds and else waits, and while an earlier
operation of the unit on the signal is on its way it is carried on at the unit's next turn; one that waits completes at the
first operation on the signal after which its condition holds. A handle that is no signal handle is ILLEGAL with DETAIL 2 before
it is resolved, which is the model's reading (log entry 21), one that does not resolve stale. That an operation on a signal of
the own station is done within the turn is the model's too (log entry 6). -/
def Obligations.SignalInstructions : Prop :=
  ∀ (s : State) (x : Machine.Unit) (h v : Src) (c : SigCond) (d : Dst),
    let u := s.cur.unit
    let hv := s.opVal x h
    let vv := s.opVal x v
    let n := hSignal hv
    let here : Prop := isCore u = false ∧ n / 1024 = stnOf u
    let t := s.taken [h, v]
    let holds (c : SigCond) (p q : W64) : Bool := match c with
      | .ge => decide (q.toNat ≤ p.toNat)
      | .eq => p == q
      | .ne => p != q
      | .lt => decide (p.toNat < q.toNat)
      | .all => p &&& q == q
      | .any => p &&& q != 0
    let forms (i : Instr) (t : State) (P : Prop) : Prop := s.Fires i x →
      (isSignalHandle hv = false → exec i s = .next (s.raised (illegal 2))) ∧
      (isSignalHandle hv = true → t.signalOk x.part hv = false → exec i s = .next (s.raised (stale hv))) ∧
      (isSignalHandle hv = true → t.signalOk x.part hv = true → P)
    let writes (i : Instr) (t : State) (w : W64) (req : Req) : Prop := forms i t
      ((here → exec i s = .next (s.doneWith ((t.putSignal n w).afterSignal n))) ∧
       (¬ here → exec i s = .next (s.doneWith (t.send u req).1)))
    writes (.sigset h v) t vv (.sigSet n vv) ∧
    writes (.sigclr h) (s.taken [h]) 0 (.sigSet n 0) ∧
    writes (.sigadd h v) t (t.signal n + vv) (.sigAdd n vv) ∧
    forms (.sigtest c d h v) t
      (let bit (A : Type) (one zero : A) : A := if holds c (t.signal n) vv then one else zero
       let asked := t.send u (.sigTest n c vv (x.landOf 0 d))
       let late : Bool := match d with
         | .p m => updNames s.cur.upd m
         | _ => false
       (here → exec (.sigtest c d h v) s = .next (t.finish u s.cur.upd d (bit Nat 1 0) (bit W64 1 0) 1)) ∧
       (¬ here → exec (.sigtest c d h v) s = .next (asked.1.onUnit u fun y => y.block (.answer [asked.2]) s.cur.upd late))) ∧
    forms (.sigwait c h v) t
      ((t.signalQuiet u n = false → ∃ t', exec (.sigwait c h v) s = .next t' ∧ t'.CarriesOn u (.sigwait c h v) 0) ∧
       (t.signalQuiet u n = true → holds c (t.signal n) vv = true → exec (.sigwait c h v) s = .next (s.doneWith t)) ∧
       (t.signalQuiet u n = true → holds c (t.signal n) vv = false →
         exec (.sigwait c h v) s = .next (s.blockedOn t (.signal n c vv)))) ∧
    (∀ cap, s.Carried (.sigwait c h v) x cap → isSignalHandle cap.a = true →
      let r := s.resumed x [h, v]
      let m := hSignal cap.a
      r.signalOk x.part cap.a = true → r.signalQuiet u m = true → holds c (r.signal m) cap.b = true →
        exec (.sigwait c h v) s = .next (s.carriedTo x r)) ∧
    (∀ (w m : Nat) (y : Machine.Unit) (c' : SigCond) (q p : W64), Tab.rising s.units 0 = true → s.unit? w = some y →
      y.blocked = some (.signal m c' q) → ((s.putSignal m p).afterSignal m).unit? w =
        if holds c' p q then some { y.next y.blockedUpd with blocked := none, blockedUpd := .none } else some y)

/-- R36, R39, R369 to R371, R407: joining and leaving a group, the barrier, and PRIO, which never ranks a unit above its queue.
A barrier is reached once the unit's accesses are performed at its scope, at its issue or at a later turn; the last member to
arrive completes it for all, and so does the departure of the last member that others wait for. A group above 4,095, a fifth
membership, a barrier of a group that the unit is no member of and a class above 3 are ILLEGAL with DETAIL 2. -/
def Obligations.GroupsAndPriority : Prop :=
  ∀ (s : State) (x : Machine.Unit) (g : Src) (sc : Scope),
    let u := s.cur.unit
    let t := s.taken [g]
    let k := x.ctx * 4096 + (s.opVal x g).toNat
    let inRange : Prop := (s.opVal x g).toNat ≤ 4095
    let me := x.region * 65536 + u
    let bad (i : Instr) : Prop := exec i s = .next (s.raised (illegal 2))
    let last (r : State) (k : Nat) : Prop := ∀ m ∈ (r.group k).members, m = me ∨ m ∈ (r.group k).arrived
    let completed (r : State) (k : Nat) : State := (r.group k).arrived.foldl (fun (q : State) m => q.unblockMember m)
      { r with groups := Tab.put r.groups k { r.group k with arrived := [] } }
    let waiting (r : State) (k : Nat) : State :=
      { r with groups := Tab.put r.groups k { r.group k with arrived := (r.group k).arrived ++ [me] } }
    (s.Fires (.gjoin g) x → inRange → (t.group k).members.contains me = true →
      exec (.gjoin g) s = .next (s.doneWith t)) ∧
    (s.Fires (.gjoin g) x → inRange → (t.group k).members.contains me = false → t.memberships me < 4 →
      exec (.gjoin g) s = .next (s.doneWith { t with
        groups := Tab.put t.groups k { t.group k with members := (t.group k).members ++ [me] } })) ∧
    (s.Fires (.gjoin g) x → inRange → (t.group k).members.contains me = false → 4 ≤ t.memberships me → bad (.gjoin g)) ∧
    (s.Fires (.gleave g) x → inRange →
      let left : Group := ⟨(t.group k).members.filter (· != me), (t.group k).arrived.filter (· != me)⟩
      ((t.group k).members.contains me = false → exec (.gleave g) s = .next (s.doneWith t)) ∧
      ((t.group k).members.contains me = true → left.members = [] →
        exec (.gleave g) s = .next (s.doneWith { t with groups := Tab.del t.groups k })) ∧
      ((t.group k).members.contains me = true → left.members ≠ [] → (∀ m ∈ left.members, m ∈ left.arrived) →
        exec (.gleave g) s = .next (s.doneWith (left.arrived.foldl (fun (q : State) m => q.unblockMember m)
          { t with groups := Tab.put t.groups k { left with arrived := [] } }))) ∧
      ((t.group k).members.contains me = true → left.members ≠ [] → (∃ m ∈ left.members, m ∉ left.arrived) →
        exec (.gleave g) s = .next (s.doneWith { t with groups := Tab.put t.groups k left }))) ∧
    (s.Fires (.gbar sc g) x → inRange → (t.group k).members.contains me = false → bad (.gbar sc g)) ∧
    (s.Fires (.gbar sc g) x → inRange → (t.group k).members.contains me = true →
      (t.performedAt u sc = false → ∃ t', exec (.gbar sc g) s = .next t' ∧ t'.CarriesOn u (.gbar sc g) 0) ∧
      (t.performedAt u sc = true → last t k → exec (.gbar sc g) s = .next (s.doneWith (completed t k))) ∧
      (t.performedAt u sc = true → ¬ last t k → exec (.gbar sc g) s = .next (s.blockedOn (waiting t k) (.barrier k)))) ∧
    (∀ c, s.Carried (.gbar sc g) x c → c.a.toNat ≤ 4095 →
      let r := s.resumed x [g]
      let j := x.ctx * 4096 + c.a.toNat
      (r.group j).members.contains me = true → r.performedAt u sc = true → last r j →
        exec (.gbar sc g) s = .next (s.carriedTo x (completed r j))) ∧
    (s.Fires (.prio g) x → (s.opVal x g).toNat ≤ 3 → exec (.prio g) s = .next (s.doneWith (t.onUnit u fun y =>
      { y with sys := { y.sys with bclass := BitVec.ofNat 2 (max (s.opVal x g).toNat y.qclass.toNat) } }))) ∧
    (s.Fires (.gjoin g) x → ¬ inRange → bad (.gjoin g)) ∧ (s.Fires (.gleave g) x → ¬ inRange → bad (.gleave g)) ∧
    (s.Fires (.gbar sc g) x → ¬ inRange → bad (.gbar sc g)) ∧
    (s.Fires (.prio g) x → 3 < (s.opVal x g).toNat → bad (.prio g))

/-- R176, R177, R194, R202, R333, R353, R367, R368, R382: LDG and GATH. An address that is not a multiple of the size is
MISALIGNED, for GATH once the live lanes before it have been translated. A fault of the translation is raised by the port, and
an access that finds an invalid entry is withheld, and keeps what it already waits for. Where the access translates and a held
atomic covers it, every held event of the region is to be performed first, and the load is carried on after them. Else the unit
counts as having read the held stores of its region that cover a byte, and those bytes come from them; a load that they cover
whole lands at once unless an earlier access of the unit to such a byte is under way, another is sent to the homes: a triggered
unit waits for its answer, a sequenced one goes on past a load into a register. A load that is carried on does the same. -/
def Obligations.GlobalLoads : Prop :=
  ∀ (s : State) (x : Machine.Unit) (sz : Size) (sx : Bool) (d : Dst) (addr : Src) (ew : Width) (sc : Fin 4) (vd vi : VReg),
    let u := s.cur.unit
    let li := Instr.ldg sz sx d addr
    let gi := Instr.gath ew sx sc vd addr vi
    let bytes := match sz with | .natural => 8 | .b1 => 1 | .b2 => 2 | .b4 => 4
    let n := match d with | .v _ => x.lanes * 4 | _ => bytes
    let align := match d with | .v _ => 4 | _ => bytes
    let wb := match ew with | .w8 => 1 | .w16 => 2 | .w32 => 4 | .w64 => 8
    let waits (i : Instr) : Prop := ∃ t, exec i s = .next t ∧ t.CarriesOn u i 1
    let forced (i : Instr) : Prop :=
      ∃ t, exec i s = .next t ∧ t.CarriesOn u i 1 ∧ ∀ h ∈ t.heldOf x.region, h.due = true
    let ready (t : State) (phase : Nat) : Prop := phase = 1 → t.heldDue x.region = false ∧ t.noInvals u .package = true
    let ldg (t0 : State) (va b : W64) (phase : Nat) (done : State → State) (blk : State → Blocked → State) : Prop :=
      let land : Land := match d with
        | .v r => .v r (t0.lmNow u x)
        | .s r => .s r sx
        | .o c => .o (Tab.get x.outs c.val []) sx
        | _ => .none
      let tr := t0.translateAccess u x wantRead true (loadPieces va.toNat n)
      (∀ t e, tr = (t, .fault e) → exec li s = .next (s.portRaised x li t va b phase e)) ∧
      (∀ t h, tr = (t, .hold h) → ∃ t', exec li s = .next t' ∧ t'.WithheldAt u li phase h) ∧
      ∀ t evs, tr = (t, .ok evs) →
        (t.heldCovers x.region evs true = true → forced li) ∧
        (t.heldCovers x.region evs true = false → ¬ ready t phase → waits li) ∧
        (t.heldCovers x.region evs true = false → ready t phase →
          let q := t.noteSeen x.region u evs
          let os := evs.map (q.overlay x.region)
          let here := os.all Event.covered && !q.unitAhead u os
          let sent := q.send u (.access os none land)
          (here = true → exec li s = .next (done (q.land u land (os.flatMap fun e => e.withOverlay [])))) ∧
          (here = false → landBlocks x.isSeq land = true → exec li s = .next (blk sent.1 (.answer [sent.2]))) ∧
          (here = false → landBlocks x.isSeq land = false → exec li s = .next (done
            (if x.isSeq then sent.1.onUnit u fun y => { y with loads := y.loads ++ [(sent.2, land)] } else sent.1))))
    let gath (t0 : State) (va b : W64) (phase : Nat) (done : State → State) (blk : State → Blocked → State) : Prop :=
      let lane (j : Nat) : W64 := va + ((x.vLane vi j).signExtend 64 <<< sc.val)
      let live := (List.range x.lanes).filter fun j => (t0.lmNow u x).getLsbD j
      let first := live.takeWhile fun j => (lane j).toNat % wb == 0
      let tr := t0.translatePieces u x wantRead true true 0 (first.map fun j => ⟨(lane j).toNat, wb, []⟩)
      (∀ t e, tr = (t, .fault e) → exec gi s = .next (s.portRaised x gi t va b phase e)) ∧
      (∀ t h, tr = (t, .hold h) → ∃ t', exec gi s = .next t' ∧ t'.WithheldAt u gi phase h) ∧
      (∀ t evs j rest, tr = (t, .ok evs) → live = first ++ j :: rest →
        exec gi s = .next (s.trapped (misaligned (lane j)))) ∧
      ∀ t evs, tr = (t, .ok evs) → first = live →
        (t.heldCovers x.region evs true = true → forced gi) ∧
        (t.heldCovers x.region evs true = false → ¬ ready t phase → waits gi) ∧
        (t.heldCovers x.region evs true = false → ready t phase →
          let q := t.noteSeen x.region u ((live.zip evs).map (·.2))
          let sent := q.sendLoads u x.isSeq ((live.zip evs).map fun l => ([q.overlay x.region l.2], Land.lane vd l.1 sx))
          (x.isSeq = true ∨ sent.2 = [] → exec gi s = .next (done sent.1)) ∧
          (x.isSeq = false → sent.2 ≠ [] → exec gi s = .next (blk sent.1 (.answer sent.2))))
    let va := s.opVal x addr
    let t0 := s.taken [addr]
    (s.Fires li x → (va.toNat % align ≠ 0 → exec li s = .next (s.raised (misaligned va))) ∧
      (va.toNat % align = 0 → ldg t0 va (s.opVal x (.sp .zero)) 0 s.doneWith s.blockedOn)) ∧
    (∀ c, s.Carried li x c → c.a.toNat % align = 0 →
      ldg (s.resumed x [addr]) c.a c.b c.phase (s.carriedTo x) (s.carriedBlock x)) ∧
    (s.Fires gi x → gath t0 va (s.opVal x (.v vi)) 0 s.doneWith s.blockedOn) ∧
    (∀ c, s.Carried gi x c → gath (s.resumed x [addr]) c.a c.b c.phase (s.carriedTo x) (s.carriedBlock x))

/-- R176 to R179, R194, R202, R399, R431, R432: STG and SCAT. An address that is not a multiple of the size is MISALIGNED, for
SCAT once the live lanes before it have been translated; a fault of the translation is raised by the port, and a store that the
page withholds waits. Where the access translates, the events of a store in a revocable invocation are held at the port, and
those of one in an unrevocable invocation are sent to their homes; a port that is full gives STORE_OVERFLOW at the event's
address. As long as the port has room, no byte of memory, no line and no signal differs from the state in which the instruction
was executed: the bytes reach their homes later. A store that is carried on does the same. R177: what a port holds: a store of
one byte is merged into the last held event that takes it and that it may be merged into, which is the model's reading of what
may stand between the two (log entry 93); one that meets no held event is held as a new event while the port holds fewer than
2,048, and no more beyond that. The bytes of the new event read as the stored ones to the region's later loads that no earlier
event covers. No memory changes. -/
def Obligations.GlobalStores : Prop :=
  (∀ (s : State) (x : Machine.Unit) (sz : Size) (addr src : Src) (ew : Width) (sc : Fin 4) (vs vi : VReg),
    let u := s.cur.unit
    let si := Instr.stg sz addr src
    let ci := Instr.scat ew sc vs addr vi
    let bytes := match sz with | .natural => 8 | .b1 => 1 | .b2 => 2 | .b4 => 4
    let isV := (vSrc src).isSome
    let n := if isV then x.lanes * 4 else bytes
    let align := if isV then 4 else bytes
    let live (t : State) : List Nat := (List.range x.lanes).filter fun j => (t.lmNow u x).getLsbD j
    let word (k o : Nat) (v : W64) : List (Nat × Byte) := (List.range k).map fun i => (o + i, BitVec.ofNat 8 (v.toNat >>> (8 * i)))
    let wb := match ew with | .w8 => 1 | .w16 => 2 | .w32 => 4 | .w64 => 8
    let want (t : State) : Want := wantWrite.held (!t.unrevocable x.region x.invix)
    let same (t t' : State) : Prop := (t'.dram, t'.host, t'.peer, t'.scratch, t'.sram, t'.lines, t'.signals)
      = (t.dram, t.host, t.peer, t.scratch, t.sram, t.lines, t.signals)
    let accepted (i : Instr) (t : State) (groups : List (List Event)) (done : State → State) : Prop :=
      (t.unrevocable x.region x.invix = true →
        let q := done ((groups.filter fun evs => !evs.isEmpty).foldl (fun (r : State) evs => (r.send u (.access evs none .none)).1) t)
        exec i s = .next q ∧ same s q) ∧
      (t.unrevocable x.region x.invix = false →
        (∀ t', t.holdAll u x .system (groups.flatMap id) = .ok t' → exec i s = .next (done t') ∧ same s (done t')) ∧
        (∀ a, t.holdAll u x .system (groups.flatMap id) = .error a →
          exec i s = .next ((done t).raiseBy (some 2) u ⟨.storeOverflow, 0, BitVec.ofNat 64 a⟩)))
    let stgTr (t0 : State) (va v : W64) : State × PortRes :=
      let stored : List (Nat × Byte) := match vSrc src with
        | some r => (live t0).flatMap fun j => word 4 (4 * j) ((x.vLane r j).setWidth 64)
        | none => word bytes 0 v
      t0.translateAccess u x (want t0) true (storePieces va.toNat n stored)
    let stg (t0 : State) (va v : W64) (done : State → State) : Prop :=
      (∀ t e, stgTr t0 va v = (t, .fault e) → exec si s = .next (s.portRaised x si t va v 0 e)) ∧
      (∀ t h, stgTr t0 va v = (t, .hold h) → ∃ t', exec si s = .next t' ∧ t'.WithheldAt u si 0 h) ∧
      (∀ t evs, stgTr t0 va v = (t, .ok evs) → accepted si t [evs] done)
    let lane (va : W64) (j : Nat) : W64 := va + ((x.vLane vi j).signExtend 64 <<< sc.val)
    let first (t0 : State) (va : W64) : List Nat := (live t0).takeWhile fun j => (lane va j).toNat % wb == 0
    let scatTr (t0 : State) (va : W64) : State × PortRes := t0.translatePieces u x (want t0) true true 0
      ((first t0 va).map fun j => ⟨(lane va j).toNat, wb, (word 4 0 ((x.vLane vs j).setWidth 64)).take wb⟩)
    let scat (t0 : State) (va b : W64) (done : State → State) : Prop :=
      (∀ t e, scatTr t0 va = (t, .fault e) → exec ci s = .next (s.portRaised x ci t va b 0 e)) ∧
      (∀ t evs j rest, scatTr t0 va = (t, .ok evs) → live t0 = first t0 va ++ j :: rest →
        exec ci s = .next (s.trapped (misaligned (lane va j)))) ∧
      (∀ t h, scatTr t0 va = (t, .hold h) → ∃ t', exec ci s = .next t' ∧ t'.WithheldAt u ci 0 h) ∧
      (∀ t evs, scatTr t0 va = (t, .ok evs) → first t0 va = live t0 → accepted ci t (evs.map fun e => [e]) done)
    let va := s.opVal x addr
    let v := s.opVal x src
    let t0 := s.taken [addr, src]
    let t1 := s.taken [addr]
    (s.Fires si x → (va.toNat % align ≠ 0 → exec si s = .next (s.raised (misaligned va))) ∧
      (va.toNat % align = 0 → stg t0 va v s.doneWith)) ∧
    (∀ c, s.Carried si x c → c.a.toNat % align = 0 → stg (s.resumed x [addr, src]) c.a c.b (s.carriedTo x)) ∧
    (s.Fires ci x → scat t1 va (s.opVal x (.v vi)) s.doneWith) ∧
    (∀ c, s.Carried ci x c → scat (s.resumed x [addr]) c.a c.b (s.carriedTo x))) ∧
  (∀ (s : State) (u : Nat) (x : Machine.Unit) (e : Event) (i : Nat) (b : Byte), s.unit? u = some x → e.wr = [(i, b)] → i < e.n →
    let held (r : State) : List Held := ((r.station (stnOf u)).port (portOf u)).held
    let same (t : State) : Prop := (t.dram, t.host, t.peer, t.scratch, t.sram, t.lines, t.signals)
      = (s.dram, s.host, s.peer, s.scratch, s.sram, s.lines, s.signals)
    (∀ pre h post, held s = pre ++ h :: post → h.takes x.region x.invix e = true → s.mayMerge u e h = true →
      (∀ g ∈ post, g.takes x.region x.invix e = true → s.mayMerge u e g = false) →
      ∃ t h', s.hold1 u x e none .system = some t ∧ held t = pre ++ h' :: post ∧
        (e.loc.addr + i - h'.ev.loc.addr, b) ∈ h'.ev.wr ∧ same t) ∧
    ((∀ h ∈ held s, h.ev.overlaps e = false) →
      (2048 ≤ (held s).length → s.hold1 u x e none .system = none) ∧
      ((held s).length < 2048 → ∃ t h, s.hold1 u x e none .system = some t ∧ held t = held s ++ [h] ∧ h.ev = e ∧
        h.region = x.region ∧ h.invoc = x.invix ∧ same t ∧
        ∀ f : Event, (∀ h ∈ s.heldOf x.region, h.ev.overlaps f = false) → f.loc.kind = e.loc.kind →
          f.loc.addr ≤ e.loc.addr + i → e.loc.addr + i < f.loc.addr + f.n →
          (e.loc.addr + i - f.loc.addr, h.order, b) ∈ (t.overlay x.region f).ov)))

/-- R177, R179, R194, R331 to R333, R340, R362, R363: ATOM, CAS and FATOM. An address that is no multiple of the size is
MISALIGNED; a fault of the translation is raised by the port, and an access that finds an invalid entry is withheld, and keeps
what it already waits for. One that returns nothing is held at its port in a revocable invocation at DIE scope or wider
(STORE_OVERFLOW where the port is full), and else sent to its home at once, without blocking: where a held event covers the
location, behind every held event of the region, all of which are to be performed. One that returns the old value makes the
invocation unrevocable at DIE scope or wider, goes on once the held events up to it are performed, and waits for its answer;
where a held event covers the location, every held event of the region is performed first. One that is carried on does the same.
R105, R332, R340, R363: what a read-modify-write puts in a location of n bytes that held `old`: MIN and MAX of FATOM give the
operand that is not a NaN, and of two numbers one that none of them is below or above, with -0 below +0. -/
def Obligations.AtomicInstructions : Prop :=
  (∀ (s : State) (x : Machine.Unit) (op : AtomOp) (fop : FAtomOp) (ft : FTy) (w : Bool) (sc : Scope) (d : Dst) (addr v : Src) (n : SReg),
    let u := s.cur.unit
    let land : Land := match d with
      | .v r => .v r 0
      | .s r => .s r false
      | .o c => .o (Tab.get x.outs c.val []) false
      | _ => .none
    let kept (t : State) : Bool := d == .discard && sc != .region && !t.unrevocable x.region x.invix
    let tr (t0 : State) (a : W64) (size : Nat) : State × PortRes :=
      t0.translateAccess u x (Want.held ⟨true, true, true, sc, false⟩ (kept t0)) true [⟨a.toNat, size, []⟩]
    let body (i : Instr) (t0 : State) (a b : W64) (size : Nat) (rmw : Rmw) (phase : Nat) (done : State → State)
        (blk : State → Blocked → State) : Prop :=
      let ends : Prop := d ≠ .discard ∧ sc ≠ .region
      let waits (k : Nat) (due : Bool) : Prop := ∃ t', exec i s = .next t' ∧ t'.CarriesOn u i k ∧
        (ends → ∀ r, t'.region? x.region = some r → r.unrevocable x.invix = true) ∧
        (due = true → ∀ h ∈ t'.heldOf x.region, h.due = true)
      let before : Prop := ends ∧ (t0.heldUpTo x.region x.invix = true ∨ t0.noInvals u sc = false)
      let covered (evs : List Event) : Prop := t0.heldCovers x.region evs false = true
      let settled : Prop := phase = 2 → t0.heldDue x.region = false ∧ t0.noInvals u .package = true
      (∀ t e, tr t0 a size = (t, .fault e) → exec i s = .next (s.portRaised x i t a b phase e)) ∧
      (∀ t h, tr t0 a size = (t, .hold h) → ∃ t', exec i s = .next t' ∧ t'.WithheldAt u i phase h) ∧
      ∀ t evs, tr t0 a size = (t, .ok evs) →
        (kept t0 = true → ∀ e, evs = [e] →
          (∀ t', t.hold1 u x e (some rmw) sc = some t' → exec i s = .next (done t')) ∧
          (t.hold1 u x e (some rmw) sc = none →
            exec i s = .next ((done t).raiseBy (some 2) u ⟨.storeOverflow, 0, a⟩))) ∧
        (kept t0 = false → d = .discard →
          (t.heldCovers x.region evs false = false → exec i s = .next (done (t.send u (.access evs (some rmw) .none)).1)) ∧
          (t.heldCovers x.region evs false = true → ∃ t' p, exec i s = .next (done t') ∧ (∀ h ∈ t'.heldOf x.region, h.due = true) ∧
            t'.mesh = t.mesh ++ [p] ∧ p.unit = u ∧ p.req = .access evs (some rmw) .none ∧
            p.behind = (t.heldOf x.region).map (·.order))) ∧
        (d ≠ .discard →
          (before → waits (max 1 phase) false) ∧
          (¬ before → covered evs → waits 2 true) ∧
          (¬ before → ¬ covered evs → ¬ settled → waits 2 false) ∧
          (¬ before → ¬ covered evs → settled →
            let r := if sc ≠ .region then t.makeUnrevocable x.region x.invix else t
            let sent := r.send u (.access evs (some rmw) land)
            exec i s = .next (blk sent.1 (.answer [sent.2]))))
    let atomic (i : Instr) (srcs : List Src) (size : Nat) (b : W64) (rmw : W64 → Rmw) : Prop :=
      let a := s.opVal x addr
      (s.Fires i x → (a.toNat % size ≠ 0 → exec i s = .next (s.raised (misaligned a))) ∧
        (a.toNat % size = 0 → body i (s.taken srcs) a b size (rmw b) 0 s.doneWith s.blockedOn)) ∧
      (∀ c, s.Carried i x c → c.a.toNat % size = 0 →
        body i (s.resumed x srcs) c.a c.b size (rmw c.b) c.phase (s.carriedTo x) (s.carriedBlock x))
    atomic (.atom op w sc d addr v) [addr, v] (if w then 8 else 4) (s.opVal x v) (.atom op) ∧
    atomic (.cas w sc d addr n) [addr] (if w then 8 else 4) (s.opVal x (.s n)) (fun _ => .cas (x.sReg n) (x.sReg (pairOf n))) ∧
    atomic (.fatom ft fop sc d addr v) [addr, v] (match ft with | .fp32 => 4 | _ => 2) (s.opVal x v)
      (fun b => .fatom ft fop (match v with | .imm k => BitVec.ofNat 64 (immFl (fmtOfF ft) k) | _ => b))) ∧
  (∀ (n old : Nat) (v e new : W64) (ft : FTy), old < 2 ^ (8 * n) → n ≤ 8 →
    let m := v.toNat % 2 ^ (8 * n)
    let f := fmtOfF ft
    let less (p q : Nat) := FVal.lt (f.decode p) (f.decode q) = true ∨
      (FVal.lt (f.decode q) (f.decode p) = false ∧ f.signBit p = true ∧ f.signBit q = false)
    let among (r : Nat) : Prop := (f.decode old = .nan → f.decode m = .nan → r = f.nan) ∧
      (f.decode old = .nan → f.decode m ≠ .nan → r = m) ∧ (f.decode m = .nan → f.decode old ≠ .nan → r = old)
    let real : Prop := f.decode old ≠ .nan ∧ f.decode m ≠ .nan
    let least := (Rmw.fatom ft .min v).apply n old
    let most := (Rmw.fatom ft .max v).apply n old
    among least ∧ among most ∧
    (real → (least = old ∨ least = m) ∧ ¬ less old least ∧ ¬ less m least) ∧
    (real → (most = old ∨ most = m) ∧ ¬ less most old ∧ ¬ less most m) ∧
    (Rmw.atom .add v).apply n old = (old + m) % 2 ^ (8 * n) ∧ (Rmw.atom .swap v).apply n old = m ∧
    (∀ k, ((Rmw.atom .and v).apply n old).testBit k = (old.testBit k && m.testBit k)) ∧
    (∀ k, ((Rmw.atom .or v).apply n old).testBit k = (old.testBit k || m.testBit k)) ∧
    (∀ k, ((Rmw.atom .xor v).apply n old).testBit k = (old.testBit k ^^ m.testBit k)) ∧
    (Rmw.atom .min v).apply n old = (if old ≤ m then old else m) ∧
    (Rmw.atom .max v).apply n old = (if old ≤ m then m else old) ∧
    ((Rmw.cas e new).writes n old = true ↔ old = e.toNat % 2 ^ (8 * n)) ∧
    (old = e.toNat % 2 ^ (8 * n) → (Rmw.cas e new).apply n old = new.toNat % 2 ^ (8 * n)) ∧
    (Rmw.fatom ft .add v).apply n old = f.encode .rne (FVal.add .rne (f.decode old) (f.decode m)))

/-- R169 to R171, R406: ORDER emits an ORD token and FENCE completes once every earlier access of the unit is performed at the
scope, at its issue or at a later turn; before that the unit carries them on. Both mark what later writes of the unit are
ordered behind, and the token conveys it. PREF takes 1 to 65,536 lines at a line address, MISALIGNED and ILLEGAL with DETAIL 2
for others. It translates each line in turn as a read and asks the line's home to fill it as a read miss would: an absent line
that may be allocated is being filled then. A line whose translation would fault, a peer line and a line in a set that is all
pinned are dropped. PREF never blocks and reaches nothing but ports, homes and their caches. -/
def Obligations.OrderingInstructions : Prop :=
  ∀ (s : State) (x : Machine.Unit) (sc : Scope) (o : Chan) (addr n : Src),
    let u := s.cur.unit
    let va := s.opVal x addr
    let k := (s.opVal x n).toNat
    let t := s.taken []
    let conveyed : Token := { plainTok .ord 0 with order := true }
    let ord (r : State) : State := (r.fenced u sc).emitAll u false [⟨Tab.get x.outs o.val [], conveyed⟩]
    let later (i : Instr) : Prop := ∃ t', exec i s = .next t' ∧ t'.CarriesOn u i 0
    let tr (r : State) (j : Nat) : State × TransRes := r.translateFor u x (va.toNat + 128 * j) 1 wantRead true
    let line (r : State) (j : Nat) : State := match tr r j with
      | (r', .ok loc page _ _) =>
        if loc.kind = .peer ∨ r'.setPinned (setOfLine (r'.homeDistrict x.part loc) loc) = true then r'
        else (r'.homeRead x.part loc 128 page.cmode page.depot).1
      | (r', _) => r'
    (∀ r j r' loc page a b, tr r j = (r', .ok loc page a b) → loc.kind ≠ .peer → page.cmode ≠ 2 → r'.keyless x.part loc = false →
      let district := r'.homeDistrict x.part loc
      let key := lineKey loc.kind district loc.addr
      r'.setPinned (setOfLine district loc) = false → r'.line? key = none →
      ∃ e, (line r j).line? key = some e ∧ e.kind = .filling) ∧
    (s.Fires (.order sc o) x → (t.performedAt u sc = true → exec (.order sc o) s = .next (s.doneWith (ord t))) ∧
      (t.performedAt u sc = false → later (.order sc o))) ∧
    (s.Fires (.fence sc) x → (t.performedAt u sc = true → exec (.fence sc) s = .next (s.doneWith (t.fenced u sc))) ∧
      (t.performedAt u sc = false → later (.fence sc))) ∧
    (∀ c, s.Carried (.order sc o) x c → let r := s.resumed x []
      (r.performedAt u sc = true → exec (.order sc o) s = .next (s.carriedTo x (ord r))) ∧
      (r.performedAt u sc = false → later (.order sc o))) ∧
    (∀ c, s.Carried (.fence sc) x c → let r := s.resumed x []
      (r.performedAt u sc = true → exec (.fence sc) s = .next (s.carriedTo x (r.fenced u sc))) ∧
      (r.performedAt u sc = false → later (.fence sc))) ∧
    (s.Fires (.pref addr n) x →
      (va.toNat % 128 ≠ 0 → exec (.pref addr n) s = .next (s.raised (misaligned va))) ∧
      (va.toNat % 128 = 0 → k = 0 ∨ 65536 < k → exec (.pref addr n) s = .next (s.raised (illegal 2))) ∧
      (va.toNat % 128 = 0 → 1 ≤ k → k ≤ 65536 → ∃ t', exec (.pref addr n) s = .next (s.doneWith t') ∧
        t' = (List.range k).foldl line (s.taken [addr, n]) ∧
        (t'.scratch, t'.sram, t'.signals, t'.flight, t'.mesh, t'.regions)
          = ((s.taken [addr, n]).scratch, s.sram, s.signals, s.flight, s.mesh, s.regions)))

/-- R154, R155, R170, R180, R194, R341, R365, R374, R403, R444: CLEAN, INVL, FILL, PIN and UNPIN act on 1 to 65,536 lines from a
line address, in ascending order, each translated first; another address is MISALIGNED, another count ILLEGAL with DETAIL 2.
CLEAN and INVL begin once every earlier access of the unit is performed at PACKAGE scope, FILL once the held stores of its
invocation are performed too; CLEAN, INVL and FILL wait for a line that is Filling; INVL and FILL end once their invalidations
are acknowledged. FILL writes 16 copies of its pattern, a zero pattern to a device line outside depot pages by its own
operation, takes a host line in E or M first, and sends a peer line as one packet of 32-byte writes, each to a quarter of the
line and all four with the pattern's bytes; it ends once its packets are answered too. PIN and UNPIN add and remove the
context's pin; PIN gives the lines done and STATUS 0, 1 where the set's ways are all pinned, 2 at a peer line. A fault of a line
is raised by the port, and a line whose page is not there is withheld; the run is carried on at that line. That the lines
between two waits are done in one step is the model's choice (log entry 28). -/
def Obligations.LineInstructions : Prop :=
  ∀ (s : State) (x : Machine.Unit) (addr n : Src) (sn : SReg) (d : Dst),
    let u := s.cur.unit
    let p := x.part
    let quiet (r : State) : State × Bool := (r, r.performedAt u .package)
    let whole (i : Instr) (t : State) (upd : Upd) : Prop := exec i s = .next (t.onUnit u fun y => y.close upd)
    let settled (i : Instr) (t : State) (upd : Upd) (_ k : Nat) : Prop :=
      (t.noInvals u .package = true → whole i t upd) ∧
      (t.noInvals u .package = false → ∃ t', exec i s = .next t' ∧ t'.CarriesOn u i (k + 1))
    let run (i : Instr) (w : Want) (act : W64 → Nat → State → Loc → PageBits → State → Prop)
        (waits : State → Loc → PageBits → Prop) (stops : State → Loc → PageBits → Nat → Prop) (ends : State → Upd → Nat → Nat → Prop) (a c b : W64) (phase : Nat)
        (t0 : State) (upd : Upd) : Prop :=
      let first := phase % 2 ^ 17 - 1
      let asked : Bool := decide (2 ^ 17 ≤ phase)
      let left := c.toNat - first
      (∀ t, State.LinesRun u x a.toNat w (act a) left first asked t0 t → ends t upd 0 (first + left)) ∧
      ∀ j t, j < left → State.LinesRun u x a.toNat w (act a) j first asked t0 t →
        let k := first + j
        let tr := t.translateFor u x (a.toNat + 128 * k) (if asked ∧ j = 0 then 0 else 1) w true
        (∀ t1 loc pg e f, tr = (t1, .ok loc pg e f) → waits t1 loc pg →
          ∃ t', exec i s = .next t' ∧ t'.CarriesOn u i (k + 1 + 2 ^ 17)) ∧
        (∀ t1 loc pg e f st, tr = (t1, .ok loc pg e f) → stops t1 loc pg st → ends t1 upd st k) ∧
        (∀ t1 e, tr = (t1, .fault e) → exec i s = .next (s.portRaised x i t1 a b (k + 1) e)) ∧
        (∀ t1 level, tr = (t1, .invalid level) → ∃ t' h, exec i s = .next t' ∧ t'.WithheldAt u i (k + 1) h ∧
          h.va = a.toNat + 128 * k ∧ h.wb = false) ∧
        (∀ t1, tr = (t1, .wb) → ∃ t' h, exec i s = .next t' ∧ t'.WithheldAt u i (k + 1) h ∧
          h.va = a.toNat + 128 * k ∧ h.wb = true)
    let form (i : Instr) (srcs : List Src) (a b : Src) (gate : State → State × Bool)
        (go : W64 → W64 → W64 → Nat → State → Upd → Prop) : Prop :=
      let va := s.opVal x a
      let vn := s.opVal x n
      let begins (a c b : W64) (phase : Nat) (t0 : State) (upd : Upd) : Prop :=
        (phase = 0 → (gate t0).2 = false → ∃ t', exec i s = .next t' ∧ t'.CarriesOn u i 0) ∧
        (phase = 0 → (gate t0).2 = true → go a c b phase (gate t0).1 upd) ∧
        (phase ≠ 0 → go a c b phase t0 upd)
      (s.Fires i x →
        (va.toNat % 128 ≠ 0 → exec i s = .next (s.raised (misaligned va))) ∧
        (va.toNat % 128 = 0 → vn = 0 ∨ 65536 < vn.toNat → exec i s = .next (s.raised (illegal 2))) ∧
        (va.toNat % 128 = 0 → 1 ≤ vn.toNat → vn.toNat ≤ 65536 → begins va vn (s.opVal x b) 0 (s.taken srcs) s.cur.upd)) ∧
      (∀ c, s.Carried i x c → c.a.toNat % 128 = 0 → 1 ≤ c.b.toNat → c.b.toNat ≤ 65536 →
        begins c.a c.b c.b c.phase (s.resumed x srcs) x.blockedUpd)
    let filled (f : Nat → State → Loc → PageBits → State → Prop) (a : W64) (k : Nat) (r : State) (loc : Loc) (pg : PageBits)
        (t : State) : Prop := r.isFilling p loc = false ∧ f (a.toNat + 128 * k) r loc pg t
    let fills (r : State) (loc : Loc) (_ : PageBits) : Prop := r.isFilling p loc = true
    let never (_ : State) (_ : Loc) (_ : PageBits) (_ : Nat) : Prop := False
    let pat := x.sReg (pairOf sn)
    let zero (loc : Loc) (pg : PageBits) : Prop := pat = 0 ∧ loc.kind = .device ∧ pg.depot = false
    let pinned (r : State) (loc : Loc) : Bool := r.setPinned (setOfLine (r.homeDistrict p loc) loc)
    let mine (r : State) (loc : Loc) : Option Line := r.line? (r.keyOf p loc)
    form (.clean addr n) [addr, n] addr n quiet (run (.clean addr n) wantRead
      (filled fun _ r loc _ t => t = r.cleanLine p loc) fills never fun t upd _ _ => whole (.clean addr n) t upd) ∧
    form (.invl addr n) [addr, n] addr n quiet (run (.invl addr n) wantRead
      (filled fun _ r loc _ t => t = r.invlLine p loc [u]) fills never (settled (.invl addr n))) ∧
    form (.fill sn n) [n] (.s sn) n (fun r => r.publish u x) (run (.fill sn n) wantWrite
      (filled fun va r loc pg t =>
        (loc.kind = .peer ∧ ∃ evs, t = (r.send u (.access evs none .none)).1 ∧ evs.length = 4 ∧ ∀ i e, evs[i]? = some e →
          e.va = va + 32 * i ∧ e.n = 32 ∧ e.loc = { loc with addr := loc.addr + 32 * i } ∧
          e.wr = (List.range 32).map fun j => (j, BitVec.ofNat 8 (pat.toNat >>> (8 * (j % 8))))) ∨
        (zero loc pg ∧ t = r.homeZero p loc [u]) ∨
        (loc.kind ≠ .peer ∧ ¬ zero loc pg ∧ r.ownHost p loc pg.cmode = none ∧ t = r.homeWrite p loc pg.cmode pg.depot
          ((List.range 128).map fun k => (k, BitVec.ofNat 8 (pat.toNat >>> (8 * (k % 8))))) [u]))
      (fun r loc pg => r.isFilling p loc = true ∨ (loc.kind ≠ .peer ∧ ¬ zero loc pg ∧ r.ownHost p loc pg.cmode ≠ none)) never
      fun t upd st k => (t.noPackets u = true → settled (.fill sn n) t upd st k) ∧
        (t.noPackets u = false → ∃ t', exec (.fill sn n) s = .next t' ∧ t'.CarriesOn u (.fill sn n) (k + 1))) ∧
    form (.unpin addr n) [addr, n] addr n (fun r => (r, true)) (run (.unpin addr n) wantRead
      (fun _ _ r loc _ t => (mine r loc = none ∧ t = r) ∨ ∃ l, mine r loc = some l ∧
        t = r.putLine (r.keyOf p loc) { l with pins := l.pins.filter (· != x.ctx) })
      (fun _ _ _ => False) never fun t upd _ _ => whole (.unpin addr n) t upd) ∧
    form (.pin d addr n) [addr, n] addr n (fun r => (r, true)) (run (.pin d addr n) wantRead
      (fun _ _ r loc _ t => loc.kind ≠ .peer ∧ ∃ l, mine r loc = some l ∧ l.kind ≠ .filling ∧ l.way ≠ bypassWay ∧
        ((l.pins.contains x.ctx = true ∧ t = r) ∨
         (l.pins.contains x.ctx = false ∧ ¬ (l.kind = .present ∧ l.pins = [] ∧ pinned r loc = true) ∧
           t = r.putLine (r.keyOf p loc) { l with pins := l.pins ++ [x.ctx] })))
      (fun r loc _ => loc.kind ≠ .peer ∧ ((mine r loc = none ∧ pinned r loc = false) ∨
        ∃ l, mine r loc = some l ∧ (l.kind = .filling ∨ l.way = bypassWay)))
      (fun r loc _ st => (loc.kind = .peer ∧ st = 2) ∨ (loc.kind ≠ .peer ∧ st = 1 ∧ pinned r loc = true ∧
        (mine r loc = none ∨ ∃ l, mine r loc = some l ∧ l.kind = .present ∧ l.way ≠ bypassWay ∧ l.pins = [])))
      fun t upd st k => exec (.pin d addr n) s = .next (t.finish u upd d 0 (BitVec.ofNat 64 (st * 2 ^ 56 + k)) 1))

/-- R168, R170, R347 to R349, R388, R389, R433, R434, R450: COPY, MCAST and STRM wait for the unit's earlier stores to their
descriptor's station, read and check the descriptor, and are carried on. COPY takes its channel, once that is free and the
unit's earlier accesses are performed at PACKAGE scope (for a global destination, with the invocation's held stores); STRM
begins its stream and MCAST sends its line reads, line by line in ascending order, once those accesses are. WPTR reads whether a
channel is busy and the pointer of what it ran since the unit's configuration was loaded, which the region keeps over a switch
(log entry 95). A channel number above 7 is ILLEGAL with DETAIL 2; a line of a multicast whose translation faults, or that lies
in a peer's memory (PERMISSION), is raised by the port, after which a sequenced unit's multicast goes no further. That a
descriptor is read in one turn, after which the unit waits, is the model's choice (log entry 27). -/
def Obligations.EngineInstructions : Prop :=
  ∀ (s : State) (x : Machine.Unit) (desc ch : Src) (d : Dst) (o : Chan),
    let u := s.cur.unit
    let vd := s.opVal x desc
    let k := (s.opVal x ch).toNat
    let later (i : Instr) (phase : Nat) (ws : List W64) : Prop := ∃ t y c, exec i s = .next t ∧ t.unit? u = some y ∧
      y.blocked = some (.again i c) ∧ c.phase = phase ∧ c.hold = none ∧ (phase ≠ 0 → c.words = ws)
    let reads (i : Instr) (load : State → W64 → Except Trap (State × List W64)) (check : State → List W64 → Option Trap)
        (t0 : State) (v : W64) : Prop :=
      (t0.blockQuiet u v = false → later i 0 []) ∧
      (t0.blockQuiet u v = true →
        (∀ e, load t0 v = .error e → exec i s = .next (s.trapped e)) ∧
        (∀ t ws, load t0 v = .ok (t, ws) →
          (∀ e, check t ws = some e → exec i s = .next (s.trapped e)) ∧
          (check t ws = none → later i 1 ws)))
    let four (r : State) (v : W64) : Except Trap (State × List W64) := r.loadWords u x v 4
    let ci := Instr.copy desc ch
    let si := Instr.strm o desc
    let mi := Instr.mcast desc
    (s.Fires ci x → (k ≤ 7 → reads ci four (fun t ws => t.copyCheck u x ws) (s.taken [desc, ch]) vd) ∧
      (7 < k → exec ci s = .next (s.raised (illegal 2)))) ∧
    (∀ c, s.Carried ci x c → c.b.toNat ≤ 7 →
      let t0 := s.resumed x [desc, ch]
      let r := if (wordAt c.words 2).testBit 33 then t0.publish u x else (t0, t0.performedAt u .package)
      (c.phase = 0 → reads ci four (fun t ws => t.copyCheck u x ws) t0 c.a) ∧
      (c.phase ≠ 0 → r.2 = false ∨ ((r.1.station (stnOf u)).copy c.b.toNat).busy = true → later ci 1 c.words) ∧
      (c.phase ≠ 0 → r.2 = true → ((r.1.station (stnOf u)).copy c.b.toNat).busy = false →
        exec ci s = .next (s.carriedTo x (r.1.setStation (stnOf u)
          ((r.1.station (stnOf u)).setCopy c.b.toNat
            ⟨true, u, c.words, 0, false, none, [], false, false, (r.1.station (stnOf u)).loads⟩))))) ∧
    (s.Fires (.wptr d ch) x → (k ≤ 7 → exec (.wptr d ch) s = .next ((s.taken [ch]).finish u s.cur.upd d 0
        (BitVec.ofNat 64 ((if (((s.taken [ch]).station (stnOf u)).copy k).busy then 2 ^ 63 else 0)
          + ((s.taken [ch]).station (stnOf u)).ptrOf x.region k)) 2)) ∧
      (7 < k → exec (.wptr d ch) s = .next (s.raised (illegal 2)))) ∧
    (s.Fires si x → reads si four (fun t ws => t.strmCheck u x ws) (s.taken [desc]) vd) ∧
    (∀ c, s.Carried si x c →
      let t0 := s.resumed x [desc]
      (c.phase = 0 → reads si four (fun t ws => t.strmCheck u x ws) t0 c.a) ∧
      (c.phase ≠ 0 → t0.performedAt u .package = false → later si 1 c.words) ∧
      (c.phase ≠ 0 → t0.performedAt u .package = true → exec si s = .next (s.carriedBlock x t0
        (.stream ⟨c.words, Tab.get x.outs o.val [], 0, c.words.getD 1 0, none, none, [], false, c.slot, c.taken⟩)))) ∧
    (let whole (r : State) (v : W64) : Except Trap (State × List W64) := match r.loadWords u x v 4 with
       | .error e => .error e
       | .ok (r, ws) => r.loadWords u x v (4 + mcastCount ws)
     (s.Fires mi x → reads mi whole (fun t ws => t.mcastCheck u x ws) (s.taken [desc]) vd) ∧
     (∀ c, s.Carried mi x c →
       let t0 := s.resumed x [desc]
       let a := wordAt c.words 0
       let broken (mc : Nat) (t : State) : State := if x.isSeq then
         { t with mcasts := t.mcasts.map fun m => if m.1 = mc then (m.1, { m.2 with st := .broken }) else m } else t
       let sends (mc first left : Nat) (t1 : State) : Prop :=
         let act (i : Nat) (r : State) (loc : Loc) (pg : PageBits) (t : State) : Prop :=
           loc.kind ≠ .peer ∧ t = (r.send u (.mcast mc i loc pg)).1
         (∀ t, State.LinesRun u x a wantRead act left first false t1 t → exec mi s = .next (s.carriedTo x { t with
           mcasts := t.mcasts.map fun m => if m.1 = mc then (m.1, { m.2 with st := .sent }) else m })) ∧
         ∀ j t, j < left → State.LinesRun u x a wantRead act j first false t1 t →
           let tr := t.translateFor u x (a + 128 * (first + j)) 1 wantRead true
           let phase := first + j + 2
           (∀ r loc pg e f, tr = (r, .ok loc pg e f) → loc.kind = .peer → exec mi s = .next (s.portRaised x mi (broken mc r)
             c.a c.b phase ⟨.permission, 0, BitVec.ofNat 64 (a + 128 * (first + j))⟩)) ∧
           (∀ r e, tr = (r, .fault e) → exec mi s = .next (s.portRaised x mi (broken mc r) c.a c.b phase e)) ∧
           (∀ r, (∃ level, tr = (r, .invalid level)) ∨ tr = (r, .wb) → ∃ t' h, exec mi s = .next t' ∧ t'.WithheldAt u mi phase h ∧
             h.va = a + 128 * (first + j))
       (c.phase = 0 → reads mi whole (fun t ws => t.mcastCheck u x ws) t0 c.a) ∧
       (c.phase = 1 → t0.performedAt u .package = false → later mi 1 c.words) ∧
       (c.phase = 1 → t0.performedAt u .package = true → sends t0.ids 0 (mcastLen c.words / 128) { t0 with
         mcasts := Tab.put t0.mcasts t0.ids ⟨u, x.region, x.ctx, c.words, .sending, none⟩, ids := t0.ids + 1 }) ∧
       (∀ mc, 2 ≤ c.phase → t0.sendingMcast u x.region = some mc →
         sends mc (c.phase - 2) (mcastLen c.words / 128 - (c.phase - 2)) t0)))

/-- R77, R120, R123, R126, R127, R327, R393 to R395, R448, R449: WLOAD, WSWAP, MMA, ACCRD and ACCWR go to the station's junction
in order and their unit waits while the junction holds them; ACCCLR goes there and the unit goes on. WLOAD, WSWAP and MMA wait
for the end of a run of the station's loop line that is in progress, those of several units in the order of their elements,
before they reach the junction (log entry 102). In a cycle in which a vector has entered, what reaches the junction is only
queued. A slot above 7, a malformed control word, a signal handle and a block of another station are ILLEGAL with DETAIL 2, a
handle that does not resolve is stale, an offset that is no multiple of 32 is MISALIGNED; MMA checks that its handle resolves
first. Where nothing is ahead, a WLOAD begins to fill a ready inactive bank, and a WSWAP that finds it not loading makes it the
active one; the old one drains while wavefronts tagged with it are in flight. -/
def Obligations.JunctionInstructions : Prop :=
  ∀ (s : State) (x : Machine.Unit) (fmt : JFmt) (h v : Src),
    let u := s.cur.unit
    let form (i : Instr) (srcs : List Src) (hs vs : Src) (check : State → W64 → W64 → Option Trap) (line : Bool)
        (op : W64 → W64 → JOp) : Prop :=
      let body (t : State) (a c : W64) (done : State → State) (blk : State → Blocked → State) : Prop :=
        let r := t.toJunction u (op a c)
        let runs := line && t.lineRuns (stnOf u)
        (∀ e, check t a c = some e → exec i s = .next (s.trapped e)) ∧
        (check t a c = none → runs = true → ∃ pre post, (t.junction (stnOf u)).awaiting = pre ++ post ∧
          (∀ e ∈ pre, e.1 ≤ u) ∧ (∀ e, post.head? = some e → u < e.1) ∧ exec i s = .next (blk
            (t.onJunction (stnOf u) fun j => { j with awaiting := pre ++ (u, op a c) :: post }) .junction)) ∧
        (check t a c = none → runs = false →
          ((r.junction (stnOf u)).holds u = false → exec i s = .next (done r)) ∧
          ((r.junction (stnOf u)).holds u = true → exec i s = .next (blk r .junction)))
      (s.Fires i x → body (s.taken srcs) (s.opVal x hs) (s.opVal x vs) s.doneWith s.blockedOn) ∧
      (∀ c, s.Carried i x c → body (s.resumed x srcs) c.a c.b (s.carriedTo x) (s.carriedBlock x))
    let noBlock (t : State) (a : W64) : Prop := ∀ b, t.resolveBlock x.ctx a ≠ .ok b
    let slotOf (c : W64) := c.toNat / 2 ^ 16 % 8
    let count (c : W64) := c.toNat / 2 ^ 8 % 2 ^ 8
    let row0 (c : W64) := c.toNat % 2 ^ 7
    let sound (c : W64) : Prop := c.toNat = slotOf c * 2 ^ 16 + count c * 2 ^ 8 + row0 c ∧ 1 ≤ count c ∧ row0 c + count c ≤ 128
    let slotted (t : State) (a c : W64) : Option Trap := if 7 < c.toNat then some (illegal 2) else t.junctionBlock u x a
    form (.wload fmt h v) [h, v] h v (fun t a _ => t.junctionBlock u x a) true (fun a c => .wload a fmt (c.setWidth 32)) ∧
    form .wswap [] (.sp .zero) (.sp .zero) (fun _ _ _ => none) true (fun _ _ => .wswap) ∧
    form (.mma fmt h v) [h, v] h v (fun t a c => t.mmaCheck u x a c) true (fun a c => .mma a fmt (slotOf c) (count c) (row0 c)) ∧
    form (.accrd h v) [h, v] h v slotted false (fun a c => .accrd a c.toNat) ∧
    form (.accwr v h) [v, h] v h (fun t c a => slotted t a c) false (fun c a => .accwr a c.toNat) ∧
    (s.Fires (.accclr v) x → let n := (s.opVal x v).toNat
      (n ≤ 7 → exec (.accclr v) s = .next (s.doneWith ((s.taken [v]).toJunction u (.accclr n)))) ∧
      (7 < n → exec (.accclr v) s = .next (s.raised (illegal 2)))) ∧
    (∀ (t : State) (a c : W64),
      (isSignalHandle a = true → t.junctionBlock u x a = some (illegal 2) ∧ t.mmaCheck u x a c = some (illegal 2)) ∧
      (isSignalHandle a = false → noBlock t a → t.junctionBlock u x a = some (stale a) ∧ t.mmaCheck u x a c = some (stale a)) ∧
      (isSignalHandle a = false → ¬ noBlock t a →
        (hStn a ≠ stnOf u → t.junctionBlock u x a = some (illegal 2)) ∧
        (hStn a = stnOf u → hOff a % 32 ≠ 0 → t.junctionBlock u x a = some (misaligned 0)) ∧
        (hStn a = stnOf u → hOff a % 32 = 0 → t.junctionBlock u x a = none) ∧
        (sound c → t.mmaCheck u x a c = t.junctionBlock u x a) ∧ (¬ sound c → t.mmaCheck u x a c = some (illegal 2)))) ∧
    (∀ op, (s.junction (stnOf u)).enteredAt (s.stnNow (stnOf u)) = true → s.toJunction u op =
      s.onJunction (stnOf u) fun j => { j with queue := j.queue ++ [(u, op)] }) ∧
    (∀ j, s.junction (stnOf u) = j → j.queue = [] → j.active ≤ 1 → s.lineRuns (stnOf u) = false →
      j.enteredAt (s.stnNow (stnOf u)) = false →
      (∀ a scale k, k = (s.toJunction u (.wload a fmt scale)).junction (stnOf u) → j.load = none →
        (j.bank (1 - j.active)).st = .ready → k.queue = [] ∧ k.load = some (some u, .wload a fmt scale) ∧ k.active = j.active ∧
        k.bank (1 - j.active) = { j.bank (1 - j.active) with fmt := fmt, scale := scale, st := .loading } ∧
        k.bank j.active = j.bank j.active) ∧
      (∀ k, k = (s.toJunction u .wswap).junction (stnOf u) → (j.bank (1 - j.active)).st ≠ .loading →
        k.active = 1 - j.active ∧ k.queue = [] ∧ (k.bank k.active).data = (j.bank k.active).data ∧ (k.bank k.active).st = .ready ∧
        (k.bank j.active).st = (if j.inFlight j.active then .draining else .ready) ∧ k.acc = j.acc))

/-- R77, R129 to R132, R142, R144, R194, R415, R417, R437: TTLOAD gives the junction the timetable of its block, RING arms the
region's line and opens and clears the junctions' entries and counts, both once no run of the line is in progress, and TTLOAD
once the unit's earlier stores to its block's station are performed (R168); TINJ reads its tile, puts it at the station's ring
position and waits for it to enter; RSTAT gives the junction's or the line's status word. TTLOAD, RING and TINJ outside a LINE
region are ILLEGAL with DETAIL 1; a bad timetable (its OFFSET: log entry 91), arming word, tile descriptor, selector or line
status outside a LINE region is ILLEGAL with DETAIL 2; a tile address that is no multiple of 256 is MISALIGNED. A fault of
TINJ's read is raised by the port, and one that finds an invalid entry is withheld. That a tile counts as injected once its TINJ
is accepted is the model's reading (log entry 29). -/
def Obligations.TrainInstructions : Prop :=
  ∀ (s : State) (x : Machine.Unit) (h v : Src) (d : Dst),
    let u := s.cur.unit
    let key := stnOf u / 8
    let later (i : Instr) (phase : Nat) : Prop := ∃ t, exec i s = .next t ∧ t.CarriesOn u i phase
    let traps (i : Instr) (k : Nat) : Prop := exec i s = .next (s.trapped (illegal k))
    let line (t : State) : Prop := ∃ r, t.region? x.region = some r ∧ r.line = true
    let ti := Instr.ttload h
    let ri := Instr.ring h
    let ji := Instr.tinj h v
    let ttload (t : State) (a : W64) (done : State → State) : Prop :=
      (¬ line t → traps ti 1) ∧
      ∀ r, t.region? x.region = some r → r.line = true →
        (∀ e, t.needBlock x.ctx a = .error e → exec ti s = .next (s.trapped e)) ∧
        ∀ b, t.needBlock x.ctx a = .ok b →
          (t.lineRuns (stnOf u) = true ∨ t.blockQuiet u a = false → later ti 0) ∧
          (t.lineRuns (stnOf u) = false → t.blockQuiet u a = true → t.readTable r (stnOf u) a b = none → traps ti 2) ∧
          (∀ tt, t.lineRuns (stnOf u) = false → t.blockQuiet u a = true → t.readTable r (stnOf u) a b = some tt →
            exec ti s = .next (done (t.onJunction (stnOf u) fun j => { j with table := some tt, entries := [] })))
    let ring (t : State) (a : W64) (done : State → State) : Prop :=
      (¬ line t → traps ri 1) ∧
      ∀ r, t.region? x.region = some r → r.line = true →
        (ringBad a.toNat = true → traps ri 2) ∧
        (ringBad a.toNat = false → t.lineRuns (stnOf u) = true → later ri 0) ∧
        (ringBad a.toNat = false → t.lineRuns (stnOf u) = false → ∃ t', exec ri s = .next (done t') ∧
          t'.loopLine key = { t.loopLine key with armed := true, running := true, stopping := false, arm := a, tiles := []
                                                  inject := [], seen := [], injected := 0, retired := 0 } ∧
          ∀ n ∈ r.stations, (t'.junction n).missed = 0 ∧ (t'.junction n).recov = 0 ∧ (t'.junction n).completed = 0 ∧
            (t'.junction n).orphan = 0 ∧ (t'.junction n).table = (t.junction n).table ∧
            (t'.junction n).entries = (List.range (match (t.junction n).table with
              | some tt => tt.entries.length
              | none => 0)).map fun k => (k, EntryState.open_))
    let tinj (t : State) (a c : W64) (phase : Nat) (blk : State → Blocked → State) : Prop :=
      let l := t.loopLine key
      let down := c.getLsbD 31
      let num := c.toNat % 2 ^ 12
      let sound : Prop := l.armed = true ∧ l.seen.length < l.arm.toNat % 2 ^ 13 ∧
        (∀ e ∈ l.seen, ¬ (e.1 = down ∧ e.2.1 = num)) ∧ c.toNat / 2 ^ 12 % 2 ^ 12 ≠ 0 ∧ c.toNat / 2 ^ 24 % 2 ^ 7 = 0
      let reads := t.engineLines x.ctx x.part (stnOf u) (portOf u) (if phase = 0 then 1 else 0) a.toNat
        (128 * jBytes (armFmt l.arm down))
      (t.inLine x = false → traps ji 1) ∧
      (t.inLine x = true → a.toNat % 256 ≠ 0 → exec ji s = .next (s.trapped (misaligned a))) ∧
      (t.inLine x = true → a.toNat % 256 = 0 → ¬ sound → traps ji 2) ∧
      (t.inLine x = true → a.toNat % 256 = 0 → sound →
        (∀ r e, reads = .fault r e → exec ji s = .next (s.portRaised x ji r a c phase e)) ∧
        (∀ r va, (∃ level, reads = .invalid r va level) ∨ reads = .wb r va →
          ∃ t' hd, exec ji s = .next t' ∧ t'.WithheldAt u ji phase hd ∧ hd.va = va) ∧
        (∀ r ls, reads = .ok r ls →
          (∀ r', r.gather u (districtOfUnit u) x.part ls = (r', none) → later ji 1) ∧
          (∀ r' bs, r.gather u (districtOfUnit u) x.part ls = (r', some bs) →
            let tile : Tile := ⟨down, num, a.toNat, c.extractLsb' 32 32, c.toNat / 2 ^ 12 % 2 ^ 12, 0, stnOf u % 8, u, sparse bs⟩
            let q := r'.loopLine key
            exec ji s = .next (blk ((r'.takeDelivered u (stnOf u)).setLoopLine key { q with
              seen := q.seen ++ [(down, num, a.toNat, tile.scale, u)], inject := q.inject ++ [(stnOf u % 8, tile)] })
              (.inject a.toNat c)))))
    (s.Fires ti x → ttload (s.taken [h]) (s.opVal x h) s.doneWith) ∧
    (∀ c, s.Carried ti x c → ttload (s.resumed x [h]) c.a (s.carriedTo x)) ∧
    (s.Fires ri x → ring (s.taken [h]) (s.opVal x h) s.doneWith) ∧
    (∀ c, s.Carried ri x c → ring (s.resumed x [h]) c.a (s.carriedTo x)) ∧
    (s.Fires ji x → tinj (s.taken [h, v]) (s.opVal x h) (s.opVal x v) 0 s.blockedOn) ∧
    (∀ c, s.Carried ji x c → tinj (s.resumed x [h, v]) c.a c.b c.phase (s.carriedBlock x)) ∧
    (s.Fires (.rstat d v) x →
      let t := s.taken [v]
      let n := s.opVal x v
      (n = 0 → exec (.rstat d v) s = .next (t.finish u s.cur.upd d 0 (junctionStatus (t.junction (stnOf u))) 1)) ∧
      (n = 1 → t.inLine x = true → exec (.rstat d v) s = .next (t.finish u s.cur.upd d 0 (lineStatus (t.loopLine key)) 1)) ∧
      (n = 1 → t.inLine x = false → traps (.rstat d v) 2) ∧
      (1 < n.toNat → traps (.rstat d v) 2))

/-- R168, R179, R344, R345, R351: COLL waits for the unit's earlier stores to its descriptor's station, reads and checks the
descriptor, waits for the unit's accesses and for free slots, opens the collective and gives its ticket; CWAIT gives STATUS 2
where no collective has the ticket, waits while it runs, and else gives its status and the elements written, and frees it; of
several units that wait for one collective each takes the same word. That the descriptor is read in one turn, after which the
unit waits, is the model's choice (log entry 27). R345: a collective on a port that is down is abandoned as it opens; else rank
0 sends its elements in ascending order, and a broadcast is then complete there. A rank forms its partial from the one that it
receives and its own element, in that order, and sends it to the rank above; the last rank writes the result and sends it back;
each rank writes the result and sends it on down. In a broadcast a rank writes the value and sends it on up. A byte of an
element beyond its block is recorded (R96). That the flits of one rank go out in one step, and that rank 0 of a broadcast is
complete at its opening with WRITTEN 0, are the model's choices (log entries 28 and 42). -/
def Obligations.CollectiveInstructions : Prop :=
  (∀ (s : State) (x : Machine.Unit) (d : Dst) (a : Src),
    let u := s.cur.unit
    let ci := Instr.coll d a
    let wi := Instr.cwait d a
    let later (i : Instr) (phase : Nat) (ws : List W64) : Prop := ∃ t y c, exec i s = .next t ∧ t.unit? u = some y ∧
      y.blocked = some (.again i c) ∧ c.phase = phase ∧ c.hold = none ∧ (phase ≠ 0 → c.words = ws)
    let reads (t0 : State) (v : W64) : Prop :=
      (t0.blockQuiet u v = false → later ci 0 []) ∧
      (t0.blockQuiet u v = true →
        (∀ e, t0.loadWords u x v 4 = .error e → exec ci s = .next (s.trapped e)) ∧
        (∀ t ws, t0.loadWords u x v 4 = .ok (t, ws) →
          (∀ e, t.collCheck x ws (collOf u x ws) = some e → exec ci s = .next (s.trapped e)) ∧
          (t.collCheck x ws (collOf u x ws) = none → later ci 1 ws)))
    let waits (t : State) (v : W64) (upd : Upd) (ws : List W64) : Prop :=
      let gives (t : State) (w : W64) : Prop := exec wi s = .next (t.finish u upd d 0 w 1)
      (t.collNamed x.ctx v = none → gives t (BitVec.ofNat 64 (2 * 2 ^ 56))) ∧
      (∀ k, t.collNamed x.ctx v = some k → k.status = none → later wi 1 ws) ∧
      (∀ k ok, t.collNamed x.ctx v = some k → k.status = some ok →
        let w : W64 := BitVec.ofNat 64 ((if ok then 0 else 1) * 2 ^ 56 + k.written % 2 ^ 32)
        gives (t.closeColl k v w) w)
    (s.Fires ci x → reads (s.taken [a]) (s.opVal x a)) ∧
    (∀ c, s.Carried ci x c →
      let t0 := s.resumed x [a]
      let r := t0.publish u x
      let k := collOf u x c.words
      (c.phase = 0 → reads t0 c.a) ∧
      (c.phase ≠ 0 → r.2 = false ∨ (∃ key ∈ k.keys, Tab.find r.1.colls key ≠ none) → later ci 1 c.words) ∧
      (c.phase ≠ 0 → r.2 = true → (∀ key ∈ k.keys, Tab.find r.1.colls key = none) →
        exec ci s = .next ((r.1.openColl k).finish u x.blockedUpd d 0
          (BitVec.ofNat 64 (2 ^ 14 + cdNext c.words * 2 ^ 10 + cdPrev c.words * 2 ^ 6 + cdCid c.words)) 1))) ∧
    (s.Fires wi x → waits (s.taken [a]) (s.opVal x a) s.cur.upd []) ∧
    (∀ c, s.Carried wi x c →
      (c.phase ≠ 2 → waits (s.resumed x [a]) c.a x.blockedUpd c.words) ∧
      (c.phase = 2 → exec wi s = .next ((s.resumed x [a]).finish u x.blockedUpd d 0 (c.words.getD 0 0) 1)))) ∧
  (∀ (s : State) (c : Coll) (v : Nat), c.rank < c.ranks → c.op ≤ 3 →
    let p := collApply c.op c.ty v (s.collSource c c.partials)
    let flit (t : State) (port e n : Nat) : State := t.sendFlit port 3 c.cid e (BitVec.ofNat 32 n)
    let wrote := s.collWrite c
    let own := s.noteSource c c.partials
    let last := own.collWrite c p
    ((∃ port ∈ c.ports, (s.mainPort port).down = true) → s.openColl c = (s.abandonColl c).collEvent c) ∧
    ((∀ port ∈ c.ports, (s.mainPort port).down = false) →
      (c.rank ≠ 0 → s.openColl c = s.setColl c) ∧
      (c.rank = 0 → s.openColl c =
        ((List.range c.count).foldl (fun (t : State) e => flit (t.noteSource c e) c.next e (t.collSource c e)) s).setColl
          { c with partials := c.count, status := if c.op = 3 then some true else none })) ∧
    (c.op ≠ 3 → c.rank + 1 < c.ranks → s.collPartial c v = (flit own c.next c.partials p).setColl { c with partials := c.partials + 1 }) ∧
    (c.op ≠ 3 → c.rank + 1 = c.ranks → s.collPartial c v = (flit last.1 c.prev c.partials p).setColl
      { last.2 with partials := c.partials + 1 }) ∧
    (c.op = 3 → s.collPartial c v = (if c.rank + 1 = c.ranks then (wrote v).1 else flit (wrote v).1 c.next c.partials v).setColl
      { (wrote v).2 with partials := c.partials + 1 }) ∧
    (s.collResult c v = (if c.rank = 0 then (wrote v).1 else flit (wrote v).1 c.prev c.written v).setColl (wrote v).2) ∧
    (wrote v).2.written = c.written + 1 ∧
    ((wrote v).2.status = if c.written + 1 = c.count then some true else none) ∧
    collApply 0 4 v p = (v + p) % 2 ^ 32)

/-- R168, R194, R207, R209 to R213, R357, R375: ENQ and JDEC read and check their record: reserved bits are ILLEGAL with DETAIL
2, a queue of another partition or one that is disabled is PERMISSION with DETAIL 4 and SY.FADDR the queue; JDEC's counter must
be a multiple of 8. ENQ enters the record into its queue once the unit's held stores and earlier accesses are performed, or
waits where the queue has no room or a waiter of its class or better stands ahead; an enqueue behind one of a higher rank
reaches its signal box in a later die cycle, and a queue that has been disabled since the check refuses it (log entry 110). JDEC
writes the decremented counter, all ones for a counter of 0, and enqueues where it reaches 0, its own 0 written once the record
has entered; where held events of its region cover the counter, every one of them is performed first (R333). A fault of the
counter's translation is raised by the port, and one that finds an invalid entry is withheld. That the record is read in one
turn, the moment at which ENQ completes, and JDEC's decrement within its turn are the model's choices (log entries 27, 30 and
31). R211: the counter goes down by one: what a decrement gives is what the counter's eight bytes at its home then hold; a
counter of 0 stays 0 and gives all ones. R35, R209: a record enters the window while it has room and nothing is in the siding,
behind those that stand there. -/
def Obligations.QueueInstructions : Prop :=
  (∀ (s : State) (x : Machine.Unit) (d : Dst) (ctr rec : Src),
    let u := s.cur.unit
    let ei := Instr.enq rec
    let ji := Instr.jdec d ctr rec
    let later (i : Instr) (phase : Nat) (ws : List W64) : Prop := ∃ t y c, exec i s = .next t ∧ t.unit? u = some y ∧
      y.blocked = some (.again i c) ∧ c.phase = phase ∧ c.hold = none ∧ (phase ≠ 0 → c.words = ws)
    let denied (q : Nat) : Trap := ⟨.permission, 4, BitVec.ofNat 64 q⟩
    let reads (i : Instr) (t0 : State) (v : W64) (sound : Option Trap) : Prop :=
      let quiet : Prop := isCore u = true ∨ t0.blockQuiet u v = true
      (¬ quiet → later i 0 []) ∧
      (quiet → (∀ e, t0.recordAt u x v = .error e → exec i s = .next (s.trapped e)) ∧
        ∀ t ws, t0.recordAt u x v = .ok (t, ws) →
          let barred : Prop := t.queuePart (recQueue ws) ≠ some x.part ∨ (t.queueAt (recQueue ws)).st = .disabled
          (recReserved ws = true → exec i s = .next (s.trapped (illegal 2))) ∧
          (recReserved ws = false → barred → exec i s = .next (s.trapped (denied (recQueue ws)))) ∧
          (recReserved ws = false → ¬ barred → (∀ e, sound = some e → exec i s = .next (s.trapped e)) ∧
            (sound = none → later i 1 ws)))
    let zero (t : State) : State := t.onUnit u fun y => y.write d 0 0
    let enters (i : Instr) (writes : State → State) (r : State) (ws : List W64) : Prop :=
      let q := recQueue ws
      let y := r.queueAt q
      let r' := r.noteEnter q u
      let room : Prop := y.room = true ∧ y.listed = false ∧ ∀ w ∈ y.waiters, r.eclass u < r.waiterClass w
      (y.st = .disabled → exec i s = .next (s.trapped (denied q))) ∧
      (y.st ≠ .disabled → r.mayEnter q u = false → later i 3 ws) ∧
      (y.st ≠ .disabled → r.mayEnter q u = true → room → exec i s = .next (s.carriedTo x (writes (r'.enterQueue q x.ctx ws)))) ∧
      (y.st ≠ .disabled → r.mayEnter q u = true → ¬ room → later i 2 ws ∧ ∃ t, exec i s = .next t ∧
        (t.queueAt q).waiters = y.waiters ++ [(u, 0, r.queueNow q, r.queueNow q)])
    (s.Fires ei x → reads ei (s.taken [rec]) (s.opVal x rec) none) ∧
    (∀ c, s.Carried ei x c →
      let t0 := s.resumed x [rec]
      let r := t0.publish u x
      (c.phase = 0 → reads ei t0 c.a none) ∧
      (c.phase = 1 → r.2 = false → later ei 1 c.words) ∧
      (c.phase = 1 → r.2 = true → enters ei id r.1 c.words) ∧
      (c.phase = 2 → later ei 2 c.words) ∧ (c.phase = 3 → enters ei id t0 c.words)) ∧
    (let aligned (a : W64) : Option Trap := if a.toNat % 8 = 0 then none else some (misaligned a)
     (s.Fires ji x → reads ji (s.taken [ctr, rec]) (s.opVal x rec) (aligned (s.opVal x ctr))) ∧
     (∀ c, s.Carried ji x c →
       let t0 := s.resumed x [ctr, rec]
       let want : Want := ⟨true, true, true, .package, false⟩
       let tr := t0.translateFor u x c.a.toNat 0 want false
       (c.phase = 0 → reads ji t0 c.b (aligned c.a)) ∧
       (c.phase = 1 ∨ c.phase = 4 →
         (∀ t e, tr = (t, .fault e) → exec ji s = .next (s.portRaised x ji t c.a c.b c.phase e)) ∧
         (∀ t, (∃ level, tr = (t, .invalid level)) ∨ tr = (t, .wb) →
           ∃ t' h, exec ji s = .next t' ∧ t'.WithheldAt u ji c.phase h ∧ h.va = c.a.toNat) ∧
         ∀ t loc pg e f, tr = (t, .ok loc pg e f) →
           let r := t.publish u x
           let covered : Prop := r.1.heldCovers x.region [⟨c.a.toNat, loc, pg, 8, [], []⟩] false = true
           let due : Prop := c.phase = 4 ∧ r.1.heldDue x.region = true
           (r.2 = false → later ji c.phase c.words) ∧
           (r.2 = true → covered → later ji 4 c.words ∧ ∃ t', exec ji s = .next t' ∧ ∀ h ∈ t'.heldOf x.region, h.due = true) ∧
           (r.2 = true → ¬ covered → due → later ji 4 c.words) ∧
           (r.2 = true → ¬ covered → ¬ due →
             (∀ t2, r.1.decrement u x loc pg = (t2, none) → later ji c.phase c.words) ∧
             ∀ t2 new, r.1.decrement u x loc pg = (t2, some new) →
               let counted := (t2.translateFor u x c.a.toNat 1 want false).1
               (new ≠ 0 → exec ji s = .next (s.carriedTo x (counted.onUnit u fun y => y.write d 0 new))) ∧
               (new = 0 → enters ji zero counted c.words))) ∧
       (c.phase = 2 → later ji 2 c.words) ∧ (c.phase = 3 → enters ji zero t0 c.words)))) ∧
  (∀ (s t : State) (u : Nat) (x : Machine.Unit) (loc : Loc) (pg : PageBits) (bs : List Byte) (v : W64),
    s.homeRead x.part loc 8 pg.cmode pg.depot = (t, .bytes bs) → bs.length = 8 → ∀ t' , s.decrement u x loc pg = (t', some v) →
    (ofBytes bs = 0 → v = 0xFFFFFFFFFFFFFFFF#64 ∧ t' = t.noteRead u loc) ∧ (ofBytes bs ≠ 0 → v.toNat + 1 = ofBytes bs ∧
      t' = (t.noteRead u loc).homeWrite x.part loc pg.cmode pg.depot
        ((List.range 8).map fun i => ((loc.addr + i) % 128, BitVec.ofNat 8 (v.toNat >>> (8 * i)))) [u] ∧
      (loc.kind ≠ .peer → s.keyless x.part loc = false → loc.addr % 8 = 0 → ∀ i < 8,
        t'.homeByte x.part ⟨loc.kind, loc.addr + i⟩ = BitVec.ofNat 8 (v.toNat >>> (8 * i))))) ∧
  (∀ (s : State) (q issuer : Nat) (ws : List W64), (s.queueAt q).window.length < 8 → (s.queueAt q).siding = [] →
    ∃ r, ((s.enterQueue q issuer ws).queueAt q).window = (s.queueAt q).window ++ [r] ∧ r.words = ws ∧ r.since = s.queueNow q ∧
      r.cls = qdClass (s.queueAt q).live ∧ ((s.enterQueue q issuer ws).queueAt q).siding = [] ∧
      (∀ p, p ≠ q → (s.enterQueue q issuer ws).queueAt p = s.queueAt p))

/-- R220, R274, R276, R355, R451: DONE completes the record's part of a region at once, and a depot core's record once its
accesses are performed and its triples delivered, leaving the core idle; YIELD goes on at once where nothing calls for a
switch-out, and else asks for one, which a sequenced unit waits for; a depot core's asks for a pre-emption. That a triggered
YIELD completes at once, and when a depot core's asks for a pre-emption, are the model's reading (log entry 40). -/
def Obligations.DoneAndYield : Prop :=
  ∀ (s : State) (x : Machine.Unit),
    let u := s.cur.unit
    let t := s.taken []
    let core (t : State) : Prop :=
      let ready : Prop := t.performedAt u .package = true ∧ (t.core (coreOf u)).async = []
      (ready → ∃ t', exec .done s = .next t' ∧ t'.unit? u = none ∧ (t'.core (coreOf u)).st = .idle ∧
        (t'.core (coreOf u)).dcount = 0 ∧ t'.sram = t.sram) ∧
      (¬ ready → ∃ t', exec .done s = .next t' ∧ t'.CarriesOn u .done 0)
    (s.Fires .done x → isCore u = false → exec .done s = .next (s.doneWith (t.onRegion x.region fun r => { r with done := true }))) ∧
    (s.Fires .done x → isCore u = true → core t) ∧
    (∀ c, s.Carried .done x c → isCore u = true → core (s.resumed x [])) ∧
    (s.Fires .yield x → isCore u = false →
      (∀ r, t.region? x.region = some r → t.yields x.region r = true →
        (x.isSeq = true → exec .yield s = .next (s.blockedOn (t.requestSwitch x.region) .yield)) ∧
        (x.isSeq = false → exec .yield s = .next (s.doneWith (t.requestSwitch x.region))) ∧
        (t.requestSwitch x.region).region? x.region = some { r with st := .switching, after := .saved }) ∧
      ((∀ r, t.region? x.region = some r → t.yields x.region r = false) → exec .yield s = .next (s.doneWith t))) ∧
    (s.Fires .yield x → isCore u = true → exec .yield s = .next (s.doneWith
      (if t.depotYields (coreOf u) x then t.requestStop (coreOf u) else t)))

/-- R77, R168, R194, R250, R259, R260, R263, R266, R267, R271, R376, R377: the KV instructions wait until the invocation's held
stores and the unit's earlier accesses are performed, act on their structures as one, and give a word of STATUS and value; KVMAP
gives the address of a token's row, and a poisoned one is POISON with the descriptor in SY.FADDR. A descriptor that is no
multiple of 128, or a group that is none of 1,024, is MISALIGNED; a prompt or list handle must resolve. KVAPP checks its list,
takes one entry after the other, ends with the first that has a STATUS, and gives the entries done. A fault of a structure
access is raised by the port, for KVAPP at the firing, where the tokens that the word took are given back; a structure access
that finds an invalid entry is withheld, with nothing done. A byte read beyond a prompt, a list or a row block is recorded
(R96). That the structures change as one transaction and that KVAPP appends one entry a step is the model's reading (log entry
43). R250: a word of a structure is read at its home, and one that is written is written there; one that two agents update is
changed there as one. R251, R254, R255: a pop takes the head of its list, which the link of the element follows; a push puts the
element before it; a group moves GCOUNT with it. A table page comes with all its words 0. A reference that is dropped leaves
COUNT one less, and then a group with no reference and no pin goes back to the free list with ROWS 0, unless a node holds it; a
poisoned one stays off the list, and its node leaves the tree once it has no child. R254, R265: a pin adds 1 to PINS unless the
group is being evicted or PINS is 65,535, an unpin takes 1 away unless PINS is 0; the statuses are 2, 5 and 0, and the value is
the new PINS. After an unpin a group that nothing holds is freed as after a reference that is dropped. R255, R264: KVTRUNC and
KVREL of a descriptor that is not live are NOT_LIVE with 0, and a length above LEN is RANGE with LEN; else KVTRUNC drops one
reference of the group of every block from the new length's last block on and clears its entry, and LEN is the length; KVREL
drops those of all blocks, gives its table pages back and clears their words, and word 0 is 0. Both give the old LEN. R255,
R257, R270: a probe reads the entries from the block's hash on, at most 8,192 of them, and ends at an empty one: it finds the
first node of the block that is not being removed and whose group is taken. A MATCH takes a group by one more COUNT, unless it
is being evicted or poisoned. R255, R261: PFXM of a descriptor that is not live is NOT_LIVE, of one with a length RANGE, each
with 0; else CLOCK goes up and the walk starts at ROOT. For each full block of the prompt a MATCH has its table page first, and
stops with TABLE_EMPTY where none is free; a block that matches no node ends the walk; a match enters the group in the block
table, stamps the node's USE with CLOCK and goes on at the node. A MATCH leaves LEN at 16 times the blocks; both give that
number. R255, R256, R262: PFXI of a descriptor that is not live is NOT_LIVE with 0, and a prompt shorter than LEN is RANGE; else
the walk goes over LEN div 16 blocks from ROOT. At a block that matches it goes on at the node; at another it stops with
POISONED at a poisoned group (log entry 43), and with TREE_FULL where the group has a node already, the node is being removed or
a list is empty; else a new node is inserted: its tokens, group, parent and depth, an entry of the parent's table, one more
child of the parent and the group's NODE. R254, R255, R266: an entry of KVAPP stops with NOT_LIVE, POISONED, RANGE at 1,048,576
tokens, or TABLE_EMPTY; a token that begins a block takes a group with one reference and no rows from the free list, and
FREE_EMPTY stops it; another goes into the sequence's group, or, where that is shared or has a node, into a copy of its rows,
whose reference the old one gives up. The rows are written at the token's place of every slice, then ROWS and, last, LEN. -/
def Obligations.KvInstructions : Prop :=
  (∀ (s : State) (x : Machine.Unit) (probe unpin : Bool) (d : Dst) (a b : Src),
    let u := s.cur.unit
    let e := kvEnv u x
    let later (i : Instr) (phase : Nat) (ws : List W64) : Prop := ∃ t y c, exec i s = .next t ∧ t.unit? u = some y ∧
      y.blocked = some (.again i c) ∧ c.phase = phase ∧ c.hold = none ∧ (1 < phase → c.words = ws)
    let gives (i : Instr) (upd : Upd) (t : State) (r : Nat × Nat) : Prop :=
      exec i s = .next (t.finish u upd d 0 (BitVec.ofNat 64 (r.1 * 2 ^ 56 + r.2 % 2 ^ 56)) 1)
    let held (i : Instr) (phase va : Nat) (wb : Bool) : Prop :=
      ∃ t h, exec i s = .next t ∧ t.WithheldAt u i phase h ∧ h.va = va ∧ h.wb = wb
    let aligned (w : W64) (n : Nat) : Option Trap := if w.toNat % n = 0 then none else some (misaligned w)
    let prompt (t : State) (va vb : W64) : Option Trap := match aligned va 128 with
      | some e => some e
      | none => match t.needBlock x.ctx vb with
        | .error e => some e
        | .ok _ => none
    let form (i : Instr) (srcs : List Src) (as bs : Src) (gate : State → W64 → Bool) (bad : State → W64 → W64 → Option Trap)
        (run : W64 → W64 → KvM (Nat × Nat)) : Prop :=
      let body (t0 : State) (va vb : W64) (phase : Nat) (upd : Upd) : Prop :=
        let r := t0.publish u x
        (phase = 0 → gate t0 vb = false → later i 0 []) ∧
        ((phase = 0 → gate t0 vb = true) →
          (∀ e, bad t0 va vb = some e → exec i s = .next (s.trapped e)) ∧
          (bad t0 va vb = none → r.2 = false → later i 1 []) ∧
          (bad t0 va vb = none → r.2 = true →
            (∀ v t, run va vb r.1 = .ok v t → gives i upd t v) ∧
            (∀ e, run va vb r.1 = .fault e → exec i s = .next (s.portRaised x i r.1 va vb phase e)) ∧
            (∀ at_ level access wb, run va vb r.1 = .hold at_ level access wb → held i phase at_ wb)))
      (s.Fires i x → body (s.taken srcs) (s.opVal x as) (s.opVal x bs) 0 s.cur.upd) ∧
      (∀ c, s.Carried i x c → body (s.resumed x srcs) c.a c.b c.phase x.blockedUpd)
    let quiet (t : State) (h : W64) : Bool := t.blockQuiet u h
    let always (_ : State) (_ : W64) : Bool := true
    let one (n : Nat) (_ : State) (va _ : W64) : Option Trap := aligned va n
    let prompted (f : Nat → Nat → (Nat → KvM Nat) → KvM (Nat × Nat)) (va vb : W64) : KvM (Nat × Nat) := fun t =>
      match t.needBlock x.ctx vb with
      | .error e => .fault e
      | .ok blk => f va.toNat (t.promptLen vb blk) (promptTokens u vb blk) (t.noteRun u vb blk 0 8)
    form (.pfxm probe d a b) [a, b] a b quiet prompt (prompted (e.pfxm probe)) ∧
    form (.pfxi d a b) [a, b] a b quiet prompt (prompted e.pfxi) ∧
    form (.kvtrunc d a b) [a, b] a b always (one 128) (fun va vb => e.trunc va.toNat vb.toNat) ∧
    form (.kvrel d a) [a] a (.sp .zero) always (one 128) (fun va _ => e.rel va.toNat) ∧
    form (.kvpin unpin d a) [a] a (.sp .zero) always (one 1024) (fun va _ => e.pin unpin va.toNat) ∧
    (let i := Instr.kvmap d a b
     let body (t0 : State) (va vb : W64) (phase : Nat) (upd : Upd) : Prop :=
       (va.toNat % 128 ≠ 0 → exec i s = .next (s.trapped (misaligned va))) ∧
       (va.toNat % 128 = 0 →
         (∀ n t, e.lookup va.toNat vb.toNat t0 = .ok (.addr n) t → gives i upd t (0, n)) ∧
         (∀ n t, e.lookup va.toNat vb.toNat t0 = .ok (.status n) t → gives i upd t (n, 0)) ∧
         (∀ t, e.lookup va.toNat vb.toNat t0 = .ok .poison t →
           exec i s = .next (s.portRaised x i t va vb phase ⟨.poison, 0, va⟩)) ∧
         (∀ f, e.lookup va.toNat vb.toNat t0 = .fault f → exec i s = .next (s.portRaised x i t0 va vb phase f)) ∧
         (∀ at_ level access wb, e.lookup va.toNat vb.toNat t0 = .hold at_ level access wb → held i phase at_ wb))
     (s.Fires i x → body (s.taken [a, b]) (s.opVal x a) (s.opVal x b) 0 s.cur.upd) ∧
     (∀ c, s.Carried i x c → body (s.resumed x [a, b]) c.a c.b c.phase x.blockedUpd)) ∧
    (let i := Instr.kvapp d a b
     let begins (t0 : State) (va vb : W64) : Prop :=
       (t0.blockQuiet u va = false → later i 0 []) ∧
       (t0.blockQuiet u va = true →
         (∀ f, t0.listCount u x va vb.toNat = .error f → exec i s = .next (s.trapped f)) ∧
         (∀ t1 n, t0.listCount u x va vb.toNat = .ok (t1, n) → ∃ t y c, exec i s = .next t ∧ t.unit? u = some y ∧
           y.blocked = some (.again i c) ∧ c.phase = 1 ∧ c.hold = none ∧ c.words = [BitVec.ofNat 64 n]))
     (s.Fires i x → begins (s.taken [a, b]) (s.opVal x a) (s.opVal x b)) ∧
     (∀ c, s.Carried i x c →
       let t0 := s.resumed x [a, b]
       let r := t0.publish u x
       let n := (c.words.getD 0 0).toNat
       let k := c.phase - 2
       (c.phase = 0 → begins t0 c.a c.b) ∧
       (c.phase = 1 → r.2 = false → later i 1 c.words) ∧
       (c.phase = 1 → r.2 = true → later i (c.b.toNat + 2) c.words) ∧
       (2 ≤ c.phase → n ≤ k → gives i x.blockedUpd t0 (0, n)) ∧
       (2 ≤ c.phase → k < n →
         let stops (t : State) (f : Trap) : Prop := exec i s = .next (s.trappedAfter x t f)
         (∀ f, t0.listEntry u x c.a k = .error f → stops t0 f) ∧
         ∀ q sd h, t0.listEntry u x c.a k = .ok (q, sd, h) →
           (sd.toNat % 128 ≠ 0 → stops q (misaligned sd)) ∧
           (sd.toNat % 128 = 0 → (∀ f, q.needBlock x.ctx h = .error f → stops q f) ∧
             ∀ blk, q.needBlock x.ctx h = .ok blk →
               (∀ f, e.appendHead sd.toNat q = .fault f → stops q f) ∧
               (∀ at_ level access wb, e.appendHead sd.toNat q = .hold at_ level access wb → held i c.phase at_ wb) ∧
               (∀ st m t, e.appendHead sd.toNat q = .ok (some st, m) t → gives i x.blockedUpd t (st, k)) ∧
               ∀ len slices tokb t1, e.appendHead sd.toNat q = .ok (none, len, slices, tokb) t1 →
                 let rows := e.appendRows sd.toNat len slices tokb
                   (fun j => t1.blockBytes (hStn h) blk (hOff h + j * tokb) tokb) (t1.noteRun u h blk 0 (slices * tokb))
                 (∀ f, rows = .fault f → stops t1 f) ∧
                 (∀ at_ level access wb, rows = .hold at_ level access wb → held i c.phase at_ wb) ∧
                 (∀ st t, rows = .ok (some st) t → gives i x.blockedUpd t1 (st, k)) ∧
                 (∀ t, rows = .ok none t → later i (c.phase + 1) c.words)))))) ∧
  (∀ (e : KvEnv) (va v n : Nat) (f : Nat → Nat) (bs : List Byte) (s t : State) (l : Loc) (pg : PageBits) (x y : Nat),
    let bytes (v : Nat) : List Byte := (List.range 8).map fun i => BitVec.ofNat 8 (v >>> (8 * i))
    let wrote (bs : List Byte) : State := t.homeSync e.part l.kind l.addr bs pg.cmode pg.depot
    let old := t.homeNat e.part l 8
    (e.tr s va wantRead = (t, .ok l pg x y) → (e.q va).To s old t ∧ (e.rd n va).To s (t.homeNat e.part l n) t) ∧
    (e.tr s va wantWrite = (t, .ok l pg x y) → (e.put va bs).To s ⟨⟩ (wrote bs) ∧ (e.st va v).To s ⟨⟩ (wrote (bytes v))) ∧
    (e.tr s va ⟨true, true, true, .package, false⟩ = (t, .ok l pg x y) →
      (e.rmw 8 va f).To s old (wrote (bytes (f old % 2 ^ 64))) ∧ (e.upd va f).To s ⟨⟩ (wrote (bytes (f old % 2 ^ 64))))) ∧
  (∀ (e : KvEnv) (g p : Nat) (s s1 s2 s3 s4 s5 : State) (w x nx node kids : Nat),
    let less (w : Nat) : Nat := w - w % 2 ^ 32 + (w % 2 ^ 32 + 2 ^ 32 - 1) % 2 ^ 32
    let more (w : Nat) : Nat := w - w % 2 ^ 32 + (w % 2 ^ 32 + 1) % 2 ^ 32
    let unused : Prop := w % 2 ^ 32 = 0 ∧ w / 2 ^ 32 % 2 ^ 16 = 0
    ((e.cbq 0).To s 0 s1 → e.popGroup.To s 0 s1) ∧ ((e.cbq 24).To s 0 s1 → e.popTable.To s 0 s1) ∧
    (x ≠ 0 → (e.cbq 0).To s x s1 → (e.q (x + 536)).To s1 nx s2 → (e.cbupd 0 fun _ => nx).To s2 ⟨⟩ s3 → (e.cbupd 8 less).To s3 ⟨⟩ s4 →
      e.popGroup.To s x s4) ∧
    (x ≠ 0 → (e.cbq 24).To s x s1 → (e.q x).To s1 nx s2 → (e.cbupd 24 fun _ => nx).To s2 ⟨⟩ s3 →
      (e.put x (List.replicate 65536 0)).To s3 ⟨⟩ s4 → e.popTable.To s x s4) ∧
    ((e.cbq 0).To s x s1 → (e.st (g + 536) x).To s1 ⟨⟩ s2 → (e.cbupd 0 fun _ => g).To s2 ⟨⟩ s3 → (e.cbupd 8 more).To s3 ⟨⟩ s4 →
      (e.pushGroup g).To s ⟨⟩ s4) ∧
    ((e.cbq 24).To s x s1 → (e.st p x).To s1 ⟨⟩ s2 → (e.cbupd 24 fun _ => p).To s2 ⟨⟩ s3 → (e.pushTable p).To s ⟨⟩ s3) ∧
    ((e.upd (g + 512) fun w => w + 2 ^ 64 - 1).To s ⟨⟩ s1 → (e.q (g + 512)).To s1 w s2 →
      (¬ unused → (e.dropRef g).To s ⟨⟩ s2) ∧
      (unused → (e.q (g + 520)).To s2 node s3 →
        (w.testBit 62 = false → node = 0 → (e.pushGroup g).To s3 ⟨⟩ s4 → (e.st (g + 528) 0).To s4 ⟨⟩ s5 → (e.dropRef g).To s ⟨⟩ s5) ∧
        ((node = 0 ↔ w.testBit 62 = true) → (e.dropRef g).To s ⟨⟩ s3) ∧
        (w.testBit 62 = true → node ≠ 0 → (e.q (node + 88)).To s3 kids s4 →
          (kids % 2 ^ 32 ≠ 0 ∨ kids.testBit 63 = true → (e.dropRef g).To s ⟨⟩ s4) ∧
          (kids % 2 ^ 32 = 0 → kids.testBit 63 = false → (e.st (g + 520) 0).To s4 ⟨⟩ s5 →
            ∀ t, (e.leave 65537 node).To s5 ⟨⟩ t → (e.dropRef g).To s ⟨⟩ t))))) ∧
  (∀ (e : KvEnv) (g old : Nat) (s t r : State),
    let pins := old / 2 ^ 32 % 2 ^ 16
    ((e.rmw 8 (g + 512) fun w => if w.testBit 63 = true ∨ w / 2 ^ 32 % 2 ^ 16 = 65535 then w else w + 2 ^ 32).To s old t →
      (e.pin false g).To s (if old.testBit 63 then (2, pins) else if pins = 65535 then (5, pins) else (0, pins + 1)) t) ∧
    ((e.rmw 8 (g + 512) fun w => if w / 2 ^ 32 % 2 ^ 16 = 0 then w else w - 2 ^ 32).To s old t →
      (pins = 0 → (e.pin true g).To s (5, 0) t) ∧ (pins ≠ 0 → (e.after g).To t ⟨⟩ r → (e.pin true g).To s (0, pins - 1) r))) ∧
  (∀ (e : KvEnv) (d len : Nat) (s s1 : State) (w0 : Nat), (e.q d).To s w0 s1 →
    let old := w0 % 2 ^ 21
    let up (n : Nat) : Nat := (n + 15) / 16
    let l1 (b : Nat) : Nat := d + 32 + 8 * (b / 8192)
    let gone (clear : Bool) (b : Nat) (q t : State) : Prop :=
      (∃ q1, (e.q (l1 b)).To q 0 q1 ∧ t = q1) ∨
      (∃ p q1 q2, p ≠ 0 ∧ (e.q (l1 b)).To q p q1 ∧ (e.q (p + 8 * (b % 8192))).To q1 0 q2 ∧ t = q2) ∨
      (∃ p g q1 q2, p ≠ 0 ∧ g ≠ 0 ∧ (e.q (l1 b)).To q p q1 ∧ (e.q (p + 8 * (b % 8192))).To q1 g q2 ∧
        ((clear = false ∧ (e.dropRef g).To q2 ⟨⟩ t) ∨
         (clear = true ∧ ∃ p' q3 q4, (e.q (l1 b)).To q2 p' q3 ∧ (e.st (p' + 8 * (b % 8192)) 0).To q3 ⟨⟩ q4 ∧
          (e.dropRef g).To q4 ⟨⟩ t)))
    let page (k : Nat) (q t : State) : Prop :=
      ((e.q (d + 32 + 8 * k)).To q 0 t) ∨
      (∃ p q1 q2, p ≠ 0 ∧ (e.q (d + 32 + 8 * k)).To q p q1 ∧ (e.pushTable p).To q1 ⟨⟩ q2 ∧ (e.st (d + 32 + 8 * k) 0).To q2 ⟨⟩ t)
    let chain (n : Nat) (one : Nat → State → State → Prop) (q t : State) : Prop :=
      ∃ f : Nat → State, f 0 = q ∧ f n = t ∧ ∀ i, i < n → one i (f i) (f (i + 1))
    (w0.testBit 62 = false → (e.trunc d len).To s (6, 0) s1 ∧ (e.rel d).To s (6, 0) s1) ∧
    (w0.testBit 62 = true → old < len → (e.trunc d len).To s (5, old) s1) ∧
    (w0.testBit 62 = true → len ≤ old → ∀ t t', chain (up old - up len) (fun i => gone true (up len + i)) s1 t →
      (e.upd d fun w => w - w % 2 ^ 21 + len).To t ⟨⟩ t' → (e.trunc d len).To s (0, old) t') ∧
    (w0.testBit 62 = true → ∀ t t' t'', chain (up old) (gone false) s1 t → chain 8 page t t' → (e.upd d fun _ => 0).To t' ⟨⟩ t'' →
      (e.rel d).To s (0, old) t'')) ∧
  (∀ (e : KvEnv) (ctab toks v n g w fuel k : Nat) (take : Nat → KvM Bool) (s s1 s2 : State)
    (stop : Nat → Nat → KvM (Option (Nat × Nat))) (r : Option (Nat × Nat)),
    let slot := (blockHash toks + k) % 8192
    let probe := e.probe ctab (blockHash toks) stop
    let mine (_ v : Nat) : KvM (Option (Nat × Nat)) := fun q => match e.matches toks v q with
      | .ok false q => .ok none q
      | .ok true q => (match e.q (v + 64) q with
        | .ok g q => (match take g q with
          | .ok ok q => .ok (if ok then some (v, g) else none) q
          | .fault t => .fault t
          | .hold a b c wb => .hold a b c wb)
        | .fault t => .fault t
        | .hold a b c wb => .hold a b c wb)
      | .fault t => .fault t
      | .hold a b c wb => .hold a b c wb
    ((e.find 0 toks take).To s none s) ∧ (ctab ≠ 0 → e.find ctab toks take = e.probe ctab (blockHash toks) mine 8192 0) ∧
    ((probe 0 k).To s none s) ∧
    ((e.q (ctab + 8 * slot)).To s v s1 → (stop slot v).To s1 r s2 →
      (r ≠ none → (probe (fuel + 1) k).To s r s2) ∧ (r = none → v = 0 → (probe (fuel + 1) k).To s none s2) ∧
      (r = none → v ≠ 0 → probe (fuel + 1) k s = probe fuel (k + 1) s2)) ∧
    (v < 2 → (e.matches toks v).To s false s) ∧
    (2 ≤ v → (e.rd 64 v).To s n s1 → (n ≠ toks → (e.matches toks v).To s false s1) ∧
      (n = toks → (e.q (v + 88)).To s1 w s2 → (e.matches toks v).To s (!w.testBit 63) s2)) ∧
    ((e.rmw 8 (g + 512) fun w => if w.testBit 63 = true ∨ w.testBit 62 = true then w else w + 1).To s w s1 →
      (e.takeRef g).To s (!(w.testBit 63 || w.testBit 62)) s1) ∧
    ((e.q (g + 512)).To s w s1 → (e.sound g).To s (!(w.testBit 63 || w.testBit 62)) s1 ∧ (e.unpoisoned g).To s (!w.testBit 62) s1)) ∧
  (∀ (e : KvEnv) (probe : Bool) (d n clock root p block ctab c g m left node : Nat) (toks : Nat → KvM Nat) (w0 : Nat) (r : Nat × Nat)
    (s s1 s2 s3 s4 s5 s6 s7 : State),
    let walk := e.pfxmWalk probe d clock toks
    let l1 := d + 32 + 8 * (m / 8192)
    (p ≠ 0 → (e.q l1).To s p s1 → (e.table d m).To s true s1) ∧
    ((e.q l1).To s 0 s1 → e.popTable.To s1 p s2 → (p = 0 → (e.table d m).To s false s2) ∧
      (p ≠ 0 → (e.st l1 p).To s2 ⟨⟩ s3 → (e.table d m).To s true s3)) ∧
    ((e.q d).To s w0 s1 →
      (w0.testBit 62 = false → (e.pfxm probe d n toks).To s (6, 0) s1) ∧
      (w0.testBit 62 = true → w0 % 2 ^ 21 ≠ 0 → (e.pfxm probe d n toks).To s (5, 0) s1) ∧
      (w0.testBit 62 = true → w0 % 2 ^ 21 = 0 → (e.cbupd 40 fun v => v + 1).To s1 ⟨⟩ s2 → (e.cbq 40).To s2 clock s3 →
        (e.cbq 32).To s3 root s4 → (walk (min (n / 16) 65536) root 0).To s4 r s5 →
        (probe = true → (e.pfxm probe d n toks).To s (r.1, 16 * r.2) s5) ∧
        (probe = false → (e.upd d fun w => w - w % 2 ^ 21 + 16 * r.2).To s5 ⟨⟩ s6 →
          (e.pfxm probe d n toks).To s (r.1, 16 * r.2) s6))) ∧
    ((walk 0 node m).To s (0, m) s) ∧
    (probe = false → (e.table d m).To s false s1 → (walk (left + 1) node m).To s (7, m) s1) ∧
    ((probe = true ∧ s = s1) ∨ (probe = false ∧ (e.table d m).To s true s1) → (toks m).To s1 block s2 → (e.q (node + 80)).To s2 ctab s3 →
      ((e.find ctab block (if probe then e.sound else e.takeRef)).To s3 none s4 → (walk (left + 1) node m).To s (0, m) s4) ∧
      ((e.find ctab block (if probe then e.sound else e.takeRef)).To s3 (some (c, g)) s4 →
        (probe = false → (e.q l1).To s4 p s5 → (e.st (p + 8 * (m % 8192)) g).To s5 ⟨⟩ s6 → (e.st (c + 96) clock).To s6 ⟨⟩ s7 →
          walk (left + 1) node m s = walk left c (m + 1) s7) ∧
        (probe = true → (e.matched true d clock m c g).To s4 ⟨⟩ s5 → walk (left + 1) node m s = walk left c (m + 1) s5)))) ∧
  (∀ (e : KvEnv) (d n clock root block ctab c g left node b p : Nat) (toks : Nat → KvM Nat) (w0 w held cw nfree tfree tab i : Nat)
    (s s1 s2 s3 s4 s5 s6 s7 s8 s9 : State),
    let walk := e.pfxiWalk d clock toks
    let attach := e.attach node g block clock b
    let bytes (k v : Nat) : List Byte := (List.range k).map fun j => BitVec.ofNat 8 (v >>> (8 * j))
    ((e.q d).To s w0 s1 →
      (w0.testBit 62 = false → (e.pfxi d n toks).To s (6, 0) s1) ∧
      (w0.testBit 62 = true → n < w0 % 2 ^ 21 → (e.pfxi d n toks).To s (5, 0) s1) ∧
      (w0.testBit 62 = true → w0 % 2 ^ 21 ≤ n → (e.cbq 40).To s1 clock s2 → (e.cbq 32).To s2 root s3 →
        e.pfxi d n toks s = walk (w0 % 2 ^ 21 / 16) root 0 s3)) ∧
    ((walk 0 node b).To s (0, b) s) ∧
    ((toks b).To s block s1 → (e.q (node + 80)).To s1 ctab s2 →
      (∀ r, r = (c, g) → (e.find ctab block e.unpoisoned).To s2 (some r) s3 → walk (left + 1) node b s = walk left c (b + 1) s3) ∧
      (p ≠ 0 → (e.find ctab block e.unpoisoned).To s2 none s3 → (e.q (d + 32 + 8 * (b / 8192))).To s3 p s4 →
        (e.q (p + 8 * (b % 8192))).To s4 g s5 → (e.q (g + 512)).To s5 w s6 →
        (w.testBit 62 = true → (walk (left + 1) node b).To s (3, b) s6) ∧
        (w.testBit 62 = false → (e.q (g + 520)).To s6 held s7 →
          (held ≠ 0 → (walk (left + 1) node b).To s (4, b) s7) ∧
          (held = 0 → attach.To s7 none s8 → (walk (left + 1) node b).To s (4, b) s8) ∧
          (held = 0 → attach.To s7 (some c) s8 → walk (left + 1) node b s = walk left c (b + 1) s8)))) ∧
    ((e.q (node + 88)).To s cw s1 → (e.q (node + 80)).To s1 ctab s2 → (e.cbq 16).To s2 nfree s3 → (e.cbq 24).To s3 tfree s4 →
      (cw.testBit 63 = true ∨ nfree = 0 ∨ (ctab = 0 ∧ tfree = 0) → attach.To s none s4) ∧
      (cw.testBit 63 = false → nfree ≠ 0 → (ctab = 0 → tfree ≠ 0) →
        (ctab = 0 ∧ e.popTable.To s4 tab s5) ∨ (ctab ≠ 0 ∧ tab = ctab ∧ s5 = s4) →
        let slots := e.probe tab (blockHash block) (fun slot v => KvM.pure (if v < 2 then some slot else none)) 8192 0
        (slots.To s5 none s6 → attach.To s none s6) ∧
        (slots.To s5 (some i) s6 → e.popNode.To s6 c s7 →
          (e.put c (bytes 64 block ++ bytes 8 g ++ bytes 8 node ++ bytes 8 0 ++ bytes 8 0 ++ bytes 8 clock ++ bytes 8 (b + 1)
            ++ List.replicate 144 0)).To s7 ⟨⟩ s8 →
          (ctab = 0 ∧ (e.st (node + 80) tab).To s8 ⟨⟩ s9) ∨ (ctab ≠ 0 ∧ s9 = s8) →
          ∀ t1 t2 t3, (e.upd (node + 88) fun v => v + 1).To s9 ⟨⟩ t1 → (e.upd (tab + 8 * i) fun _ => c).To t1 ⟨⟩ t2 →
            (e.st (g + 520) c).To t2 ⟨⟩ t3 → attach.To s (some c) t3)))) ∧
  (∀ (e : KvEnv) (d w0 g g2 p len slices tokb w node : Nat) (row : Nat → List Byte) (ok : Bool) (s s1 s2 s3 s4 s5 s6 : State),
    let b := len / 16
    let r := len % 16
    let l1 := d + 32 + 8 * (b / 8192)
    let enters (g : Nat) (q t : State) : Prop := ∃ p q1, (e.q l1).To q p q1 ∧ (e.st (p + 8 * (b % 8192)) g).To q1 ⟨⟩ t
    let chain (n : Nat) (one : Nat → State → State → Prop) (q t : State) : Prop :=
      ∃ f : Nat → State, f 0 = q ∧ f n = t ∧ ∀ i, i < n → one i (f i) (f (i + 1))
    let group := e.appendGroup d len slices tokb
    let rows := e.appendRows d len slices tokb row
    ((e.q d).To s w0 s1 → len = w0 % 2 ^ 21 →
      (w0.testBit 62 = false → (e.appendHead d).To s (some 6, 0, 0, 0) s1) ∧
      (w0.testBit 62 = true → w0.testBit 63 = true → (e.appendHead d).To s (some 3, 0, 0, 0) s1) ∧
      (w0.testBit 62 = true → w0.testBit 63 = false →
        (len = 1048576 → (e.appendHead d).To s (some 5, 0, 0, 0) s1) ∧
        (len ≠ 1048576 → (e.model d).To s1 (slices, tokb) s2 → (e.table d b).To s2 ok s3 →
          (e.appendHead d).To s (if ok then none else some 7, len, slices, tokb) s3))) ∧
    (r = 0 → e.popGroup.To s g s1 → (g = 0 → group.To s 0 s1) ∧
      (g ≠ 0 → (e.st (g + 512) 1).To s1 ⟨⟩ s2 → (e.st (g + 528) 0).To s2 ⟨⟩ s3 → enters g s3 s4 → group.To s g s4)) ∧
    (r ≠ 0 → p ≠ 0 → (e.q l1).To s p s1 → (e.q (p + 8 * (b % 8192))).To s1 g s2 → (e.q (g + 512)).To s2 w s3 →
      (e.q (g + 520)).To s3 node s4 →
      (w % 2 ^ 32 ≤ 1 → node = 0 → group.To s g s4) ∧
      (1 < w % 2 ^ 32 ∨ node ≠ 0 → e.popGroup.To s4 g2 s5 → (g2 = 0 → group.To s 0 s5) ∧
        (g2 ≠ 0 → chain slices (fun k q t => ∃ a c v q1 q2 q3, (e.q (g2 + 8 * k)).To q a q1 ∧ (e.q (g + 8 * k)).To q1 c q2 ∧
            ((r * tokb = 0 ∧ t = q2) ∨ (r * tokb ≠ 0 ∧ (e.rd (r * tokb) c).To q2 v q3 ∧
              (e.put a ((List.range (r * tokb)).map fun i => BitVec.ofNat 8 (v >>> (8 * i)))).To q3 ⟨⟩ t))) s5 s6 →
          ∀ t1 t2 t3 t4, (e.st (g2 + 512) 1).To s6 ⟨⟩ t1 → (e.st (g2 + 528) r).To t1 ⟨⟩ t2 → enters g2 t2 t3 →
            (e.dropRef g).To t3 ⟨⟩ t4 → group.To s g2 t4))) ∧
    (group.To s 0 s1 → rows.To s (some 1) s1) ∧
    (g ≠ 0 → group.To s g s1 → chain slices (fun k q t => ∃ a q1, (e.q (g + 8 * k)).To q a q1 ∧ (e.put (a + r * tokb) (row k)).To q1 ⟨⟩ t) s1 s2 →
      (e.st (g + 528) (r + 1)).To s2 ⟨⟩ s3 → (e.upd d fun w => w - w % 2 ^ 21 + (len + 1)).To s3 ⟨⟩ s4 → rows.To s none s4))

/-- R118: the block of a counter and a key is that of ten rounds of Philox-4×32, the key bumped between them. R118: a record
that starts a region leaves every generator of its units with counter 0 and key 0. R96, R119, R168, R291, R292, R416: an RNG
writes lane j with word j mod 4 of the block of counter C + j div 4, and advances the counter by a quarter of the lanes rounded
up, whatever the live mask holds; RNGSET takes counter and key from its image, RNGGET writes them; the image stands in a block,
or in a depot core's local SRAM. Another image than one at a multiple of 32 bytes is MISALIGNED, reserved bits in it ILLEGAL
with DETAIL 2, and a block's handle must resolve. An image in another station is written by a request; one is read with the
unit's earlier accesses to the block performed. None of the three blocks. -/
def Obligations.RandomNumbers : Prop :=
  ((∀ p : Philox, p.mix = { p with
      c0 := (0xCD9E8D57 * p.c2 / 2 ^ 32 % 2 ^ 32) ^^^ p.c1 ^^^ p.k0
      c1 := 0xCD9E8D57 * p.c2 % 2 ^ 32
      c2 := (0xD2511F53 * p.c0 / 2 ^ 32 % 2 ^ 32) ^^^ p.c3 ^^^ p.k1
      c3 := 0xD2511F53 * p.c0 % 2 ^ 32 }) ∧
  (∀ p : Philox, p.bump = { p with k0 := (p.k0 + 0x9E3779B9) % 2 ^ 32, k1 := (p.k1 + 0xBB67AE85) % 2 ^ 32 }) ∧
  (∀ c k : Nat, c < 2 ^ 128 → k < 2 ^ 64 → ∀ p : Philox,
    p = (Nat.repeat (fun q => q.bump.mix) 9 (Philox.mix ⟨c % 2 ^ 32, c / 2 ^ 32 % 2 ^ 32, c / 2 ^ 64 % 2 ^ 32, c / 2 ^ 96,
      k % 2 ^ 32, k / 2 ^ 32⟩)) → philox c k = p.c0 + 2 ^ 32 * (p.c1 + 2 ^ 32 * (p.c2 + 2 ^ 32 * p.c3)))) ∧
  (∀ (st : Station) (r ctx part cls : Nat) (line : Nat × Nat) (n first : Nat) (sd : StnDecl) (e : ElemDecl)
    (ds : List (NewArc × Dest)) (rec : List W64) (g : Fin 4),
    (startUnit st r ctx part cls line n first sd e ds rec).gen g = ⟨0, 0⟩) ∧
  (∀ (s : State) (x : Machine.Unit) (g : Fin 4) (d : Dst) (img : Src),
    let u := s.cur.unit
    let v := s.opVal x img
    let t := s.taken [img]
    let nat (bs : List Byte) (lo n : Nat) : Nat := ofBytes ((List.range n).map fun i => bs.getD (lo + i) 0)
    let image : List (Nat × Byte) := (List.range 32).map fun i =>
      (i, BitVec.ofNat 8 (((x.gen g).counter.toNat + 2 ^ 128 * (x.gen g).key.toNat) / 2 ^ (8 * i)))
    let sets (r : State) (bs : List Byte) : Prop :=
      (nat bs 24 8 ≠ 0 → exec (.rngset g img) s = .next (s.raised (illegal 2))) ∧
      (nat bs 24 8 = 0 → exec (.rngset g img) s = .next ((r.onUnit u fun y => y.setGen g
        ⟨BitVec.ofNat 128 (nat bs 0 16), BitVec.ofNat 64 (nat bs 16 8)⟩).finish u s.cur.upd .discard 0 0 2))
    let wrote (r : State) : Prop := exec (.rngget g img) s = .next (r.finish u s.cur.upd .discard 0 0 2)
    let both (P : Instr → Prop) : Prop :=
      (s.Fires (.rngset g img) x → P (.rngset g img)) ∧ (s.Fires (.rngget g img) x → P (.rngget g img))
    let places (o : Nat) : List Nat := (List.range 32).map fun i => o + i
    (s.Fires (.rng g d) x → ∃ vec sc, exec (.rng g d) s = .next (((s.taken []).onUnit u fun y => y.setGen g
        { y.gen g with counter := (y.gen g).counter + BitVec.ofNat 128 ((y.lanes + 3) / 4) }).finish u s.cur.upd d vec sc 4) ∧
      (∀ j, j < x.lanes → valAt 32 vec j = philox (((x.gen g).counter.toNat + j / 4) % 2 ^ 128) (x.gen g).key.toNat / 2 ^ (32 * (j % 4)) % 2 ^ 32) ∧
      sc.toNat = philox (x.gen g).counter.toNat (x.gen g).key.toNat % 2 ^ 32) ∧
    (isCore u = true →
      both (fun i => v.toNat % 32 ≠ 0 → exec i s = .next (s.raised (misaligned 0))) ∧
      (s.Fires (.rngset g img) x → v.toNat % 32 = 0 →
        sets (t.noteLocal u (places v.toNat)) (t.localBytes (coreOf u) v.toNat 32)) ∧
      (s.Fires (.rngget g img) x → v.toNat % 32 = 0 → wrote ((t.noteLocal u (places v.toNat)).localPut (coreOf u)
        (image.map fun p => (v.toNat + p.1, p.2))))) ∧
    (isCore u = false →
      both (fun i => ∀ e, t.needBlock x.ctx v = .error e → exec i s = .next (s.raised e)) ∧
      both (fun i => ∀ b, t.needBlock x.ctx v = .ok b → hOff v % 32 ≠ 0 → exec i s = .next (s.raised (misaligned 0))) ∧
      ∀ b, t.needBlock x.ctx v = .ok b → hOff v % 32 = 0 →
        let noted := t.noteOor u v b (places (hOff v))
        let settled := t.settleBlock u v
        let cells := image.map fun p => (hOff v + p.1, p.2)
        (s.Fires (.rngset g img) x → sets (settled.noteOor u v b (places (hOff v))) (settled.blockBytes (hStn v) b (hOff v) 32)) ∧
        (s.Fires (.rngget g img) x → hStn v ≠ stnOf u → wrote (noted.send u (.blockWrite v cells)).1) ∧
        (s.Fires (.rngget g img) x → hStn v = stnOf u → wrote (noted.blockPut (stnOf u) b cells) ∧
          ∀ i, i < 32 → hOff v + i < 32 * 2 ^ b.k →
            Memory.read (noted.blockPut (stnOf u) b cells).scratch (stnOf u * 2 ^ 22 + 32 * b.first + (hOff v + i)) =
              BitVec.ofNat 8 (((x.gen g).counter.toNat + 2 ^ 128 * (x.gen g).key.toNat) / 2 ^ (8 * i)))))

/-- R96, R194, R281, R282, R353, R375: VLD and VST of the local SRAM act at once, on the live lanes, and bytes beyond it read as
0 and are dropped; the other forms send their events to the stack, a VLD going on with the load outstanding into its register;
an address that is no multiple of 4 is MISALIGNED, a fault of the translation is raised by the port, and an access that finds an
invalid entry is withheld and carried on once it is released. -/
def Obligations.DepotLoadsAndStores : Prop :=
  ∀ (s : State) (x : Machine.Unit) (d vs : VReg) (n : SReg),
    let u := s.cur.unit
    let a := x.sReg n
    let t0 := s.taken []
    let c := coreOf u
    let li := Instr.vld false d n
    let si := Instr.vst false n vs
    let access (i : Instr) (r : State × PortRes) (a b : W64) (goes : State → List Event → Prop) : Prop :=
      (∀ t e, r = (t, .fault e) → exec i s = .next (s.portRaised x i t a b 0 e)) ∧
      (∀ t h, r = (t, .hold h) → ∃ t', exec i s = .next t' ∧ t'.WithheldAt u i 0 h) ∧
      (∀ t evs, r = (t, .ok evs) → goes t evs)
    let loads (t0 : State) (a b : W64) (done : State → State) : Prop :=
      access li (t0.translateAccess u x wantRead true (loadPieces a.toNat 256)) a b fun t evs =>
        exec li s = .next (done ((t.send u (.access evs none (.v d x.lm))).1.onUnit u fun y =>
          { y with loads := y.loads ++ [(t.ids, .v d x.lm)] }))
    let stores (t0 : State) (a b : W64) (done : State → State) : Prop :=
      access si (t0.translateAccess u x wantWrite true (vstPieces a.toNat (vstBytes x vs))) a b fun t evs =>
        let live := evs.filter fun e => !e.wr.isEmpty
        exec si s = .next (done (if live = [] then t else (t.send u (.access live none .none)).1))
    (s.Fires (.vld true d n) x → a.toNat % 4 = 0 → exec (.vld true d n) s = .next ((t0.noteLocal u (laneOffs x a.toNat)).finish u s.cur.upd
      (.v d) (ofBytes ((List.range 256).map fun i => if a.toNat + i < 0x100000 then Memory.read s.sram (c * 0x100000 + (a.toNat + i)) else 0)) 0 1)) ∧
    (s.Fires (.vst true n vs) x → a.toNat % 4 = 0 → ∃ t', exec (.vst true n vs) s = .next (s.doneWith t') ∧
      (∀ j i, j < x.lanes → x.lm.getLsbD j = true → i < 4 → a.toNat + 4 * j + i < 0x100000 →
        Memory.read t'.sram (c * 0x100000 + (a.toNat + 4 * j + i)) = BitVec.ofNat 8 ((x.vLane vs j).toNat >>> (8 * i))) ∧
      (∀ k, (∀ j i, j < x.lanes → x.lm.getLsbD j = true → i < 4 → k ≠ c * 0x100000 + (a.toNat + 4 * j + i)) →
        Memory.read t'.sram k = Memory.read s.sram k) ∧
      t'.dram = s.dram ∧ t'.host = s.host ∧ t'.peer = s.peer ∧ t'.scratch = s.scratch ∧ t'.lines = s.lines ∧ t'.signals = s.signals) ∧
    (s.Fires li x → a.toNat % 4 = 0 → loads t0 a (s.opVal x (.sp .zero)) s.doneWith) ∧
    (∀ cap, s.Carried li x cap → cap.a.toNat % 4 = 0 → loads (s.resumed x []) cap.a cap.b (s.carriedTo x)) ∧
    (s.Fires si x → a.toNat % 4 = 0 → stores t0 a (s.opVal x (.v vs)) s.doneWith) ∧
    (∀ cap, s.Carried si x cap → cap.a.toNat % 4 = 0 → stores (s.resumed x []) cap.a cap.b (s.carriedTo x)) ∧
    (a.toNat % 4 ≠ 0 → (∀ l, s.Fires (.vld l d n) x → exec (.vld l d n) s = .next (s.raised (misaligned a))) ∧
      (∀ l, s.Fires (.vst l n vs) x → exec (.vst l n vs) s = .next (s.raised (misaligned a))))

/-- R194, R263, R279, R280, R284 to R287: VGATH waits for the core's own accesses and writes its live lanes; KVWALK gives
STATUS, LOCAL and the address; a poisoned descriptor or group is POISON with the descriptor in SY.FADDR. TRIPLE, once the core's
accesses are performed, sends its block along its path where both can be had at once; else the core waits on the platform, and
for an asynchronous one, of which four may be outstanding, goes on. MBXRD empties a full mailbox register, and else waits. A
descriptor that is no multiple of 128 is MISALIGNED, a malformed selector or landing word ILLEGAL with DETAIL 2, a landing word
that names no delivery path PERMISSION. Structure accesses fault at the port or are withheld with nothing done. That VGATH is
done in one step with its descriptor checked first, and that an asynchronous TRIPLE is granted first and delivered later, are
the model's readings (log entries 44 and 51). R279, R280: a message lands in its register and marks it full; a landing message
goes to S15 too, over a result that was to be written by then. A register that is read is empty, and a message held for it lands
in the cycle after. -/
def Obligations.DepotInstructions : Prop :=
  (∀ (s : State) (x : Machine.Unit) (d vt va : VReg) (sd sn ss : SReg) (m : Fin 8) (wide async : Bool),
    let u := s.cur.unit
    let c := coreOf u
    let e := kvEnv u x
    let vn := s.opVal x (.s sn)
    let second := x.sReg (pairOf sn)
    let t0 := s.taken []
    let later (i : Instr) (phase : Nat) : Prop := ∃ t, exec i s = .next t ∧ t.CarriesOn u i phase
    let traps (i : Instr) (f : Trap) : Prop := exec i s = .next (s.trapped f)
    let held (i : Instr) (va : Nat) (wb : Bool) : Prop :=
      ∃ t h, exec i s = .next t ∧ t.WithheldAt u i 0 h ∧ h.va = va ∧ h.wb = wb
    let gi := Instr.vgath d sn vt
    let wi := Instr.kvwalk sd sn ss
    let ti := Instr.triple wide async va sn
    let mi := Instr.mbxrd m sd
    let sound : Prop := second.toNat = second.toNat / 2 ^ 32 % 2 ^ 6 * 2 ^ 32 + second.toNat % 2 ^ 12 ∧ second.toNat % 4 = 0
    let gath (t0 : State) (v b : W64) (done : State → State) : Prop :=
      let r := vgathAll u x v.toNat second.toNat vt t0
      (¬ sound → traps gi (illegal 2)) ∧
      (sound → v.toNat % 128 ≠ 0 → traps gi (misaligned v)) ∧
      (sound → v.toNat % 128 = 0 → t0.noPackets u = false → later gi 0) ∧
      (sound → v.toNat % 128 = 0 → t0.noPackets u = true →
        (∀ vs t, r = .ok (some vs) t → exec gi s = .next (done (t.onUnit u fun y =>
          vs.foldl (fun (y : Machine.Unit) l => y.setLane d l.1 (BitVec.ofNat 32 l.2)) y))) ∧
        (∀ t, r = .ok none t → exec gi s = .next (s.portRaised x gi t v b 0 ⟨.poison, 0, v⟩)) ∧
        (∀ f, r = .fault f → exec gi s = .next (s.portRaised x gi t0 v b 0 f)) ∧
        (∀ at_ level access wb, r = .hold at_ level access wb → held gi at_ wb))
    let walk (t0 : State) (v b : W64) (upd : Upd) : Prop :=
      let r := e.lookup v.toNat b.toNat t0
      let gives (t : State) (n : Nat) : Prop := exec wi s = .next (t.finish u upd (.s sd) 0 (BitVec.ofNat 64 n) 1)
      (v.toNat % 128 ≠ 0 → traps wi (misaligned v)) ∧
      (v.toNat % 128 = 0 →
        (∀ n t, r = .ok (.addr n) t → gives t ((if t.frameIn x (stackOfCore c) n then 2 ^ 55 else 0) + n % 2 ^ 55)) ∧
        (∀ n t, r = .ok (.status n) t → gives t (n * 2 ^ 56)) ∧
        (∀ t, r = .ok .poison t → exec wi s = .next (s.portRaised x wi t v b 0 ⟨.poison, 0, v⟩)) ∧
        (∀ f, r = .fault f → exec wi s = .next (s.portRaised x wi t0 v b 0 f)) ∧
        (∀ at_ level access wb, r = .hold at_ level access wb → held wi at_ wb))
    let triple (t0 : State) (l : W64) (phase : Nat) (done : State → State) : Prop :=
      let w := l.toNat
      let words := tripleWords x c second va wide
      let adds (t : State) (p : Dest) (h : Option W64) : State :=
        { t.onCore c (fun k => { k with async := k.async ++ [⟨t.ids, p, words, h⟩] }) with ids := t.ids + 1 }
      (phase = 2 → t0.tripleWaits c = true → later ti 2) ∧
      ((phase = 2 → t0.tripleWaits c = false) →
        (¬ (w / 2 ^ 48 = 0 ∧ w % 2 ^ 30 = 0) → traps ti (illegal 2)) ∧
        (w / 2 ^ 48 = 0 → w % 2 ^ 30 = 0 → t0.deliveryPath x.ctx w = none → traps ti ⟨.permission, 0, 0⟩) ∧
        (∀ r p, w / 2 ^ 48 = 0 → w % 2 ^ 30 = 0 → t0.deliveryPath x.ctx w = some (r, p) →
          let full : Prop := (async = true ∧ 4 ≤ (t0.core c).async.length) ∨ Tab.find (t0.station p.station).platform p.entry ≠ none
          (phase = 0 → t0.performedAt u .package = false → later ti 0) ∧
          ((phase = 0 → t0.performedAt u .package = true) →
            (full → later ti 0) ∧
            (¬ full → (∀ t h, t0.tripleNow c r p words = some (t, h) →
                exec ti s = .next (done (if async then adds t p (some h) else t.putTriple c p h words))) ∧
              (t0.tripleNow c r p words = none →
                (async = false → later ti 2) ∧
                (async = true → exec ti s = .next (done (adds (t0.queueTriple p (.asyncTriple t0.ids)) p none))))))))
    let mbxrd (t0 : State) (done : State → State) : Prop :=
      ((t0.core c).full.getLsbD m.val = true → exec mi s = .next (done
        ((t0.onUnit u fun y => y.setS sd (Tab.get (t0.core c).m m.val 0)).emptyMailbox c m.val))) ∧
      ((t0.core c).full.getLsbD m.val = false → later mi 0)
    (s.Fires gi x → gath t0 vn (s.opVal x (.v vt)) s.doneWith) ∧
    (∀ k, s.Carried gi x k → gath (s.resumed x []) k.a k.b (s.carriedTo x)) ∧
    (s.Fires wi x → walk t0 vn (s.opVal x (.s ss)) s.cur.upd) ∧
    (∀ k, s.Carried wi x k → walk (s.resumed x []) k.a k.b x.blockedUpd) ∧
    (s.Fires ti x → triple t0 vn 0 s.doneWith) ∧
    (∀ k, s.Carried ti x k → triple (s.resumed x []) k.a k.phase (s.carriedTo x)) ∧
    (s.Fires mi x → mbxrd t0 s.doneWith) ∧
    (∀ k, s.Carried mi x k → mbxrd (s.resumed x []) (s.carriedTo x))) ∧
  (∀ (s : State) (c n : Nat) (v : W64) (land : Bool) (x : Machine.Unit), n < 8 → s.unit? (coreBase + c) = some x →
    let t := s.landMessage c n v land
    let e := s.emptyMailbox c n
    Tab.get (t.core c).m n 0 = v ∧ (t.core c).full.getLsbD n = true ∧
      (t.core c).landings = (s.core c).landings + (if land then 1 else 0) ∧
      (∃ y, t.unit? (coreBase + c) = some y ∧ (land = true → y.sReg 15 = v) ∧
        (land = false → ∀ k : SReg, y.sReg k = x.sReg k) ∧
        ((∀ b, x.busy = some b → s.clockOf (coreBase + c) < b.until_) → ∀ k : SReg, k ≠ 15 → y.sReg k = x.sReg k)) ∧
      (∀ k, k ≠ n → Tab.get (t.core c).m k 0 = Tab.get (s.core c).m k 0) ∧
      (e.core c).full.getLsbD n = false ∧
      (∀ w z, Tab.find (s.core c).heldMsg n = some (w, z) → ∃ z', Tab.find (e.core c).heldMsg n = some (w, z') ∧
        z'.1 = z.1 ∧ z'.2 = s.coreNow c + 1) ∧
      (∀ k, k ≠ n → Tab.find (e.core c).heldMsg k = Tab.find (s.core c).heldMsg k))

/-- R171, R180, R198, R203, R343, R392, R408, R438: PTEWR writes an entry of its own partition, waits for the invalidations, and
gives the old one; TLBINV drops the context's cached leaves of the address in every port and translator of the partition, hands
back what was withheld for the page, and ends once the accesses translated through them are performed; MIGR frees the page's
counters; CNTRD gives a counter's word, 0 where there is none. An entry's address that is no multiple of 8 is MISALIGNED, one of
another partition PERMISSION with DETAIL 3; a selector with reserved bits, or a station of another partition, is ILLEGAL with
DETAIL 2. When TLBINV completes, what it hands back, and that PTEWR is not ordered after earlier accesses are the model's
reading (log entry 53). R203: after a TLBINV's drop no port and no depot translator of the partition holds a leaf of the context
that covers the address; every other entry stays, and the ports and translators of other partitions keep all theirs. What is
handed back lies in the 512 MiB page of the address where a leaf of that size was cached or is found, and else in its 64 KiB
page. -/
def Obligations.PagerInstructions : Prop :=
  (∀ (s : State) (x : Machine.Unit) (d : Dst) (sd : SReg) (a b : Src),
    let u := s.cur.unit
    let va := s.opVal x a
    let vb := s.opVal x b
    let t := s.taken [a, b]
    let wi := Instr.ptewr d a b
    let ti := Instr.tlbinv a b
    let later (i : Instr) (P : Captured → Prop) : Prop := ∃ r y c, exec i s = .next r ∧ r.unit? u = some y ∧
      y.blocked = some (.again i c) ∧ c.phase = 1 ∧ c.hold = none ∧ P c
    (s.Fires wi x →
      (va.toNat % 8 ≠ 0 → exec wi s = .next (s.raised (misaligned va))) ∧
      (va.toNat % 8 = 0 → t.ownsAddr x.part va.toNat = false → exec wi s = .next (s.raised ⟨.permission, 3, va⟩)) ∧
      (va.toNat % 8 = 0 → t.ownsAddr x.part va.toNat = true →
        let t' := t.homeStore x.part .device va.toNat (bytesOf 8 vb.toNat) 0 false [u]
        let old : W64 := BitVec.ofNat 64 (t.homeNat x.part ⟨.device, va.toNat⟩ 8)
        (t'.noInvals u .package = true → exec wi s = .next (t'.finish u s.cur.upd d 0 old 1)) ∧
        (t'.noInvals u .package = false → later wi fun c => c.words = [old]))) ∧
    (∀ c, s.Carried wi x c → c.phase = 1 →
      let r := s.resumed x [a, b]
      (r.noInvals u .package = true → exec wi s = .next (r.finish u x.blockedUpd d 0 (c.words.getD 0 0) 1)) ∧
      (r.noInvals u .package = false → later wi fun k => k.words = c.words)) ∧
    (s.Fires ti x →
      (2 ^ 16 ≤ vb.toNat → exec ti s = .next (s.raised (illegal 2))) ∧
      (vb.toNat < 2 ^ 16 →
        let n := t.tlbinvLog x.part vb.toNat va.toNat
        let t' := (t.dropLeaves x.part vb.toNat va.toNat).liftHolds (fun w1 y =>
          w1.toNat / 2 ^ 48 % 2 ^ 16 == vb.toNat && y / 2 ^ n == va.toNat / 2 ^ n) false
        (t'.pageQuiet vb.toNat va.toNat = true → exec ti s = .next (s.doneWith t')) ∧
        (t'.pageQuiet vb.toNat va.toNat = false → later ti fun _ => True))) ∧
    (∀ c, s.Carried ti x c → c.phase = 1 → c.b.toNat < 2 ^ 16 →
      let r := s.resumed x [a, b]
      (r.pageQuiet c.b.toNat c.a.toNat = true → exec ti s = .next (s.carriedTo x r)) ∧
      (r.pageQuiet c.b.toNat c.a.toNat = false → later ti fun _ => True)) ∧
    (s.Fires (.migr a b) x →
      (2 ^ 16 ≤ vb.toNat → exec (.migr a b) s = .next (s.raised (illegal 2))) ∧
      (vb.toNat < 2 ^ 16 → exec (.migr a b) s = .next (s.doneWith (t.freeCounters x.part vb.toNat (va.toNat / 2 ^ 16))))) ∧
    (s.Fires (.cntrd sd a b) x →
      let n := vb.toNat / 2 ^ 16 % 8 * 64 + vb.toNat / 2 ^ 19 % 64
      (vb.toNat < 2 ^ 25 → t.partOfStn n = some x.part → exec (.cntrd sd a b) s = .next (t.finish u s.cur.upd (.s sd) 0
        (counterWord ((t.station n).counter? (vb.toNat % 2 ^ 16) (va.toNat / 2 ^ 16))) 1)) ∧
      (2 ^ 25 ≤ vb.toNat ∨ t.partOfStn n ≠ some x.part → exec (.cntrd sd a b) s = .next (s.raised (illegal 2))))) ∧
  (∀ (s : State) (p ctx va : Nat), ∀ t, t = s.dropLeaves p ctx va →
    (∀ e ∈ t.stations, s.partOfStn e.1 = some p → ∀ q ∈ e.2.ports, ∀ l ∈ q.2.cache, l.covers ctx va = false) ∧
    (∀ e ∈ t.cores, s.stackPart (stackOfCore e.1) = some p → ∀ l ∈ e.2.cache, l.covers ctx va = false) ∧
    (∀ e ∈ s.stations, s.partOfStn e.1 = some p → ∀ q ∈ e.2.ports, ∀ l ∈ q.2.cache, l.covers ctx va = false →
      ∃ f ∈ t.stations, f.1 = e.1 ∧ ∃ q' ∈ f.2.ports, q'.1 = q.1 ∧ l ∈ q'.2.cache) ∧
    (∀ e ∈ s.cores, s.stackPart (stackOfCore e.1) = some p → ∀ l ∈ e.2.cache, l.covers ctx va = false →
      ∃ f ∈ t.cores, f.1 = e.1 ∧ l ∈ f.2.cache) ∧
    (∀ e ∈ s.stations, s.partOfStn e.1 ≠ some p → e ∈ t.stations) ∧
    (∀ e ∈ s.cores, s.stackPart (stackOfCore e.1) ≠ some p → e ∈ t.cores) ∧
    (let found : Prop := (∃ w, s.walk ctx p va = .leaf w 29) ∨
       (∃ e ∈ s.stations, s.partOfStn e.1 = some p ∧ ∃ q ∈ e.2.ports, ∃ l ∈ q.2.cache, l.covers ctx va = true ∧ l.log2 = 29) ∨
       (∃ e ∈ s.cores, s.stackPart (stackOfCore e.1) = some p ∧ ∃ l ∈ e.2.cache, l.covers ctx va = true ∧ l.log2 = 29)
     (found → s.tlbinvLog p ctx va = 29) ∧ (¬ found → s.tlbinvLog p ctx va = 16)) ∧
    t.dram = s.dram ∧ t.units = s.units)

/-- R18, R20, R31, R32, R243, R353, R380, R447: at the end of its interval a result is written and the word ends, and an
emission that then finds no slot is withdrawn in a region that is being drained; what was read from the unit's own station lands
after its two cycles, and a unit that waited for it alone goes on (log entry 12). A triggered unit with nothing to do for 16
cycles is gated; a WAIT.CYC ends when its cycles have passed; an INVIX that waited advances once the commit index lets it.
Before that, each event changes nothing. R20, R24, R162: copies on one arc keep their order: the first of its arc leaves the
mailbox line, and then stands at the tail of its inbox, where a gated clock starts again and its 16 cycles begin anew; one with
an earlier copy on its arc waits. R81, R86 to R89, R287: from the cycle of its arrival on, the platform grants an entry its
block, its slot or both and the entry leaves it: a block from its unit's own floor, or else from the region's shared pool to the
head of that pool's order, and at most one block or slot of a shared pool in one cycle; a request that has waited 2^16 cycles in
its class is promoted by one class, down to class 0; the promotions count while its unit's class is 0 too. R19, R183, R330: the
handle that an ALLOC waited for is written to its register, which the unit reads from the next cycle on, and the word ends. -/
def Obligations.FabricEvents : Prop :=
  (∀ (s : State) (u : Nat) (x : Machine.Unit), s.unit? u = some x →
    let due := x.reads.filter fun r => decide (r.until_ ≤ s.clockOf u)
    (x.busy = none → exec (.issueIntervalEnd u) s = .next (s.landReads u due)) ∧
    (∀ r n sg, x.busy = none → x.reads = [r] → r.until_ ≤ s.clockOf u → r.land = .s n sg →
      x.blocked = none ∨ x.blocked = some (.answer [r.id]) → ∃ t y, exec (.issueIntervalEnd u) s = .next t ∧ t.unit? u = some y ∧
        y.sReg n = extendBytes sg r.bytes ∧ (∀ k : SReg, k ≠ n → y.sReg k = x.sReg k) ∧ y.reads = [] ∧ y.blocked = none ∧
        (x.blocked = none → y.loads = x.loads.filter fun e => e.1 != r.id)) ∧
    (∀ b : Busy, x.busy = some b →
      let t := ((s.putUnit u { x with busy := none }).writeResult u b.dst b.vec b.scalar).onUnit u fun y => y.close b.upd
      let emits : Prop := ∃ y e m eoi, t.unit? u = some y ∧ y.blocked = some (.emit e m eoi)
      (b.until_ ≤ s.clockOf u → s.draining x = false ∨ ¬ emits → exec (.issueIntervalEnd u) s = .next (t.landReads u due)) ∧
      (b.until_ ≤ s.clockOf u → s.draining x = true → emits → exec (.issueIntervalEnd u) s = .next (((t.withdraw u).onUnit u fun y =>
        { y with blocked := none, blockedUpd := .none }).landReads u due)) ∧
      (b.until_ ≤ s.clockOf u → x.reads = [] → s.draining x = false → x.blocked = none → (∀ n, b.dst ≠ .o n) →
        ∃ t, exec (.issueIntervalEnd u) s = .next t ∧
          t.unit? u = some ((({ x with busy := none } : Machine.Unit).write b.dst b.vec b.scalar).next b.upd) ∧
          (∀ w, w ≠ u → t.unit? w = s.unit? w) ∧ t.stations = s.stations ∧ s.SameMemory t) ∧
      (s.clockOf u < b.until_ → exec (.issueIntervalEnd u) s = .next (s.landReads u due))) ∧
    (∀ c, isCore u = false → x.mode = .triggered → x.busy = none → x.blocked = none → x.pickSlot 0 x.slots = none →
      x.idleSince = some c → c + 16 ≤ s.clockOf u → exec (.clockGate u) s = .next (s.putUnit u { x with gated := true })) ∧
    ((x.idleSince = none ∨ (∃ c, x.idleSince = some c ∧ s.clockOf u < c + 16) ∨ x.mode = .sequenced ∨ x.blocked ≠ none ∨ x.busy ≠ none ∨
      x.pickSlot 0 x.slots ≠ none ∨ isCore u = true) → exec (.clockGate u) s = .next s) ∧
    (∀ t, x.blocked = some (.waitCyc t) →
      (t ≤ s.clockOf u → exec (.waitCycleCountEnd u) s =
        .next (s.putUnit u { x.next x.blockedUpd with blocked := none, blockedUpd := .none })) ∧
      (s.clockOf u < t → exec (.waitCycleCountEnd u) s = .next s)) ∧
    (x.blocked = some .invix →
      (((x.invix + 1) - s.commitIndex x.region).toNat < 2 ^ 31 → ∃ t y, exec (.invixWaitEnd u) s = .next t ∧ t.unit? u = some y ∧
        y.invix = x.invix + 1 ∧ y.blocked = none) ∧
      (2 ^ 31 ≤ ((x.invix + 1) - s.commitIndex x.region).toNat → ∃ t y, exec (.invixWaitEnd u) s = .next t ∧ t.unit? u = some y ∧
        y.invix = x.invix ∧ y.blocked = some .invix)) ∧
    (x.blocked ≠ some .invix → exec (.invixWaitEnd u) s = .next s)) ∧
  (∀ (s : State) (i : Nat) (f : Flight) (x : Machine.Unit), s.flight[i]? = some f →
    let first : Prop := ∀ j g, j < i → s.flight[j]? = some g → ¬ (g.dest.station = f.dest.station ∧ g.dest.entry = f.dest.entry)
    (first → f.mailbox = true → exec (.mailboxForward i) s = .next { s with flight := s.flight.set i { f with mailbox := false } }) ∧
    (f.mailbox = false → exec (.mailboxForward i) s = .next s) ∧
    (first → f.mailbox = false → s.unit? (f.dest.unit % 65536) = some x → f.dest.unit < 65536 → x.region = s.arcRegion f.dest →
      ∀ b, b = Tab.get x.inbox f.dest.ch Inbox.reset →
      exec (.tokenArrival i) s = .next ({ s with flight := s.flight.eraseIdx i }.putUnit f.dest.unit
        { x with inbox := Tab.set Inbox.reset x.inbox f.dest.ch { b with q := b.q ++ [f.tok] }, gated := false,
                 idleSince := if x.gated then none else x.idleSince })) ∧
    (¬ first → exec (.mailboxForward i) s = .next s ∧ exec (.tokenArrival i) s = .next s) ∧
    (f.mailbox = true → exec (.tokenArrival i) s = .next s)) ∧
  (∀ (s : State) (stn entry : Nat) (w : Wait), Tab.find (s.station stn).platform entry = some w →
    let now := s.stnNow stn
    let p := s.pathAt stn entry
    let r := s.arcRegion p
    let old := (s.station stn).settle now
    (w.since + 2 ^ 16 ≤ now → exec (.requestPromotion stn entry) s = .next (s.onStation stn fun st =>
      { st with platform := Tab.put st.platform entry { w with promos := w.promos + 1, since := now } })) ∧
    (now < w.since + 2 ^ 16 → exec (.requestPromotion stn entry) s = .next s) ∧
    (∀ u k m, w.what = .block u k m → s.waitClass w = s.eclass u - w.promos) ∧
    (now < w.start → exec (.platformGrant stn entry) s = .next s) ∧
    (w.start ≤ now →
      (∀ u k m x, w.what = .block u k m → s.unit? u = some x →
        let given (st : Station) (b : Block) := (((s.setStation stn st).leavePlatform stn entry).noteGrant x.region).giveHandle u
          (mkHandle b.gen.toNat stn b.k b.first 0)
        (∀ st b, old.grant x.region (some u) k m = some (st, b) → exec (.platformGrant stn entry) s = .next (given st b)) ∧
        (old.grant x.region (some u) k m = none →
          (∀ st b, x.cover = false → s.heads stn x.region entry = true → old.hasGranted now (x.region + 1) = false →
            old.grant x.region none k m = some (st, b) →
            exec (.platformGrant stn entry) s = .next (given (st.markGrant now (x.region + 1)) b)) ∧
          (x.cover = true ∨ s.heads stn x.region entry = false ∨ old.hasGranted now (x.region + 1) = true ∨
            old.grant x.region none k m = none → exec (.platformGrant stn entry) s = .next s))) ∧
      (∀ e u f, w.what = .slot e u f →
        (s.isResident r = true → s.slotGrant stn entry = true →
          (∃ t, exec (.platformGrant stn entry) s = .next t ∧ f ∈ t.flight ∧ ∀ g ∈ s.flight, g ∈ t.flight) ∧
          (u = none → exec (.platformGrant stn entry) s = .next { ((s.onStation stn fun st => st.grantSlot now entry).leavePlatform
            stn entry).noteGrant (s.arcRegion f.dest) with flight := s.flight ++ [f] })) ∧
        (s.isResident r = false ∨ s.slotGrant stn entry = false → exec (.platformGrant stn entry) s = .next s)) ∧
      (∀ c words t h, w.what = .triple c words → s.isResident r = true → s.heads stn r entry = true → s.slotGrant stn entry = true →
        s.takeTriple now r p words = some (t, h) →
        exec (.platformGrant stn entry) s = .next (((t.leavePlatform stn entry).putTriple c p h words).unblock (coreBase + c))) ∧
      (∀ id e t h, w.what = .asyncTriple id → s.triples.find? (fun t => t.2.id == id) = some e → s.isResident r = true →
        s.heads stn r entry = true → s.slotGrant stn entry = true → s.takeTriple now r p e.2.words = some (t, h) →
        exec (.platformGrant stn entry) s = .next ((t.leavePlatform stn entry).tripleGranted id h)))) ∧
  (∀ (s : State) (u k m : Nat) (x : Machine.Unit) (r : SReg) (h : W64), s.unit? u = some x →
    x.blocked = some (.alloc k m (some r) []) → x.busy = none →
    ∃ y, (s.giveHandle u h).unit? u = some y ∧ y.sReg r = h ∧ y.blocked = none ∧ (∀ n : SReg, n ≠ r → y.sReg n = x.sReg n) ∧
      y.turned = s.clockOf u + 1 ∧ y.pc = (if x.mode = .sequenced then x.pc + 1 else x.pc))

/-- R97, R161, R163, R168, R173, R176 to R178, R353, R380, R426: a request that no earlier one of its unit holds back is served:
the first event of an access at its home, a signal operation, a block access or a count operation at its station; its answer
lands in its register, and a unit that waits for nothing else goes on. A RELEASE or RETAIN whose handle does not resolve changes
no count and raises an asynchronous STALE_HANDLE in its unit (R80, R226, R230). A request that held events go before waits and
makes their invocations unrevocable (log entry 93). That a block access in another station uses the geometry that its handle has
on arrival is the model's reading (log entry 50). R154, R158, R163, R173, R174, R177, R178, R202, R204, R297: of the performable
held events of a port that no other of their own region at the port goes before, in order of invocation and then of acceptance,
the first accepted is performed at its home under the entry that stands now, and leaves the port, is withheld again, or is
dropped with a fault of its unit; it waits where it is withheld, where a packet of its unit, an event at another port or
invalidations that it must follow are outstanding (log entry 93), and for what its port withheld before it; an unrevocable one
makes the invocations of events that it follows unrevocable too. An acknowledgement ends an invalidation and its replica; a fill
that returns makes a line present, and a host line takes the state that the host grants; a snoop that reads leaves a line
shared, and one that takes the line leaves none, or, of a pinned line, its pins and no data. That the memory port reports the
fault of a held event is the model's reading (log entry 92). R154, R311: a byte written at its home is what its home then
returns, whatever the line's state, cache mode and page; in an uncached page with no line, every other byte reads as before. A
stack whose key is zeroed takes nothing. The fill entry of an uncached read takes no byte. R154: after a fill each byte of the
line is the written one where there was one, and else the one below; the line no longer waits. -/
def Obligations.HomeEvents : Prop :=
  (∀ (s : State) (i id u ctx : Nat) (x : Machine.Unit) (req : Req) (got bs : List Byte) (behind : List Nat), s.unit? u = some x →
    let pkt (st : PktState) : Packet := ⟨id, u, req, st, got, 0, [], behind, ctx⟩
    let served (t : State) : Prop := exec (.meshRequestArrival i) s = .next t
    let at_ (n : Nat) : State := s.noteTurn n rankRemote
    (s.mesh[i]? = some (pkt .request) → s.heldBack i (pkt .request) = true →
      served (s.urge fun h => h.leadsPacket (pkt .request)) ∧
      ((∀ n ∈ s.stations, ∀ p ∈ n.2.ports, ∀ h ∈ p.2.held, h.leadsPacket (pkt .request) = false) → served s)) ∧
    (s.mesh[i]? = some (pkt .request) → s.heldBack i (pkt .request) = false →
      (∀ n v, req = .sigSet n v → served (((at_ (n / 1024)).sigSet n v).answer id [])) ∧
      (∀ n v, req = .sigAdd n v → served (((at_ (n / 1024)).sigAdd n v).answer id [])) ∧
      (∀ n c v l, req = .sigTest n c v l →
        served ((at_ (n / 1024)).answer id (bytesOf 8 (if sigHolds c (s.signal n) v then 1 else 0)))) ∧
      (∀ h offs n l, req = .blockRead h offs n l → isSignalHandle h = false →
        served (s.answer id (offs.flatMap fun o => s.blockBytes (hStn h) (handleSpan h) o n))) ∧
      (∀ h cells, req = .blockWrite h cells → isSignalHandle h = false →
        served ((s.blockPut (hStn h) (handleSpan h) cells).answer id [])) ∧
      (∀ h b, s.resolveBlock x.ctx h = .ok b →
        (req = .release h → served ((s.onStation (hStn h) fun st => st.release (s.stnNow (hStn h)) b).answer id [])) ∧
        (∀ m, req = .retain h m → served ((s.onStation (hStn h) fun st => st.retain b m).answer id [])) ∧
        (∀ l, req = .bsize h l → isSignalHandle h = false → served (s.answer id (bytesOf 8 (bsizeWord b).toNat)))) ∧
      (∀ h, req = .release h ∨ (∃ m, req = .retain h m) → (∀ b, s.resolveBlock x.ctx h ≠ .ok b) →
        served ((s.answer id []).raiseAsync u ⟨.staleHandle, 1, h⟩) ∧
        ∀ n, (((s.answer id []).raiseAsync u ⟨.staleHandle, 1, h⟩).station n).blocks = (s.station n).blocks) ∧
      (∀ e es rmw l t r, req = .access (e :: es) rmw l → isCore u = false → s.peerWaits e.loc = false →
        s.performEvent u [u] x.part e rmw = .done t r →
        (es = [] → served (t.answer id (got ++ r))) ∧
        (es ≠ [] → served (t.setPacket id fun q => { q with st := .request, req := .access es rmw l, got := got ++ r }))) ∧
      (∀ e es rmw l t k, req = .access (e :: es) rmw l → isCore u = false → s.peerWaits e.loc = false →
        s.performEvent u [u] x.part e rmw = .wait t k →
        served ((if e.writes rmw then t else t.join k id).setPacket id fun q => { q with st := .atFill k })) ∧
      (∀ e es rmw l, req = .access (e :: es) rmw l → s.peerWaits e.loc = true → served s) ∧
      (∀ mc n l pg t r, req = .mcast mc n l pg → s.homeRead x.part l 128 pg.cmode pg.depot = (t, .bytes r) → served (t.answer id r))) ∧
    (s.mesh[i]? = some (pkt (.response bs)) → (∀ j q, s.mesh[j]? = some q → q.id = id → j = i) → ∀ evs rmw n sx,
      req = .access evs rmw (.s n sx) →
      (x.blocked = some (.answer [id]) → x.busy = none → ∃ t y, exec (.meshResponseArrival i) s = .next t ∧
        t.mesh = s.mesh.filter (fun q => q.id != id) ∧ t.unit? u = some y ∧ y.sReg n = extendBytes sx bs ∧ y.blocked = none) ∧
      (x.blocked = none → ∃ t y, exec (.meshResponseArrival i) s = .next t ∧ t.mesh = s.mesh.filter (fun q => q.id != id) ∧
        t.unit? u = some y ∧ y.sReg n = extendBytes sx bs ∧ y.pc = x.pc ∧ y.loads = x.loads.filter fun e => e.1 != id))) ∧
  (∀ (s : State) (stn port key i part line : Nat) (h : Held) (r : Region) (g : HostGrant),
    let held := ((s.station stn).port port).held
    let head : Prop := s.nextHeld stn port = some h ∧ s.region? h.region = some r
    let me := heldAgent h.order
    let found := (s.repeated me).translate r.ctx r.part stn port h.ev.va 0 h.want
    let performs (t : State) : Prop := exec (.heldEventPerform stn port) s = .next t
    let withheld (t : State) (n : Nat) (wb : Bool) : State := { t with ids := t.ids + 1 }.setHeld stn port h (some { h with
      withheld := some ⟨h.ev.va, faultWord r.ctx stn port n (accessCode h.want), wb, t.regionCycles h.region, t.ids⟩ })
    let before (g k : Held) : Prop := g.region = k.region ∧
      (serialLater k.invoc g.invoc = true ∨ (k.invoc = g.invoc ∧ g.order < k.order))
    let led (g : Held) : Bool := g.region == h.region && g.order != h.order && g.leads h
    (s.nextHeld stn port = some h → h ∈ held ∧ s.performable h = true ∧ (∀ k ∈ held, s.performable k = true → ¬ before k h) ∧
      ∀ k ∈ held, s.performable k = true → (∀ g ∈ held, s.performable g = true → ¬ before g k) → h.order ≤ k.order) ∧
    (head → h.withheld.isSome = true ∨ s.packetAhead h = true ∨ s.mayRepeat me = false → performs s) ∧
    (head → h.withheld = none → s.packetAhead h = false → s.mayRepeat me = true → s.heldAhead h = true →
      (h.due = false → s.unrevocable h.region h.invoc = false → performs s) ∧
      (h.due = true ∨ s.unrevocable h.region h.invoc = true → performs (s.urge led) ∧
        (s.urge led) = { s with regions := (s.urge led).regions } ∧
        ∀ n ∈ s.stations, ∀ p ∈ n.2.ports, ∀ g ∈ p.2.held, led g = true → s.performable g = false →
          (∀ n' ∈ s.stations, ∀ p' ∈ n'.2.ports, ∀ g' ∈ p'.2.held, led g' = true → s.performable g' = false → g'.invoc = g.invoc) →
          (s.urge led).performable g = true)) ∧
    (s.nextHeld stn port = none → performs s) ∧
    (head → h.withheld = none → s.packetAhead h = false → s.heldAhead h = false → s.mayRepeat me = true →
      (∀ t loc pg e f, found = (t, .ok loc pg e f) →
        (∀ t' bs, t.performEvent h.unit (h.unit :: r.units) r.part { h.ev with loc := loc, page := pg } h.rmw = .done t' bs →
          performs ((if loc.kind = .device then t'.notePast (loc.addr / 128) h.fenced else t').setHeld stn port h none)) ∧
        (∀ t' k, t.performEvent h.unit (h.unit :: r.units) r.part { h.ev with loc := loc, page := pg } h.rmw = .wait t' k →
          performs t')) ∧
      (∀ t, found = (t, .wb) → performs (withheld t 0 true)) ∧
      (∀ t e, found = (t, .fault e) → performs ((t.setHeld stn port h none).raiseBy (some 2) h.unit e)) ∧
      (∀ t n, found = (t, .invalid n) →
        performs (withheld (t.postFault r.part (faultWord r.ctx stn port n (accessCode h.want)) h.ev.va) n false))) ∧
    (∀ v, s.invals[i]? = some v → exec (.invalidationAck i) s = .next { s with
      invals := s.invals.eraseIdx i
      replicas := s.replicas.filter fun r => !(r.district == v.district && r.line == v.line) }) ∧
    (∀ l, s.line? key = some l → l.kind = .filling →
      (l.loc.kind = .device → exec (.fillReturn key) s = .next (s.fillReturn key) ∧
        (l.joined = [] → (∀ p ∈ s.mesh, p.st ≠ .atFill key) → exec (.fillReturn key) s = .next ((s.fillDone key).stamp.2.endBypass key))) ∧
      (l.loc.kind = .host → exec (.fillReturn key) s = .next s ∧
        exec (.hostCacheResponse key g) s = .next ((s.putLine key { l with excl := some g }).fillReturn key))) ∧
    (∀ l, s.line? (s.keyOf part ⟨.host, 128 * line⟩) = some l → l.loc.kind = .host →
      (l.kind = .filling → ∀ k, exec (.hostSnoop part line k) s = .next s) ∧
      (l.kind ≠ .filling → exec (.hostSnoop part line .cur) s = .next s ∧
        (∃ t, exec (.hostSnoop part line .data) s = .next t ∧
          t.line? (s.keyOf part ⟨.host, 128 * line⟩) = some { l with dirty := 0, excl := some .shared }) ∧
        (l.pins = [] → exec (.hostSnoop part line .inv) s = .next (s.evict (s.keyOf part ⟨.host, 128 * line⟩)) ∧
          (s.evict (s.keyOf part ⟨.host, 128 * line⟩)).line? (s.keyOf part ⟨.host, 128 * line⟩) = none) ∧
        (l.pins ≠ [] → ∃ t, exec (.hostSnoop part line .inv) s = .next t ∧ t.host = Memory.writes s.host l.dirtyBytes ∧
          t.line? (s.keyOf part ⟨.host, 128 * line⟩) = some { l with
            kind := .present, dirty := 0, valid := 0, data := [], mask := [], excl := none })))) ∧
  (∀ (s : State) (p : Nat) (l : Loc) (cmode o : Nat) (depot : Bool) (b : Byte) (ws : List Nat), l.kind ≠ .peer → l.addr % 128 = 0 → o < 128 →
    (s.keyless p l = false → (∀ x, s.line? (s.keyOf p l) = some x → x.way ≠ bypassWay ∨ x.validAt o = false) →
      (s.homeWrite p l cmode depot [(o, b)] ws).homeByte p ⟨l.kind, l.addr + o⟩ = b) ∧
    (s.keyless p l = true → ∀ q m, (s.homeWrite p l cmode depot [(o, b)] ws).homeByte q m = s.homeByte q m) ∧
    (s.line? (s.keyOf p l) = none → cmode = 2 → ∀ q m, ¬ (m.kind = l.kind ∧ m.addr = l.addr + o) →
      (s.homeWrite p l cmode depot [(o, b)] ws).homeByte q m = s.homeByte q m)) ∧
  (∀ (s : State) (key : Nat) (l : Line), s.line? key = some l → l.kind = .filling →
    ∃ m, (s.fillDone key).line? key = some m ∧ m.kind ≠ .filling ∧
      ∀ o b, o < 128 → m.byteAt o b = l.byteAt o (Memory.read (s.memOf l.loc.kind) (l.loc.addr + o)))

/-- R99, R347 to R349, R389, R390, R434, R435: a copy takes one 32-byte event after the other, ascending, reading and then
writing it, its pointer going on once the invalidations of the write are acknowledged (R181), and is complete when all are
performed: its channel is free, its signal is raised by 1 and its token is sent; a withheld event waits and a fault ends the
copy; a multicast completes when every line is delivered, and a stale destination is reported; a stream reads the events of a
row, writes its slot, emits its token and ends after its last row; a fault of the memory port in a stream is raised at the
firing (R226, R228, R229), a stale handle asynchronously. That a fault ends a copy or a multicast and stops its unit
asynchronously, reported by the engine, is the model's reading (log entries 55 and 92). -/
def Obligations.EngineEvents : Prop :=
  ∀ (s : State) (stn ch i u : Nat) (c : CopyChan) (x : Machine.Unit) (m : Mcast),
    let who := copyAgent stn ch
    let w3 := wordAt c.desc 3
    let wrote (t : State) : State := t.setChan stn ch (if t.noInvals who .package = true
      then { c with ptr := c.ptr + 32, buf := [], asked := false, wrote := false } else { c with wrote := true })
    ((s.station stn).copy ch = c → s.unit? c.unit = some x → c.wrote = true → exec (.copyEvent stn ch) s = .next (wrote s)) ∧
    ((s.station stn).copy ch = c → s.unit? c.unit = some x → c.wrote = false → c.busy = true → c.hold = none →
      c.ptr < copyLen c.desc → s.mayRepeat who = true →
      let reads := (s.repeated who).readSide c.unit x who c.asked (copySrcGlobal c.desc) (copySrc c.desc) c.ptr 32
      let writes (t : State) (asked : Bool) (bs : List Byte) : SideRes PUnit :=
        t.writeSide c.unit x who asked (copyDstGlobal c.desc) (copyDst c.desc) c.ptr bs
      let done (t : State) (asked : Bool) (bs : List Byte) : Prop :=
        (∀ t', writes t asked bs = .ok t' ⟨⟩ → exec (.copyEvent stn ch) s = .next (wrote t')) ∧
        (∀ t' h, writes t asked bs = .hold t' h → exec (.copyEvent stn ch) s =
          .next (t'.setChan stn ch { c with buf := bs, asked := false, hold := some h })) ∧
        (∀ t', writes t asked bs = .wait t' → exec (.copyEvent stn ch) s =
          .next (t'.setChan stn ch { c with buf := bs, asked := true })) ∧
        (∀ t' e, writes t asked bs = .fault t' e → exec (.copyEvent stn ch) s =
          .next ((t'.setChan stn ch { c with busy := false }).raiseBy (some 3) c.unit e))
      (c.buf = [] →
        (∀ t bs, reads = .ok t bs → done t false bs) ∧
        (∀ t h, reads = .hold t h → exec (.copyEvent stn ch) s = .next (t.setChan stn ch { c with hold := some h })) ∧
        (∀ t, reads = .wait t → exec (.copyEvent stn ch) s = .next (t.setChan stn ch { c with asked := true })) ∧
        (∀ t e, reads = .fault t e → exec (.copyEvent stn ch) s =
          .next ((t.setChan stn ch { c with busy := false }).raiseBy (some 3) c.unit e))) ∧
      (c.buf ≠ [] → done (s.repeated who) c.asked c.buf)) ∧
    ((s.station stn).copy ch = c → c.busy = true → copyLen c.desc ≤ c.ptr → s.noInvals who .package = true →
      s.mayTurn stn rankCopy = true → s.completionFree c.unit w3 = true →
      let t := (s.noteTurn stn rankCopy).setChan stn ch { c with busy := false }
      exec (.copyComplete stn ch) s = .next (t.completion c.unit w3 (copyLen c.desc)) ∧
      (w3.testBit 63 = false → exec (.copyComplete stn ch) s =
        .next (if w3.testBit 10 then t.sigAdd (stnOf c.unit * 1024 + w3 % 2 ^ 10) 1 else t))) ∧
    ((s.station stn).copy ch = c → (c.busy = false ∨ c.ptr < copyLen c.desc ∨ s.noInvals who .package = false ∨
      s.completionFree c.unit w3 = false) → exec (.copyComplete stn ch) s = .next s) ∧
    (Tab.find s.mcasts i = some m → m.st ≠ .sending → (∀ p ∈ s.mesh, ∀ l a b, p.req ≠ .mcast i l a b) →
      let gone : State := { s with mcasts := Tab.del s.mcasts i }
      (m.st = .broken → m.stale = none → exec (.mcastComplete i) s = .next gone) ∧
      (∀ h, m.stale = some h → exec (.mcastComplete i) s = .next (gone.raiseBy (some 3) m.unit (engineStale h))) ∧
      (m.st = .sent → m.stale = none → s.completionFree m.unit (wordAt m.words 3) = true → s.mayTurn (stnOf m.unit) rankCopy = true →
        exec (.mcastComplete i) s =
          .next ((gone.noteTurn (stnOf m.unit) rankCopy).completion m.unit (wordAt m.words 3) (mcastLen m.words)))) ∧
    (Tab.find s.mcasts i = some m → m.st = .sending → exec (.mcastComplete i) s = .next s) ∧
    (s.unit? u = some x → ∀ st : Stream, x.blocked = some (.stream st) → st.pend = none → st.hold = none →
      let goes (t : State) : Prop := exec (.strmRow u) s = .next t
      (strmRows st.desc ≤ st.row → goes (s.putUnit u { x.next x.blockedUpd with blocked := none, blockedUpd := .none })) ∧
      (st.row < strmRows st.desc → s.streamRuns u x = true → s.mayRepeat u = true →
        (st.row < strmDRows st.desc ∨ s.rowReleased st.dests
          (withOff st.blk (hOff st.blk + strmRowB st.desc * (st.row % strmDRows st.desc))) = true) →
        (eventsLeft (rowEvents st.desc st.row) st.got.length = [] → goes ((s.repeated u).finishRow u x st st.got)) ∧
        (∀ e es, eventsLeft (rowEvents st.desc st.row) st.got.length = e :: es →
          let reads := (s.repeated u).readSide u x u st.asked (strmSrcGlobal st.desc) (st.desc.getD 0 0) e.1 e.2
          (∀ t bs, reads = .ok t bs → goes (if es = [] then t.finishRow u x st (st.got ++ bs)
            else t.setStream u { st with got := st.got ++ bs, asked := false })) ∧
          (∀ t h, reads = .hold t h → goes (t.setStream u { st with hold := some h, asked := false })) ∧
          (∀ t, reads = .wait t → goes (t.setStream u { st with asked := true })) ∧
          (∀ t e, reads = .fault t e → e.code = .staleHandle → goes ((t.unblock u).raiseAsync u (engineStale e.addr))) ∧
          (∀ t e, reads = .fault t e → e.code ≠ .staleHandle →
            (x.isSeq = true → goes (((t.onUnit u fun y => { y with blocked := none, blockedUpd := .none }).giveTaken u
              st.taken).raise u st.slot e)) ∧
            (x.isSeq = false → goes ((t.setStream u { st with hold := none, asked := false }).raise u st.slot e))))))

/-- R96, R123, R125 to R127, R135, R293, R328, R329, R395: vectors enter one after the other, behind the instructions that are
performed in the cycle and in a cycle before those that reach the junction after them, none for a slot that an accumulator
instruction holds, and with the last the MMA completes; the first in flight is applied after its 264 cycles; a fill leaves the
inactive bank ready, and a task's fill swaps the banks once the rows of the task before it, and of an MMA that was entering,
have entered (log entry 84); an accumulator transfer comes after the vectors of its slot and moves or clears the slot's 16,384
elements, in one step, as a fill reads its tile (log entry 28). R112, R113, R394: a vector applied to a row of an accumulator
slot: an INT8 element gains the sum of the 128 products modulo 2^32; formats of different modes give a NaN, or leave an INT8
element as it was; every other element keeps its value. An FP32 element gains the rounded exact sum of one chunk of products
after the other, in FP8 times the rounded product of the two scales and rounded again; a NaN product or infinite products of
both signs make the chunk's sum NaN, an infinite product makes it that infinity, and an exact zero is -0 where every product is
-0, else +0. R128, R135, R140, R143, R144: a line that does not run has no beat, one that is to stop stops, and one that is
armed takes its beat; with the end of a run, what waited for it reaches the junctions; a waiting task starts its fill where the
junction can take one; a recovery begins with the lowest recoverable entry and then reads both tiles, and while its read is
withheld the junction waits. What a line that stops drops is the model's reading (log entry 63). R128, R138: in a beat a tile
moves one position, up in direction A and down in direction B, and is withdrawn when it has made the line's laps past its
injection position. -/
def Obligations.JunctionEvents : Prop :=
  (∀ (s : State) (n u k slot cnt row0 : Nat) (h : W64) (fmt : JFmt) (w : Wavefront) (rest : List Wavefront) (q : List (Nat × JOp))
    (j : Junction), s.junction n = j →
    let op : JOp := .mma h fmt slot cnt row0
    let came := s.pump n
    let c := came.junction n
    let heads : Prop := ∃ v h' f sl ct r0 rest, c.queue = (v, .mma h' f sl ct r0) :: rest
    let enters (t : State) (j : Junction) (k : Nat) : State :=
      let t' := t.noteOor u h (handleSpan h) (mmaPlaces h fmt cnt k)
      let ws := j.waves ++ [t.mmaVector n h fmt slot cnt row0 k]
      if k + 1 < cnt then (t'.setJunction n { j with waves := ws, mma := some (u, op, k + 1) }).pump n
      else ((t'.setJunction n { j with waves := ws, mma := none }).unblockJunction u).pump n
    (c.mma = some (u, op, k) → c.slotShut slot = false → exec (.wavefrontEntry n) s = .next (enters came c k)) ∧
    (c.mma = some (u, op, k) → c.slotShut slot = true → exec (.wavefrontEntry n) s = .next came) ∧
    (c.mma = none → c.queue = (u, op) :: q → came.lineRuns n = false →
      (c.slotShut slot = false → ∀ j', j' = { c with mma := some (u, op, 0), queue := q } →
        exec (.wavefrontEntry n) s = .next (enters (came.setJunction n j') j' 0)) ∧
      (c.slotShut slot = true → exec (.wavefrontEntry n) s = .next came)) ∧
    (c.mma = none → ¬ heads ∨ came.lineRuns n = true →
      (streamingTask c.tasks = none → exec (.wavefrontEntry n) s = .next came) ∧
      (∀ t data sc f, streamingTask c.tasks = some t → t.a = some (data, sc) → f = armFmt (came.loopLine (lineOf n)).arm false →
        c.slotShut (c.entrySlot t.entry) = false → exec (.wavefrontEntry n) s = .next (came.setJunction n
          { c.onTask t.entry (fun t => { t with next := t.next + 1 }) with waves := c.waves ++ [⟨c.active, c.entrySlot t.entry, t.next, f,
              sc, Memory.bytes data (128 * jBytes f * t.next) (128 * jBytes f), came.stnNow n, some t.entry⟩] }))) ∧
    (j.waves = w :: rest → w.entered + 264 ≤ s.stnNow n →
      let j' := Junction.drained { j.contribute w with waves := rest } w.bank
      (w.task = none ∨ w.row ≠ 127 → exec (.wavefrontApply n) s = .next ((s.setJunction n j').pump n)) ∧
      (∀ e, w.task = some e → w.row = 127 →
        exec (.wavefrontApply n) s = .next (((s.setJunction n (j'.taskDone e)).pump n).finishLine (lineOf n)))) ∧
    (j.waves = w :: rest → s.stnNow n < w.entered + 264 → exec (.wavefrontApply n) s = .next s) ∧
    (∀ sc, j.load = some (some u, .wload h fmt sc) → exec (.bankFillComplete n) s =
      .next ((((s.noteOor u h (handleSpan h) ((List.range (16384 * jBytes fmt)).map (hOff h + ·))).setJunction n
        (j.filled (sparse (s.blockBytes n (handleSpan h) (hOff h) (16384 * jBytes fmt))))).unblockJunction u).pump n)) ∧
    (∀ lop t data sc, j.load = some (none, lop) → loadingTask j.tasks = some t → t.b = some (data, sc) →
      (rowsEntering j.tasks = true ∨ j.mma ≠ none → exec (.bankFillComplete n) s = .next s) ∧
      (rowsEntering j.tasks = false → j.mma = none → exec (.bankFillComplete n) s = .next ((s.setJunction n
        (((j.filled data).swap).onTask t.entry fun t => { t with stage := .streaming })).pump n))) ∧
    (∀ xop, j.xfer = some (u, xop) → (∃ v ∈ j.waves, xop.accSlot = some v.slot) → exec (.accumulatorTransferDone n) s = .next s) ∧
    (∀ places, places = (List.range 65536).map (hOff h + ·) → (∀ v ∈ j.waves, v.slot ≠ slot) →
      let noted := s.noteOor u h (handleSpan h) places
      let ends (t : State) : Prop := exec (.accumulatorTransferDone n) s =
        .next (((t.onJunction n fun k => { k with xfer := none }).unblockJunction u).pump n)
      (j.xfer = some (u, .accrd h slot) → ends (noted.blockPut n (handleSpan h)
        ((List.range 65536).map fun i => (hOff h + i, (j.slotBytes slot).getD i 0)))) ∧
      (j.xfer = some (u, .accwr h slot) → ends (noted.setJunction n { j with acc := (List.range 16384).foldl (fun (t : Tab Lane) i =>
        Tab.set 0 t (slot * 16384 + i) (BitVec.ofNat 32 (ofBytes ((List.range 4).map fun b =>
          (s.blockBytes n (handleSpan h) (hOff h) 65536).getD (4 * i + b) 0)))) j.acc }))) ∧
    (j.xfer = some (u, .accclr slot) → (∀ v ∈ j.waves, v.slot ≠ slot) → j.queue = [] → ∃ t, exec (.accumulatorTransferDone n) s = .next t ∧
      (∀ e, slot * 16384 ≤ e → e < slot * 16384 + 16384 → Tab.get (t.junction n).acc e 0 = 0) ∧
      (∀ e, e < slot * 16384 ∨ slot * 16384 + 16384 ≤ e → Tab.get (t.junction n).acc e 0 = Tab.get j.acc e 0) ∧
      (t.junction n).xfer = none)) ∧
  (∀ (j : Junction) (w : Wavefront) (acc : Lane) (c : Nat),
    ((j.bank w.bank).fmt = .i8 → w.fmt = .i8 → ∀ b, b = j.bank w.bank → (accAfter w b c acc : BitVec 32) = acc + BitVec.ofInt 32
      (((List.range 128).map fun k => asInt 8 (w.value k) * asInt 8 (b.value k c)).sum)) ∧
    ((j.bank w.bank).fmt = .i8 → w.fmt ≠ .i8 → accAfter w (j.bank w.bank) c acc = acc) ∧
    ((j.bank w.bank).fmt ≠ .i8 → jMode w.fmt ≠ jMode (j.bank w.bank).fmt →
      accAfter w (j.bank w.bank) c acc = BitVec.ofNat 32 Fmt.fp32.nan) ∧
    ((j.bank w.bank).fmt ≠ .i8 → jMode w.fmt = jMode (j.bank w.bank).fmt → ∀ b, b = j.bank w.bank →
      let scaled : Prop := b.fmt = .e4m3 ∨ b.fmt = .e5m2
      let val := Fmt.fp32.decode
      let rounded := Fmt.fp32.encode .rne
      ∃ (len : Nat) (sum : Nat → FVal) (a : Nat → Nat), (scaled → len = 128) ∧ (¬ scaled → len = 32) ∧ a 0 = acc.toNat ∧
        accAfter w b c acc = BitVec.ofNat 32 (a (128 / len)) ∧ ∀ t, t < 128 / len →
          let ps := (List.range len).map fun i =>
            ((jFormat w.fmt).decode (w.value (len * t + i))).mul ((jFormat b.fmt).decode (b.value (len * t + i) c))
          (.nan ∈ ps ∨ (.inf true ∈ ps ∧ .inf false ∈ ps) → sum t = .nan) ∧
          (∀ g, .nan ∉ ps → .inf g ∈ ps → .inf (!g) ∉ ps → sum t = .inf g) ∧
          ((∀ p ∈ ps, ∃ g m e, p = .fin g m e) → ∃ g m e y, sum t = .fin g m e ∧ (sum t).rat = some y ∧
            y = (ps.map fun p => p.rat.getD 0).sum ∧ (y = 0 → (g = true ↔ ∀ p ∈ ps, ∃ e, p = .fin true 0 e))) ∧
          (scaled → a (t + 1) = rounded (FVal.add .rne (val (a t))
            (val (rounded ((val (rounded (sum t))).mul (val (rounded ((val w.scale.toNat).mul (val b.scale.toNat))))))))) ∧
          (¬ scaled → a (t + 1) = rounded (FVal.add .rne (val (a t)) (val (rounded (sum t)))))) ∧
    (∀ k, k < 128 → Tab.get (j.contribute w).acc (w.slot * 16384 + 128 * w.row + k) 0 =
      accAfter w (j.bank w.bank) k (Tab.get j.acc (w.slot * 16384 + 128 * w.row + k) 0)) ∧
    (∀ e, (e < w.slot * 16384 + 128 * w.row ∨ w.slot * 16384 + 128 * w.row + 128 ≤ e) →
      Tab.get (j.contribute w).acc e 0 = Tab.get j.acc e 0)) ∧
  (∀ (s : State) (die row n r : Nat) (x : Region) (t : Task) (l : LoopLine),
    let key := die * 8 + row
    (s.loopLine key = l → l.claim = some r → l.running = false → exec (.lineBeat die row) s = .next s) ∧
    (s.loopLine key = l → l.claim = none → exec (.lineBeat die row) s = .next s) ∧
    (s.loopLine key = l → l.claim = some r → l.running = true → l.stopping = true →
      exec (.lineBeat die row) s = .next (s.stopLine key (s.lineStations key))) ∧
    (s.loopLine key = l → l.claim = some r → l.running = true → l.stopping = false → l.armed = true →
      exec (.lineBeat die row) s = .next ((s.beat key r (s.lineStations key)).finishLine key)) ∧
    (s.loopLine key = l → l.claim = some r → l.running = true → l.stopping = false → l.armed = false →
      exec (.lineBeat die row) s = .next (s.finishLine key)) ∧
    (∀ m, s.endAwait m = (s.onJunction m fun j => { j with queue := j.queue ++ j.awaiting, awaiting := [] }).pump m) ∧
    (s.loopLine key = l → l.running = true → l.armed = false → (∀ m ∈ s.lineStations key, (s.junction m).signalled = true) →
      ((s.endRun key).loopLine key).running = false ∧ ∀ i, i < 8 → ((s.endRun key).junction (key * 8 + i)).awaiting = []) ∧
    (nextTask (s.junction n).tasks = some t → (s.junction n).canLoad = true → ∃ j, exec (.lineTaskStart n) s = .next (s.setJunction n j) ∧
      (j.bank j.idle).st = .loading ∧ j.active = (s.junction n).active ∧ j.acc = (s.junction n).acc ∧
      (∀ k ∈ j.tasks, k.entry = t.entry → k.stage = .loading)) ∧
    (nextTask (s.junction n).tasks = none ∨ (s.junction n).canLoad = false → exec (.lineTaskStart n) s = .next s) ∧
    (s.loopLine (n / 8) = l → l.claim = some r → s.region? r = some x → l.running = true → l.stopping = false →
      (∀ e, fetchingTask (s.junction n).tasks = none → s.recoverable n l = some e → exec (.recoveryFetch n) s =
        .next (s.setJunction n { s.junction n with
          entries := Tab.put (s.junction n).entries e .running
          tasks := (s.junction n).tasks ++ [⟨e, true, none, none, .fetching, 0, none, []⟩] })) ∧
      (fetchingTask (s.junction n).tasks = some t → t.hold = none → s.mayRepeat (junctionAgent n) = true →
        exec (.recoveryFetch n) s = .next ((s.repeated (junctionAgent n)).fetchBoth n r t.entry x l)) ∧
      (fetchingTask (s.junction n).tasks = some t → t.hold ≠ none → exec (.recoveryFetch n) s = .next s)) ∧
    (s.loopLine (n / 8) = l → l.claim = none ∨ l.running = false ∨ l.stopping = true → exec (.recoveryFetch n) s = .next s)) ∧
  (∀ (l : LoopLine) (p : Nat) (t : Tile), (p, t) ∈ l.tiles → p < 8 →
    let q := if t.down then (p + 7) % 8 else (p + 1) % 8
    let laps := t.laps + (if q = t.start then 1 else 0)
    ((q = t.start ∧ laps = l.arm.toNat / 2 ^ 16 % 2 ^ 8) → { t with laps := laps } ∈ l.advance.2) ∧
    (¬ (q = t.start ∧ laps = l.arm.toNat / 2 ^ 16 % 2 ^ 8) → (q, { t with laps := laps }) ∈ l.advance.1.tiles))

/-- R206 to R209, R212 to R214, R216: a doorbell moves TAIL or breaks the queue; enabling takes a sound descriptor; disabling
discards and reports, with HEAD and TAIL as they stood, and every waiting enqueuer faults at its firing; a ring record is
fetched behind the window; the first waiting enqueuer is served, once what waited for a main-line port has been tried; waiting
enqueuers and records are promoted, enqueuers in class 0 too; a siding write or read withheld beyond the limit removes the
context that issued its record and the context of every enqueuer that waits. That SPILL_FAULT is written to every resident unit
of that context, and that its record names no unit, are the model's choices (log entries 88 and 56). R10, R209, R224, R225: a
launch list that its queue cannot take is refused and MSTAT holds 4, with ADDRESS where it lies outside the stacks, and so is
one whose LCMD sets another bit, which is the model's choice (log entry 57); one that fits stays in hand until it enters whole,
and nothing else enters between. A wake register is armed and its condition tested; a bad arming is refused and MSTAT holds 3.
-/
def Obligations.QueueEvents : Prop :=
  (∀ (s : State) (p j q : Nat) (x : Queue), s.localQueue p j = some q → s.queueAt q = x →
    (∀ v : BitVec 64, x.st ≠ .disabled → ∀ tail : BitVec 32, tail = v.setWidth 32 →
      ((tail - x.head).toNat ≤ 2 ^ qdLog2n x.live → exec (.doorbellWrite p j v) s = .next (s.setQueue q { x with tail := tail })) ∧
      (2 ^ qdLog2n x.live < (tail - x.head).toNat → exec (.doorbellWrite p j v) s = .next (s.setQueue q { x with st := .broken }))) ∧
    (x.st = .disabled → s.qdOk p x.desc = true → ∃ t, exec (.queueEnable p j) s = .next t ∧ (t.queueAt q).st = .open_ ∧
      (t.queueAt q).head = 0 ∧ (t.queueAt q).tail = 0 ∧ (t.queueAt q).window = [] ∧ (t.queueAt q).live = withEn x.desc true) ∧
    (x.st = .disabled → s.qdOk p x.desc = false → exec (.queueEnable p j) s = .next (s.setMstat p 1 q)) ∧
    (let off := s.setQueue q { Queue.reset with desc := withEn x.desc false, head := x.head, tail := x.tail }
     let reports (t : State) : State := t.postHost p 3 (w64 q) (w64 (x.window.length + x.siding.length + b2n x.spill.isSome))
     (x.st ≠ .disabled → x.waiters = [] → exec (.queueDisable p j) s = .next (reports off)) ∧
     let refused (t : State) (w : Nat × Nat × Nat × Nat) : State := match t.unit? w.1 with
       | none => t
       | some y =>
         let c : Nat × Option Taken := match y.blocked with
           | some (.again _ c) => (c.slot, c.taken)
           | _ => (0, none)
         ((t.putUnit w.1 { y with blocked := none, blockedUpd := .none }).returnTaken w.1 y.isSeq c.2).raise w.1 c.1
           ⟨.permission, 4, BitVec.ofNat 64 q⟩
     (x.st ≠ .disabled → exec (.queueDisable p j) s = .next (reports (x.waiters.foldl refused off)))) ∧
    (s.queuePart q = some p → x.st = .open_ → x.spill = none → x.readback = none → x.listed = false → x.window.length < 8 → x.siding = [] →
      x.waiters = [] → (s.part p).keyless = false →
      (x.tail ≠ x.head → ∃ t, exec (.ringFetch q) s = .next t ∧ t.queueAt q = Queue.settle { x with
        head := x.head + 1
        window := x.window ++ [QRec.mk (s.readRecord p ⟨.device, qdRing x.live + 32 * (x.head.toNat % 2 ^ qdLog2n x.live)⟩)
          (qdClass x.live) (s.queueNow q)] }) ∧
      (x.tail = x.head → exec (.ringFetch q) s = .next s)) ∧
    (x.siding = [] → x.portWaits = false → s.retryPort q = s) ∧
    (∀ t y w u, t = s.retryPort q → t.queueAt q = y → t.firstWaiter y.waiters = some w → t.unit? w.1 = some u →
      (∃ pre post, y.waiters = pre ++ w :: post ∧ (∀ v ∈ pre, t.waiterClass w < t.waiterClass v) ∧
        ∀ v ∈ post, t.waiterClass w ≤ t.waiterClass v) ∧
      (y.st ≠ .disabled → y.room = true → y.listed = false → exec (.enqueueWaitServed q) s = .next
        (((((t.setQueue q { y with waiters := y.waiters.filter (· != w) }).enterQueue q u.ctx u.inHand).noteGrant u.region).onUnit w.1
          fun z => match z.blocked with
            | some (.again (.jdec d _ _) _) => z.write d 0 0
            | _ => z).unblock w.1)) ∧
      (y.room = false ∨ y.listed = true → y.st ≠ .disabled → exec (.enqueueWaitServed q) s = .next t)) ∧
    (∀ i w, x.waiters[i]? = some w →
      (w.2.2.1 + 2 ^ 16 ≤ s.queueNow q → exec (.enqueueWaiterPromotion q i) s =
        .next (s.setQueue q { x with waiters := x.waiters.set i (w.1, w.2.1 + 1, s.queueNow q, w.2.2.2) })) ∧
      (s.queueNow q < w.2.2.1 + 2 ^ 16 → exec (.enqueueWaiterPromotion q i) s = .next s)) ∧
    (∀ i r, x.window[i]? = some r → r.since + 2 ^ 24 ≤ s.queueNow q → r.cls ≠ 0 → exec (.recordPromotion q i) s =
      .next (s.setQueue q { x with window := x.window.set i { r with cls := r.cls - 1, since := r.since + 2 ^ 24 } })) ∧
    (s.queuePart q = some p →
      let limit := (s.part p).fslimit
      let ends (t : State) : Prop := exec (.spillFaultTimeout q) s = .next t
      let fire (t : State) (who : Nat) : State := match t.context? who with
        | some c => if c.removing = true then t else ((t.contextFault who (trapOf .spillFault)).postErr { ErrRec.blank p 0 with
            ctx := who, code := Code.num .spillFault, die := queueDie q } 1).drainContext who
        | none => t
      let write : List Nat := match x.spill with
        | some (who, _) => if x.portWaits = false ∧ x.spillSince + limit ≤ s.queueNow q then [who] else []
        | none => []
      let read : List Nat := match x.readback, x.siding with
        | some t, (_, _, _, who) :: _ => if t + limit ≤ s.queueNow q then [who] else []
        | _, _ => []
      let waiting : List Nat := x.waiters.filterMap fun w => (s.unit? w.1).map fun y => y.ctx
      (write ++ read = [] → ends s) ∧ (write ++ read ≠ [] → ends ((write ++ read ++ waiting).foldl fire s)))) ∧
  (∀ (s : State) (p q n : Nat) (x : Partition), Tab.find s.partitions p = some x → q < 2 ^ 15 → n < 2 ^ 9 →
    let v := BitVec.ofNat 64 (q * 2 ^ 16 + n)
    let inside := s.ownsAddr p x.laddr.toNat = true ∧ s.ownsAddr p (x.laddr.toNat + 32 * n - 1) = true
    (x.launch = none → 0 < n → n ≤ 256 → s.queuePart q = some p → (s.queueAt q).st ≠ .disabled → n ≤ (s.queueAt q).capacity →
      (x.laddr.toNat % 32 = 0 → inside → exec (.launchListSubmit p v) s =
        .next (s.setPart p { x with launch := some (q, x.laddr.toNat, n), lstat := 1 })) ∧
      (x.laddr.toNat % 32 ≠ 0 ∨ ¬ inside → ∃ t, exec (.launchListSubmit p v) s = .next t ∧
        (t.part p).launch = none ∧ (t.part p).lstat.getLsbD 1 = true ∧ ((t.part p).lstat.getLsbD 2 = true ↔ ¬ inside) ∧
        (t.part p).mstat = w64 (q * 2 ^ 32 + 4))) ∧
    (x.launch ≠ none ∨ n = 0 ∨ 256 < n ∨ s.queuePart q ≠ some p ∨ (s.queueAt q).st = .disabled ∨ (s.queueAt q).capacity < n →
      ∃ t, exec (.launchListSubmit p v) s = .next t ∧ (t.part p).launch = x.launch ∧
        (t.part p).lstat.getLsbD 1 = true ∧ (t.part p).lstat.getLsbD 0 = x.lstat.getLsbD 0 ∧
        (t.part p).mstat = w64 (q * 2 ^ 32 + 4)) ∧
    (∀ other : BitVec 64, other.toNat % 2 ^ 9 = n → other.toNat / 2 ^ 16 % 2 ^ 15 = q → other ≠ v →
      ∃ t, exec (.launchListSubmit p other) s = .next t ∧ (t.part p).launch = x.launch ∧ (t.part p).lstat.getLsbD 1 = true ∧
        (t.part p).mstat = w64 (q * 2 ^ 32 + 4)) ∧
    (∀ a, x.launch = some (q, a, n) → (s.queueAt q).st = .disabled → ∃ t, exec (.launchListEntry p) s = .next t ∧
      (t.part p).launch = none ∧ (t.part p).lstat = 2 ∧ (t.part p).mstat = w64 (q * 2 ^ 32 + 4)) ∧
    (∀ a y, x.launch = some (q, a, 1) → s.queueAt q = y → y.st ≠ .disabled → y.listed = true ∨ 1 ≤ y.places → y.room = true →
      s.mayEnter q rankDispatch = true → ∀ s' t, s' = s.noteEnter q rankDispatch →
      t = s'.enterQueue q (qdCtx y.live) (s'.readRecord p ⟨.device, a⟩) →
      exec (.launchListEntry p) s = .next ((t.setQueue q { t.queueAt q with listed := false }).setPart p
        { t.part p with launch := none, lstat := (t.part p).lstat &&& ~~~1#64 })) ∧
    (∀ a y, x.launch = some (q, a, n) → s.queueAt q = y → 0 < n → y.st ≠ .disabled → y.listed = true → y.room = false →
      s.mayEnter q rankDispatch = true → ∃ t, exec (.launchListEntry p) s = .next t ∧ (t.part p).launch = some (q, a, n) ∧
        (t.queueAt q).listed = true ∧ (t.queueAt q).window = y.window ∧ (t.queueAt q).siding = y.siding) ∧
    (∀ a, x.launch = some (q, a, n) → (s.queueAt q).st ≠ .disabled → (s.queueAt q).listed = false → (s.queueAt q).places < n →
      exec (.launchListEntry p) s = .next s) ∧
    (∀ w v, w < 64 →
      let kept := v &&& 0xFFFFFC00FFFFFFFF#64
      (v.getLsbD 63 = false → exec (.wakeArm p w v) s = .next (s.setPart p { x with wake := Tab.set 0 x.wake w kept })) ∧
      (v.getLsbD 63 = true → s.wakeOk p v = true → exec (.wakeArm p w v) s =
        .next ((s.setPart p { x with wake := Tab.set 0 x.wake w kept }).testWakes p (wakeSignal v))) ∧
      (v.getLsbD 63 = true → s.wakeOk p v = false → exec (.wakeArm p w v) s = .next (s.setMstat p 3 w))))

/-- R216 to R218, R223: the candidates of a decision stand by class, in a class the saved regions in the order of their
switch-out before the heads of the eligible queues, which follow one another by ascending number: in the lowest class that has
an eligible queue, cyclically from the pointer's queue on. The pointer stays at a queue that it has arrived at while that is
eligible and its deficit is at least 1, and else moves to the next eligible one, which gains its WEIGHT. A dispatch costs 1, a
queue that is then empty has no deficit, and the pointer stays where the queue can go on. R217, R218, R220 to R223, R237, R239:
a decision starts the first candidate that can be placed, after those that cannot, whose target placements may call for a
switch-out; a record whose load is refused is dropped; where none can be placed, nothing starts, and with nothing waiting
nothing changes. A region at its boundary is saved, or discarded where it will be replayed; only a saved region resumes, and one
that stands alone does. That a frozen region does not switch out is the model's reading (log entry 39). R35, R94, R197, R355: a
record is complete exactly when DONE has been fired, every sequenced unit has halted, no unit is busy, blocked or waiting for a
load, no token is in an inbox or on its way, every commit is complete and no copy, multicast, collective or run of the loop line
is in progress, and its region is then idle with its quota returned; a region of which a request has waited and none has been
granted for WDLIMIT region cycles raises ALLOC_STALL; an access withheld for FSLIMIT region cycles stops its region for a
replay, or, in an unrevocable invocation, changes nothing. From when the watchdog counts is the model's reading (log entry 16),
and so is that SERVICE_TIMEOUT names no word and no address (log entry 99). -/
def Obligations.SchedulingEvents : Prop :=
  ((∀ (s s' : State) (qs : List Nat) (saved : Nat → List Nat) (key : Nat → Nat) (cs : List (Nat × Cand)), qs.Pairwise (· < ·) →
    s.candidates qs saved key = (s', cs) →
    let el (c : Nat) : List Nat := qs.filter fun q => s.headClass q == some c
    let first (c f : Nat) : Prop := el c ≠ [] ∧ (∀ b, b < c → el b = []) ∧ s.point (key c) (el c) = (s', some f)
    (∀ c q, (c, Cand.head q) ∈ cs ↔ c < 4 ∧ q ∈ el c) ∧
    (∀ c, c < 4 → (cs.filterMap fun e => match e with
      | (b, .saved r) => if b = c then some r else none
      | _ => none) = saved c) ∧
    cs.Pairwise (fun a b => a.1 ≤ b.1 ∧ (a.1 = b.1 → match a.2, b.2 with
      | .saved _, _ => True
      | .head _, .saved _ => False
      | .head u, .head v => (∀ f, first a.1 f → (f ≤ u ∧ v < f) ∨ (u < v ∧ (f ≤ u ↔ f ≤ v))) ∧
          ((∀ f, ¬ first a.1 f) → u < v)))) ∧
  (∀ (s : State) (key q : Nat) (el : List Nat), el.Pairwise (· < ·) →
    let x := s.queueAt q
    let stays : Prop := q ∈ el ∧ Tab.get s.pointed key false = true ∧ 1 ≤ x.deficit
    let d := x.deficit + qdWeight x.live
    let moves : Prop := s.point key el = ({ s.setQueue q { x with deficit := d } with
      pointers := Tab.put s.pointers key q, pointed := Tab.set false s.pointed key true }, some q)
    (Tab.find s.pointers key = some q → stays → s.point key el = (s, some q)) ∧
    (Tab.find s.pointers key = none → el.head? = some q → 1 ≤ d → moves) ∧
    (∀ p, Tab.find s.pointers key = some p → ¬ (p ∈ el ∧ Tab.get s.pointed key false = true ∧ 1 ≤ (s.queueAt p).deficit) → q ∈ el →
      (p < q ∧ ∀ v ∈ el, p < v → q ≤ v) ∨ (∀ v ∈ el, v ≤ p ∧ q ≤ v) → 1 ≤ d → moves) ∧
    (∀ left : State → List Nat, let cost : Int := if x.window = [] ∧ x.siding = [] then 0 else x.deficit - 1
      let t := s.setQueue q { x with deficit := cost }
      (Tab.find s.pointers key ≠ some q ∨ (1 ≤ cost ∧ q ∈ left t) → s.charge key q left = t) ∧
      (Tab.find s.pointers key = some q → cost < 1 ∨ q ∉ left t →
        s.charge key q left = ({ t with pointed := Tab.set false t.pointed key false }.point key (left t)).1)))) ∧
  (∀ (s : State) (die p : Nat),
    (s.queuesOf false die p = [] → (∀ c, s.savedOf die p c = []) → exec (.scheduleDecision die p) s = .next s) ∧
    (let c0 := s.checkQueues (s.queuesOf false die p)
     let qs := c0.queuesOf false die p
     ∀ s' cs, c0.candidates qs (c0.savedOf die p) (fabricKey die p) = (s', cs) →
     let avoid (e : Cand) : List Nat := avoidFor (s'.reserved die p cs) e
     let unplaced (e : Nat × Cand) : Prop := match e.2 with
       | .saved r => s'.clear r (avoid e.2) = false ∨ s'.resumeRegion r = none
       | .head q => ∀ r rest, (s'.queueAt q).window = r :: rest → s'.place die q r.words (avoid e.2) = .no
     let targets (e : Nat × Cand) : List (Nat × List Nat) := match e with
       | (c, .saved r) => [(c, s'.savedTarget die p c r)]
       | (c, .head q) => (match (s'.queueAt q).window with
         | [] => []
         | r :: _ => [(c, s'.headTarget die p c q r)])
     let ends (pre : List (Nat × Cand)) (t : State) : Prop :=
       exec (.scheduleDecision die p) s = .next (t.preemptFor die p (pre.flatMap targets))
     ((∀ e ∈ cs, unplaced e) → ends cs s') ∧
     (∀ pre c q post r rest, cs = pre ++ (c, .head q) :: post → (∀ e ∈ pre, unplaced e) → (s'.queueAt q).window = r :: rest →
       (∀ t, s'.place die q r.words (avoid (.head q)) = .started t →
         ends pre (t.dispatched (fabricKey die p c) q fun t => qs.filter fun v => t.headClass v == some c)) ∧
       (∀ d, s'.place die q r.words (avoid (.head q)) = .refused d →
         ends pre (s'.refuseHead q d (if d = 0 then s'.refusedSlot q r.words else (0, 0))))) ∧
     (∀ pre c rg post t, cs = pre ++ (c, .saved rg) :: post → (∀ e ∈ pre, unplaced e) → s'.clear rg (avoid (.saved rg)) = true →
       s'.resumeRegion rg = some t → ends pre t)) ∧
    (∀ missed, (∃ e ∈ s.regionsOn die p, e.2.st = .switching) ∨
        (∀ m ∈ missed, ∀ e ∈ s.regionsOn die p, e.2.st ≠ .running ∨ s.frozen e.1 = true ∨ s.regionClass e.2 ≤ m.1 ∨
          ∀ n ∈ e.2.stations, n ∉ m.2) → s.preemptFor die p missed = s) ∧
    (∀ m rg x, (∀ e ∈ s.regionsOn die p, e.2.st ≠ .switching) →
      let called (e : Nat × Region) : Prop := e.2.st = .running ∧ s.frozen e.1 = false ∧ m.1 < s.regionClass e.2 ∧
        ∃ n ∈ e.2.stations, n ∈ m.2
      (rg, x) ∈ s.regionsOn die p → called (rg, x) →
      (∀ e ∈ s.regionsOn die p, called e → e.1 ≠ rg → s.regionClass e.2 < s.regionClass x ∨
        (s.regionClass e.2 = s.regionClass x ∧ e.2.started < x.started)) →
      (∀ e ∈ s.regionsOn die p, e.1 = rg → e.2 = x) → s.preemptFor die p [m] = s.requestSwitch rg) ∧
    (∀ rg x, s.region? rg = some x → x.die = die → x.part = p →
      (x.st = .switching → s.atBoundary rg x = true → x.after ≠ .saved ∨ s.frozen rg = false → x.discard = false →
        exec (.tileTaskBoundary rg) s = .next ((s.endYields x).saveRegion rg x.after)) ∧
      (x.st = .switching → s.atBoundary rg x = true → x.after ≠ .saved ∨ s.frozen rg = false → x.discard = true →
        exec (.tileTaskBoundary rg) s = .next (s.discardRegion rg x.after)) ∧
      (x.st ≠ .switching ∨ s.atBoundary rg x = false ∨ (x.after = .saved ∧ s.frozen rg = true) → exec (.tileTaskBoundary rg) s = .next s) ∧
      (x.st ≠ .saved → s.queuesOf false die p = [] → exec (.regionResume rg) s = .next s) ∧
      (∀ t c, x.st = .saved → c < 4 → s.queuesOf false die p = [] → (∀ d, s.savedOf die p d = if d = c then [rg] else []) →
        s.resumeRegion rg = some t → exec (.regionResume rg) s = .next t))) ∧
  (∀ (s : State) (rg : Nat) (x : Region), s.region? rg = some x →
    let done : Prop := x.st = .running ∧ x.done = true ∧
      (∀ u ∈ x.units, ∀ y, s.unit? u = some y → (y.mode = .sequenced → y.halted = true) ∧ y.busy = none ∧ y.blocked = none ∧
        y.loads = [] ∧ y.reads = [] ∧ ∀ c ∈ y.inbox, c.2.q = []) ∧
      (∀ f ∈ s.flight, s.arcRegion f.dest ≠ rg) ∧ s.commitIndex rg = s.latestInvix rg ∧ s.heldOf rg = [] ∧
      (∀ k ∈ s.mesh, k.unit ∉ x.units) ∧ (∀ i ∈ s.invals, ∀ w ∈ i.waiters, w ∉ x.units) ∧
      (∀ n ∈ x.stations, ∀ c ∈ (s.station n).copies, c.2.busy = true → c.2.unit ∉ x.units) ∧
      (∀ m ∈ s.mcasts, m.2.region ≠ rg) ∧ (∀ c ∈ s.colls, c.2.region = rg → c.2.status ≠ none) ∧
      (∀ n ∈ x.stations, (s.loopLine (n / 8)).claim = some rg → (s.loopLine (n / 8)).running = false) ∧ s.triplesDue rg = false
    (done → exec (.recordComplete rg) s = .next (s.completeRecord rg x)) ∧
    (¬ done → exec (.recordComplete rg) s = .next s) ∧
    (done → x.units = [] → ∃ t y, exec (.recordComplete rg) s = .next t ∧ t.region? rg = some y ∧
      y.st = .idle ∧ y.record = [] ∧ y.idleAt = s.dieNow x.die) ∧
    (x.done = false ∨ x.st ≠ .running → exec (.recordComplete rg) s = .next s) ∧
    (∀ u y, u ∈ x.units → s.unit? u = some y → (y.busy ≠ none ∨ y.blocked ≠ none ∨ (y.mode = .sequenced ∧ y.halted = false)) →
      exec (.recordComplete rg) s = .next s) ∧
    (∀ u start, longest (s.requestsOf rg x) = some (u, start) → x.st = .running →
      ((s.part x.part).wdlimit ≤ s.regionCycles rg - x.wdBase →
        exec (.allocationWatchdog rg) s = .next (s.raiseAsync u (trapOf .allocStall))) ∧
      (s.regionCycles rg - x.wdBase < (s.part x.part).wdlimit →
        exec (.allocationWatchdog rg) s = .next s)) ∧
    (∀ u y h, s.unit? u = some y → isCore u = false → y.region = rg →
      x.st = .running ∨ (x.st = .switching ∧ x.discard = false) → s.holdsOf u y = [h] →
      (x.unrevocable (s.commitIndex rg) = false → h.since + (s.part y.part).fslimit ≤ s.regionCycles rg →
        exec (.serviceTimeout u) s = .next ((s.putUnit u (y.setFault (trapOf .serviceTimeout) 0 0)).putRegion rg
          { x with st := .switching, discard := true, after := .waitingService, service := some (u, h) })) ∧
      (x.unrevocable (s.commitIndex rg) = true ∨ s.regionCycles rg < h.since + (s.part y.part).fslimit →
        exec (.serviceTimeout u) s = .next s)))

/-- R219, R273, R275 to R280, R317: the depot cores. A record starts on the lowest idle core; a saved kernel resumes; with no
core idle, while a record of a lower class number waits, the running kernel of the highest BCLASS, the most recently started
among equals, is stopped, unless its core holds two saved kernels; it is saved once it is quiet, and its core is then idle; a
failing core goes out of service; a granted triple is delivered; a message lands in an empty register, is held by a full one,
and is refused while one is held, and what is to land in this very cycle is held until its end (R183). That a failed core's
record stands at the head of its window with the queue's class, and that one core is freed at a time, are the model's readings
(log entry 56). -/
def Obligations.DepotEvents : Prop :=
  ∀ (s : State) (stack : Nat),
    (∀ p c i, s.stackPart stack = some p → c = 16 * stack + i → i < 16 → (s.core c).st = .idle →
      (∀ j, j < i → (s.core (16 * stack + j)).st ≠ .idle) →
      (∀ s' cls q cs r rest g, s.depotSearch stack p = (s', (cls, .head q) :: cs) → (s'.queueAt q).window = r :: rest →
        s'.graph? (qdCtx (s'.queueAt q).live) (recGid r.words) = some g → depotReason g = none →
        ∃ t y, t = s'.startKernel c q p g r.words ∧ exec (.depotDispatch stack) s = .next (t.dispatched (depotKey stack p cls) q
            fun t => t.eligible (s'.queuesOf true stack p) cls) ∧
          t.unit? (coreBase + c) = some y ∧ y.pc = g.entry ∧ y.lm = allLive 64 ∧
          y.sReg 0 = recFrame r.words ∧ y.sReg 1 = recArg r.words ∧ y.sReg 2 = recJoin r.words ∧
          (t.core c).st = .running ∧ (t.core c).record = r.words ∧ (t.core c).queue = q) ∧
      (∀ s' cls n cs k, s.depotSearch stack p = (s', (cls, .saved n) :: cs) →
        (s'.savedKernels stack).find? (fun k => k.2.order == n) = some k →
        ∃ t, exec (.depotResume stack) s = .next t ∧ t.unit? (coreBase + c) = some k.2.unit ∧ (t.core c).st = .running ∧
          (t.core c).record = k.2.record ∧ (t.core c).cyc = k.2.cyc) ∧
      exec (.depotPreempt stack) s = .next s) ∧
    (∀ p, s.stackPart stack = some p → (∀ j, j < 16 → (s.core (16 * stack + j)).st ≠ .idle) →
      let freeing : Prop := ∃ j, j < 16 ∧ ((s.core (16 * stack + j)).st = .stopping ∨ (s.core (16 * stack + j)).st = .saving)
      let cls (j : Nat) : Nat := match s.unit? (coreBase + (16 * stack + j)) with
        | some y => y.sys.bclass.toNat
        | none => 3
      let waits (k : Nat) : Prop := ∃ q ∈ s.queuesOf true stack p, ∃ r rest, (s.queueAt q).window = r :: rest ∧
        r.cls - (s.queueNow q - r.since) / 2 ^ 24 < k ∧ s.headBad q r = false
      let called (j : Nat) : Prop := j < 16 ∧ (s.core (16 * stack + j)).st = .running ∧ (s.core (16 * stack + j)).saved.length < 2 ∧
        waits (cls j)
      exec (.depotDispatch stack) s = .next (s.checkQueues (s.queuesOf true stack p)) ∧ exec (.depotResume stack) s = .next s ∧
      (freeing ∨ (∀ j, ¬ called j) → exec (.depotPreempt stack) s = .next s) ∧
      (∀ j c, ¬ freeing → c = 16 * stack + j → called j →
        (∀ k, called k → k ≠ j → cls k < cls j ∨ (cls k = cls j ∧ (s.core (16 * stack + k)).started < (s.core c).started)) →
        exec (.depotPreempt stack) s = .next (s.setCore c { s.core c with st := .stopping }))) ∧
    (∀ c x, s.unit? (coreBase + c) = some x →
      ((s.core c).st = .stopping → s.kernelQuiet c x = true → x.blocked = none → ∃ t, exec (.depotStop c) s = .next t ∧
        (t.core c).st = .saving) ∧
      ((s.core c).st ≠ .stopping ∨ s.kernelQuiet c x = false → exec (.depotStop c) s = .next s) ∧
      ((s.core c).st = .saving → ∀ s', s' = s.landHeld c (s.coreNow c + 2) → ∃ t v, exec (.depotSaveComplete c) s = .next t ∧
        (t.core c).st = .idle ∧ t.unit? (coreBase + c) = none ∧ (t.core c).saved = (s'.core c).saved ++ [v] ∧
        v.unit = (s'.unit? (coreBase + c)).getD x ∧ v.record = (s'.core c).record ∧ v.m = (s'.core c).m ∧ v.full = (s'.core c).full) ∧
      (∀ n d b t, n < 8 → t = s.landHeld c (s.coreNow c) →
        ((t.core c).full.getLsbD n = false → Tab.find (t.core c).heldMsg n = none →
          exec (.mailboxSend c n d b) s = .next ((t.landMessage c n d b).noteLanding (coreBase + c))) ∧
        ((t.core c).full.getLsbD n = true → Tab.find (t.core c).heldMsg n = none → exec (.mailboxSend c n d b) s =
          .next (t.setCore c { t.core c with heldMsg := Tab.put (t.core c).heldMsg n (d, b, 0) })) ∧
        (Tab.find (t.core c).heldMsg n ≠ none → exec (.mailboxSend c n d b) s = .next t))) ∧
    (∀ c, c < 256 →
      let t := (s.discardKernel c .outOfService).retireNote (stackOfCore c) fun e =>
        { e with kind := 1, depot := c, die := stackOfCore c / 2 }
      let q := (s.core c).queue
      ((s.core c).st = .idle → exec (.depotCoreFailure c) s = .next t) ∧
      ((s.core c).st = .running → s.unit? (coreBase + c) ≠ none → (t.queueAt q).st ≠ .disabled → exec (.depotCoreFailure c) s =
        .next (t.setQueue q { t.queueAt q with
          window := ⟨(s.core c).record, qdClass (t.queueAt q).live, t.queueNow q⟩ :: (t.queueAt q).window })) ∧
      ((s.core c).st = .outOfService → exec (.depotCoreFailure c) s = .next s)) ∧
    (∀ c i t h x, (s.core c).async[i]? = some t → t.handle = some h → s.unit? (coreBase + c) = some x →
      ∃ s', exec (.tripleDelivery c i) s = .next s' ∧ (s'.core c).dcount = (s.core c).dcount + 1 ∧
        ∃ y, s'.unit? (coreBase + c) = some y ∧ y.sReg 14 = w64 ((s.core c).dcount + 1)) ∧
    (∀ c i t, (s.core c).async[i]? = some t → t.handle = none → exec (.tripleDelivery c i) s = .next s)

/-- R193 to R196, R198, R303: the pager comes in with the first record and leaves after 2^20 idle cycles; a record whose page is
mapped by now is released, one that the pager can map is mapped and released, one that it denies is denied, one that the host
must supply is posted, and one of a removed context is dropped; a released record leaves the queue once the page's TLBINV is
complete, and its withheld accesses are repeated, or raise NOT_PRESENT at once where it is denied; a waiting posting goes out
when the ring has room; the host's answer to a posted request denies, or maps the page where HFRAME is sound, with table nodes
from the frames that were set aside and from free frames. The bits of the leaf that the pager maps, and which free frames it
takes, are the model's reading (log entry 58). R200 to R203, R205: a migration begins by setting WB on a sound host leaf and a
TLBINV for its page; a record for a page that is no longer of the host is ignored, and with no frame free, and only then, a
record is dropped with its counters; the copy waits for the page's accesses; step 3 writes the device leaf with a TLBINV, which
takes the withheld accesses for repetition; step 4 frees the counters; step 6 waits for room in the ring. That a record without
a free frame is dropped, and that the copy is made in one step, are the model's choices (log entries 59 and 28). R247, R254,
R268, R270: the walker marks what holds an uncorrectable frame and only then posts its record, and what it cannot reach it tries
again; the eviction engine tries a node only while GCOUNT is below LOWMARK, whose word is a structure access like the others: it
may be withheld or fault; a node that is not childless and unreferenced is left as it is; a claimed one is removed, and a
removal that met a fault is tried again after 2^16 cycles. The engines' context and the walker's retry are the model's choice
(log entry 87), and the marks its reading (log entry 60). -/
def Obligations.PagerEvents : Prop :=
  (∀ (s : State) (p : Nat) (x : Partition), Tab.find s.partitions p = some x →
    let now := s.pagerNow p
    (x.pagerIn = false → (x.faultq ≠ [] ∨ x.migq ≠ []) →
      exec (.pagerSwapIn p) s = .next (s.setPart p { x with pagerIn := true, pagerIdle := now })) ∧
    (x.pagerIn = true ∨ (x.faultq = [] ∧ x.migq = []) → exec (.pagerSwapIn p) s = .next (s.setPart p x)) ∧
    (x.pagerIn = true → x.faultq = [] → x.migq = [] → x.migration = none → x.pagerIdle + 2 ^ 20 ≤ now →
      exec (.pagerSwapOut p) s = .next (s.setPart p { x with pagerIn := false })) ∧
    (x.faultq ≠ [] ∨ x.migq ≠ [] ∨ x.migration ≠ none ∨ now < x.pagerIdle + 2 ^ 20 →
      exec (.pagerSwapOut p) s = .next (s.setPart p x)) ∧
    (∀ i r, x.faultq[i]? = some r →
      let dropped := s.setPart p (Partition.idleFrom { x with faultq := x.faultq.eraseIdx i } now)
      (x.pagerIn = true → i < 1024 → r.release = none → r.host = none → s.context? (recCtx r) ≠ none →
        (∀ f nodes, s.mapped p r = true → ∃ t, exec (.pagerServe p i (.map f nodes)) s = .next t ∧
          (t.part p).faultq[i]? = some { r with release := some false }) ∧
        (∀ f nodes, s.mapped p r = false →
          let made := (s.zeroFrame p f).mapPage p (recCtx r) r.w0.toNat nodes (freshLeaf f (recDepot r))
          (s.framesFree p (f :: nodes) = false → exec (.pagerServe p i (.map f nodes)) s = .next s) ∧
          (s.framesFree p (f :: nodes) = true →
            (∀ t, made = some t → exec (.pagerServe p i (.map f nodes)) s = .next (t.release p i false)) ∧
            (made = none → exec (.pagerServe p i (.map f nodes)) s = .next (s.release p i true)))) ∧
        (∃ t, exec (.pagerServe p i .deny) s = .next t ∧ (t.part p).faultq[i]? = some { r with release := some true }) ∧
        (x.hreqWait = [] → x.hreqRoom = true → exec (.pagerServe p i (.host [])) s =
          .next ((s.setPart p { x with faultq := setRec x.faultq i fun r =>
            { r with host := some x.hreqHead.toNat, nodes := [] } }).writeHostReq p 1 r.w0 r.w1))) ∧
      (x.pagerIn = true → i < 1024 → r.release = none → r.host = none → s.context? (recCtx r) = none →
        ∀ a, exec (.pagerServe p i a) s = .next dropped) ∧
      (r.release ≠ none ∨ r.host ≠ none ∨ x.pagerIn = false ∨ 1024 ≤ i → ∀ a, exec (.pagerServe p i a) s = .next s) ∧
      (r.release = some true → exec (.faultRelease p i) s = .next (dropped.denyHolds r.picks)) ∧
      (r.release = some false →
        (s.pageQuiet (recCtx r) r.w0.toNat = true → exec (.faultRelease p i) s = .next (dropped.liftHolds r.picks true)) ∧
        (s.pageQuiet (recCtx r) r.w0.toNat = false → exec (.faultRelease p i) s = .next s)) ∧
      (r.release = none → exec (.faultRelease p i) s = .next s)) ∧
    (∀ w rest, x.hreqWait = w :: rest →
      (x.hreqRoom = true → exec (.hostRequestPost p) s = .next ((s.setPart p { x with hreqWait := rest }).writeHostReq p
        (wordAt w 0) (w.getD 1 0) (w.getD 2 0))) ∧
      (x.hreqRoom = false → exec (.hostRequestPost p) s = .next s)) ∧
    (∀ (r : FaultRec) (seq : Nat) (v : BitVec 64), x.faultq = [r] → r.host = some seq → r.release = none → fld v.toNat 32 32 = seq →
      let waits := (BitVec.ofNat 32 seq - x.hreqHead).toNat
      let plain := s.setPart p { x with hframe := none }
      (waits < x.hreqWait.length → exec (.hanswer p v) s = .next s) ∧
      (x.hreqWait.length ≤ waits →
        (v.getLsbD 0 = false ∨ x.hframe = none ∨ (∃ h, x.hframe = some h ∧ hframeOk h.toNat = false) →
          ∃ t, exec (.hanswer p v) s = .next t ∧ (t.part p).faultq = [{ r with release := some true }] ∧ (t.part p).hframe = none) ∧
        (∀ h, v.getLsbD 0 = true → x.hframe = some h → hframeOk h.toNat = true →
          let made := plain.mapPage p (recCtx r) r.w0.toNat (r.nodes ++ plain.spareFrames p 2 (plain.framesUsed p)) (hostLeaf h)
          (∀ t, made = some t → exec (.hanswer p v) s = .next (t.release p 0 false)) ∧
          (made = none → exec (.hanswer p v) s = .next (plain.release p 0 true))))) ∧
    (∀ n used f, f ∈ s.spareFrames p n used → (∀ u ∈ used, ¬ (u.1 ≤ f ∧ f < u.1 + u.2)) ∧ (s.spareFrames p n used).Nodup ∧
      (s.spareFrames p n used).length ≤ n)) ∧
  (∀ (s : State) (p : Nat) (x : Partition), Tab.find s.partitions p = some x → x.pagerIn = true →
    (∀ r rest, x.migration = none → x.migq = r :: rest →
      (s.noFrameFree p = true → exec (.pageMigration p none) s = .next (s.dropMigration p r)) ∧
      (s.noFrameFree p = false → exec (.pageMigration p none) s = .next s) ∧
      (∀ f, s.frameFree p f = false → exec (.pageMigration p (some f)) s = .next s) ∧
      (∀ f a old, s.frameFree p f = true → s.leafAt p (migCtx r) (migPage r) = some a → old = w64 (s.homeNat p ⟨.device, a⟩ 8) →
        (pteValid old = true → pteLeaf old = true → pteKind old = .host → pteMalformed old 2 = false →
          exec (.pageMigration p (some f)) s = .next (((s.putEntry p a (old ||| 0x100#64)).tlbinv p (migCtx r) (migPage r)).onPart p
            fun x => { x with migq := x.migq.drop 1, migration := some ⟨migCtx r, migPage r, old, f, 1⟩ })) ∧
        (pteValid old = false ∨ pteKind old ≠ .host → exec (.pageMigration p (some f)) s = .next (s.ignoreMigration p)))) ∧
    (∀ m : Migration, x.migration = some m →
      let at_ (t : State) (n : Nat) : State := t.onPart p fun x => { x with migration := some { m with step := n } }
      (m.step = 1 ∨ m.step = 4 → s.pageQuiet m.ctx m.page = false → exec (.pageMigration p none) s = .next s) ∧
      (m.step = 1 → s.pageQuiet m.ctx m.page = true → exec (.pageMigration p none) s = .next (at_ (s.homeSync p .device (2 ^ 16 * m.frame)
        (s.homeBytes p ⟨.host, pteFrame m.old⟩ 65536) 0 false) 2)) ∧
      (m.step = 2 → exec (.pageMigration p none) s = .next (at_ ((List.range 512).foldl
        (fun s i => s.invlLine p ⟨.host, pteFrame m.old + 128 * i⟩ []) s) 3)) ∧
      (∀ a, m.step = 3 → s.leafAt p m.ctx m.page = some a → exec (.pageMigration p none) s =
        .next (at_ ((s.putEntry p a (migratedLeaf m.old m.frame)).tlbinv p m.ctx m.page) 4)) ∧
      (m.step = 4 → s.pageQuiet m.ctx m.page = true →
        exec (.pageMigration p none) s = .next (at_ (s.freeCounters p m.ctx (m.page / 2 ^ 16)) 5)) ∧
      (5 ≤ m.step → (x.hreqWait ≠ [] ∨ x.hreqRoom = false) → exec (.pageMigration p none) s = .next s) ∧
      (5 ≤ m.step → x.hreqWait = [] → x.hreqRoom = true → exec (.pageMigration p none) s =
        .next ((s.setPart p (Partition.idleFrom { x with migration := none } (s.pagerNow p))).writeHostReq p 2 (w64 (pteFrame m.old))
          (w64 m.page))))) ∧
  (∀ (s : State) (p : Nat) (x : Partition), Tab.find s.partitions p = some x →
    (∀ f, s.ownsAddr p (2 ^ 16 * f) = false → exec (.poisonWalk p f) s = .next s) ∧
    (∀ f, s.ownsAddr p (2 ^ 16 * f) = true → x.poisons.find? (fun e => e.frame == f) = none →
      let t := State.setPoison { s with poisoned := if s.poisoned.contains f then s.poisoned else f :: s.poisoned } p ⟨f, none, none⟩
      let posted (t : State) : State := (t.dropPoison p f).postCoalesced (t.poisonRec p f)
      (x.kvcb = 0 → exec (.poisonWalk p f) s = .next (posted t)) ∧
      (x.kvcb ≠ 0 → t.engineCtx p = none → exec (.poisonWalk p f) s = .next t) ∧
      (∀ c, x.kvcb ≠ 0 → t.engineCtx p = some c →
        let marks := (engineEnv p c).poisonGroup (t.frameIndex p f) t
        (∀ t', marks = .ok ⟨⟩ t' → exec (.poisonWalk p f) s = .next (posted t')) ∧
        (∀ e, marks = .fault e → exec (.poisonWalk p f) s = .next (t.setPoison p ⟨f, some (t.pagerNow p), none⟩)) ∧
        (∀ va l a wb, marks = .hold va l a wb → exec (.poisonWalk p f) s =
          .next ((t.engineHold p c va l a wb).1.setPoison p ⟨f, none, some (t.engineHold p c va l a wb).2⟩)))) ∧
    (∀ f e, s.ownsAddr p (2 ^ 16 * f) = true → x.poisons.find? (fun e => e.frame == f) = some e →
      e.hold ≠ none ∨ (∃ t, e.since = some t ∧ s.pagerNow p < t + 2 ^ 16) ∨ s.mayRepeat (walkerAgent p f) = false → exec (.poisonWalk p f) s = .next s) ∧
    (∀ c node, s.engineCtx p = some c →
      let claims := (engineEnv p c).claim node s
      let holds (t : State) (g step : Nat) (r : State × Hold) : State := r.1.setEvicting p (some ⟨node, g, step, t.pagerNow p, some r.2⟩)
      (x.evicting = none → x.kvcb ≠ 0 →
        (∀ mark t, (engineEnv p c).cbq 8 s = .ok mark t → mark / 2 ^ 32 % 2 ^ 32 ≤ mark % 2 ^ 32 →
          exec (.evictionTry p node) s = .next (t.setEvicting p none)) ∧
        (∀ va l a wb, claims = .hold va l a wb →
          exec (.evictionTry p node) s = .next (holds s 0 0 (s.engineHold p c va l a wb))) ∧
        (∀ t, claims = .ok none t → exec (.evictionTry p node) s = .next (t.setEvicting p none)) ∧
        (∀ t g, claims = .ok (some g) t →
          (∀ t', (engineEnv p c).remove node g t = .ok ⟨⟩ t' → exec (.evictionTry p node) s = .next (t'.setEvicting p none)) ∧
          (∀ e, (engineEnv p c).remove node g t = .fault e → exec (.evictionTry p node) s =
            .next ((t.setEvicting p (some ⟨node, g, 3, t.pagerNow p, none⟩)).postCoalesced (evictRec p c e))) ∧
          (∀ va l a wb, (engineEnv p c).remove node g t = .hold va l a wb → exec (.evictionTry p node) s =
            .next (holds t g 4 (t.engineHold p c va l a wb)))) ∧
        (∀ e, claims = .fault e → exec (.evictionTry p node) s = .next ((s.setEvicting p none).postCoalesced (evictRec p c e)))) ∧
      (x.evicting ≠ none ∨ x.kvcb = 0 → exec (.evictionTry p node) s = .next s) ∧
      (∀ e, x.evicting = some e →
        let r := s.repeated (engineAgent p)
        (e.hold ≠ none → exec (.evictionRetry p) s = .next s) ∧
        (e.hold = none → s.mayRepeat (engineAgent p) = true → e.step = 3 →
          (e.since + 2 ^ 16 ≤ r.pagerNow p → ∀ t, (engineEnv p c).remove e.node e.group r = .ok ⟨⟩ t →
            exec (.evictionRetry p) s = .next (t.setEvicting p none)) ∧
          (r.pagerNow p < e.since + 2 ^ 16 → exec (.evictionRetry p) s = .next r)) ∧
        (e.hold = none → s.mayRepeat (engineAgent p) = true → e.step = 0 → ∀ t, (engineEnv p c).claim e.node r = .ok none t →
          exec (.evictionRetry p) s = .next (t.setEvicting p none)))))

/-- R305, R307, R308, R313, R316, R345, R346: the sixteenth refusal in a row retires a lane; a port with fewer than four lanes
goes down at once and abandons its collectives; without the key of the epoch that it receives in every flit is refused; a
rollover comes at SEQ 2^40 - 2^20, takes the next key and restarts SEQ; a partial or a result that is due is taken, any other
flit is not; an abandon flit ends the collective and goes on along the chain. That a rollover waits for its key, that the
receiver restarts SEQ by itself and that a port without a key refuses are the model's reading (log entry 65), and so are the
flits that are not taken (log entry 42). -/
def Obligations.MainLineEvents : Prop :=
  ∀ (s : State) (port : Nat) (x : MainPort), port < 16 → s.mainPort port = x → x.down = false →
    let hears : Prop := x.key = .live ∧ (x.rxEpoch ≤ x.epoch ∨ (x.nextKey = true ∧ x.rxEpoch = x.epoch + 1))
    (∀ lane, lane < 8 → x.lanes.getLsbD lane = true →
      let refused := exec (.flitReceive port lane false) s
      (¬ hears → exec (.flitReceive port lane true) s = refused) ∧
      (hears → exec (.flitReceive port lane true) s =
        .next (s.setMainPort port { x with
          rxSeq := if 2 ^ 40 - 2 ^ 20 ≤ x.rxSeq + 1 then 0 else x.rxSeq + 1
          rxEpoch := if 2 ^ 40 - 2 ^ 20 ≤ x.rxSeq + 1 then x.rxEpoch + 1 else x.rxEpoch
          refusals := Tab.del x.refusals lane })) ∧
      exec (.flitReceive port lane false) s = .next ((s.linkError port 5).refuse port lane) ∧
      (s.portPart port = none → Tab.get x.refusals lane 0 + 1 < 16 → refused =
        .next (s.setMainPort port { x with refusals := Tab.put x.refusals lane (Tab.get x.refusals lane 0 + 1) })) ∧
      (16 ≤ Tab.get x.refusals lane 0 + 1 →
        let y : MainPort := { x with refusals := Tab.del x.refusals lane, lanes := x.lanes &&& ~~~(1#8 <<< lane) }
        let t := s.setMainPort port y
        (s.portPart port = none → 4 ≤ y.width → refused = .next t) ∧
        (s.portPart port = none → y.width < 4 → refused = .next ((t.setMainPort port { y with down := true }).abandonPort port)) ∧
        ∃ q, refused = .next q ∧ (q.mainPort port).lanes = y.lanes ∧ ((q.mainPort port).down = true ↔ y.width < 4))) ∧
    (x.nextKey = true → 2 ^ 40 - 2 ^ 20 ≤ x.txSeq → ∃ t, exec (.epochRollover port) s = .next t ∧
      (t.mainPort port).epoch = x.epoch + 1 ∧ (t.mainPort port).nextKey = false ∧
      (x.queued = [] → (t.mainPort port).txSeq = 0) ∧ (∀ q, q ≠ port → t.mainPort q = s.mainPort q) ∧
      (∀ p, s.portPart port ≠ some p → t.part p = s.part p)) ∧
    (x.nextKey = false ∨ x.txSeq < 2 ^ 40 - 2 ^ 20 → exec (.epochRollover port) s = .next s) ∧
    (x.width < 4 → exec (.portDown port) s = .next ((s.setMainPort port { x with down := true }).abandonPort port)) ∧
    (4 ≤ x.width → exec (.portDown port) s = .next s) ∧
    (¬ hears → ∀ cid h v b, exec (.collDataFlit port cid b h v) s = .next s ∧ exec (.collAbandonFlit port cid b) s = .next s) ∧
    (∀ cid c, cid < 64 → hears → Tab.find s.colls (port * 64 + cid) = some c → c.status = none →
      (∀ h v, c.first = false → c.prev = port → h.result = false → h.elem = c.partials → c.partials < c.count →
        (c.partials ≠ 0 ∨ CollHdr.differs h c = false → exec (.collDataFlit port cid true h v) s = .next (s.collPartial c (c.cut v))) ∧
        (c.partials = 0 → CollHdr.differs h c = true → exec (.collDataFlit port cid true h v) s = .next (s.collAbandoned c))) ∧
      (∀ h v, c.last = false → c.next = port → c.op ≠ 3 → h.result = true → h.elem = c.written → c.written < c.partials →
        CollHdr.differs h c = false → exec (.collDataFlit port cid false h v) s = .next (s.collResult c (c.cut v))) ∧
      (∀ h v, h.result = true → exec (.collDataFlit port cid true h v) s = .next s) ∧
      (∀ h v, h.result = false → exec (.collDataFlit port cid false h v) s = .next s) ∧
      (c.first = false → c.prev = port → exec (.collAbandonFlit port cid true) s = .next (s.abandonFrom port c)) ∧
      (c.first = true → exec (.collAbandonFlit port cid true) s = .next s)) ∧
    (∀ cid h v b, Tab.find s.colls (port * 64 + cid) = none →
      exec (.collDataFlit port cid b h v) s = .next s ∧ exec (.collAbandonFlit port cid b) s = .next s)

/-- R220, R241 to R246, R299: a command for a context of another partition, or for none, only sets MSTAT to 6; a resume with
nothing stopped sets it to 2; a stopped region runs on or waits for its replay; a kill drains; a drained region is released; a
context leaves once nothing of it is left, with a record of class 4. Where a resume leaves a region, and that the faults of the
drain are added to the record's COUNT, are the model's readings (log entry 66). R298 to R301, R303, R312: what the host reads
and writes of a partition: its memory while the key is active, poison and zeros otherwise, before a key is installed too, which
R311 says only of a zeroed one; the register window of a stopped unit, whose UNREV is its region's, while for a unit that is not
stopped a read is 0, a write is ignored and either sets MSTAT to 7; the limits within their range, else MSTAT 8; its registers;
a report with the nonce first and the digests of the pager configuration and of the transport key, the same in every report
until the next bring-up. What the window's writes reach, and what becomes of a report that does not fit, are the model's
readings (log entries 68 and 69). -/
def Obligations.HostEvents : Prop :=
  (∀ (s : State) (p ctx : Nat) (x : Partition), Tab.find s.partitions p = some x →
    ((∀ c, s.context? ctx = some c → c.desc.part ≠ p) → ∀ i ∈ [Instr.ctxcmdResume p ctx, .ctxcmdKill p ctx, .ctxcmdSwitchOut p ctx],
      exec i s = .next (s.setMstat p 6 ctx)) ∧
    (∀ c, s.context? ctx = some c → c.desc.part = p →
      exec (.ctxcmdKill p ctx) s = .next (s.drainContext ctx) ∧
      ((∀ r ∈ s.regions, r.2.ctx = ctx → r.2.st ≠ .stoppedResident ∧ r.2.st ≠ .stoppedSaved) →
        (∀ k ∈ s.cores, k.2.ctx = ctx → k.2.st ≠ .stopped) → exec (.ctxcmdResume p ctx) s = .next (s.setMstat p 2 ctx)) ∧
      (∀ rg y, s.regions = [(rg, y)] → s.cores = [] → y.ctx = ctx →
        (y.st = .stoppedSaved → exec (.ctxcmdResume p ctx) s = .next (s.putRegion rg { y with st := .saved })) ∧
        (y.st = .stoppedResident → y.units = [] → ∃ t z, exec (.ctxcmdResume p ctx) s = .next t ∧ t.region? rg = some z ∧
          z.st = .running) ∧
        (y.st = .running → s.frozen rg = false → exec (.ctxcmdSwitchOut p ctx) s =
          .next (s.putRegion rg { y with st := .switching, after := .saved }))) ∧
      (∀ rg y, s.region? rg = some y → y.st = .draining → s.drained rg y = true →
        exec (.regionRelease rg) s = .next (s.releaseRegion rg)) ∧
      (∀ rg y, s.region? rg = some y → (y.st ≠ .draining ∨ s.drained rg y = false) → exec (.regionRelease rg) s = .next s) ∧
      (c.removing = true → (∀ r ∈ s.regions, r.2.ctx ≠ ctx) → s.noKernels ctx = true →
        ∀ t : State, t = s.setPart p { x with
          faultq := x.faultq.filter (fun r => wordCtx r.w1 != ctx), migq := x.migq.filter (fun m => wordCtx m.1 != ctx) } →
        exec (.contextRemoval ctx) s = .next (((State.postErr { t with contexts := Tab.del s.contexts ctx }
          { ErrRec.blank p 4 with ctx := ctx } (1 + c.drainFaults)).revokeDone p).coolDown)) ∧
      (c.removing = false ∨ (∃ r ∈ s.regions, r.2.ctx = ctx) → exec (.contextRemoval ctx) s = .next s)) ∧
    (∀ desc : CtxDesc, desc.part = p → ctx < 2 ^ 16 → s.context? ctx = none →
      (x.st = .active → s.critical = none → desc.root % 2 ^ 16 = 0 → s.ownsAddr p desc.root = true → exec (.contextCreate ctx desc) s =
        .next { s with contexts := Tab.put s.contexts ctx ⟨desc, false, 0⟩ }) ∧
      (s.critical ≠ none ∨ desc.root % 2 ^ 16 ≠ 0 ∨ s.ownsAddr p desc.root = false → exec (.contextCreate ctx desc) s = .next s))) ∧
  (∀ (s : State) (p : Nat) (x : Partition), Tab.find s.partitions p = some x →
    (∀ o n, s.inWindow p o n = true →
      (x.memKey ≠ .active → exec (.hostMemRead p o n) s =
        .next (s.setPart p { x with hostData := List.replicate n 0, hostPoison := true })) ∧
      (x.memKey = .active → s.poisoned = [] → exec (.hostMemRead p o n) s = .next (s.setPart p { x with
        hostData := (List.range n).map (fun i => s.homeByte p (s.windowLoc p (o + i))), hostPoison := false }))) ∧
    (∀ o data, s.inWindow p o data.length = true →
      (x.memKey ≠ .active → exec (.hostMemWrite p o data) s = .next s) ∧
      (x.memKey = .active → exec (.hostMemWrite p o data) s = .next (s.storeWindow p o data))) ∧
    (∀ o, s.shown p (selOf x.unitsel) = .none → ∃ t, exec (.registerWindowAccess p o none) s = .next t ∧
      (t.part p).winData = 0 ∧ (t.part p).mstat = w64 ((selOf x.unitsel).ctx * 2 ^ 32 + 7)) ∧
    (∀ o v, s.shown p (selOf x.unitsel) = .none →
      exec (.registerWindowAccess p o (some v)) s = .next (s.setMstat p 7 (selOf x.unitsel).ctx)) ∧
    (∀ u y, isCore u = false → (∀ r, s.region? y.region = some r → r.st ≠ .stoppedResident) →
      s.shown p (selOf x.unitsel) ≠ .live u y) ∧
    (∀ u y o v, s.shown p (selOf x.unitsel) = .live u y → isCore u = false →
      exec (.registerWindowAccess p o none) s = .next (s.setPart p { x with winData := s.windowRead u y o }) ∧
      (let t := s.putUnit u (y.windowWrite o v)
       (o ≠ 0x4458 → o ≠ 0x4428 → exec (.registerWindowAccess p o (some v)) s = .next t) ∧
       (o = 0x4458 → exec (.registerWindowAccess p o (some v)) s = .next (t.setPart p { x with migth := v.setWidth 16 })) ∧
       (o = 0x4428 → ∀ r, y.region ≠ 0 → s.region? y.region = some r → ∃ q r', exec (.registerWindowAccess p o (some v)) s = .next q ∧
         q.unit? u = some (y.windowWrite o v) ∧ q.region? y.region = some r' ∧
         r'.unrevocable (t.commitIndex y.region) = v.getLsbD 35)) ∧
      (∀ n : SReg, o = 0x4000 + 8 * n.val → s.windowRead u y o = y.sReg n ∧ (y.windowWrite o v).sReg n = v)) ∧
    (∀ v : BitVec 64,
      (2 ^ 16 ≤ v.toNat → v.toNat ≤ 2 ^ 40 →
        exec (.partitionSettingWrite p 0x100 v) s = .next (s.setPart p { x with wdlimit := v.toNat }) ∧
        exec (.partitionSettingWrite p 0x108 v) s = .next (s.setPart p { x with fslimit := v.toNat })) ∧
      (v.toNat < 2 ^ 16 ∨ 2 ^ 40 < v.toNat →
        exec (.partitionSettingWrite p 0x100 v) s = .next (s.setMstat p 8 0) ∧
        exec (.partitionSettingWrite p 0x108 v) s = .next (s.setMstat p 8 0)) ∧
      exec (.partitionSettingWrite p 0x110 v) s = .next s ∧
      exec (.registerWrite .bar0 p 0x058 v) s = .next (s.setPart p { x with hreqTail := v.setWidth 32 }) ∧
      exec (.registerWrite .bar0 p 0x020 v) s = .next (s.setPart p { x with errTail := v.setWidth 32 }) ∧
      exec (.registerWrite .bar0 p 0x060 v) s = .next (s.setPart p { x with hframe := some v }) ∧
      exec (.registerWrite .bar0 p 0x0A8 v) s = .next (s.setPart p { x with attAddr := v }) ∧
      exec (.registerWrite .bar0 p 0x000 v) s = .next s ∧
      exec (.registerWrite .dispatch p 0x000 v) s = .next (s.setPart p { x with laddr := v }) ∧
      exec (.registerWrite .dispatch p 0x040 v) s = .next (s.setPart p { x with kvcb := w64 (v.toNat % 2 ^ 55) })) ∧
    (∀ v, x.memKey = .active → s.inWindow p x.attAddr.toNat 36320 = true → ∀ t : State, t = { s with free := s.free + 36048 } →
      ∃ r, exec (.attestationReport p v) s = .next r ∧
        (let w := t.storeWindow p x.attAddr.toNat (s.reportBytes p)
         r = w.setPart p ((w.part p).notify 3)) ∧
        (s.reportBytes p).take 8 = bytesOf 8 (Tab.get x.attNonce 0 0).toNat ∧
        (∀ q : State, q.boots = s.boots → ((q.reportBytes p).drop 128).take 48 = ((s.reportBytes p).drop 128).take 48) ∧
        ((s.reportBytes p).drop 224).take 48 = (List.range 48).map (Config.sha384 ((List.range 388).map s.keyByte))) ∧
    (∀ v, x.memKey ≠ .active ∨ s.inWindow p x.attAddr.toNat 36320 = false →
      exec (.attestationReport p v) s = .next { s with free := s.free + 36048 }))

/-- R310, R311: the states of a partition's keys: an install starts the scrub, its end makes the partition active, a revoke
needs an active key, and any other command only sets MSTAT to 5, which is the model's reading for a command in another key state
(log entry 67); a function-level reset acts as a revocation whatever the partition's keys are (log entry 72). A main-line key
goes to a port that has had none, is that of a live port's next epoch, and takes a port whose key was zeroed into a new epoch in
both directions (log entry 65). R309, R312 to R316, R318, R321 to R324: firmware makes a partition of free districts and
destroys it without contexts and queues; it retires a station only once no region is on it, and one channel of a slice, with a
record each, and at a second one poisons a frame and marks the module; a wear register is refreshed for an instance of the
partition's own districts only, and one at its end of life is spared so; clocks change no other state. At a critical temperature
every context drains, nothing new is admitted, and the module is off once the last one is removed; a reset leaves host memory
and the retirement record, takes what fails out of service, and leaves no partition; in recovery mode logical device 0 has its
registers. What a retirement, a failing frame and a power-off leave beside this is the model's choice (log entry 71), and so are
a bring-up's verdicts and what it keeps (log entry 72). -/
def Obligations.KeysAndFirmware : Prop :=
  (∀ (s : State) (p : Nat) (x : Partition), Tab.find s.partitions p = some x →
    (x.memKey = .empty → ∃ t, exec (.keyInstallMemory p true) s = .next t ∧ (t.part p).memKey = .scrubbing ∧
      (t.part p).st = .scrubbing ∧ ∀ d o, d ∈ x.districts → d < 16 → o < stackBytes → Memory.read t.dram (devAddr d o) = 0) ∧
    (x.memKey ≠ .empty → exec (.keyInstallMemory p true) s = .next (s.setMstat p 5 0)) ∧
    (∀ i ∈ [Instr.keyInstallMemory p false, .keyInstallMainLine p false, .keyInstallIde p false],
      exec i s = .next (s.setMstat p 5 0)) ∧
    (x.memKey = .scrubbing → exec (.scrubComplete p) s =
      .next (s.setPart p (Partition.notify { x with memKey := .active, st := .active } 4))) ∧
    (x.memKey ≠ .scrubbing → exec (.scrubComplete p) s = .next s) ∧
    (∃ t, exec (.keyInstallMainLine p true) s = .next t ∧ (∀ d, d ∉ x.districts → t.mainPort d = s.mainPort d) ∧
      (x.districts.Nodup → ∀ d ∈ x.districts, (t.mainPort d).key = .live ∧
        ((s.mainPort d).key = .none → (t.mainPort d).nextKey = (s.mainPort d).nextKey ∧ (t.mainPort d).epoch = (s.mainPort d).epoch) ∧
        ((s.mainPort d).key = .live → (t.mainPort d).nextKey = true ∧ (t.mainPort d).epoch = (s.mainPort d).epoch) ∧
        ((s.mainPort d).key = .zeroed → (t.mainPort d).nextKey = false ∧ (t.mainPort d).epoch = max (s.mainPort d).epoch (s.mainPort d).rxEpoch + 1 ∧
          (t.mainPort d).rxEpoch = (t.mainPort d).epoch ∧ (t.mainPort d).rxSeq = 0 ∧ ((s.mainPort d).queued = [] → (t.mainPort d).txSeq = 0)))) ∧
    (x.ideKey = .none ∨ x.ideKey = .revoked → x.memKey ≠ .revoked → exec (.keyInstallIde p true) s =
      .next (s.setPart p (Partition.notify { x with ideKey := .installed } 4))) ∧
    (x.ideKey = .installed → exec (.ideStreamActive p) s =
      .next (s.setPart p (Partition.notify { x with ideKey := .active } 4))) ∧
    (x.ideKey ≠ .installed → exec (.ideStreamActive p) s = .next s) ∧
    (x.memKey ≠ .active → exec (.keyRevoke p) s = .next (s.setMstat p 5 0)) ∧
    (s.contexts = [] → s.colls = [] → ∀ i ∈ [Instr.keyRevoke p, .functionLevelReset p], x.memKey = .active ∨ i = .functionLevelReset p →
      ∃ t, exec i s = .next t ∧ (∀ d ∈ x.districts, (t.mainPort d).nextKey = false ∧ (t.mainPort d).queued = [] ∧
          (t.mainPort d).key = (if (s.mainPort d).key = .none then .none else .zeroed)) ∧
        (t.part p).st = .revoked ∧ (t.part p).memKey = .empty ∧
        (t.part p).ideKey = (if x.ideKey = .none then .none else .revoked) ∧ ∀ r, r ≠ p → t.part r = s.part r)) ∧
  (∀ (s : State) (p : Nat),
    (∀ ds pager, Tab.find s.partitions p = none → p < 16 → s.power = .up → s.critical = none → ascending ds = true →
      (∀ d ∈ ds, d < 16 ∧ s.partOf d = none) → connected ds = true → districtOfStn pager ∈ ds → pager < 512 →
      (s.station pager).retired = false →
      ∃ t x, exec (.partitionCreate p ds pager) s = .next t ∧ Tab.find t.partitions p = some x ∧ x.districts = ds ∧
        x.pager = pager ∧ x.memKey = .empty ∧ x.st = .absent ∧ ∀ r, r ≠ p → t.part r = s.part r) ∧
    (∀ ds pager, Tab.find s.partitions p ≠ none ∨ (∃ d ∈ ds, s.partOf d ≠ none) ∨ connected ds = false ∨ s.critical ≠ none →
      exec (.partitionCreate p ds pager) s = .next s) ∧
    (∀ x, Tab.find s.partitions p = some x →
      (s.contextsOf p = [] → s.queuesOff p = true → ∃ t, exec (.partitionDestroy p) s = .next t ∧ Tab.find t.partitions p = none) ∧
      (s.contextsOf p ≠ [] ∨ s.queuesOff p = false → exec (.partitionDestroy p) s = .next s) ∧
      (∀ which v, which < 4 →
        let t := s.setPart p { x with wear := Tab.set wearReset x.wear which (w64 (v.toNat % 2 ^ 48)) }
        let unit := v.toNat / 2 ^ 32 % 2 ^ 16
        let own : Prop := (which = 0 ∧ unit < 64) ∨ (which = 1 ∧ unit < 512 ∧ 2 * (unit / 64) + unit % 64 / 32 ∈ x.districts) ∨
          (which = 2 ∧ unit < 128 ∧ unit / 8 ∈ x.districts) ∨ (which = 3 ∧ unit / 160 ∈ x.districts)
        let does (r : Host.Outcome State Fault Refusal) : Prop := exec (.wearRefresh p which v) s = r
        (¬ own → does (.next s)) ∧ (own →
        (v.toNat % 2 ^ 16 ≠ 0 ∨ which = 0 → does (.next t)) ∧
        (v.toNat % 2 ^ 16 = 0 → which = 1 → does (exec (.stationRetire unit false) t)) ∧
        (v.toNat % 2 ^ 16 = 0 → which = 2 → unit < 128 → (t.mainPort (unit / 8)).lanes.getLsbD (unit % 8) = true →
          does (.next (t.retireLane (unit / 8) (unit % 8)))) ∧
        (v.toNat % 2 ^ 16 = 0 → which = 3 → does (exec (.pseudoChannelRetire (unit / 160) (unit % 160)) t))))) ∧
    (∀ n b, n < 512 → (s.station n).retired = false →
      (s.regionsAt n = [] → exec (.stationRetire n b) s = .next ((s.onStation n fun st => { st with retired := true }).retireNote
        (districtOfStn n) fun e => { e with kind := 4, die := dieOfStn n, station := n % 64 })) ∧
      (s.regionsAt n = [] → s.partOf (districtOfStn n) = none → exec (.stationRetire n b) s =
        .next (s.onStation n fun st => { st with retired := true })) ∧
      (∀ rg r, s.regionsAt n = [(rg, r)] → r.st.resident = false →
        exec (.stationRetire n true) s = exec (.stationRetire n false) (s.drainContext r.ctx)) ∧
      (s.regionsAt n ≠ [] → exec (.stationRetire n false) s = .next s)) ∧
    (∀ stack ch, stack < 16 → ch < 160 → (∀ c ∈ s.retiredCh, c.1 ≠ stack * 32 + ch / 5) →
      exec (.pseudoChannelRetire stack ch) s = .next (State.retireNote
        { s with retiredCh := (stack * 32 + ch / 5, ch % 5) :: s.retiredCh } stack fun e => { e with die := stack / 2 })) ∧
    (∀ stack ch c, stack < 16 → ch < 160 → (stack * 32 + ch / 5, c) ∈ s.retiredCh → (stack * 32 + ch / 5, ch % 5) ∉ s.retiredCh →
      ∃ t, exec (.pseudoChannelRetire stack ch) s = .next t ∧ t.marked = true ∧
        (∀ q, s.partOf stack = some q → ∃ f t0, devAddr stack 0 ≤ 2 ^ 16 * f ∧ 2 ^ 16 * f < devAddr stack 0 + stackBytes ∧
          exec (.poisonWalk q f) s.draw.2 = .next t0 ∧ t = { t0 with marked := true })) ∧
    (∀ level, exec (.thermalThrottle true level) s = .next { s with dclock := level } ∧
      exec (.thermalThrottle false level) s = .next { s with clock := level }) ∧
    (∀ die, die < 8 → s.power.runs = true → s.critical = none →
      (s.contexts = [] → ∃ t, exec (.criticalTemperature die) s = .next t ∧ t.power = .off ∧ t.units = [] ∧ t.regions = [] ∧
        t.contexts = []) ∧
      (s.contexts ≠ [] → exec (.criticalTemperature die) s =
        .next ((s.contexts.map (·.1)).foldl State.drainContext { s with critical := some die }))) ∧
    (∀ die, s.critical = some die → (s.contexts ≠ [] → s.coolDown = s) ∧
      (s.contexts = [] → s.coolDown.power = .off ∧ s.coolDown.units = [] ∧ s.coolDown.regions = [] ∧ s.coolDown.lines = [])) ∧
    (∀ v failing, ∃ t, exec (.powerOnReset v failing) s = .next t ∧ exec (.conventionalReset v failing) s = .next t ∧
      t.partitions = [] ∧ t.units = [] ∧ t.host = s.host ∧ t.peer = s.peer ∧
      t.power = (if Failing.rails ∈ failing then .held else if v then .up else .recovery) ∧
      (∀ n, n < 512 → ((t.station n).retired = true ↔ Failing.station n ∈ failing ∨ (s.station n).retired = true)) ∧
      (∀ c, c < 256 → ((t.core c).st = .outOfService ↔ Failing.core c ∈ failing ∨ (s.core c).st = .outOfService)) ∧
      (∀ n, n < 2560 → Failing.channel n ∈ failing → (n / 5, n % 5) ∈ t.retiredCh ∨ t.marked = true) ∧
      (∀ q, q < 16 → ((t.mainPort q).down = true ↔ (t.mainPort q).width < 4) ∧
        ∀ bad l, Failing.lanes q bad ∈ failing → bad.getLsbD l = true → (t.mainPort q).lanes.getLsbD l = false)) ∧
    (∀ v, s.power = .recovery → Tab.find s.partitions 0 = none →
      exec (.registerWrite .bar0 0 0x060 v) s = .next { s with ld0 := { s.ld0 with hframe := some v } }))
end

