-- ==== Sys2Proof/Laws/Bits.lean ====
section
/-! SUPPORT. Lane vectors and integer patterns: what a value position of a built vector holds, and what wrapping and
clamping give. -/
namespace Sys2Proof

theorem vecMk_lt (w n : Nat) (f : Nat → Nat) : vecMk w n f < 2 ^ (w * n) := by
  induction n with
  | zero => simp [vecMk]
  | succ n ih =>
    have h : f n % 2 ^ w < 2 ^ w := Nat.mod_lt _ (by positivity)
    calc vecMk w (n + 1) f = vecMk w n f + (f n % 2 ^ w) * 2 ^ (w * n) := by simp [vecMk, Nat.shiftLeft_eq]
      _ < 2 ^ (w * n) + (f n % 2 ^ w) * 2 ^ (w * n) := by omega
      _ = (f n % 2 ^ w + 1) * 2 ^ (w * n) := by ring
      _ ≤ 2 ^ w * 2 ^ (w * n) := Nat.mul_le_mul_right _ h
      _ = 2 ^ (w * (n + 1)) := by ring

/-- Value position `v` of a built vector (R53). -/
theorem valAt_vecMk (w : Nat) {n v : Nat} (f : Nat → Nat) (h : v < n) : valAt w (vecMk w n f) v = f v % 2 ^ w := by
  induction n with
  | zero => omega
  | succ n ih =>
    simp only [valAt, fld, vecMk, Nat.shiftRight_eq_div_pow, Nat.shiftLeft_eq] at ih ⊢
    by_cases hv : v = n
    · subst hv
      rw [Nat.add_mul_div_right _ _ (by positivity), Nat.div_eq_of_lt (vecMk_lt w v f)]
      simp
    · have hv' : v < n := by omega
      rw [← ih hv']
      obtain ⟨d, rfl⟩ : ∃ d, n = v + 1 + d := ⟨n - (v + 1), by omega⟩
      have e : f (v + 1 + d) % 2 ^ w * 2 ^ (w * (v + 1 + d)) =
          2 ^ (w * v) * (2 ^ w * (f (v + 1 + d) % 2 ^ w * 2 ^ (w * d))) := by
        have : w * (v + 1 + d) = w * v + (w + w * d) := by ring
        rw [this, pow_add, pow_add]; ring
      rw [e, Nat.add_mul_div_left _ _ (by positivity), Nat.add_mul_mod_self_left]

theorem valAt_vecMk_lt (w : Nat) {n v : Nat} (f : Nat → Nat) (h : v < n) : valAt w (vecMk w n f) v < 2 ^ w := by
  rw [valAt_vecMk w f h]; exact Nat.mod_lt _ (by positivity)

theorem valAt_lt (w x v : Nat) : valAt w x v < 2 ^ w := Nat.mod_lt _ (by positivity)

namespace Machine

theorem wrapInt_lt (w : Nat) (i : Int) : wrapInt w i < 2 ^ w := by
  have h : (0 : Int) < ((2 ^ w : Nat) : Int) := by positivity
  have := Int.emod_lt_of_pos i h
  have := Int.emod_nonneg i h.ne'
  simp only [wrapInt]; omega

theorem wrapInt_cast (w : Nat) (i : Int) : ((wrapInt w i : Nat) : Int) = i % ((2 ^ w : Nat) : Int) := by
  have h : (0 : Int) < ((2 ^ w : Nat) : Int) := by positivity
  exact Int.toNat_of_nonneg (Int.emod_nonneg i h.ne')

theorem narrow_lt (t : IntTy) (sat : Bool) (m : Int) : narrow t sat m < 2 ^ t.width := wrapInt_lt _ _

@[simp] theorem narrow_mod (t : IntTy) (sat : Bool) (m : Int) : narrow t sat m % 2 ^ t.width = narrow t sat m :=
  Nat.mod_eq_of_lt (narrow_lt t sat m)

/-- A wrapped result is congruent to the exact one (R326). -/
theorem narrow_wraps (t : IntTy) (m : Int) : ∃ q : Int, m = ((narrow t false m : Nat) : Int) + q * ((2 ^ t.width : Nat) : Int) := by
  refine ⟨m / ((2 ^ t.width : Nat) : Int), ?_⟩
  rw [narrow, wrapInt_cast]
  have := Int.emod_add_mul_ediv m ((2 ^ t.width : Nat) : Int)
  simp only [Bool.false_eq_true, if_false]
  linarith [mul_comm (m / ((2 ^ t.width : Nat) : Int)) ((2 ^ t.width : Nat) : Int)]

theorem IntTy.min_le_max (t : IntTy) : t.minVal ≤ t.maxVal := by cases t <;> decide

/-- Reading the pattern of an integer that the type can hold gives the integer. -/
theorem read_wrapInt (t : IntTy) {m : Int} (h1 : t.minVal ≤ m) (h2 : m ≤ t.maxVal) : t.read (wrapInt t.width m) = m := by
  cases t <;>
    simp only [IntTy.minVal, IntTy.maxVal, IntTy.signed, IntTy.width, IntTy.read, asInt, wrapInt, if_true, if_false,
      Bool.false_eq_true] at h1 h2 ⊢ <;> norm_num at h1 h2 ⊢ <;> (try split) <;> omega

/-- A clamped result reads as the exact one clamped to the type (R326). -/
theorem narrow_clamps (t : IntTy) (m : Int) : t.read (narrow t true m) = max t.minVal (min t.maxVal m) := by
  have := IntTy.min_le_max t
  simp only [narrow, if_true]
  exact read_wrapInt t (le_max_left _ _) (by simp [this])

end Machine
end Sys2Proof
end

