-- ==== Sys2Proof/Laws/Ops.lean ====
section
/-! SUPPORT. What the shared frame of a unit instruction does: one lemma for each way in which `runWith` answers. -/
namespace Sys2Proof.Machine

theorem mem_chansOf {e : Chan × Fin 4} {l : List Src} (h : e ∈ chansOf l) : ∃ k, Src.c e.1 k ∈ l := by
  induction l with
  | nil => simp [chansOf] at h
  | cons a t ih =>
    cases a with
    | c ch k =>
      simp only [chansOf, List.mem_cons, List.mem_filter] at h
      obtain rfl | ⟨h, -⟩ := h
      · exact ⟨_, List.mem_cons_self⟩
      · obtain ⟨k', hk⟩ := ih h
        exact ⟨k', List.mem_cons_of_mem _ hk⟩
    | _ => obtain ⟨k', hk⟩ := ih h; exact ⟨k', List.mem_cons_of_mem _ hk⟩

theorem chansOf_mem {ch : Chan} {k : Fin 4} {l : List Src} (h : Src.c ch k ∈ l) : ∃ k', (ch, k') ∈ chansOf l := by
  induction l with
  | nil => simp at h
  | cons a t ih =>
    cases a with
    | c ch' k' =>
      by_cases e : ch = ch'
      · exact ⟨k', by simp [chansOf, e]⟩
      · have h' : Src.c ch k ∈ t := by
          rcases List.mem_cons.1 h with h | h
          · cases h; exact absurd rfl e
          · exact h
        obtain ⟨k'', hk⟩ := ih h'
        exact ⟨k'', by simp [chansOf, hk, e]⟩
    | _ =>
      have h' : Src.c ch k ∈ t := by
        rcases List.mem_cons.1 h with h | h
        · cases h
        · exact h
      exact ih h'

/-- The channels bound for one list of operand codes are bound for another that names no more channels. -/
theorem Unit.bound_mono {x : Unit} {l m : List Src} {outs : List Chan} (h : x.bound l outs = true)
    (hm : ∀ ch k, Src.c ch k ∈ m → ∃ k', Src.c ch k' ∈ l) : x.bound m outs = true := by
  simp only [Unit.bound, Bool.and_eq_true, List.all_eq_true] at h ⊢
  refine ⟨h.1, fun e he => ?_⟩
  obtain ⟨k, hk⟩ := mem_chansOf he
  obtain ⟨k', hk'⟩ := hm _ _ hk
  obtain ⟨k'', hk''⟩ := chansOf_mem hk'
  exact h.2 (e.1, k'') hk''

theorem Unit.bound_double {x : Unit} {l : List Src} {outs : List Chan} (h : x.bound l outs = true) :
    x.bound (l ++ l) outs = true :=
  Unit.bound_mono h fun ch k hk => ⟨k, by simpa using hk⟩

/-- A fresh firing with nothing in its way: the instruction's body runs on the state from which its tokens are taken. -/
theorem runWith_fires {i : Instr} {av : Avail} {srcs ready : List Src} {outs : List Chan} {dsts : List Dst}
    {defer : Bool} {body : Body} {s : State} {x : Unit} (hu : s.unit? s.cur.unit = some x) (hc : s.cur.cap = none)
    (ha : s.available s.cur.unit x av = true) (hb : x.bound (srcs ++ ready) outs = true)
    (ht : x.hasTokens ready = true) (hz : (x.isSeq && x.hazard srcs dsts) = false) :
    runWith i av srcs ready outs dsts defer body s =
      .next (s.commit i s.cur.unit s.cur (s.opVal x (srcs.getD 0 (.sp .zero))) (s.opVal x (srcs.getD 1 (.sp .zero))) defer
        (body s.cur.unit x (s.taken srcs) (s.opVal x (srcs.getD 0 (.sp .zero))) (s.opVal x (srcs.getD 1 (.sp .zero))) 0)) := by
  have hf : s.retryUpd s.cur.unit s.cur = s.cur := by simp [State.retryUpd, hc]
  cases hs : x.isSeq <;> simp [runWith, hu, hc, ha, hb, ht, hf, State.opVal, State.taken, hs]
  simp_all

/-- An instruction that the unit may not execute raises ILLEGAL with DETAIL 1 (R59, R453). -/
theorem runWith_unavailable {i : Instr} {av : Avail} {srcs ready : List Src} {outs : List Chan} {dsts : List Dst}
    {defer : Bool} {body : Body} {s : State} {x : Unit} (hu : s.unit? s.cur.unit = some x)
    (h : s.available s.cur.unit x av = false ∨ x.bound (srcs ++ ready) outs = false) :
    runWith i av srcs ready outs dsts defer body s = .next (s.raise s.cur.unit s.cur.slot (illegal 1)) := by
  rcases h with h | h <;> simp [runWith, hu, h]

/-- Whatever happens, an instruction of an existing unit answers a next state. -/
theorem runWith_next {i : Instr} {av : Avail} {srcs ready : List Src} {outs : List Chan} {dsts : List Dst}
    {defer : Bool} {body : Body} {s : State} {x : Unit} (hu : s.unit? s.cur.unit = some x) :
    ∃ t, runWith i av srcs ready outs dsts defer body s = .next t := by
  simp only [runWith, hu]
  repeat' split
  all_goals exact ⟨_, rfl⟩

theorem State.taken_congr {s : State} {l m : List Src} (h : chansOf l = chansOf m) : s.taken l = s.taken m := by
  simp [State.taken, State.consume, h]

/-- The common case of `runWith_fires`: every operand channel is read. -/
theorem runUnit_fires {i : Instr} {av : Avail} {srcs : List Src} {dsts : List Dst} {body : Body} {s : State} {x : Unit}
    (h : s.Fires i x) (hav : i.avail = some av) (hr : i.reads = srcs)
    (hw : i.writes = dsts) (hs : chansOf srcs = chansOf i.srcs) (ho : i.outs = outsOf dsts) (hk : x.operandsReady i = x.hasTokens i.srcs) :
    runUnit i av srcs dsts body s =
      .next (s.commit i s.cur.unit s.cur (s.opVal x (srcs.getD 0 (.sp .zero))) (s.opVal x (srcs.getD 1 (.sp .zero))) false
        (body s.cur.unit x (s.taken i.srcs) (s.opVal x (srcs.getD 0 (.sp .zero)))
          (s.opVal x (srcs.getD 1 (.sp .zero))) 0)) := by
  obtain ⟨hu, hc, ha, hb, ht, hz⟩ := h
  have hdup : x.bound (srcs ++ srcs) (outsOf dsts) = true := by
    refine Unit.bound_double ?_
    rw [← ho, Unit.bound, hs]; exact hb
  have htok : x.hasTokens srcs = true := by rw [Unit.hasTokens, hs]; rw [hk] at ht; exact ht
  rw [← State.taken_congr hs]
  exact runWith_fires hu hc (by simpa [hav] using ha) hdup htok (by rw [← hr, ← hw]; exact hz)

/-- What an unhindered instruction answers, from the call of `runUnit` that is its meaning. -/
theorem exec_fires {i : Instr} {av : Avail} {srcs : List Src} {dsts : List Dst} {body : Body} {s : State} {x : Unit}
    (h : s.Fires i x) (he : exec i s = runUnit i av srcs dsts body s) (hav : i.avail = some av)
    (hr : i.reads = srcs)
    (hw : i.writes = dsts) (hs : chansOf srcs = chansOf i.srcs) (ho : i.outs = outsOf dsts) (hk : x.operandsReady i = x.hasTokens i.srcs) :
    exec i s =
      .next (s.commit i s.cur.unit s.cur (s.opVal x (srcs.getD 0 (.sp .zero))) (s.opVal x (srcs.getD 1 (.sp .zero))) false
        (body s.cur.unit x (s.taken i.srcs) (s.opVal x (srcs.getD 0 (.sp .zero)))
          (s.opVal x (srcs.getD 1 (.sp .zero))) 0)) := by
  rw [he]; exact runUnit_fires h hav hr hw hs ho hk

end Sys2Proof.Machine
end

