-- ==== Sys2Proof/Laws/Lane.lean ====
section
/-! SUPPORT. What the three moulds of the lane operations answer (R326, R361, R418). -/
namespace Sys2Proof.Machine

/-- A narrowed result is the exact one, clamped or wrapped (R326). -/
theorem narrow_fits (t : IntTy) (sat : Bool) (m : Int) : fitsInt t sat m (narrow t sat m) := by
  cases sat
  · simp only [fitsInt]; exact narrow_wraps t m
  · simp only [fitsInt, if_true]; exact narrow_clamps t m

section
variable {s : State} {x : Unit} {i : Instr} {w cyc : Nat} {imm : BitVec 7 → Nat} {d : Dst} {a b : Src}
  {P : Nat → Nat → Prop}

theorem laneOp2_result {f : Nat → Nat → Nat} (h : s.Fires i x) (he : exec i s = laneOp2 i w imm cyc f d a b s)
    (hav : i.avail = some avTSD) (hs : i.srcs = [a, b]) (hr : i.reads = [a, b]) (hw : i.writes = [d])
    (ho : i.outs = outsOf [d]) (hk : x.operandsReady i = x.hasTokens i.srcs)
    (hP : ∀ v, v < x.count w → P v (f (valAt w ((s.taken i.srcs).laneVec s.cur.unit x w imm a) v)
      (valAt w ((s.taken i.srcs).laneVec s.cur.unit x w imm b) v) % 2 ^ w)) :
    LaneResult s x i w cyc d P := by
  refine ⟨vecMk w (x.count w) fun v => f (valAt w ((s.taken i.srcs).laneVec s.cur.unit x w imm a) v)
      (valAt w ((s.taken i.srcs).laneVec s.cur.unit x w imm b) v), ?_, fun v hv => ⟨valAt_lt _ _ _, ?_⟩⟩
  · rw [he, laneOp2, runUnit_fires h hav hr hw (by rw [hs]) ho hk]; rfl
  · rw [valAt_vecMk _ _ hv]; exact hP v hv

theorem laneOp1_result {f : Nat → Nat} (h : s.Fires i x) (he : exec i s = laneOp1 i w imm cyc f d a s)
    (hav : i.avail = some avTSD) (hs : i.srcs = [a]) (hr : i.reads = [a]) (hw : i.writes = [d])
    (ho : i.outs = outsOf [d]) (hk : x.operandsReady i = x.hasTokens i.srcs)
    (hP : ∀ v, v < x.count w → P v (f (valAt w ((s.taken i.srcs).laneVec s.cur.unit x w imm a) v) % 2 ^ w)) :
    LaneResult s x i w cyc d P := by
  refine ⟨vecMk w (x.count w) fun v => f (valAt w ((s.taken i.srcs).laneVec s.cur.unit x w imm a) v), ?_,
    fun v hv => ⟨valAt_lt _ _ _, ?_⟩⟩
  · rw [he, laneOp1, runUnit_fires h hav hr hw (by rw [hs]) ho hk]; rfl
  · rw [valAt_vecMk _ _ hv]; exact hP v hv

theorem laneOp3_result {f : Nat → Nat → Nat → Nat} (h : s.Fires i x) (he : exec i s = laneOp3 i w imm cyc f d a b s)
    (hav : i.avail = some avTSD) (hs : i.srcs = [a, b]) (hr : i.reads = [a, b]) (hw : i.writes = [d])
    (ho : i.outs = outsOf [d]) (hk : x.operandsReady i = x.hasTokens i.srcs)
    (hP : ∀ v, v < x.count w → P v (f (valAt w ((s.taken i.srcs).laneVec s.cur.unit x w imm a) v)
      (valAt w ((s.taken i.srcs).laneVec s.cur.unit x w imm b) v)
      (valAt w ((s.taken i.srcs).dstVec s.cur.unit x w d) v) % 2 ^ w)) :
    LaneResult s x i w cyc d P := by
  refine ⟨vecMk w (x.count w) fun v => f (valAt w ((s.taken i.srcs).laneVec s.cur.unit x w imm a) v)
      (valAt w ((s.taken i.srcs).laneVec s.cur.unit x w imm b) v)
      (valAt w ((s.taken i.srcs).dstVec s.cur.unit x w d) v), ?_, fun v hv => ⟨valAt_lt _ _ _, ?_⟩⟩
  · rw [he, laneOp3, runUnit_fires h hav hr hw (by rw [hs]) ho hk]; rfl
  · rw [valAt_vecMk _ _ hv]; exact hP v hv

end

end Sys2Proof.Machine
end

