-- ==== Sys2Proof/Laws/Arith.lean ====
section
/-! SUPPORT. One specification lemma for each operation on the pattern of a value position (R326, R354, R385, R418, R342). -/
namespace Sys2Proof.Machine

theorem IntTy.width_pos (t : IntTy) : 0 < t.width := by cases t <;> decide

theorem tdiv_eq_sign (a b : Int) : Int.tdiv a b = Int.sign a * Int.sign b * ((a.natAbs / b.natAbs : Nat) : Int) := by
  have hone : ∀ k : Nat, Int.sign ((k : Int) + 1) = 1 := fun k => Int.sign_eq_one_of_pos (by positivity)
  obtain ⟨m, rfl | rfl⟩ := Int.eq_nat_or_neg a <;> obtain ⟨n, rfl | rfl⟩ := Int.eq_nat_or_neg b <;>
    simp only [Int.tdiv_neg, Int.neg_tdiv, neg_neg, Int.sign_neg, Int.natAbs_neg, Int.natAbs_natCast] <;>
    rw [← Int.ofNat_tdiv] <;> rcases m with _ | m <;> rcases n with _ | n <;>
    simp [hone]

theorem divVal_spec (t : IntTy) (sat : Bool) (a b : Nat) :
    if t.read b = 0 then divVal t sat a b % 2 ^ t.width = 2 ^ t.width - 1
    else fitsInt t sat (Int.sign (t.read a) * Int.sign (t.read b) * ((t.read a).natAbs / (t.read b).natAbs : Nat))
      (divVal t sat a b % 2 ^ t.width) := by
  split
  · rw [divVal, if_pos (by assumption), Nat.mod_eq_of_lt]; exact Nat.sub_lt (by positivity) one_pos
  · rw [divVal, if_neg (by assumption), narrow_mod, ← tdiv_eq_sign]
    exact narrow_fits _ _ _

theorem remVal_spec (t : IntTy) {a b : Nat} (ha : a < 2 ^ t.width) :
    if t.read b = 0 then remVal t a b % 2 ^ t.width = a
    else fitsInt t false
      (t.read a - t.read b * (Int.sign (t.read a) * Int.sign (t.read b) * ((t.read a).natAbs / (t.read b).natAbs : Nat)))
      (remVal t a b % 2 ^ t.width) := by
  split
  · rw [remVal, if_pos (by assumption), Nat.mod_eq_of_lt ha]
  · rw [remVal, if_neg (by assumption), narrow_mod, ← tdiv_eq_sign, ← Int.tmod_def]
    exact narrow_fits _ _ _

theorem mulhVal_spec (t : IntTy) (a b : Nat) : ∃ low : Nat, low < 2 ^ t.width ∧ ∃ high : Int,
    fitsInt t false high (mulhVal t a b % 2 ^ t.width) ∧
      t.read a * t.read b = high * ((2 ^ t.width : Nat) : Int) + (low : Int) := by
  have hp : (0 : Int) < ((2 ^ t.width : Nat) : Int) := by positivity
  have h0 := Int.emod_nonneg (t.read a * t.read b) hp.ne'
  have h1 := Int.emod_lt_of_pos (t.read a * t.read b) hp
  refine ⟨((t.read a * t.read b) % ((2 ^ t.width : Nat) : Int)).toNat, by omega,
    t.read a * t.read b / ((2 ^ t.width : Nat) : Int), ?_, ?_⟩
  · rw [mulhVal, narrow_mod]; exact narrow_fits t false _
  · rw [Int.toNat_of_nonneg h0, mul_comm ((t.read a * t.read b) / _)]
    exact (Int.mul_ediv_add_emod (t.read a * t.read b) _).symm

/-- Left shifts of 2w or more agree: the exact product is 0, or out of range with w low zero bits. -/
theorem shlVal_spec (t : IntTy) (sat : Bool) (a b : Nat) :
    fitsInt t sat (t.read a * ((2 ^ b : Nat) : Int)) (shlVal t sat a b % 2 ^ t.width) := by
  rw [shlVal, narrow_mod]
  rcases Nat.le_total b (2 * t.width) with h | h
  · rw [min_eq_left h]; exact narrow_fits _ _ _
  rw [min_eq_right h]
  obtain ⟨d, rfl⟩ := Nat.exists_eq_add_of_le h
  have hw : 0 < t.width := IntTy.width_pos t
  cases sat with
  | false =>
    obtain ⟨q, hq⟩ := narrow_wraps t (t.read a * ((2 ^ (2 * t.width) : Nat) : Int))
    refine ⟨q + t.read a * (((2 ^ (t.width + d) : Nat) : Int) - ((2 ^ t.width : Nat) : Int)), ?_⟩
    have e1 : ((2 ^ (2 * t.width + d) : Nat) : Int) = ((2 ^ (t.width + d) : Nat) : Int) * ((2 ^ t.width : Nat) : Int) := by
      push_cast; ring
    have e2 : ((2 ^ (2 * t.width) : Nat) : Int) = ((2 ^ t.width : Nat) : Int) * ((2 ^ t.width : Nat) : Int) := by
      push_cast; ring
    rw [e1]; generalize narrow t false _ = r at hq ⊢; rw [e2] at hq; linear_combination hq
  | true =>
    have hn := narrow_clamps t (t.read a * ((2 ^ (2 * t.width) : Nat) : Int))
    show t.read _ = _
    rw [hn]
    have hlo : -((2 ^ t.width : Nat) : Int) ≤ t.minVal := by cases t <;> decide
    have hlo' : t.minVal ≤ 0 := by cases t <;> decide
    have hhi : t.maxVal < ((2 ^ t.width : Nat) : Int) := by cases t <;> decide
    have hhi' : 0 ≤ t.maxVal := by cases t <;> decide
    have hp : ((2 ^ t.width : Nat) : Int) ≤ ((2 ^ (2 * t.width) : Nat) : Int) := by
      exact_mod_cast Nat.pow_le_pow_right (by norm_num) (by omega)
    have hp' : ((2 ^ (2 * t.width) : Nat) : Int) ≤ ((2 ^ (2 * t.width + d) : Nat) : Int) := by
      exact_mod_cast Nat.pow_le_pow_right (by norm_num) (by omega)
    have hpos : (0 : Int) < ((2 ^ t.width : Nat) : Int) := by positivity
    rcases lt_trichotomy (t.read a) 0 with h0 | h0 | h0
    · have k1 : t.read a * ((2 ^ (2 * t.width) : Nat) : Int) ≤ -((2 ^ t.width : Nat) : Int) := by nlinarith
      have k2 : t.read a * ((2 ^ (2 * t.width + d) : Nat) : Int) ≤ -((2 ^ t.width : Nat) : Int) := by nlinarith
      omega
    · simp [h0]
    · have k1 : ((2 ^ t.width : Nat) : Int) ≤ t.read a * ((2 ^ (2 * t.width) : Nat) : Int) := by nlinarith
      have k2 : ((2 ^ t.width : Nat) : Int) ≤ t.read a * ((2 ^ (2 * t.width + d) : Nat) : Int) := by nlinarith
      omega

theorem shrVal_spec {w a : Nat} (b : Nat) (ha : a < 2 ^ w) : shrVal w a b % 2 ^ w = a / 2 ^ b := by
  rw [shrVal]
  split
  · rw [Nat.zero_mod, Nat.div_eq_of_lt]
    exact lt_of_lt_of_le ha (Nat.pow_le_pow_right (by norm_num) (by assumption))
  · rw [Nat.shiftRight_eq_div_pow, Nat.mod_eq_of_lt (lt_of_le_of_lt (Nat.div_le_self _ _) ha)]

theorem read_bounds (t : IntTy) (a : Nat) :
    -((2 ^ t.width : Nat) : Int) ≤ t.read a ∧ t.read a < ((2 ^ t.width : Nat) : Int) := by
  cases t <;> simp only [IntTy.read, IntTy.signed, IntTy.width, asInt, if_true, if_false, Bool.false_eq_true] <;>
    norm_num <;> (try split) <;> omega

theorem sraVal_spec (t : IntTy) (a b : Nat) :
    fitsInt t false (t.read a / ((2 ^ b : Nat) : Int)) (sraVal t a b % 2 ^ t.width) := by
  rw [sraVal, narrow_mod]
  rcases Nat.le_total b t.width with h | h
  · rw [min_eq_left h]; exact narrow_fits _ _ _
  rw [min_eq_right h]
  have hb := read_bounds t a
  have hp : ((2 ^ t.width : Nat) : Int) ≤ ((2 ^ b : Nat) : Int) := by
    exact_mod_cast Nat.pow_le_pow_right (by norm_num) h
  have hpos : (0 : Int) < ((2 ^ t.width : Nat) : Int) := by positivity
  have e : t.read a / ((2 ^ t.width : Nat) : Int) = t.read a / ((2 ^ b : Nat) : Int) := by
    rcases lt_or_ge (t.read a) 0 with h0 | h0
    · rw [Int.ediv_eq_neg_one_of_neg_of_le h0 (by omega), Int.ediv_eq_neg_one_of_neg_of_le h0 (by omega)]
    · rw [Int.ediv_eq_zero_of_lt h0 hb.2, Int.ediv_eq_zero_of_lt h0 (by omega)]
  rw [← e]; exact narrow_fits _ _ _

theorem rotVal_spec {w n : Nat} (b : Nat) {k : Nat} (hn : n < 2 ^ w) (hk : k < w) :
    (rotVal w n b % 2 ^ w).testBit ((k + b) % w) = n.testBit k := by
  have hw : 0 < w := by omega
  have hc : b % w < w := Nat.mod_lt _ hw
  have hlt : (k + b) % w < w := Nat.mod_lt _ hw
  have e : rotVal w n b = (n <<< (b % w)) % 2 ^ w ||| n >>> (w - b % w) := by
    simp only [rotVal]
    obtain ⟨c, hc'⟩ : ∃ c, (n <<< (b % w)) % 2 ^ w = 2 ^ (b % w) * c := by
      refine ⟨n % 2 ^ (w - b % w), ?_⟩
      rw [Nat.shiftLeft_eq, mul_comm, ← Nat.mul_mod_mul_left, ← pow_add]
      congr 2; omega
    rw [hc']
    refine (Nat.two_pow_add_eq_or_of_lt ?_ c)
    rw [Nat.shiftRight_eq_div_pow, Nat.div_lt_iff_lt_mul (by positivity), ← pow_add]
    rwa [show b % w + (w - b % w) = w by omega]
  rw [Nat.testBit_mod_two_pow, e, Nat.testBit_or, Nat.testBit_mod_two_pow, Nat.testBit_shiftLeft,
    Nat.testBit_shiftRight]
  have hmod : (k + b) % w = if k + b % w < w then k + b % w else k + b % w - w := by
    rw [← Nat.add_mod_mod]
    split
    · exact Nat.mod_eq_of_lt (by assumption)
    · rw [Nat.mod_eq_sub_mod (by omega), Nat.mod_eq_of_lt (by omega)]
  rw [hmod] at hlt ⊢
  split at hlt
  · have : n.testBit (w - b % w + (k + b % w)) = false :=
      Nat.testBit_lt_two_pow (lt_of_lt_of_le hn (Nat.pow_le_pow_right (by norm_num) (by omega)))
    rename_i h
    simp [h, this]
  · rename_i h
    have e2 : w - b % w + (k + b % w - w) = k := by omega
    have e3 : ¬ (b % w ≤ k + b % w - w) := by omega
    rw [if_neg h, e2]
    simp [e3, hlt]

theorem clzNat_spec {w n : Nat} (h : n < 2 ^ w) : clzNat w n ≤ w ∧ (∀ k, w - clzNat w n ≤ k → n.testBit k = false) ∧
    (clzNat w n < w → n.testBit (w - 1 - clzNat w n) = true) := by
  induction w with
  | zero => simp at h; subst h; simp [clzNat]
  | succ w ih =>
    cases hb : n.testBit w with
    | true =>
      simp only [clzNat, hb, if_true]
      refine ⟨by omega, fun k hk => Nat.testBit_lt_two_pow ?_, fun _ => by simpa using hb⟩
      exact lt_of_lt_of_le h (Nat.pow_le_pow_right (by norm_num) (by omega))
    | false =>
      have hlt : n < 2 ^ w := by
        by_contra hc
        have hm : n - 2 ^ w < 2 ^ w := by rw [pow_succ] at h; omega
        have := Nat.testBit_two_pow_add_eq (n - 2 ^ w) w
        rw [show 2 ^ w + (n - 2 ^ w) = n by omega, Nat.testBit_lt_two_pow hm] at this
        simp [this] at hb
      obtain ⟨h1, h2, h3⟩ := ih hlt
      simp only [clzNat, hb, Bool.false_eq_true, if_false]
      refine ⟨by omega, fun k hk => h2 k (by omega), fun hl => ?_⟩
      have := h3 (by omega)
      rwa [show w + 1 - 1 - (1 + clzNat w n) = w - 1 - clzNat w n by omega]

theorem popNat_spec (w n : Nat) : popNat w n = ((List.range w).filter fun k => n.testBit k).length := by
  induction w with
  | zero => simp [popNat]
  | succ w ih =>
    rw [popNat, List.range_succ, List.filter_append, List.length_append, ← ih]
    cases h : n.testBit w <;> simp [b2n, h, Nat.add_comm]

theorem popNat_le (w n : Nat) : popNat w n ≤ w := by
  rw [popNat_spec]; exact le_trans (List.length_filter_le _ _) (by simp)

/-- The pattern of a value read back from the pattern of a value position. -/
theorem wrapInt_read (t : IntTy) {a : Nat} (ha : a < 2 ^ t.width) : wrapInt t.width (t.read a) = a := by
  cases t <;> simp only [IntTy.read, IntTy.signed, IntTy.width, asInt, wrapInt, if_true, if_false, Bool.false_eq_true] at ha ⊢ <;>
    norm_num at ha ⊢ <;> (try split) <;> omega

end Sys2Proof.Machine
end

