-- ==== Sys2Proof/Laws/Float.lean ====
section
/-! SUPPORT. Floating-point patterns: a rounded result fits its format, and the order of values is strict (R104, R105). -/
namespace Sys2Proof.Machine

/-- The magnitudes of a lane format leave its sign bit clear. -/
structure Fmt.Sound (f : Fmt) : Prop where
  width : 0 < f.w
  fin : f.maxFin < 2 ^ (f.w - 1)
  inf : f.inf < 2 ^ (f.w - 1)
  nan : f.nan < 2 ^ (f.w - 1)

theorem fmtOfF_sound (t : FTy) : (fmtOfF t).Sound := by cases t <;> constructor <;> decide

theorem Fmt.signed_lt {f : Fmt} (h : f.Sound) {neg : Bool} {m : Nat} (hm : m < 2 ^ (f.w - 1)) : f.signed neg m < 2 ^ f.w := by
  have e : 2 ^ f.w = 2 ^ (f.w - 1) + 2 ^ (f.w - 1) := by
    obtain ⟨k, hk⟩ := Nat.exists_eq_add_of_lt h.width
    rw [show f.w = k + 1 by omega]; simp [pow_succ]; ring
  cases neg <;> simp only [Fmt.signed, if_true, if_false, Bool.false_eq_true] <;> omega

theorem Fmt.encode_lt {f : Fmt} (h : f.Sound) (r : Rnd) (x : FVal) : f.encode r x < 2 ^ f.w := by
  have hn : f.nan < 2 ^ f.w := lt_of_lt_of_le h.nan (Nat.pow_le_pow_right (by norm_num) (by omega))
  cases x with
  | nan => exact hn
  | inf neg => exact Fmt.signed_lt h h.inf
  | fin neg m e =>
    simp only [Fmt.encode, Fmt.round]
    refine Fmt.signed_lt h ?_
    have ho : f.overflow r neg < 2 ^ (f.w - 1) := by
      cases r <;> cases neg <;> simp only [Fmt.overflow] <;> first | exact h.inf | exact h.fin
    split
    · exact ho
    · exact lt_of_le_of_lt (not_lt.1 (by assumption)) h.fin

@[simp] theorem Fmt.encode_mod (t : FTy) (r : Rnd) (x : FVal) :
    (fmtOfF t).encode r x % 2 ^ (fmtOfF t).w = (fmtOfF t).encode r x :=
  Nat.mod_eq_of_lt (Fmt.encode_lt (fmtOfF_sound t) r x)

/-- A NaN among the operands gives the canonical NaN (R103). -/
theorem encode_add_nan (f : Fmt) (r : Rnd) (x : FVal) : f.encode r (FVal.add r .nan x) = f.nan := rfl

theorem FVal.lt_irrefl (a : FVal) : FVal.lt a a = false := by
  cases a with
  | nan => rfl
  | inf n => cases n <;> rfl
  | fin n m e => simp [FVal.lt]

theorem FVal.lt_asymm {a b : FVal} (h : FVal.lt a b = true) : FVal.lt b a = false := by
  cases a with
  | nan => simp [FVal.lt] at h
  | inf n =>
    cases b with
    | nan => simp [FVal.lt] at h
    | inf k => cases n <;> cases k <;> simp_all [FVal.lt]
    | fin k m e => cases n <;> simp_all [FVal.lt]
  | fin n m e =>
    cases b with
    | nan => simp [FVal.lt] at h
    | inf k => cases k <;> simp_all [FVal.lt]
    | fin k m' e' =>
      simp only [FVal.lt, decide_eq_true_eq, decide_eq_false_iff_not, not_lt] at h ⊢
      rw [min_comm]; exact le_of_lt h

theorem FVal.isNan_iff (a : FVal) : a.isNan = true ↔ a = .nan := by cases a <;> simp [FVal.isNan]

/-- Pattern `p` stands below `q`: the smaller value, or -0 against +0 (R105). -/
def Fmt.below (f : Fmt) (p q : Nat) : Prop :=
  FVal.lt (f.decode p) (f.decode q) = true ∨
    (FVal.lt (f.decode q) (f.decode p) = false ∧ f.signBit p = true ∧ f.signBit q = false)

theorem Fmt.below_irrefl (f : Fmt) (p : Nat) : ¬ f.below p p := by
  rintro (h | ⟨-, h, h'⟩)
  · simp [FVal.lt_irrefl] at h
  · simp [h] at h'

theorem Fmt.below_asymm {f : Fmt} {p q : Nat} (h : f.below p q) : ¬ f.below q p := by
  rintro (h' | ⟨h', hq, hp⟩) <;> rcases h with h | ⟨h, hp', hq'⟩
  · simp [FVal.lt_asymm h] at h'
  · simp [h] at h'
  · simp [h] at h'
  · simp [hp'] at hp

/-- FMIN and FMAX in one (R105). -/
theorem Fmt.minmax_spec (f : Fmt) (wantMax : Bool) (p q : Nat) :
    (f.decode p = .nan → f.decode q = .nan → f.minmax wantMax p q = f.nan) ∧
    (f.decode p = .nan → f.decode q ≠ .nan → f.minmax wantMax p q = q) ∧
    (f.decode q = .nan → f.decode p ≠ .nan → f.minmax wantMax p q = p) ∧
    (f.decode p ≠ .nan → f.decode q ≠ .nan →
      (f.below p q → f.minmax wantMax p q = if wantMax then q else p) ∧
      (¬ f.below p q → f.minmax wantMax p q = if wantMax then p else q)) := by
  have hb : (FVal.lt (f.decode p) (f.decode q) || (!FVal.lt (f.decode q) (f.decode p) && f.signBit p && !f.signBit q)) = true
      ↔ f.below p q := by
    simp [Fmt.below, and_assoc]
  refine ⟨fun h h' => ?_, fun h h' => ?_, fun h h' => ?_, fun h h' => ⟨fun hl => ?_, fun hl => ?_⟩⟩ <;>
    simp only [ne_eq, ← FVal.isNan_iff, Bool.not_eq_true] at h h' <;> simp only [Fmt.minmax, h, h', if_true, if_false, Bool.false_eq_true]
  · rw [hb.2 hl]; cases wantMax <;> rfl
  · rw [Bool.eq_false_iff.2 (fun hc => hl (hb.1 hc))]; cases wantMax <;> rfl

end Sys2Proof.Machine
end

