-- ==== Sys2Proof/Laws/PerInstr.lean ====
section
/-! SUPPORT. The lemmas made instruction by instruction: the family `Encoding` says that a well-formed instruction has
the fields of an assigned operation code, each within its width (R45, R47, R57). -/
namespace Sys2Proof.Laws

/-- A body's fields lie within their widths and its operation code is assigned. -/
def Fits (b : Body) : Prop := opcDefined b.opc = true ∧ b.dst < 128 ∧ b.a < 256 ∧ b.b < 256 ∧ b.fn < 64

/-- What the family `Encoding` says of one instruction. -/
def Encoding.Statement (i : Instr) : Prop := i.wf = true → ∃ b, encodeBody i = some b ∧ Fits b

/-! ### Bounds of the codes -/

theorem Special.code_lt (x : Special) : x.code < 16 := by
  cases x <;> decide

theorem Src.code_lt (a : Src) : a.code < 256 := by
  cases a <;> simp only [Src.code] <;> first | omega | (have := Special.code_lt ‹_›; omega)

theorem Dst.code_lt (d : Dst) : d.code < 128 := by
  cases d <;> simp only [Dst.code] <;> omega

theorem eCvtB_lt (t : Ty) (s : Bool) : eCvtB t s < 256 := by
  rcases t with t | t | t <;> cases t <;> cases s <;> decide

theorem eRedB_lt (s : Bool) (r : Rnd) : eRedB s r < 256 := by cases s <;> cases r <;> decide

theorem fits {o d a b f : Nat} (ho : opcDefined o = true) (hd : d < 128) (ha : a < 256) (hb : b < 256) (hf : f < 64) :
    Fits ⟨o, d, a, b, f⟩ := ⟨ho, hd, ha, hb, hf⟩

theorem longBody_fits {opc dst : Nat} {imm : BitVec 22} (ho : opcDefined opc = true) (hd : dst < 128) :
    Fits (longBody opc dst imm) := by
  have h := imm.isLt
  refine ⟨ho, hd, ?_, ?_, ?_⟩ <;> simp only [longBody] <;> omega

theorem eInt_lt (t : IntTy) (s : Bool) : eInt t s < 64 := by cases t <;> cases s <;> decide

theorem eIntN_lt (t : IntTy) : eIntN t < 64 := by cases t <;> decide

theorem eFlt_lt (t : FTy) (r : Rnd) : eFlt t r < 64 := by cases t <;> cases r <;> decide

theorem eFltN_lt (t : FTy) : eFltN t < 64 := by cases t <;> decide

theorem eCmp_lt (t : IntTy) (c : Cond) : eCmp t c < 64 := by cases t <;> cases c <;> decide

theorem eFCmp_lt (t : FTy) (c : FCond) : eFCmp t c < 64 := by cases t <;> cases c <;> decide

theorem eCvtF_lt (t : Ty) (r : Rnd) : eCvtF t r < 64 := by rcases t with t | t | t <;> cases t <;> cases r <;> decide

theorem eQcvt_lt (t : F8) (r : Rnd) : eQcvt t r < 64 := by cases t <;> cases r <;> decide

theorem eUnpk_lt (t : IntTy) (h : Bool) : eUnpk t h < 64 := by cases t <;> cases h <;> decide

theorem eWid_lt (w : Width) : eWid w < 64 := by cases w <;> decide

theorem eExtl_lt (w : Width) (s : Bool) : eExtl w s < 64 := by cases w <;> cases s <;> decide

theorem eRed_lt (t : Ty) (o : RedOp) : eRed t o < 64 := by rcases t with t | t | t <;> cases t <;> cases o <;> decide

theorem eBit0_lt (b : Bool) : eBit0 b < 64 := by cases b <;> decide

theorem eTag_lt (t : Tag) : eTag t < 64 := by cases t <;> decide

theorem eScale_lt (s : Fin 4) : eScale s < 64 := by unfold eScale; omega

theorem eSigC_lt (c : SigCond) : eSigC c < 64 := by cases c <;> decide

theorem eScp_lt (s : Scope) : eScp s < 64 := by cases s <;> decide

theorem eLdg_lt (s : Size) (x : Bool) : eLdg s x < 64 := by cases s <;> cases x <;> decide

theorem eSiz_lt (s : Size) : eSiz s < 64 := by cases s <;> decide

theorem eGath_lt (w : Width) (x : Bool) (s : Fin 4) : eGath w x s < 64 := by unfold eGath; cases w <;> cases x <;> simp only [Width.code, bit] <;> simp <;> omega

theorem eScat_lt (w : Width) (s : Fin 4) : eScat w s < 64 := by unfold eScat; cases w <;> simp only [Width.code] <;> omega

theorem eAtom_lt (o : AtomOp) (w : Bool) (s : Scope) : eAtom o w s < 64 := by cases o <;> cases w <;> cases s <;> decide

theorem eCas_lt (w : Bool) (s : Scope) : eCas w s < 64 := by cases w <;> cases s <;> decide

theorem eFat_lt (t : FTy) (o : FAtomOp) (s : Scope) : eFat t o s < 64 := by cases t <;> cases o <;> cases s <;> decide

theorem eJFmt_lt (f : JFmt) : eJFmt f < 64 := by cases f <;> decide

theorem eG_lt (g : Fin 4) : eG g < 64 := by unfold eG; omega

theorem eN6_lt (n : BitVec 6) : eN6 n < 64 := by exact n.isLt

theorem eSys_lt (r : SysReg) : eSys r < 64 := by cases r <;> decide

theorem eWait_lt (k : WaitKind) : eWait k < 64 := by cases k <;> decide

theorem eTrip_lt (w a : Bool) : eTrip w a < 64 := by cases w <;> cases a <;> decide

theorem eMbx_lt (m : Fin 8) : eMbx m < 64 := by unfold eMbx; omega

/-! ### The family -/

theorem Encoding.nop :
    Encoding.Statement (Instr.nop) :=
  fun _ => ⟨_, rfl, fits (by decide) (by decide) (by decide) (by decide) (by decide)⟩

theorem Encoding.add (t : IntTy) (sat : Bool) (d : Dst) (a b : Src) :
    Encoding.Statement (Instr.add t sat d a b) :=
  fun _ => ⟨_, rfl, fits (by decide) (Dst.code_lt _) (Src.code_lt _) (Src.code_lt _) (eInt_lt _ _)⟩

theorem Encoding.sub (t : IntTy) (sat : Bool) (d : Dst) (a b : Src) :
    Encoding.Statement (Instr.sub t sat d a b) :=
  fun _ => ⟨_, rfl, fits (by decide) (Dst.code_lt _) (Src.code_lt _) (Src.code_lt _) (eInt_lt _ _)⟩

theorem Encoding.mul (t : IntTy) (sat : Bool) (d : Dst) (a b : Src) :
    Encoding.Statement (Instr.mul t sat d a b) :=
  fun _ => ⟨_, rfl, fits (by decide) (Dst.code_lt _) (Src.code_lt _) (Src.code_lt _) (eInt_lt _ _)⟩

theorem Encoding.mulh (t : IntTy) (d : Dst) (a b : Src) :
    Encoding.Statement (Instr.mulh t d a b) :=
  fun _ => ⟨_, rfl, fits (by decide) (Dst.code_lt _) (Src.code_lt _) (Src.code_lt _) (eIntN_lt _)⟩

theorem Encoding.mad (t : IntTy) (sat : Bool) (d : Dst) (a b : Src) :
    Encoding.Statement (Instr.mad t sat d a b) :=
  fun _ => ⟨_, rfl, fits (by decide) (Dst.code_lt _) (Src.code_lt _) (Src.code_lt _) (eInt_lt _ _)⟩

theorem Encoding.div (t : IntTy) (sat : Bool) (d : Dst) (a b : Src) :
    Encoding.Statement (Instr.div t sat d a b) :=
  fun _ => ⟨_, rfl, fits (by decide) (Dst.code_lt _) (Src.code_lt _) (Src.code_lt _) (eInt_lt _ _)⟩

theorem Encoding.rem (t : IntTy) (d : Dst) (a b : Src) :
    Encoding.Statement (Instr.rem t d a b) :=
  fun _ => ⟨_, rfl, fits (by decide) (Dst.code_lt _) (Src.code_lt _) (Src.code_lt _) (eIntN_lt _)⟩

theorem Encoding.abs (t : IntTy) (sat : Bool) (d : Dst) (a : Src) :
    Encoding.Statement (Instr.abs t sat d a) :=
  fun _ => ⟨_, rfl, fits (by decide) (Dst.code_lt _) (Src.code_lt _) (by decide) (eInt_lt _ _)⟩

theorem Encoding.min (t : IntTy) (d : Dst) (a b : Src) :
    Encoding.Statement (Instr.min t d a b) :=
  fun _ => ⟨_, rfl, fits (by decide) (Dst.code_lt _) (Src.code_lt _) (Src.code_lt _) (eIntN_lt _)⟩

theorem Encoding.max (t : IntTy) (d : Dst) (a b : Src) :
    Encoding.Statement (Instr.max t d a b) :=
  fun _ => ⟨_, rfl, fits (by decide) (Dst.code_lt _) (Src.code_lt _) (Src.code_lt _) (eIntN_lt _)⟩

theorem Encoding.and (t : IntTy) (d : Dst) (a b : Src) :
    Encoding.Statement (Instr.and t d a b) :=
  fun _ => ⟨_, rfl, fits (by decide) (Dst.code_lt _) (Src.code_lt _) (Src.code_lt _) (eIntN_lt _)⟩

theorem Encoding.or (t : IntTy) (d : Dst) (a b : Src) :
    Encoding.Statement (Instr.or t d a b) :=
  fun _ => ⟨_, rfl, fits (by decide) (Dst.code_lt _) (Src.code_lt _) (Src.code_lt _) (eIntN_lt _)⟩

theorem Encoding.xor (t : IntTy) (d : Dst) (a b : Src) :
    Encoding.Statement (Instr.xor t d a b) :=
  fun _ => ⟨_, rfl, fits (by decide) (Dst.code_lt _) (Src.code_lt _) (Src.code_lt _) (eIntN_lt _)⟩

theorem Encoding.shl (t : IntTy) (sat : Bool) (d : Dst) (a b : Src) :
    Encoding.Statement (Instr.shl t sat d a b) :=
  fun _ => ⟨_, rfl, fits (by decide) (Dst.code_lt _) (Src.code_lt _) (Src.code_lt _) (eInt_lt _ _)⟩

theorem Encoding.shr (t : IntTy) (d : Dst) (a b : Src) :
    Encoding.Statement (Instr.shr t d a b) :=
  fun _ => ⟨_, rfl, fits (by decide) (Dst.code_lt _) (Src.code_lt _) (Src.code_lt _) (eIntN_lt _)⟩

theorem Encoding.sra (t : IntTy) (d : Dst) (a b : Src) :
    Encoding.Statement (Instr.sra t d a b) :=
  fun _ => ⟨_, rfl, fits (by decide) (Dst.code_lt _) (Src.code_lt _) (Src.code_lt _) (eIntN_lt _)⟩

theorem Encoding.rot (t : IntTy) (d : Dst) (a b : Src) :
    Encoding.Statement (Instr.rot t d a b) :=
  fun _ => ⟨_, rfl, fits (by decide) (Dst.code_lt _) (Src.code_lt _) (Src.code_lt _) (eIntN_lt _)⟩

theorem Encoding.clz (t : IntTy) (d : Dst) (a : Src) :
    Encoding.Statement (Instr.clz t d a) :=
  fun _ => ⟨_, rfl, fits (by decide) (Dst.code_lt _) (Src.code_lt _) (by decide) (eIntN_lt _)⟩

theorem Encoding.popc (t : IntTy) (d : Dst) (a : Src) :
    Encoding.Statement (Instr.popc t d a) :=
  fun _ => ⟨_, rfl, fits (by decide) (Dst.code_lt _) (Src.code_lt _) (by decide) (eIntN_lt _)⟩

theorem Encoding.sel (t : IntTy) (d : Dst) (a b : Src) :
    Encoding.Statement (Instr.sel t d a b) :=
  fun _ => ⟨_, rfl, fits (by decide) (Dst.code_lt _) (Src.code_lt _) (Src.code_lt _) (eIntN_lt _)⟩

theorem Encoding.cmp (t : IntTy) (cond : Cond) (d : Dst) (a b : Src) :
    Encoding.Statement (Instr.cmp t cond d a b) :=
  fun _ => ⟨_, rfl, fits (by decide) (Dst.code_lt _) (Src.code_lt _) (Src.code_lt _) (eCmp_lt _ _)⟩

theorem Encoding.fadd (t : FTy) (r : Rnd) (d : Dst) (a b : Src) :
    Encoding.Statement (Instr.fadd t r d a b) :=
  fun _ => ⟨_, rfl, fits (by decide) (Dst.code_lt _) (Src.code_lt _) (Src.code_lt _) (eFlt_lt _ _)⟩

theorem Encoding.fsub (t : FTy) (r : Rnd) (d : Dst) (a b : Src) :
    Encoding.Statement (Instr.fsub t r d a b) :=
  fun _ => ⟨_, rfl, fits (by decide) (Dst.code_lt _) (Src.code_lt _) (Src.code_lt _) (eFlt_lt _ _)⟩

theorem Encoding.fmul (t : FTy) (r : Rnd) (d : Dst) (a b : Src) :
    Encoding.Statement (Instr.fmul t r d a b) :=
  fun _ => ⟨_, rfl, fits (by decide) (Dst.code_lt _) (Src.code_lt _) (Src.code_lt _) (eFlt_lt _ _)⟩

theorem Encoding.fma (t : FTy) (r : Rnd) (d : Dst) (a b : Src) :
    Encoding.Statement (Instr.fma t r d a b) :=
  fun _ => ⟨_, rfl, fits (by decide) (Dst.code_lt _) (Src.code_lt _) (Src.code_lt _) (eFlt_lt _ _)⟩

theorem Encoding.fmin (t : FTy) (d : Dst) (a b : Src) :
    Encoding.Statement (Instr.fmin t d a b) :=
  fun _ => ⟨_, rfl, fits (by decide) (Dst.code_lt _) (Src.code_lt _) (Src.code_lt _) (eFltN_lt _)⟩

theorem Encoding.fmax (t : FTy) (d : Dst) (a b : Src) :
    Encoding.Statement (Instr.fmax t d a b) :=
  fun _ => ⟨_, rfl, fits (by decide) (Dst.code_lt _) (Src.code_lt _) (Src.code_lt _) (eFltN_lt _)⟩

theorem Encoding.fabs (t : FTy) (d : Dst) (a : Src) :
    Encoding.Statement (Instr.fabs t d a) :=
  fun _ => ⟨_, rfl, fits (by decide) (Dst.code_lt _) (Src.code_lt _) (by decide) (eFltN_lt _)⟩

theorem Encoding.fneg (t : FTy) (d : Dst) (a : Src) :
    Encoding.Statement (Instr.fneg t d a) :=
  fun _ => ⟨_, rfl, fits (by decide) (Dst.code_lt _) (Src.code_lt _) (by decide) (eFltN_lt _)⟩

theorem Encoding.fcmp (t : FTy) (cond : FCond) (d : Dst) (a b : Src) :
    Encoding.Statement (Instr.fcmp t cond d a b) :=
  fun _ => ⟨_, rfl, fits (by decide) (Dst.code_lt _) (Src.code_lt _) (Src.code_lt _) (eFCmp_lt _ _)⟩

theorem Encoding.fdiv (t : FTy) (r : Rnd) (d : Dst) (a b : Src) :
    Encoding.Statement (Instr.fdiv t r d a b) :=
  fun _ => ⟨_, rfl, fits (by decide) (Dst.code_lt _) (Src.code_lt _) (Src.code_lt _) (eFlt_lt _ _)⟩

theorem Encoding.fsqrt (t : FTy) (r : Rnd) (d : Dst) (a : Src) :
    Encoding.Statement (Instr.fsqrt t r d a) :=
  fun _ => ⟨_, rfl, fits (by decide) (Dst.code_lt _) (Src.code_lt _) (by decide) (eFlt_lt _ _)⟩

theorem Encoding.frcp (t : FTy) (r : Rnd) (d : Dst) (a : Src) :
    Encoding.Statement (Instr.frcp t r d a) :=
  fun _ => ⟨_, rfl, fits (by decide) (Dst.code_lt _) (Src.code_lt _) (by decide) (eFlt_lt _ _)⟩

theorem Encoding.frsq (t : FTy) (r : Rnd) (d : Dst) (a : Src) :
    Encoding.Statement (Instr.frsq t r d a) :=
  fun _ => ⟨_, rfl, fits (by decide) (Dst.code_lt _) (Src.code_lt _) (by decide) (eFlt_lt _ _)⟩

theorem Encoding.fexp2 (t : FTy) (r : Rnd) (d : Dst) (a : Src) :
    Encoding.Statement (Instr.fexp2 t r d a) :=
  fun _ => ⟨_, rfl, fits (by decide) (Dst.code_lt _) (Src.code_lt _) (by decide) (eFlt_lt _ _)⟩

theorem Encoding.flog2 (t : FTy) (r : Rnd) (d : Dst) (a : Src) :
    Encoding.Statement (Instr.flog2 t r d a) :=
  fun _ => ⟨_, rfl, fits (by decide) (Dst.code_lt _) (Src.code_lt _) (by decide) (eFlt_lt _ _)⟩

theorem Encoding.cvt (dt : Ty) (r : Rnd) (st : Ty) (sat : Bool) (d : Dst) (a : Src) :
    Encoding.Statement (Instr.cvt dt r st sat d a) :=
  fun _ => ⟨_, rfl, fits (by decide) (Dst.code_lt _) (Src.code_lt _) (eCvtB_lt _ _) (eCvtF_lt _ _)⟩

theorem Encoding.qcvt (ft : F8) (r : Rnd) (d : Dst) (a scale : Src) :
    Encoding.Statement (Instr.qcvt ft r d a scale) :=
  fun _ => ⟨_, rfl, fits (by decide) (Dst.code_lt _) (Src.code_lt _) (Src.code_lt _) (eQcvt_lt _ _)⟩

theorem Encoding.pack (t : IntTy) (sat : Bool) (d a b : VReg) :
    Encoding.Statement (Instr.pack t sat d a b) :=
  fun _ => ⟨_, rfl, fits (by decide) (by omega) (by omega) (by omega) (eInt_lt _ _)⟩

theorem Encoding.unpk (t : IntTy) (hi : Bool) (d a : VReg) :
    Encoding.Statement (Instr.unpk t hi d a) :=
  fun _ => ⟨_, rfl, fits (by decide) (by omega) (by omega) (by decide) (eUnpk_lt _ _)⟩

theorem Encoding.mov (d : Dst) (a : Src) :
    Encoding.Statement (Instr.mov d a) :=
  fun _ => ⟨_, rfl, fits (by decide) (Dst.code_lt _) (Src.code_lt _) (by decide) (by decide)⟩

theorem Encoding.movi (d : Dst) (imm : BitVec 22) :
    Encoding.Statement (Instr.movi d imm) :=
  fun _ => ⟨_, rfl, longBody_fits (by decide) (Dst.code_lt _)⟩

theorem Encoding.movh (d : Dst) (imm : BitVec 22) :
    Encoding.Statement (Instr.movh d imm) :=
  fun _ => ⟨_, rfl, longBody_fits (by decide) (Dst.code_lt _)⟩

theorem Encoding.shfl (w : Width) (d a : VReg) (b : Src) :
    Encoding.Statement (Instr.shfl w d a b) :=
  fun _ => ⟨_, rfl, fits (by decide) (by omega) (by omega) (Src.code_lt _) (eWid_lt _)⟩

theorem Encoding.bcst (w : Width) (d : Dst) (a : VReg) (idx : Src) :
    Encoding.Statement (Instr.bcst w d a idx) :=
  fun _ => ⟨_, rfl, fits (by decide) (Dst.code_lt _) (by omega) (Src.code_lt _) (eWid_lt _)⟩

theorem Encoding.rdce (ty : Ty) (op : RedOp) (sat : Bool) (r : Rnd) (d : Dst) (a : VReg) :
    Encoding.Statement (Instr.rdce ty op sat r d a) :=
  fun _ => ⟨_, rfl, fits (by decide) (Dst.code_lt _) (by omega) (eRedB_lt _ _) (eRed_lt _ _)⟩

theorem Encoding.scan (ty : Ty) (op : RedOp) (sat : Bool) (r : Rnd) (d a : VReg) :
    Encoding.Statement (Instr.scan ty op sat r d a) :=
  fun _ => ⟨_, rfl, fits (by decide) (by omega) (by omega) (eRedB_lt _ _) (eRed_lt _ _)⟩

theorem Encoding.extl (w : Width) (sx : Bool) (d : Dst) (a : VReg) (idx : Src) :
    Encoding.Statement (Instr.extl w sx d a idx) :=
  fun _ => ⟨_, rfl, fits (by decide) (Dst.code_lt _) (by omega) (Src.code_lt _) (eExtl_lt _ _)⟩

theorem Encoding.insl (w : Width) (d : VReg) (a idx : Src) :
    Encoding.Statement (Instr.insl w d a idx) :=
  fun _ => ⟨_, rfl, fits (by decide) (by omega) (Src.code_lt _) (Src.code_lt _) (eWid_lt _)⟩

theorem Encoding.pset (a : Src) :
    Encoding.Statement (Instr.pset a) :=
  fun _ => ⟨_, rfl, fits (by decide) (by decide) (Src.code_lt _) (by decide) (by decide)⟩

theorem Encoding.pclr (a : Src) :
    Encoding.Statement (Instr.pclr a) :=
  fun _ => ⟨_, rfl, fits (by decide) (by decide) (Src.code_lt _) (by decide) (by decide)⟩

theorem Encoding.pld (all : Bool) (p : Fin 8) (a : VReg) :
    Encoding.Statement (Instr.pld all p a) :=
  fun _ => ⟨_, rfl, fits (by decide) (by unfold pCode; omega) (by omega) (by decide) (eBit0_lt _)⟩

theorem Encoding.pread (d : Dst) (a : Src) :
    Encoding.Statement (Instr.pread d a) :=
  fun _ => ⟨_, rfl, fits (by decide) (Dst.code_lt _) (Src.code_lt _) (by decide) (by decide)⟩

theorem Encoding.send (o : Chan) (a mask : Src) :
    Encoding.Statement (Instr.send o a mask) :=
  fun _ => ⟨_, rfl, fits (by decide) (by unfold oCode; omega) (Src.code_lt _) (Src.code_lt _) (by decide)⟩

theorem Encoding.drop (c : Chan) :
    Encoding.Statement (Instr.drop c) :=
  fun _ => ⟨_, rfl, fits (by decide) (by decide) (by unfold cCode; omega) (by decide) (by decide)⟩

theorem Encoding.fwd (d : Dst) (a : Src) :
    Encoding.Statement (Instr.fwd d a) :=
  fun _ => ⟨_, rfl, fits (by decide) (Dst.code_lt _) (Src.code_lt _) (by decide) (by decide)⟩

theorem Encoding.mark (d : Dst) :
    Encoding.Statement (Instr.mark d) :=
  fun _ => ⟨_, rfl, fits (by decide) (Dst.code_lt _) (by decide) (by decide) (by decide)⟩

theorem Encoding.retag (tag : Tag) (d : Dst) (a : Src) :
    Encoding.Statement (Instr.retag tag d a) :=
  fun _ => ⟨_, rfl, fits (by decide) (Dst.code_lt _) (Src.code_lt _) (by decide) (eTag_lt _)⟩

theorem Encoding.steer (o : Chan) (a slc : Src) :
    Encoding.Statement (Instr.steer o a slc) :=
  fun _ => ⟨_, rfl, fits (by decide) (by unfold oCode; omega) (Src.code_lt _) (Src.code_lt _) (by decide)⟩

theorem Encoding.merge (o ca cb : Chan) :
    Encoding.Statement (Instr.merge o ca cb) :=
  fun _ => ⟨_, rfl, fits (by decide) (by unfold oCode; omega) (by unfold cCode; omega) (by unfold cCode; omega) (by decide)⟩

theorem Encoding.alloc (d : Dst) (k n : Src) :
    Encoding.Statement (Instr.alloc d k n) :=
  fun _ => ⟨_, rfl, fits (by decide) (Dst.code_lt _) (Src.code_lt _) (Src.code_lt _) (by decide)⟩

theorem Encoding.alloct (d : Dst) (k n : Src) :
    Encoding.Statement (Instr.alloct d k n) :=
  fun _ => ⟨_, rfl, fits (by decide) (Dst.code_lt _) (Src.code_lt _) (Src.code_lt _) (by decide)⟩

theorem Encoding.release (h : Src) :
    Encoding.Statement (Instr.release h) :=
  fun _ => ⟨_, rfl, fits (by decide) (by decide) (Src.code_lt _) (by decide) (by decide)⟩

theorem Encoding.retain (h m : Src) :
    Encoding.Statement (Instr.retain h m) :=
  fun _ => ⟨_, rfl, fits (by decide) (by decide) (Src.code_lt _) (Src.code_lt _) (by decide)⟩

theorem Encoding.bsize (d : Dst) (h : Src) :
    Encoding.Statement (Instr.bsize d h) :=
  fun _ => ⟨_, rfl, fits (by decide) (Dst.code_lt _) (Src.code_lt _) (by decide) (by decide)⟩

theorem Encoding.ldb (d : Dst) (h : Src) :
    Encoding.Statement (Instr.ldb d h) :=
  fun _ => ⟨_, rfl, fits (by decide) (Dst.code_lt _) (Src.code_lt _) (by decide) (by decide)⟩

theorem Encoding.stb (h src : Src) :
    Encoding.Statement (Instr.stb h src) :=
  fun _ => ⟨_, rfl, fits (by decide) (by decide) (Src.code_lt _) (Src.code_lt _) (by decide)⟩

theorem Encoding.ldbx (sc : Fin 4) (d : VReg) (h : Src) (vi : VReg) :
    Encoding.Statement (Instr.ldbx sc d h vi) :=
  fun _ => ⟨_, rfl, fits (by decide) (by omega) (Src.code_lt _) (by omega) (eScale_lt _)⟩

theorem Encoding.stbx (sc : Fin 4) (vs : VReg) (h : Src) (vi : VReg) :
    Encoding.Statement (Instr.stbx sc vs h vi) :=
  fun _ => ⟨_, rfl, fits (by decide) (by omega) (Src.code_lt _) (by omega) (eScale_lt _)⟩

theorem Encoding.ldt (d : VReg) (sn : SReg) (idx : Src) :
    Encoding.Statement (Instr.ldt d sn idx) :=
  fun _ => ⟨_, rfl, fits (by decide) (by omega) (by unfold sCode; omega) (Src.code_lt _) (by decide)⟩

theorem Encoding.stt (vs : VReg) (sn : SReg) (idx : Src) :
    Encoding.Statement (Instr.stt vs sn idx) :=
  fun _ => ⟨_, rfl, fits (by decide) (by omega) (by unfold sCode; omega) (Src.code_lt _) (by decide)⟩

theorem Encoding.tmap (d : Dst) (sn : SReg) (idx : Src) :
    Encoding.Statement (Instr.tmap d sn idx) :=
  fun _ => ⟨_, rfl, fits (by decide) (Dst.code_lt _) (by unfold sCode; omega) (Src.code_lt _) (by decide)⟩

theorem Encoding.sigset (h v : Src) :
    Encoding.Statement (Instr.sigset h v) :=
  fun _ => ⟨_, rfl, fits (by decide) (by decide) (Src.code_lt _) (Src.code_lt _) (by decide)⟩

theorem Encoding.sigclr (h : Src) :
    Encoding.Statement (Instr.sigclr h) :=
  fun _ => ⟨_, rfl, fits (by decide) (by decide) (Src.code_lt _) (by decide) (by decide)⟩

theorem Encoding.sigwait (cond : SigCond) (h v : Src) :
    Encoding.Statement (Instr.sigwait cond h v) :=
  fun _ => ⟨_, rfl, fits (by decide) (by decide) (Src.code_lt _) (Src.code_lt _) (eSigC_lt _)⟩

theorem Encoding.sigtest (cond : SigCond) (d : Dst) (h v : Src) :
    Encoding.Statement (Instr.sigtest cond d h v) :=
  fun _ => ⟨_, rfl, fits (by decide) (Dst.code_lt _) (Src.code_lt _) (Src.code_lt _) (eSigC_lt _)⟩

theorem Encoding.sigadd (h v : Src) :
    Encoding.Statement (Instr.sigadd h v) :=
  fun _ => ⟨_, rfl, fits (by decide) (by decide) (Src.code_lt _) (Src.code_lt _) (by decide)⟩

theorem Encoding.gjoin (g : Src) :
    Encoding.Statement (Instr.gjoin g) :=
  fun _ => ⟨_, rfl, fits (by decide) (by decide) (Src.code_lt _) (by decide) (by decide)⟩

theorem Encoding.gleave (g : Src) :
    Encoding.Statement (Instr.gleave g) :=
  fun _ => ⟨_, rfl, fits (by decide) (by decide) (Src.code_lt _) (by decide) (by decide)⟩

theorem Encoding.gbar (scope : Scope) (g : Src) :
    Encoding.Statement (Instr.gbar scope g) :=
  fun _ => ⟨_, rfl, fits (by decide) (by decide) (Src.code_lt _) (by decide) (eScp_lt _)⟩

theorem Encoding.prio (cls : Src) :
    Encoding.Statement (Instr.prio cls) :=
  fun _ => ⟨_, rfl, fits (by decide) (by decide) (Src.code_lt _) (by decide) (by decide)⟩

theorem Encoding.ldg (sz : Size) (sx : Bool) (d : Dst) (addr : Src) :
    Encoding.Statement (Instr.ldg sz sx d addr) :=
  fun _ => ⟨_, rfl, fits (by decide) (Dst.code_lt _) (Src.code_lt _) (by decide) (eLdg_lt _ _)⟩

theorem Encoding.stg (sz : Size) (addr src : Src) :
    Encoding.Statement (Instr.stg sz addr src) :=
  fun _ => ⟨_, rfl, fits (by decide) (by decide) (Src.code_lt _) (Src.code_lt _) (eSiz_lt _)⟩

theorem Encoding.gath (ew : Width) (sx : Bool) (sc : Fin 4) (d : VReg) (base : Src) (vi : VReg) :
    Encoding.Statement (Instr.gath ew sx sc d base vi) :=
  fun _ => ⟨_, rfl, fits (by decide) (by omega) (Src.code_lt _) (by omega) (eGath_lt _ _ _)⟩

theorem Encoding.scat (ew : Width) (sc : Fin 4) (vs : VReg) (base : Src) (vi : VReg) :
    Encoding.Statement (Instr.scat ew sc vs base vi) :=
  fun _ => ⟨_, rfl, fits (by decide) (by omega) (Src.code_lt _) (by omega) (eScat_lt _ _)⟩

theorem Encoding.pref (addr n : Src) :
    Encoding.Statement (Instr.pref addr n) :=
  fun _ => ⟨_, rfl, fits (by decide) (by decide) (Src.code_lt _) (Src.code_lt _) (by decide)⟩

theorem Encoding.order (scope : Scope) (o : Chan) :
    Encoding.Statement (Instr.order scope o) :=
  fun _ => ⟨_, rfl, fits (by decide) (by unfold oCode; omega) (by decide) (by decide) (eScp_lt _)⟩

theorem Encoding.fence (scope : Scope) :
    Encoding.Statement (Instr.fence scope) :=
  fun _ => ⟨_, rfl, fits (by decide) (by decide) (by decide) (by decide) (eScp_lt _)⟩

theorem Encoding.atom (op : AtomOp) (w : Bool) (scope : Scope) (d : Dst) (addr v : Src) :
    Encoding.Statement (Instr.atom op w scope d addr v) :=
  fun _ => ⟨_, rfl, fits (by decide) (Dst.code_lt _) (Src.code_lt _) (Src.code_lt _) (eAtom_lt _ _ _)⟩

theorem Encoding.cas (w : Bool) (scope : Scope) (d : Dst) (addr : Src) (sn : SReg) :
    Encoding.Statement (Instr.cas w scope d addr sn) :=
  fun _ => ⟨_, rfl, fits (by decide) (Dst.code_lt _) (Src.code_lt _) (by unfold sCode; omega) (eCas_lt _ _)⟩

theorem Encoding.fatom (ty : FTy) (op : FAtomOp) (scope : Scope) (d : Dst) (addr v : Src) :
    Encoding.Statement (Instr.fatom ty op scope d addr v) :=
  fun _ => ⟨_, rfl, fits (by decide) (Dst.code_lt _) (Src.code_lt _) (Src.code_lt _) (eFat_lt _ _ _)⟩

theorem Encoding.strm (o : Chan) (desc : Src) :
    Encoding.Statement (Instr.strm o desc) :=
  fun _ => ⟨_, rfl, fits (by decide) (by unfold oCode; omega) (Src.code_lt _) (by decide) (by decide)⟩

theorem Encoding.copy (desc ch : Src) :
    Encoding.Statement (Instr.copy desc ch) :=
  fun _ => ⟨_, rfl, fits (by decide) (by decide) (Src.code_lt _) (Src.code_lt _) (by decide)⟩

theorem Encoding.wptr (d : Dst) (ch : Src) :
    Encoding.Statement (Instr.wptr d ch) :=
  fun _ => ⟨_, rfl, fits (by decide) (Dst.code_lt _) (Src.code_lt _) (by decide) (by decide)⟩

theorem Encoding.mcast (desc : Src) :
    Encoding.Statement (Instr.mcast desc) :=
  fun _ => ⟨_, rfl, fits (by decide) (by decide) (Src.code_lt _) (by decide) (by decide)⟩

theorem Encoding.fill (sn : SReg) (cnt : Src) :
    Encoding.Statement (Instr.fill sn cnt) :=
  fun _ => ⟨_, rfl, fits (by decide) (by decide) (by unfold sCode; omega) (Src.code_lt _) (by decide)⟩

theorem Encoding.pin (d : Dst) (addr n : Src) :
    Encoding.Statement (Instr.pin d addr n) :=
  fun _ => ⟨_, rfl, fits (by decide) (Dst.code_lt _) (Src.code_lt _) (Src.code_lt _) (by decide)⟩

theorem Encoding.unpin (addr n : Src) :
    Encoding.Statement (Instr.unpin addr n) :=
  fun _ => ⟨_, rfl, fits (by decide) (by decide) (Src.code_lt _) (Src.code_lt _) (by decide)⟩

theorem Encoding.clean (addr n : Src) :
    Encoding.Statement (Instr.clean addr n) :=
  fun _ => ⟨_, rfl, fits (by decide) (by decide) (Src.code_lt _) (Src.code_lt _) (by decide)⟩

theorem Encoding.invl (addr n : Src) :
    Encoding.Statement (Instr.invl addr n) :=
  fun _ => ⟨_, rfl, fits (by decide) (by decide) (Src.code_lt _) (Src.code_lt _) (by decide)⟩

theorem Encoding.wload (fmt : JFmt) (h scale : Src) :
    Encoding.Statement (Instr.wload fmt h scale) :=
  fun _ => ⟨_, rfl, fits (by decide) (by decide) (Src.code_lt _) (Src.code_lt _) (eJFmt_lt _)⟩

theorem Encoding.wswap :
    Encoding.Statement (Instr.wswap) :=
  fun _ => ⟨_, rfl, fits (by decide) (by decide) (by decide) (by decide) (by decide)⟩

theorem Encoding.mma (fmt : JFmt) (h ctl : Src) :
    Encoding.Statement (Instr.mma fmt h ctl) :=
  fun _ => ⟨_, rfl, fits (by decide) (by decide) (Src.code_lt _) (Src.code_lt _) (eJFmt_lt _)⟩

theorem Encoding.accrd (h slot : Src) :
    Encoding.Statement (Instr.accrd h slot) :=
  fun _ => ⟨_, rfl, fits (by decide) (by decide) (Src.code_lt _) (Src.code_lt _) (by decide)⟩

theorem Encoding.accwr (slot h : Src) :
    Encoding.Statement (Instr.accwr slot h) :=
  fun _ => ⟨_, rfl, fits (by decide) (by decide) (Src.code_lt _) (Src.code_lt _) (by decide)⟩

theorem Encoding.accclr (slot : Src) :
    Encoding.Statement (Instr.accclr slot) :=
  fun _ => ⟨_, rfl, fits (by decide) (by decide) (Src.code_lt _) (by decide) (by decide)⟩

theorem Encoding.ttload (h : Src) :
    Encoding.Statement (Instr.ttload h) :=
  fun _ => ⟨_, rfl, fits (by decide) (by decide) (Src.code_lt _) (by decide) (by decide)⟩

theorem Encoding.ring (arm : Src) :
    Encoding.Statement (Instr.ring arm) :=
  fun _ => ⟨_, rfl, fits (by decide) (by decide) (Src.code_lt _) (by decide) (by decide)⟩

theorem Encoding.tinj (home desc : Src) :
    Encoding.Statement (Instr.tinj home desc) :=
  fun _ => ⟨_, rfl, fits (by decide) (by decide) (Src.code_lt _) (Src.code_lt _) (by decide)⟩

theorem Encoding.rstat (d : Dst) (slc : Src) :
    Encoding.Statement (Instr.rstat d slc) :=
  fun _ => ⟨_, rfl, fits (by decide) (Dst.code_lt _) (Src.code_lt _) (by decide) (by decide)⟩

theorem Encoding.turn (o : Chan) (a : VReg) :
    Encoding.Statement (Instr.turn o a) :=
  fun _ => ⟨_, rfl, fits (by decide) (by unfold oCode; omega) (by omega) (by decide) (by decide)⟩

theorem Encoding.statc (d : Dst) :
    Encoding.Statement (Instr.statc d) :=
  fun _ => ⟨_, rfl, fits (by decide) (Dst.code_lt _) (by decide) (by decide) (by decide)⟩

theorem Encoding.coll (d : Dst) (desc : Src) :
    Encoding.Statement (Instr.coll d desc) :=
  fun _ => ⟨_, rfl, fits (by decide) (Dst.code_lt _) (Src.code_lt _) (by decide) (by decide)⟩

theorem Encoding.cwait (d : Dst) (ticket : Src) :
    Encoding.Statement (Instr.cwait d ticket) :=
  fun _ => ⟨_, rfl, fits (by decide) (Dst.code_lt _) (Src.code_lt _) (by decide) (by decide)⟩

theorem Encoding.enq (rec : Src) :
    Encoding.Statement (Instr.enq rec) :=
  fun _ => ⟨_, rfl, fits (by decide) (by decide) (Src.code_lt _) (by decide) (by decide)⟩

theorem Encoding.jdec (d : Dst) (ctr rec : Src) :
    Encoding.Statement (Instr.jdec d ctr rec) :=
  fun _ => ⟨_, rfl, fits (by decide) (Dst.code_lt _) (Src.code_lt _) (Src.code_lt _) (by decide)⟩

theorem Encoding.yield :
    Encoding.Statement (Instr.yield) :=
  fun _ => ⟨_, rfl, fits (by decide) (by decide) (by decide) (by decide) (by decide)⟩

theorem Encoding.done :
    Encoding.Statement (Instr.done) :=
  fun _ => ⟨_, rfl, fits (by decide) (by decide) (by decide) (by decide) (by decide)⟩

theorem Encoding.pfxm (probe : Bool) (d : Dst) (seq prompt : Src) :
    Encoding.Statement (Instr.pfxm probe d seq prompt) :=
  fun _ => ⟨_, rfl, fits (by decide) (Dst.code_lt _) (Src.code_lt _) (Src.code_lt _) (eBit0_lt _)⟩

theorem Encoding.pfxi (d : Dst) (seq prompt : Src) :
    Encoding.Statement (Instr.pfxi d seq prompt) :=
  fun _ => ⟨_, rfl, fits (by decide) (Dst.code_lt _) (Src.code_lt _) (Src.code_lt _) (by decide)⟩

theorem Encoding.kvapp (d : Dst) (list start : Src) :
    Encoding.Statement (Instr.kvapp d list start) :=
  fun _ => ⟨_, rfl, fits (by decide) (Dst.code_lt _) (Src.code_lt _) (Src.code_lt _) (by decide)⟩

theorem Encoding.kvtrunc (d : Dst) (seq len : Src) :
    Encoding.Statement (Instr.kvtrunc d seq len) :=
  fun _ => ⟨_, rfl, fits (by decide) (Dst.code_lt _) (Src.code_lt _) (Src.code_lt _) (by decide)⟩

theorem Encoding.kvrel (d : Dst) (seq : Src) :
    Encoding.Statement (Instr.kvrel d seq) :=
  fun _ => ⟨_, rfl, fits (by decide) (Dst.code_lt _) (Src.code_lt _) (by decide) (by decide)⟩

theorem Encoding.kvpin (unpin : Bool) (d : Dst) (grp : Src) :
    Encoding.Statement (Instr.kvpin unpin d grp) :=
  fun _ => ⟨_, rfl, fits (by decide) (Dst.code_lt _) (Src.code_lt _) (by decide) (eBit0_lt _)⟩

theorem Encoding.kvmap (d : Dst) (seq slc : Src) :
    Encoding.Statement (Instr.kvmap d seq slc) :=
  fun _ => ⟨_, rfl, fits (by decide) (Dst.code_lt _) (Src.code_lt _) (Src.code_lt _) (by decide)⟩

theorem Encoding.rng (g : Fin 4) (d : Dst) :
    Encoding.Statement (Instr.rng g d) :=
  fun _ => ⟨_, rfl, fits (by decide) (Dst.code_lt _) (by decide) (by decide) (eG_lt _)⟩

theorem Encoding.rngset (g : Fin 4) (img : Src) :
    Encoding.Statement (Instr.rngset g img) :=
  fun _ => ⟨_, rfl, fits (by decide) (by decide) (Src.code_lt _) (by decide) (eG_lt _)⟩

theorem Encoding.rngget (g : Fin 4) (img : Src) :
    Encoding.Statement (Instr.rngget g img) :=
  fun _ => ⟨_, rfl, fits (by decide) (by decide) (Src.code_lt _) (by decide) (eG_lt _)⟩

theorem Encoding.br (imm : BitVec 22) :
    Encoding.Statement (Instr.br imm) :=
  fun _ => ⟨_, rfl, longBody_fits (by decide) (by decide)⟩

theorem Encoding.bri (a : Src) :
    Encoding.Statement (Instr.bri a) :=
  fun _ => ⟨_, rfl, fits (by decide) (by decide) (Src.code_lt _) (by decide) (by decide)⟩

theorem Encoding.call (imm : BitVec 22) :
    Encoding.Statement (Instr.call imm) :=
  fun _ => ⟨_, rfl, longBody_fits (by decide) (by decide)⟩

theorem Encoding.calli (a : Src) :
    Encoding.Statement (Instr.calli a) :=
  fun _ => ⟨_, rfl, fits (by decide) (by decide) (Src.code_lt _) (by decide) (by decide)⟩

theorem Encoding.ret :
    Encoding.Statement (Instr.ret) :=
  fun _ => ⟨_, rfl, fits (by decide) (by decide) (by decide) (by decide) (by decide)⟩

theorem Encoding.loop (sn : SReg) (imm : BitVec 22) :
    Encoding.Statement (Instr.loop sn imm) :=
  fun _ => ⟨_, rfl, longBody_fits (by decide) (by unfold sCode; omega)⟩

theorem Encoding.trap (n : BitVec 6) :
    Encoding.Statement (Instr.trap n) :=
  fun _ => ⟨_, rfl, fits (by decide) (by decide) (by decide) (by decide) (eN6_lt _)⟩

theorem Encoding.eret :
    Encoding.Statement (Instr.eret) :=
  fun _ => ⟨_, rfl, fits (by decide) (by decide) (by decide) (by decide) (by decide)⟩

theorem Encoding.sysrd (reg : SysReg) (d : SReg) :
    Encoding.Statement (Instr.sysrd reg d) :=
  fun _ => ⟨_, rfl, fits (by decide) (by unfold sCode; omega) (by decide) (by decide) (eSys_lt _)⟩

theorem Encoding.syswr (reg : SysReg) (a : Src) :
    Encoding.Statement (Instr.syswr reg a) :=
  fun _ => ⟨_, rfl, fits (by decide) (by decide) (Src.code_lt _) (by decide) (eSys_lt _)⟩

theorem Encoding.halt :
    Encoding.Statement (Instr.halt) :=
  fun _ => ⟨_, rfl, fits (by decide) (by decide) (by decide) (by decide) (by decide)⟩

theorem Encoding.bkpt (n : BitVec 6) :
    Encoding.Statement (Instr.bkpt n) :=
  fun _ => ⟨_, rfl, fits (by decide) (by decide) (by decide) (by decide) (eN6_lt _)⟩

theorem Encoding.wait (kind : WaitKind) (a : Src) :
    Encoding.Statement (Instr.wait kind a) :=
  fun _ => ⟨_, rfl, fits (by decide) (by decide) (Src.code_lt _) (by decide) (eWait_lt _)⟩

theorem Encoding.vld (loc : Bool) (d : VReg) (sa : SReg) :
    Encoding.Statement (Instr.vld loc d sa) :=
  fun _ => ⟨_, rfl, fits (by decide) (by omega) (by unfold sCode; omega) (by decide) (eBit0_lt _)⟩

theorem Encoding.vst (loc : Bool) (sa : SReg) (vs : VReg) :
    Encoding.Statement (Instr.vst loc sa vs) :=
  fun _ => ⟨_, rfl, fits (by decide) (by decide) (by unfold sCode; omega) (by omega) (eBit0_lt _)⟩

theorem Encoding.vgath (d : VReg) (sn : SReg) (vt : VReg) :
    Encoding.Statement (Instr.vgath d sn vt) :=
  fun _ => ⟨_, rfl, fits (by decide) (by omega) (by unfold sCode; omega) (by omega) (by decide)⟩

theorem Encoding.kvwalk (d sdesc ssel : SReg) :
    Encoding.Statement (Instr.kvwalk d sdesc ssel) :=
  fun _ => ⟨_, rfl, fits (by decide) (by unfold sCode; omega) (by unfold sCode; omega) (by unfold sCode; omega) (by decide)⟩

theorem Encoding.triple (wide async : Bool) (va : VReg) (sn : SReg) :
    Encoding.Statement (Instr.triple wide async va sn) :=
  fun _ => ⟨_, rfl, fits (by decide) (by decide) (by omega) (by unfold sCode; omega) (eTrip_lt _ _)⟩

theorem Encoding.mbxrd (m : Fin 8) (d : SReg) :
    Encoding.Statement (Instr.mbxrd m d) :=
  fun _ => ⟨_, rfl, fits (by decide) (by unfold sCode; omega) (by decide) (by decide) (eMbx_lt _)⟩

theorem Encoding.ptewr (d : Dst) (pa val : Src) :
    Encoding.Statement (Instr.ptewr d pa val) :=
  fun _ => ⟨_, rfl, fits (by decide) (Dst.code_lt _) (Src.code_lt _) (Src.code_lt _) (by decide)⟩

theorem Encoding.tlbinv (page slc : Src) :
    Encoding.Statement (Instr.tlbinv page slc) :=
  fun _ => ⟨_, rfl, fits (by decide) (by decide) (Src.code_lt _) (Src.code_lt _) (by decide)⟩

theorem Encoding.migr (page slc : Src) :
    Encoding.Statement (Instr.migr page slc) :=
  fun _ => ⟨_, rfl, fits (by decide) (by decide) (Src.code_lt _) (Src.code_lt _) (by decide)⟩

theorem Encoding.cntrd (d : SReg) (page slc : Src) :
    Encoding.Statement (Instr.cntrd d page slc) :=
  fun _ => ⟨_, rfl, fits (by decide) (by unfold sCode; omega) (Src.code_lt _) (Src.code_lt _) (by decide)⟩

theorem Encoding.issueIntervalEnd (u : Nat) :
    Encoding.Statement (Instr.issueIntervalEnd u) :=
  fun h => Bool.noConfusion h

theorem Encoding.clockGate (u : Nat) :
    Encoding.Statement (Instr.clockGate u) :=
  fun h => Bool.noConfusion h

theorem Encoding.tokenArrival (i : Nat) :
    Encoding.Statement (Instr.tokenArrival i) :=
  fun h => Bool.noConfusion h

theorem Encoding.mailboxForward (i : Nat) :
    Encoding.Statement (Instr.mailboxForward i) :=
  fun h => Bool.noConfusion h

theorem Encoding.platformGrant (stn entry : Nat) :
    Encoding.Statement (Instr.platformGrant stn entry) :=
  fun h => Bool.noConfusion h

theorem Encoding.requestPromotion (stn entry : Nat) :
    Encoding.Statement (Instr.requestPromotion stn entry) :=
  fun h => Bool.noConfusion h

theorem Encoding.invixWaitEnd (u : Nat) :
    Encoding.Statement (Instr.invixWaitEnd u) :=
  fun h => Bool.noConfusion h

theorem Encoding.heldEventPerform (stn port : Nat) :
    Encoding.Statement (Instr.heldEventPerform stn port) :=
  fun h => Bool.noConfusion h

theorem Encoding.recordComplete (rg : Nat) :
    Encoding.Statement (Instr.recordComplete rg) :=
  fun h => Bool.noConfusion h

theorem Encoding.allocationWatchdog (rg : Nat) :
    Encoding.Statement (Instr.allocationWatchdog rg) :=
  fun h => Bool.noConfusion h

theorem Encoding.doorbellWrite (part j : Nat) (val : BitVec 64) :
    Encoding.Statement (Instr.doorbellWrite part j val) :=
  fun h => Bool.noConfusion h

theorem Encoding.queueEnable (part j : Nat) :
    Encoding.Statement (Instr.queueEnable part j) :=
  fun h => Bool.noConfusion h

theorem Encoding.queueDisable (part j : Nat) :
    Encoding.Statement (Instr.queueDisable part j) :=
  fun h => Bool.noConfusion h

theorem Encoding.ringFetch (q : Nat) :
    Encoding.Statement (Instr.ringFetch q) :=
  fun h => Bool.noConfusion h

theorem Encoding.spillFaultTimeout (q : Nat) :
    Encoding.Statement (Instr.spillFaultTimeout q) :=
  fun h => Bool.noConfusion h

theorem Encoding.enqueueWaitServed (q : Nat) :
    Encoding.Statement (Instr.enqueueWaitServed q) :=
  fun h => Bool.noConfusion h

theorem Encoding.enqueueWaiterPromotion (q i : Nat) :
    Encoding.Statement (Instr.enqueueWaiterPromotion q i) :=
  fun h => Bool.noConfusion h

theorem Encoding.recordPromotion (q i : Nat) :
    Encoding.Statement (Instr.recordPromotion q i) :=
  fun h => Bool.noConfusion h

theorem Encoding.scheduleDecision (die part : Nat) :
    Encoding.Statement (Instr.scheduleDecision die part) :=
  fun h => Bool.noConfusion h

theorem Encoding.tileTaskBoundary (rg : Nat) :
    Encoding.Statement (Instr.tileTaskBoundary rg) :=
  fun h => Bool.noConfusion h

theorem Encoding.regionResume (rg : Nat) :
    Encoding.Statement (Instr.regionResume rg) :=
  fun h => Bool.noConfusion h

theorem Encoding.launchListSubmit (part : Nat) (val : BitVec 64) :
    Encoding.Statement (Instr.launchListSubmit part val) :=
  fun h => Bool.noConfusion h

theorem Encoding.launchListEntry (part : Nat) :
    Encoding.Statement (Instr.launchListEntry part) :=
  fun h => Bool.noConfusion h

theorem Encoding.wakeArm (part w : Nat) (val : BitVec 64) :
    Encoding.Statement (Instr.wakeArm part w val) :=
  fun h => Bool.noConfusion h

theorem Encoding.serviceTimeout (u : Nat) :
    Encoding.Statement (Instr.serviceTimeout u) :=
  fun h => Bool.noConfusion h

theorem Encoding.pagerSwapIn (part : Nat) :
    Encoding.Statement (Instr.pagerSwapIn part) :=
  fun h => Bool.noConfusion h

theorem Encoding.pagerSwapOut (part : Nat) :
    Encoding.Statement (Instr.pagerSwapOut part) :=
  fun h => Bool.noConfusion h

theorem Encoding.pagerServe (part i : Nat) (act : PagerAct) :
    Encoding.Statement (Instr.pagerServe part i act) :=
  fun h => Bool.noConfusion h

theorem Encoding.faultRelease (part i : Nat) :
    Encoding.Statement (Instr.faultRelease part i) :=
  fun h => Bool.noConfusion h

theorem Encoding.pageMigration (part : Nat) (frame : Option Nat) :
    Encoding.Statement (Instr.pageMigration part frame) :=
  fun h => Bool.noConfusion h

theorem Encoding.hostRequestPost (part : Nat) :
    Encoding.Statement (Instr.hostRequestPost part) :=
  fun h => Bool.noConfusion h

theorem Encoding.hanswer (part : Nat) (val : BitVec 64) :
    Encoding.Statement (Instr.hanswer part val) :=
  fun h => Bool.noConfusion h

theorem Encoding.fillReturn (key : Nat) :
    Encoding.Statement (Instr.fillReturn key) :=
  fun h => Bool.noConfusion h

theorem Encoding.invalidationAck (i : Nat) :
    Encoding.Statement (Instr.invalidationAck i) :=
  fun h => Bool.noConfusion h

theorem Encoding.hostSnoop (part line : Nat) (kind : Snoop) :
    Encoding.Statement (Instr.hostSnoop part line kind) :=
  fun h => Bool.noConfusion h

theorem Encoding.hostMemRead (part o n : Nat) :
    Encoding.Statement (Instr.hostMemRead part o n) :=
  fun h => Bool.noConfusion h

theorem Encoding.hostMemWrite (part o : Nat) (data : List (BitVec 8)) :
    Encoding.Statement (Instr.hostMemWrite part o data) :=
  fun h => Bool.noConfusion h

theorem Encoding.poisonWalk (part frame : Nat) :
    Encoding.Statement (Instr.poisonWalk part frame) :=
  fun h => Bool.noConfusion h

theorem Encoding.evictionTry (part node : Nat) :
    Encoding.Statement (Instr.evictionTry part node) :=
  fun h => Bool.noConfusion h

theorem Encoding.evictionRetry (part : Nat) :
    Encoding.Statement (Instr.evictionRetry part) :=
  fun h => Bool.noConfusion h

theorem Encoding.wavefrontApply (stn : Nat) :
    Encoding.Statement (Instr.wavefrontApply stn) :=
  fun h => Bool.noConfusion h

theorem Encoding.bankFillComplete (stn : Nat) :
    Encoding.Statement (Instr.bankFillComplete stn) :=
  fun h => Bool.noConfusion h

theorem Encoding.lineBeat (die row : Nat) :
    Encoding.Statement (Instr.lineBeat die row) :=
  fun h => Bool.noConfusion h

theorem Encoding.lineTaskStart (stn : Nat) :
    Encoding.Statement (Instr.lineTaskStart stn) :=
  fun h => Bool.noConfusion h

theorem Encoding.recoveryFetch (stn : Nat) :
    Encoding.Statement (Instr.recoveryFetch stn) :=
  fun h => Bool.noConfusion h

theorem Encoding.copyComplete (stn ch : Nat) :
    Encoding.Statement (Instr.copyComplete stn ch) :=
  fun h => Bool.noConfusion h

theorem Encoding.mcastComplete (i : Nat) :
    Encoding.Statement (Instr.mcastComplete i) :=
  fun h => Bool.noConfusion h

theorem Encoding.strmRow (u : Nat) :
    Encoding.Statement (Instr.strmRow u) :=
  fun h => Bool.noConfusion h

theorem Encoding.tripleDelivery (core i : Nat) :
    Encoding.Statement (Instr.tripleDelivery core i) :=
  fun h => Bool.noConfusion h

theorem Encoding.mailboxSend (core n : Nat) (payload : BitVec 64) (land : Bool) :
    Encoding.Statement (Instr.mailboxSend core n payload land) :=
  fun h => Bool.noConfusion h

theorem Encoding.depotDispatch (stack : Nat) :
    Encoding.Statement (Instr.depotDispatch stack) :=
  fun h => Bool.noConfusion h

theorem Encoding.depotPreempt (stack : Nat) :
    Encoding.Statement (Instr.depotPreempt stack) :=
  fun h => Bool.noConfusion h

theorem Encoding.depotStop (core : Nat) :
    Encoding.Statement (Instr.depotStop core) :=
  fun h => Bool.noConfusion h

theorem Encoding.depotSaveComplete (core : Nat) :
    Encoding.Statement (Instr.depotSaveComplete core) :=
  fun h => Bool.noConfusion h

theorem Encoding.depotResume (stack : Nat) :
    Encoding.Statement (Instr.depotResume stack) :=
  fun h => Bool.noConfusion h

theorem Encoding.depotCoreFailure (core : Nat) :
    Encoding.Statement (Instr.depotCoreFailure core) :=
  fun h => Bool.noConfusion h

theorem Encoding.collDataFlit (port cid : Nat) (fromPrev : Bool) (hdr : CollHdr) (val : BitVec 32) :
    Encoding.Statement (Instr.collDataFlit port cid fromPrev hdr val) :=
  fun h => Bool.noConfusion h

theorem Encoding.collAbandonFlit (port cid : Nat) (fromPrev : Bool) :
    Encoding.Statement (Instr.collAbandonFlit port cid fromPrev) :=
  fun h => Bool.noConfusion h

theorem Encoding.flitReceive (port lane : Nat) (ok : Bool) :
    Encoding.Statement (Instr.flitReceive port lane ok) :=
  fun h => Bool.noConfusion h

theorem Encoding.epochRollover (port : Nat) :
    Encoding.Statement (Instr.epochRollover port) :=
  fun h => Bool.noConfusion h

theorem Encoding.portDown (port : Nat) :
    Encoding.Statement (Instr.portDown port) :=
  fun h => Bool.noConfusion h

theorem Encoding.ctxcmdResume (part ctx : Nat) :
    Encoding.Statement (Instr.ctxcmdResume part ctx) :=
  fun h => Bool.noConfusion h

theorem Encoding.ctxcmdKill (part ctx : Nat) :
    Encoding.Statement (Instr.ctxcmdKill part ctx) :=
  fun h => Bool.noConfusion h

theorem Encoding.ctxcmdSwitchOut (part ctx : Nat) :
    Encoding.Statement (Instr.ctxcmdSwitchOut part ctx) :=
  fun h => Bool.noConfusion h

theorem Encoding.regionRelease (rg : Nat) :
    Encoding.Statement (Instr.regionRelease rg) :=
  fun h => Bool.noConfusion h

theorem Encoding.contextRemoval (ctx : Nat) :
    Encoding.Statement (Instr.contextRemoval ctx) :=
  fun h => Bool.noConfusion h

theorem Encoding.registerWindowAccess (part off : Nat) (wr : Option (BitVec 64)) :
    Encoding.Statement (Instr.registerWindowAccess part off wr) :=
  fun h => Bool.noConfusion h

theorem Encoding.partitionSettingWrite (part off : Nat) (val : BitVec 64) :
    Encoding.Statement (Instr.partitionSettingWrite part off val) :=
  fun h => Bool.noConfusion h

theorem Encoding.attestationReport (part : Nat) (val : BitVec 64) :
    Encoding.Statement (Instr.attestationReport part val) :=
  fun h => Bool.noConfusion h

theorem Encoding.keyInstallMemory (part : Nat) (ok : Bool) :
    Encoding.Statement (Instr.keyInstallMemory part ok) :=
  fun h => Bool.noConfusion h

theorem Encoding.keyInstallMainLine (part : Nat) (ok : Bool) :
    Encoding.Statement (Instr.keyInstallMainLine part ok) :=
  fun h => Bool.noConfusion h

theorem Encoding.keyInstallIde (part : Nat) (ok : Bool) :
    Encoding.Statement (Instr.keyInstallIde part ok) :=
  fun h => Bool.noConfusion h

theorem Encoding.keyRevoke (part : Nat) :
    Encoding.Statement (Instr.keyRevoke part) :=
  fun h => Bool.noConfusion h

theorem Encoding.scrubComplete (part : Nat) :
    Encoding.Statement (Instr.scrubComplete part) :=
  fun h => Bool.noConfusion h

theorem Encoding.registerWrite (blk : RegBlock) (part off : Nat) (val : BitVec 64) :
    Encoding.Statement (Instr.registerWrite blk part off val) :=
  fun h => Bool.noConfusion h

theorem Encoding.partitionCreate (part : Nat) (districts : List Nat) (pager : Nat) :
    Encoding.Statement (Instr.partitionCreate part districts pager) :=
  fun h => Bool.noConfusion h

theorem Encoding.partitionDestroy (part : Nat) :
    Encoding.Statement (Instr.partitionDestroy part) :=
  fun h => Bool.noConfusion h

theorem Encoding.stationRetire (stn : Nat) (uncorrectable : Bool) :
    Encoding.Statement (Instr.stationRetire stn uncorrectable) :=
  fun h => Bool.noConfusion h

theorem Encoding.pseudoChannelRetire (stack ch : Nat) :
    Encoding.Statement (Instr.pseudoChannelRetire stack ch) :=
  fun h => Bool.noConfusion h

theorem Encoding.wearRefresh (part which : Nat) (val : BitVec 64) :
    Encoding.Statement (Instr.wearRefresh part which val) :=
  fun h => Bool.noConfusion h

theorem Encoding.thermalThrottle (depotClock : Bool) (level : Nat) :
    Encoding.Statement (Instr.thermalThrottle depotClock level) :=
  fun h => Bool.noConfusion h

theorem Encoding.criticalTemperature (die : Nat) :
    Encoding.Statement (Instr.criticalTemperature die) :=
  fun h => Bool.noConfusion h

theorem Encoding.powerOnReset (verified : Bool) (failing : List Failing) :
    Encoding.Statement (Instr.powerOnReset verified failing) :=
  fun h => Bool.noConfusion h

theorem Encoding.conventionalReset (verified : Bool) (failing : List Failing) :
    Encoding.Statement (Instr.conventionalReset verified failing) :=
  fun h => Bool.noConfusion h

theorem Encoding.functionLevelReset (part : Nat) :
    Encoding.Statement (Instr.functionLevelReset part) :=
  fun h => Bool.noConfusion h

theorem Encoding.contextCreate (ctx : Nat) (desc : CtxDesc) :
    Encoding.Statement (Instr.contextCreate ctx desc) :=
  fun h => Bool.noConfusion h

theorem Encoding.ideStreamActive (part : Nat) :
    Encoding.Statement (Instr.ideStreamActive part) :=
  fun h => Bool.noConfusion h

theorem Encoding.meshRequestArrival (i : Nat) :
    Encoding.Statement (Instr.meshRequestArrival i) :=
  fun h => Bool.noConfusion h

theorem Encoding.meshResponseArrival (i : Nat) :
    Encoding.Statement (Instr.meshResponseArrival i) :=
  fun h => Bool.noConfusion h

theorem Encoding.hostCacheResponse (key : Nat) (grant : HostGrant) :
    Encoding.Statement (Instr.hostCacheResponse key grant) :=
  fun h => Bool.noConfusion h

theorem Encoding.wavefrontEntry (stn : Nat) :
    Encoding.Statement (Instr.wavefrontEntry stn) :=
  fun h => Bool.noConfusion h

theorem Encoding.accumulatorTransferDone (stn : Nat) :
    Encoding.Statement (Instr.accumulatorTransferDone stn) :=
  fun h => Bool.noConfusion h

theorem Encoding.copyEvent (stn ch : Nat) :
    Encoding.Statement (Instr.copyEvent stn ch) :=
  fun h => Bool.noConfusion h

theorem Encoding.waitCycleCountEnd (u : Nat) :
    Encoding.Statement (Instr.waitCycleCountEnd u) :=
  fun h => Bool.noConfusion h

end Sys2Proof.Laws
end

