-- ==== Sys2Proof/Laws/Tab.lean ====
section
/-! SUPPORT. Sparse tables and memories: a read after a write, and the canonical form kept by every operation. -/
namespace Sys2Proof

section
variable {α : Type}

theorem Tab.find_put (t : Tab α) (k k' : Nat) (v : α) : Tab.find (Tab.put t k v) k' = if k = k' then some v else Tab.find t k' := by
  induction t with
  | nil => simp [Tab.put, Tab.find]
  | cons e t ih =>
    obtain ⟨a, b⟩ := e
    simp only [Tab.put]
    split
    · simp only [Tab.find]
    · split
      · rename_i h; subst h; simp only [Tab.find]
        by_cases hk : k = k' <;> simp [hk]
      · simp only [Tab.find, ih]
        by_cases hk : k = k'
        · subst hk; simp; intro; omega
        · simp [hk]

@[simp] theorem Tab.find_put_self (t : Tab α) (k : Nat) (v : α) : Tab.find (Tab.put t k v) k = some v := by
  simp [Tab.find_put]

theorem Tab.find_put_of_ne (t : Tab α) {k k' : Nat} (v : α) (h : k ≠ k') : Tab.find (Tab.put t k v) k' = Tab.find t k' := by
  simp [Tab.find_put, h]

theorem Tab.find_filter (t : Tab α) (p : Nat → Bool) (k : Nat) :
    Tab.find (t.filter (fun e => p e.1)) k = if p k then Tab.find t k else none := by
  induction t with
  | nil => simp [Tab.find]
  | cons e t ih =>
    obtain ⟨a, b⟩ := e
    by_cases ha : p a = true
    · simp only [List.filter_cons, ha, if_true, Tab.find, ih]
      by_cases hk : a = k
      · subst hk; simp [ha]
      · simp [hk]
    · simp only [List.filter_cons, ha, if_false, ih, Tab.find, Bool.false_eq_true]
      by_cases hk : a = k
      · subst hk; simp [ha]
      · simp [hk]

theorem Tab.find_del (t : Tab α) (k k' : Nat) : Tab.find (Tab.del t k) k' = if k' = k then none else Tab.find t k' := by
  rw [Tab.del, Tab.find_filter t (fun a => a != k)]
  by_cases h : k' = k <;> simp [h]

theorem Tab.find_delRange (t : Tab α) (lo hi k : Nat) :
    Tab.find (Tab.delRange t lo hi) k = if lo ≤ k ∧ k < hi then none else Tab.find t k := by
  rw [Tab.delRange, Tab.find_filter t (fun a => decide (a < lo) || decide (hi ≤ a))]
  by_cases h : lo ≤ k ∧ k < hi
  · have h' : ¬ (k < lo ∨ hi ≤ k) := by omega
    simp [h, h']
  · have h' : k < lo ∨ hi ≤ k := by omega
    simp [h, h']

/-- A read after a write, whatever the table. -/
theorem Tab.get_set [DecidableEq α] (d : α) (t : Tab α) (k k' : Nat) (v : α) :
    Tab.get (Tab.set d t k v) k' d = if k' = k then v else Tab.get t k' d := by
  by_cases hv : v = d
  · by_cases hk : k' = k <;> simp [Tab.get, Tab.set, hv, Tab.find_del, hk]
  · by_cases hk : k' = k
    · subst hk; simp [Tab.get, Tab.set, hv]
    · simp [Tab.get, Tab.set, hv, Tab.find_put, hk, Ne.symm hk]

/-! ### The canonical form -/

theorem Tab.rising_mono {t : Tab α} {lo lo' : Nat} (h : Tab.rising t lo = true) (hl : lo' ≤ lo) : Tab.rising t lo' = true := by
  cases t with
  | nil => rfl
  | cons e t =>
    obtain ⟨a, b⟩ := e
    simp only [Tab.rising, Bool.and_eq_true, decide_eq_true_eq] at h ⊢
    exact ⟨by omega, h.2⟩

theorem Tab.rising_put {t : Tab α} {lo k : Nat} (v : α) (h : Tab.rising t lo = true) (hk : lo ≤ k) :
    Tab.rising (Tab.put t k v) lo = true := by
  induction t generalizing lo with
  | nil => simp [Tab.put, Tab.rising, hk]
  | cons e t ih =>
    obtain ⟨a, b⟩ := e
    simp only [Tab.rising, Bool.and_eq_true, decide_eq_true_eq] at h
    simp only [Tab.put]
    split
    · simp only [Tab.rising, Bool.and_eq_true, decide_eq_true_eq]; exact ⟨hk, by omega, h.2⟩
    · split
      · simp only [Tab.rising, Bool.and_eq_true, decide_eq_true_eq]
        rename_i e; subst e; exact ⟨hk, h.2⟩
      · simp only [Tab.rising, Bool.and_eq_true, decide_eq_true_eq]
        exact ⟨h.1, ih h.2 (by omega)⟩

theorem Tab.rising_filter {t : Tab α} {lo : Nat} (p : Nat × α → Bool) (h : Tab.rising t lo = true) :
    Tab.rising (t.filter p) lo = true := by
  induction t generalizing lo with
  | nil => rfl
  | cons e t ih =>
    obtain ⟨a, b⟩ := e
    simp only [Tab.rising, Bool.and_eq_true, decide_eq_true_eq] at h
    rw [List.filter_cons]
    split
    · simp only [Tab.rising, Bool.and_eq_true, decide_eq_true_eq]; exact ⟨h.1, ih h.2⟩
    · exact Tab.rising_mono (ih h.2) (by omega)

theorem Tab.mem_put {t : Tab α} {k : Nat} {v : α} {e : Nat × α} (h : e ∈ Tab.put t k v) : e = (k, v) ∨ e ∈ t := by
  induction t with
  | nil => simpa [Tab.put] using h
  | cons x t ih =>
    obtain ⟨a, b⟩ := x
    simp only [Tab.put] at h
    split at h
    · simpa using h
    · split at h
      · simp only [List.mem_cons] at h ⊢; tauto
      · simp only [List.mem_cons] at h ⊢
        rcases h with h | h
        · exact .inr (.inl h)
        · exact (ih h).imp_right .inr

variable [DecidableEq α] {d : α}

theorem Tab.wf_filter {t : Tab α} (p : Nat × α → Bool) (h : Tab.wf d t = true) : Tab.wf d (t.filter p) = true := by
  simp only [Tab.wf, Bool.and_eq_true, List.all_eq_true, decide_eq_true_eq] at h ⊢
  exact ⟨Tab.rising_filter p h.1, fun e he => h.2 e (List.mem_filter.1 he).1⟩

theorem Tab.wf_set {t : Tab α} (k : Nat) (v : α) (h : Tab.wf d t = true) : Tab.wf d (Tab.set d t k v) = true := by
  by_cases hv : v = d
  · simp only [Tab.set, hv, if_true, Tab.del]; exact Tab.wf_filter _ h
  · simp only [Tab.set, hv, if_false]
    simp only [Tab.wf, Bool.and_eq_true, List.all_eq_true, decide_eq_true_eq] at h ⊢
    refine ⟨Tab.rising_put v h.1 (Nat.zero_le _), fun e he => ?_⟩
    rcases Tab.mem_put he with rfl | he
    · exact hv
    · exact h.2 e he

end

namespace Machine

/-- A read after a write (R7): the byte written at its address, every other byte as before. -/
@[simp] theorem Memory.read_write (m : Memory) (a b : Nat) (v : Byte) :
    Memory.read (Memory.write m a v) b = if b = a then v else Memory.read m b :=
  Tab.get_set _ _ _ _ _

theorem Memory.read_write_self (m : Memory) (a : Nat) (v : Byte) : Memory.read (Memory.write m a v) a = v := by simp

theorem Memory.read_write_of_ne (m : Memory) {a b : Nat} (v : Byte) (h : b ≠ a) :
    Memory.read (Memory.write m a v) b = Memory.read m b := by simp [h]

/-- Bytes that a list of writes does not name stay as they were. -/
theorem Memory.read_writes_of_not_mem (m : Memory) (l : List (Nat × Byte)) {a : Nat} (h : ∀ e ∈ l, e.1 ≠ a) :
    Memory.read (Memory.writes m l) a = Memory.read m a := by
  induction l generalizing m with
  | nil => rfl
  | cons e l ih =>
    obtain ⟨b, v⟩ := e
    simp only [Memory.writes]
    rw [ih (Memory.write m b v) (fun e he => h e (List.mem_cons_of_mem _ he))]
    exact Memory.read_write_of_ne _ _ (Ne.symm (h _ List.mem_cons_self))

theorem Memory.read_clear (m : Memory) (lo hi a : Nat) :
    Memory.read (Memory.clear m lo hi) a = if lo ≤ a ∧ a < hi then memDefault else Memory.read m a := by
  simp only [Memory.read, Memory.clear, Tab.get, Tab.find_delRange]
  split <;> rfl

@[simp] theorem Memory.wf_nil : Memory.wf [] = true := rfl

theorem Memory.wf_write {m : Memory} (a : Nat) (v : Byte) (h : m.wf = true) : (Memory.write m a v).wf = true :=
  Tab.wf_set a v h

theorem Memory.wf_writes {m : Memory} (l : List (Nat × Byte)) (h : m.wf = true) : (Memory.writes m l).wf = true := by
  induction l generalizing m with
  | nil => exact h
  | cons e l ih => exact ih (Memory.wf_write e.1 e.2 h)

theorem Memory.wf_clear {m : Memory} (lo hi : Nat) (h : m.wf = true) : (Memory.clear m lo hi).wf = true :=
  Tab.wf_filter _ h

end Machine
end Sys2Proof
end

