-- ==== Sys2Proof/Laws/State.lean ====
section
/-! SUPPORT. The state record: for every named update, what it leaves of each field, and what a read after it gives. -/
namespace Sys2Proof.Machine

section
variable (s : State)

/-! ### putUnit -/

@[simp] theorem State.putUnit_agenda (u : Nat) (x : Unit) : (s.putUnit u x).agenda = s.agenda := rfl
@[simp] theorem State.putUnit_cur (u : Nat) (x : Unit) : (s.putUnit u x).cur = s.cur := rfl
@[simp] theorem State.putUnit_clocks (u : Nat) (x : Unit) : (s.putUnit u x).clocks = s.clocks := rfl
@[simp] theorem State.putUnit_dclocks (u : Nat) (x : Unit) : (s.putUnit u x).dclocks = s.dclocks := rfl
@[simp] theorem State.putUnit_free (u : Nat) (x : Unit) : (s.putUnit u x).free = s.free := rfl
@[simp] theorem State.putUnit_ids (u : Nat) (x : Unit) : (s.putUnit u x).ids = s.ids := rfl
@[simp] theorem State.putUnit_mesh (u : Nat) (x : Unit) : (s.putUnit u x).mesh = s.mesh := rfl
@[simp] theorem State.putUnit_mcasts (u : Nat) (x : Unit) : (s.putUnit u x).mcasts = s.mcasts := rfl
@[simp] theorem State.putUnit_flight (u : Nat) (x : Unit) : (s.putUnit u x).flight = s.flight := rfl
@[simp] theorem State.putUnit_dram (u : Nat) (x : Unit) : (s.putUnit u x).dram = s.dram := rfl
@[simp] theorem State.putUnit_host (u : Nat) (x : Unit) : (s.putUnit u x).host = s.host := rfl
@[simp] theorem State.putUnit_peer (u : Nat) (x : Unit) : (s.putUnit u x).peer = s.peer := rfl
@[simp] theorem State.putUnit_scratch (u : Nat) (x : Unit) : (s.putUnit u x).scratch = s.scratch := rfl
@[simp] theorem State.putUnit_sram (u : Nat) (x : Unit) : (s.putUnit u x).sram = s.sram := rfl
@[simp] theorem State.putUnit_signals (u : Nat) (x : Unit) : (s.putUnit u x).signals = s.signals := rfl
@[simp] theorem State.putUnit_lines (u : Nat) (x : Unit) : (s.putUnit u x).lines = s.lines := rfl
@[simp] theorem State.putUnit_replicas (u : Nat) (x : Unit) : (s.putUnit u x).replicas = s.replicas := rfl
@[simp] theorem State.putUnit_presence (u : Nat) (x : Unit) : (s.putUnit u x).presence = s.presence := rfl
@[simp] theorem State.putUnit_invals (u : Nat) (x : Unit) : (s.putUnit u x).invals = s.invals := rfl
@[simp] theorem State.putUnit_delivered (u : Nat) (x : Unit) : (s.putUnit u x).delivered = s.delivered := rfl
@[simp] theorem State.putUnit_repeats (u : Nat) (x : Unit) : (s.putUnit u x).repeats = s.repeats := rfl
@[simp] theorem State.putUnit_poisoned (u : Nat) (x : Unit) : (s.putUnit u x).poisoned = s.poisoned := rfl
@[simp] theorem State.putUnit_boots (u : Nat) (x : Unit) : (s.putUnit u x).boots = s.boots := rfl
@[simp] theorem State.putUnit_stations (u : Nat) (x : Unit) : (s.putUnit u x).stations = s.stations := rfl
@[simp] theorem State.putUnit_junctions (u : Nat) (x : Unit) : (s.putUnit u x).junctions = s.junctions := rfl
@[simp] theorem State.putUnit_loopLines (u : Nat) (x : Unit) : (s.putUnit u x).loopLines = s.loopLines := rfl
@[simp] theorem State.putUnit_regions (u : Nat) (x : Unit) : (s.putUnit u x).regions = s.regions := rfl
@[simp] theorem State.putUnit_contexts (u : Nat) (x : Unit) : (s.putUnit u x).contexts = s.contexts := rfl
@[simp] theorem State.putUnit_partitions (u : Nat) (x : Unit) : (s.putUnit u x).partitions = s.partitions := rfl
@[simp] theorem State.putUnit_groups (u : Nat) (x : Unit) : (s.putUnit u x).groups = s.groups := rfl
@[simp] theorem State.putUnit_queues (u : Nat) (x : Unit) : (s.putUnit u x).queues = s.queues := rfl
@[simp] theorem State.putUnit_boxes (u : Nat) (x : Unit) : (s.putUnit u x).boxes = s.boxes := rfl
@[simp] theorem State.putUnit_pointers (u : Nat) (x : Unit) : (s.putUnit u x).pointers = s.pointers := rfl
@[simp] theorem State.putUnit_pointed (u : Nat) (x : Unit) : (s.putUnit u x).pointed = s.pointed := rfl
@[simp] theorem State.putUnit_cores (u : Nat) (x : Unit) : (s.putUnit u x).cores = s.cores := rfl
@[simp] theorem State.putUnit_mainPorts (u : Nat) (x : Unit) : (s.putUnit u x).mainPorts = s.mainPorts := rfl
@[simp] theorem State.putUnit_colls (u : Nat) (x : Unit) : (s.putUnit u x).colls = s.colls := rfl
@[simp] theorem State.putUnit_power (u : Nat) (x : Unit) : (s.putUnit u x).power = s.power := rfl
@[simp] theorem State.putUnit_retiredCh (u : Nat) (x : Unit) : (s.putUnit u x).retiredCh = s.retiredCh := rfl
@[simp] theorem State.putUnit_critical (u : Nat) (x : Unit) : (s.putUnit u x).critical = s.critical := rfl
@[simp] theorem State.putUnit_ld0 (u : Nat) (x : Unit) : (s.putUnit u x).ld0 = s.ld0 := rfl
@[simp] theorem State.putUnit_marked (u : Nat) (x : Unit) : (s.putUnit u x).marked = s.marked := rfl
@[simp] theorem State.putUnit_clock (u : Nat) (x : Unit) : (s.putUnit u x).clock = s.clock := rfl
@[simp] theorem State.putUnit_dclock (u : Nat) (x : Unit) : (s.putUnit u x).dclock = s.dclock := rfl

/-! ### onUnit -/

@[simp] theorem State.onUnit_agenda (u : Nat) (f : Unit → Unit) : (s.onUnit u f).agenda = s.agenda := by
  unfold State.onUnit; split <;> rfl
@[simp] theorem State.onUnit_cur (u : Nat) (f : Unit → Unit) : (s.onUnit u f).cur = s.cur := by
  unfold State.onUnit; split <;> rfl
@[simp] theorem State.onUnit_clocks (u : Nat) (f : Unit → Unit) : (s.onUnit u f).clocks = s.clocks := by
  unfold State.onUnit; split <;> rfl
@[simp] theorem State.onUnit_dclocks (u : Nat) (f : Unit → Unit) : (s.onUnit u f).dclocks = s.dclocks := by
  unfold State.onUnit; split <;> rfl
@[simp] theorem State.onUnit_free (u : Nat) (f : Unit → Unit) : (s.onUnit u f).free = s.free := by
  unfold State.onUnit; split <;> rfl
@[simp] theorem State.onUnit_ids (u : Nat) (f : Unit → Unit) : (s.onUnit u f).ids = s.ids := by
  unfold State.onUnit; split <;> rfl
@[simp] theorem State.onUnit_mesh (u : Nat) (f : Unit → Unit) : (s.onUnit u f).mesh = s.mesh := by
  unfold State.onUnit; split <;> rfl
@[simp] theorem State.onUnit_mcasts (u : Nat) (f : Unit → Unit) : (s.onUnit u f).mcasts = s.mcasts := by
  unfold State.onUnit; split <;> rfl
@[simp] theorem State.onUnit_flight (u : Nat) (f : Unit → Unit) : (s.onUnit u f).flight = s.flight := by
  unfold State.onUnit; split <;> rfl
@[simp] theorem State.onUnit_dram (u : Nat) (f : Unit → Unit) : (s.onUnit u f).dram = s.dram := by
  unfold State.onUnit; split <;> rfl
@[simp] theorem State.onUnit_host (u : Nat) (f : Unit → Unit) : (s.onUnit u f).host = s.host := by
  unfold State.onUnit; split <;> rfl
@[simp] theorem State.onUnit_peer (u : Nat) (f : Unit → Unit) : (s.onUnit u f).peer = s.peer := by
  unfold State.onUnit; split <;> rfl
@[simp] theorem State.onUnit_scratch (u : Nat) (f : Unit → Unit) : (s.onUnit u f).scratch = s.scratch := by
  unfold State.onUnit; split <;> rfl
@[simp] theorem State.onUnit_sram (u : Nat) (f : Unit → Unit) : (s.onUnit u f).sram = s.sram := by
  unfold State.onUnit; split <;> rfl
@[simp] theorem State.onUnit_signals (u : Nat) (f : Unit → Unit) : (s.onUnit u f).signals = s.signals := by
  unfold State.onUnit; split <;> rfl
@[simp] theorem State.onUnit_lines (u : Nat) (f : Unit → Unit) : (s.onUnit u f).lines = s.lines := by
  unfold State.onUnit; split <;> rfl
@[simp] theorem State.onUnit_replicas (u : Nat) (f : Unit → Unit) : (s.onUnit u f).replicas = s.replicas := by
  unfold State.onUnit; split <;> rfl
@[simp] theorem State.onUnit_presence (u : Nat) (f : Unit → Unit) : (s.onUnit u f).presence = s.presence := by
  unfold State.onUnit; split <;> rfl
@[simp] theorem State.onUnit_invals (u : Nat) (f : Unit → Unit) : (s.onUnit u f).invals = s.invals := by
  unfold State.onUnit; split <;> rfl
@[simp] theorem State.onUnit_delivered (u : Nat) (f : Unit → Unit) : (s.onUnit u f).delivered = s.delivered := by
  unfold State.onUnit; split <;> rfl
@[simp] theorem State.onUnit_repeats (u : Nat) (f : Unit → Unit) : (s.onUnit u f).repeats = s.repeats := by
  unfold State.onUnit; split <;> rfl
@[simp] theorem State.onUnit_poisoned (u : Nat) (f : Unit → Unit) : (s.onUnit u f).poisoned = s.poisoned := by
  unfold State.onUnit; split <;> rfl
@[simp] theorem State.onUnit_boots (u : Nat) (f : Unit → Unit) : (s.onUnit u f).boots = s.boots := by
  unfold State.onUnit; split <;> rfl
@[simp] theorem State.onUnit_stations (u : Nat) (f : Unit → Unit) : (s.onUnit u f).stations = s.stations := by
  unfold State.onUnit; split <;> rfl
@[simp] theorem State.onUnit_junctions (u : Nat) (f : Unit → Unit) : (s.onUnit u f).junctions = s.junctions := by
  unfold State.onUnit; split <;> rfl
@[simp] theorem State.onUnit_loopLines (u : Nat) (f : Unit → Unit) : (s.onUnit u f).loopLines = s.loopLines := by
  unfold State.onUnit; split <;> rfl
@[simp] theorem State.onUnit_regions (u : Nat) (f : Unit → Unit) : (s.onUnit u f).regions = s.regions := by
  unfold State.onUnit; split <;> rfl
@[simp] theorem State.onUnit_contexts (u : Nat) (f : Unit → Unit) : (s.onUnit u f).contexts = s.contexts := by
  unfold State.onUnit; split <;> rfl
@[simp] theorem State.onUnit_partitions (u : Nat) (f : Unit → Unit) : (s.onUnit u f).partitions = s.partitions := by
  unfold State.onUnit; split <;> rfl
@[simp] theorem State.onUnit_groups (u : Nat) (f : Unit → Unit) : (s.onUnit u f).groups = s.groups := by
  unfold State.onUnit; split <;> rfl
@[simp] theorem State.onUnit_queues (u : Nat) (f : Unit → Unit) : (s.onUnit u f).queues = s.queues := by
  unfold State.onUnit; split <;> rfl
@[simp] theorem State.onUnit_boxes (u : Nat) (f : Unit → Unit) : (s.onUnit u f).boxes = s.boxes := by
  unfold State.onUnit; split <;> rfl
@[simp] theorem State.onUnit_pointers (u : Nat) (f : Unit → Unit) : (s.onUnit u f).pointers = s.pointers := by
  unfold State.onUnit; split <;> rfl
@[simp] theorem State.onUnit_pointed (u : Nat) (f : Unit → Unit) : (s.onUnit u f).pointed = s.pointed := by
  unfold State.onUnit; split <;> rfl
@[simp] theorem State.onUnit_cores (u : Nat) (f : Unit → Unit) : (s.onUnit u f).cores = s.cores := by
  unfold State.onUnit; split <;> rfl
@[simp] theorem State.onUnit_mainPorts (u : Nat) (f : Unit → Unit) : (s.onUnit u f).mainPorts = s.mainPorts := by
  unfold State.onUnit; split <;> rfl
@[simp] theorem State.onUnit_colls (u : Nat) (f : Unit → Unit) : (s.onUnit u f).colls = s.colls := by
  unfold State.onUnit; split <;> rfl
@[simp] theorem State.onUnit_power (u : Nat) (f : Unit → Unit) : (s.onUnit u f).power = s.power := by
  unfold State.onUnit; split <;> rfl
@[simp] theorem State.onUnit_retiredCh (u : Nat) (f : Unit → Unit) : (s.onUnit u f).retiredCh = s.retiredCh := by
  unfold State.onUnit; split <;> rfl
@[simp] theorem State.onUnit_critical (u : Nat) (f : Unit → Unit) : (s.onUnit u f).critical = s.critical := by
  unfold State.onUnit; split <;> rfl
@[simp] theorem State.onUnit_ld0 (u : Nat) (f : Unit → Unit) : (s.onUnit u f).ld0 = s.ld0 := by
  unfold State.onUnit; split <;> rfl
@[simp] theorem State.onUnit_marked (u : Nat) (f : Unit → Unit) : (s.onUnit u f).marked = s.marked := by
  unfold State.onUnit; split <;> rfl
@[simp] theorem State.onUnit_clock (u : Nat) (f : Unit → Unit) : (s.onUnit u f).clock = s.clock := by
  unfold State.onUnit; split <;> rfl
@[simp] theorem State.onUnit_dclock (u : Nat) (f : Unit → Unit) : (s.onUnit u f).dclock = s.dclock := by
  unfold State.onUnit; split <;> rfl

/-! ### setStation -/

@[simp] theorem State.setStation_agenda (n : Nat) (x : Station) : (s.setStation n x).agenda = s.agenda := rfl
@[simp] theorem State.setStation_cur (n : Nat) (x : Station) : (s.setStation n x).cur = s.cur := rfl
@[simp] theorem State.setStation_clocks (n : Nat) (x : Station) : (s.setStation n x).clocks = s.clocks := rfl
@[simp] theorem State.setStation_dclocks (n : Nat) (x : Station) : (s.setStation n x).dclocks = s.dclocks := rfl
@[simp] theorem State.setStation_free (n : Nat) (x : Station) : (s.setStation n x).free = s.free := rfl
@[simp] theorem State.setStation_ids (n : Nat) (x : Station) : (s.setStation n x).ids = s.ids := rfl
@[simp] theorem State.setStation_mesh (n : Nat) (x : Station) : (s.setStation n x).mesh = s.mesh := rfl
@[simp] theorem State.setStation_mcasts (n : Nat) (x : Station) : (s.setStation n x).mcasts = s.mcasts := rfl
@[simp] theorem State.setStation_flight (n : Nat) (x : Station) : (s.setStation n x).flight = s.flight := rfl
@[simp] theorem State.setStation_dram (n : Nat) (x : Station) : (s.setStation n x).dram = s.dram := rfl
@[simp] theorem State.setStation_host (n : Nat) (x : Station) : (s.setStation n x).host = s.host := rfl
@[simp] theorem State.setStation_peer (n : Nat) (x : Station) : (s.setStation n x).peer = s.peer := rfl
@[simp] theorem State.setStation_scratch (n : Nat) (x : Station) : (s.setStation n x).scratch = s.scratch := rfl
@[simp] theorem State.setStation_sram (n : Nat) (x : Station) : (s.setStation n x).sram = s.sram := rfl
@[simp] theorem State.setStation_signals (n : Nat) (x : Station) : (s.setStation n x).signals = s.signals := rfl
@[simp] theorem State.setStation_lines (n : Nat) (x : Station) : (s.setStation n x).lines = s.lines := rfl
@[simp] theorem State.setStation_replicas (n : Nat) (x : Station) : (s.setStation n x).replicas = s.replicas := rfl
@[simp] theorem State.setStation_presence (n : Nat) (x : Station) : (s.setStation n x).presence = s.presence := rfl
@[simp] theorem State.setStation_invals (n : Nat) (x : Station) : (s.setStation n x).invals = s.invals := rfl
@[simp] theorem State.setStation_delivered (n : Nat) (x : Station) : (s.setStation n x).delivered = s.delivered := rfl
@[simp] theorem State.setStation_repeats (n : Nat) (x : Station) : (s.setStation n x).repeats = s.repeats := rfl
@[simp] theorem State.setStation_poisoned (n : Nat) (x : Station) : (s.setStation n x).poisoned = s.poisoned := rfl
@[simp] theorem State.setStation_boots (n : Nat) (x : Station) : (s.setStation n x).boots = s.boots := rfl
@[simp] theorem State.setStation_units (n : Nat) (x : Station) : (s.setStation n x).units = s.units := rfl
@[simp] theorem State.setStation_junctions (n : Nat) (x : Station) : (s.setStation n x).junctions = s.junctions := rfl
@[simp] theorem State.setStation_loopLines (n : Nat) (x : Station) : (s.setStation n x).loopLines = s.loopLines := rfl
@[simp] theorem State.setStation_regions (n : Nat) (x : Station) : (s.setStation n x).regions = s.regions := rfl
@[simp] theorem State.setStation_contexts (n : Nat) (x : Station) : (s.setStation n x).contexts = s.contexts := rfl
@[simp] theorem State.setStation_partitions (n : Nat) (x : Station) : (s.setStation n x).partitions = s.partitions := rfl
@[simp] theorem State.setStation_groups (n : Nat) (x : Station) : (s.setStation n x).groups = s.groups := rfl
@[simp] theorem State.setStation_queues (n : Nat) (x : Station) : (s.setStation n x).queues = s.queues := rfl
@[simp] theorem State.setStation_boxes (n : Nat) (x : Station) : (s.setStation n x).boxes = s.boxes := rfl
@[simp] theorem State.setStation_pointers (n : Nat) (x : Station) : (s.setStation n x).pointers = s.pointers := rfl
@[simp] theorem State.setStation_pointed (n : Nat) (x : Station) : (s.setStation n x).pointed = s.pointed := rfl
@[simp] theorem State.setStation_cores (n : Nat) (x : Station) : (s.setStation n x).cores = s.cores := rfl
@[simp] theorem State.setStation_mainPorts (n : Nat) (x : Station) : (s.setStation n x).mainPorts = s.mainPorts := rfl
@[simp] theorem State.setStation_colls (n : Nat) (x : Station) : (s.setStation n x).colls = s.colls := rfl
@[simp] theorem State.setStation_power (n : Nat) (x : Station) : (s.setStation n x).power = s.power := rfl
@[simp] theorem State.setStation_retiredCh (n : Nat) (x : Station) : (s.setStation n x).retiredCh = s.retiredCh := rfl
@[simp] theorem State.setStation_critical (n : Nat) (x : Station) : (s.setStation n x).critical = s.critical := rfl
@[simp] theorem State.setStation_ld0 (n : Nat) (x : Station) : (s.setStation n x).ld0 = s.ld0 := rfl
@[simp] theorem State.setStation_marked (n : Nat) (x : Station) : (s.setStation n x).marked = s.marked := rfl
@[simp] theorem State.setStation_clock (n : Nat) (x : Station) : (s.setStation n x).clock = s.clock := rfl
@[simp] theorem State.setStation_dclock (n : Nat) (x : Station) : (s.setStation n x).dclock = s.dclock := rfl

/-! ### onStation -/

@[simp] theorem State.onStation_agenda (n : Nat) (f : Station → Station) : (s.onStation n f).agenda = s.agenda := rfl
@[simp] theorem State.onStation_cur (n : Nat) (f : Station → Station) : (s.onStation n f).cur = s.cur := rfl
@[simp] theorem State.onStation_clocks (n : Nat) (f : Station → Station) : (s.onStation n f).clocks = s.clocks := rfl
@[simp] theorem State.onStation_dclocks (n : Nat) (f : Station → Station) : (s.onStation n f).dclocks = s.dclocks := rfl
@[simp] theorem State.onStation_free (n : Nat) (f : Station → Station) : (s.onStation n f).free = s.free := rfl
@[simp] theorem State.onStation_ids (n : Nat) (f : Station → Station) : (s.onStation n f).ids = s.ids := rfl
@[simp] theorem State.onStation_mesh (n : Nat) (f : Station → Station) : (s.onStation n f).mesh = s.mesh := rfl
@[simp] theorem State.onStation_mcasts (n : Nat) (f : Station → Station) : (s.onStation n f).mcasts = s.mcasts := rfl
@[simp] theorem State.onStation_flight (n : Nat) (f : Station → Station) : (s.onStation n f).flight = s.flight := rfl
@[simp] theorem State.onStation_dram (n : Nat) (f : Station → Station) : (s.onStation n f).dram = s.dram := rfl
@[simp] theorem State.onStation_host (n : Nat) (f : Station → Station) : (s.onStation n f).host = s.host := rfl
@[simp] theorem State.onStation_peer (n : Nat) (f : Station → Station) : (s.onStation n f).peer = s.peer := rfl
@[simp] theorem State.onStation_scratch (n : Nat) (f : Station → Station) : (s.onStation n f).scratch = s.scratch := rfl
@[simp] theorem State.onStation_sram (n : Nat) (f : Station → Station) : (s.onStation n f).sram = s.sram := rfl
@[simp] theorem State.onStation_signals (n : Nat) (f : Station → Station) : (s.onStation n f).signals = s.signals := rfl
@[simp] theorem State.onStation_lines (n : Nat) (f : Station → Station) : (s.onStation n f).lines = s.lines := rfl
@[simp] theorem State.onStation_replicas (n : Nat) (f : Station → Station) : (s.onStation n f).replicas = s.replicas := rfl
@[simp] theorem State.onStation_presence (n : Nat) (f : Station → Station) : (s.onStation n f).presence = s.presence := rfl
@[simp] theorem State.onStation_invals (n : Nat) (f : Station → Station) : (s.onStation n f).invals = s.invals := rfl
@[simp] theorem State.onStation_delivered (n : Nat) (f : Station → Station) : (s.onStation n f).delivered = s.delivered := rfl
@[simp] theorem State.onStation_repeats (n : Nat) (f : Station → Station) : (s.onStation n f).repeats = s.repeats := rfl
@[simp] theorem State.onStation_poisoned (n : Nat) (f : Station → Station) : (s.onStation n f).poisoned = s.poisoned := rfl
@[simp] theorem State.onStation_boots (n : Nat) (f : Station → Station) : (s.onStation n f).boots = s.boots := rfl
@[simp] theorem State.onStation_units (n : Nat) (f : Station → Station) : (s.onStation n f).units = s.units := rfl
@[simp] theorem State.onStation_junctions (n : Nat) (f : Station → Station) : (s.onStation n f).junctions = s.junctions := rfl
@[simp] theorem State.onStation_loopLines (n : Nat) (f : Station → Station) : (s.onStation n f).loopLines = s.loopLines := rfl
@[simp] theorem State.onStation_regions (n : Nat) (f : Station → Station) : (s.onStation n f).regions = s.regions := rfl
@[simp] theorem State.onStation_contexts (n : Nat) (f : Station → Station) : (s.onStation n f).contexts = s.contexts := rfl
@[simp] theorem State.onStation_partitions (n : Nat) (f : Station → Station) : (s.onStation n f).partitions = s.partitions := rfl
@[simp] theorem State.onStation_groups (n : Nat) (f : Station → Station) : (s.onStation n f).groups = s.groups := rfl
@[simp] theorem State.onStation_queues (n : Nat) (f : Station → Station) : (s.onStation n f).queues = s.queues := rfl
@[simp] theorem State.onStation_boxes (n : Nat) (f : Station → Station) : (s.onStation n f).boxes = s.boxes := rfl
@[simp] theorem State.onStation_pointers (n : Nat) (f : Station → Station) : (s.onStation n f).pointers = s.pointers := rfl
@[simp] theorem State.onStation_pointed (n : Nat) (f : Station → Station) : (s.onStation n f).pointed = s.pointed := rfl
@[simp] theorem State.onStation_cores (n : Nat) (f : Station → Station) : (s.onStation n f).cores = s.cores := rfl
@[simp] theorem State.onStation_mainPorts (n : Nat) (f : Station → Station) : (s.onStation n f).mainPorts = s.mainPorts := rfl
@[simp] theorem State.onStation_colls (n : Nat) (f : Station → Station) : (s.onStation n f).colls = s.colls := rfl
@[simp] theorem State.onStation_power (n : Nat) (f : Station → Station) : (s.onStation n f).power = s.power := rfl
@[simp] theorem State.onStation_retiredCh (n : Nat) (f : Station → Station) : (s.onStation n f).retiredCh = s.retiredCh := rfl
@[simp] theorem State.onStation_critical (n : Nat) (f : Station → Station) : (s.onStation n f).critical = s.critical := rfl
@[simp] theorem State.onStation_ld0 (n : Nat) (f : Station → Station) : (s.onStation n f).ld0 = s.ld0 := rfl
@[simp] theorem State.onStation_marked (n : Nat) (f : Station → Station) : (s.onStation n f).marked = s.marked := rfl
@[simp] theorem State.onStation_clock (n : Nat) (f : Station → Station) : (s.onStation n f).clock = s.clock := rfl
@[simp] theorem State.onStation_dclock (n : Nat) (f : Station → Station) : (s.onStation n f).dclock = s.dclock := rfl

/-! ### setJunction -/

@[simp] theorem State.setJunction_agenda (n : Nat) (x : Junction) : (s.setJunction n x).agenda = s.agenda := rfl
@[simp] theorem State.setJunction_cur (n : Nat) (x : Junction) : (s.setJunction n x).cur = s.cur := rfl
@[simp] theorem State.setJunction_clocks (n : Nat) (x : Junction) : (s.setJunction n x).clocks = s.clocks := rfl
@[simp] theorem State.setJunction_dclocks (n : Nat) (x : Junction) : (s.setJunction n x).dclocks = s.dclocks := rfl
@[simp] theorem State.setJunction_free (n : Nat) (x : Junction) : (s.setJunction n x).free = s.free := rfl
@[simp] theorem State.setJunction_ids (n : Nat) (x : Junction) : (s.setJunction n x).ids = s.ids := rfl
@[simp] theorem State.setJunction_mesh (n : Nat) (x : Junction) : (s.setJunction n x).mesh = s.mesh := rfl
@[simp] theorem State.setJunction_mcasts (n : Nat) (x : Junction) : (s.setJunction n x).mcasts = s.mcasts := rfl
@[simp] theorem State.setJunction_flight (n : Nat) (x : Junction) : (s.setJunction n x).flight = s.flight := rfl
@[simp] theorem State.setJunction_dram (n : Nat) (x : Junction) : (s.setJunction n x).dram = s.dram := rfl
@[simp] theorem State.setJunction_host (n : Nat) (x : Junction) : (s.setJunction n x).host = s.host := rfl
@[simp] theorem State.setJunction_peer (n : Nat) (x : Junction) : (s.setJunction n x).peer = s.peer := rfl
@[simp] theorem State.setJunction_scratch (n : Nat) (x : Junction) : (s.setJunction n x).scratch = s.scratch := rfl
@[simp] theorem State.setJunction_sram (n : Nat) (x : Junction) : (s.setJunction n x).sram = s.sram := rfl
@[simp] theorem State.setJunction_signals (n : Nat) (x : Junction) : (s.setJunction n x).signals = s.signals := rfl
@[simp] theorem State.setJunction_lines (n : Nat) (x : Junction) : (s.setJunction n x).lines = s.lines := rfl
@[simp] theorem State.setJunction_replicas (n : Nat) (x : Junction) : (s.setJunction n x).replicas = s.replicas := rfl
@[simp] theorem State.setJunction_presence (n : Nat) (x : Junction) : (s.setJunction n x).presence = s.presence := rfl
@[simp] theorem State.setJunction_invals (n : Nat) (x : Junction) : (s.setJunction n x).invals = s.invals := rfl
@[simp] theorem State.setJunction_delivered (n : Nat) (x : Junction) : (s.setJunction n x).delivered = s.delivered := rfl
@[simp] theorem State.setJunction_repeats (n : Nat) (x : Junction) : (s.setJunction n x).repeats = s.repeats := rfl
@[simp] theorem State.setJunction_poisoned (n : Nat) (x : Junction) : (s.setJunction n x).poisoned = s.poisoned := rfl
@[simp] theorem State.setJunction_boots (n : Nat) (x : Junction) : (s.setJunction n x).boots = s.boots := rfl
@[simp] theorem State.setJunction_units (n : Nat) (x : Junction) : (s.setJunction n x).units = s.units := rfl
@[simp] theorem State.setJunction_stations (n : Nat) (x : Junction) : (s.setJunction n x).stations = s.stations := rfl
@[simp] theorem State.setJunction_loopLines (n : Nat) (x : Junction) : (s.setJunction n x).loopLines = s.loopLines := rfl
@[simp] theorem State.setJunction_regions (n : Nat) (x : Junction) : (s.setJunction n x).regions = s.regions := rfl
@[simp] theorem State.setJunction_contexts (n : Nat) (x : Junction) : (s.setJunction n x).contexts = s.contexts := rfl
@[simp] theorem State.setJunction_partitions (n : Nat) (x : Junction) : (s.setJunction n x).partitions = s.partitions := rfl
@[simp] theorem State.setJunction_groups (n : Nat) (x : Junction) : (s.setJunction n x).groups = s.groups := rfl
@[simp] theorem State.setJunction_queues (n : Nat) (x : Junction) : (s.setJunction n x).queues = s.queues := rfl
@[simp] theorem State.setJunction_boxes (n : Nat) (x : Junction) : (s.setJunction n x).boxes = s.boxes := rfl
@[simp] theorem State.setJunction_pointers (n : Nat) (x : Junction) : (s.setJunction n x).pointers = s.pointers := rfl
@[simp] theorem State.setJunction_pointed (n : Nat) (x : Junction) : (s.setJunction n x).pointed = s.pointed := rfl
@[simp] theorem State.setJunction_cores (n : Nat) (x : Junction) : (s.setJunction n x).cores = s.cores := rfl
@[simp] theorem State.setJunction_mainPorts (n : Nat) (x : Junction) : (s.setJunction n x).mainPorts = s.mainPorts := rfl
@[simp] theorem State.setJunction_colls (n : Nat) (x : Junction) : (s.setJunction n x).colls = s.colls := rfl
@[simp] theorem State.setJunction_power (n : Nat) (x : Junction) : (s.setJunction n x).power = s.power := rfl
@[simp] theorem State.setJunction_retiredCh (n : Nat) (x : Junction) : (s.setJunction n x).retiredCh = s.retiredCh := rfl
@[simp] theorem State.setJunction_critical (n : Nat) (x : Junction) : (s.setJunction n x).critical = s.critical := rfl
@[simp] theorem State.setJunction_ld0 (n : Nat) (x : Junction) : (s.setJunction n x).ld0 = s.ld0 := rfl
@[simp] theorem State.setJunction_marked (n : Nat) (x : Junction) : (s.setJunction n x).marked = s.marked := rfl
@[simp] theorem State.setJunction_clock (n : Nat) (x : Junction) : (s.setJunction n x).clock = s.clock := rfl
@[simp] theorem State.setJunction_dclock (n : Nat) (x : Junction) : (s.setJunction n x).dclock = s.dclock := rfl

/-! ### onJunction -/

@[simp] theorem State.onJunction_agenda (n : Nat) (f : Junction → Junction) : (s.onJunction n f).agenda = s.agenda := rfl
@[simp] theorem State.onJunction_cur (n : Nat) (f : Junction → Junction) : (s.onJunction n f).cur = s.cur := rfl
@[simp] theorem State.onJunction_clocks (n : Nat) (f : Junction → Junction) : (s.onJunction n f).clocks = s.clocks := rfl
@[simp] theorem State.onJunction_dclocks (n : Nat) (f : Junction → Junction) : (s.onJunction n f).dclocks = s.dclocks := rfl
@[simp] theorem State.onJunction_free (n : Nat) (f : Junction → Junction) : (s.onJunction n f).free = s.free := rfl
@[simp] theorem State.onJunction_ids (n : Nat) (f : Junction → Junction) : (s.onJunction n f).ids = s.ids := rfl
@[simp] theorem State.onJunction_mesh (n : Nat) (f : Junction → Junction) : (s.onJunction n f).mesh = s.mesh := rfl
@[simp] theorem State.onJunction_mcasts (n : Nat) (f : Junction → Junction) : (s.onJunction n f).mcasts = s.mcasts := rfl
@[simp] theorem State.onJunction_flight (n : Nat) (f : Junction → Junction) : (s.onJunction n f).flight = s.flight := rfl
@[simp] theorem State.onJunction_dram (n : Nat) (f : Junction → Junction) : (s.onJunction n f).dram = s.dram := rfl
@[simp] theorem State.onJunction_host (n : Nat) (f : Junction → Junction) : (s.onJunction n f).host = s.host := rfl
@[simp] theorem State.onJunction_peer (n : Nat) (f : Junction → Junction) : (s.onJunction n f).peer = s.peer := rfl
@[simp] theorem State.onJunction_scratch (n : Nat) (f : Junction → Junction) : (s.onJunction n f).scratch = s.scratch := rfl
@[simp] theorem State.onJunction_sram (n : Nat) (f : Junction → Junction) : (s.onJunction n f).sram = s.sram := rfl
@[simp] theorem State.onJunction_signals (n : Nat) (f : Junction → Junction) : (s.onJunction n f).signals = s.signals := rfl
@[simp] theorem State.onJunction_lines (n : Nat) (f : Junction → Junction) : (s.onJunction n f).lines = s.lines := rfl
@[simp] theorem State.onJunction_replicas (n : Nat) (f : Junction → Junction) : (s.onJunction n f).replicas = s.replicas := rfl
@[simp] theorem State.onJunction_presence (n : Nat) (f : Junction → Junction) : (s.onJunction n f).presence = s.presence := rfl
@[simp] theorem State.onJunction_invals (n : Nat) (f : Junction → Junction) : (s.onJunction n f).invals = s.invals := rfl
@[simp] theorem State.onJunction_delivered (n : Nat) (f : Junction → Junction) : (s.onJunction n f).delivered = s.delivered := rfl
@[simp] theorem State.onJunction_repeats (n : Nat) (f : Junction → Junction) : (s.onJunction n f).repeats = s.repeats := rfl
@[simp] theorem State.onJunction_poisoned (n : Nat) (f : Junction → Junction) : (s.onJunction n f).poisoned = s.poisoned := rfl
@[simp] theorem State.onJunction_boots (n : Nat) (f : Junction → Junction) : (s.onJunction n f).boots = s.boots := rfl
@[simp] theorem State.onJunction_units (n : Nat) (f : Junction → Junction) : (s.onJunction n f).units = s.units := rfl
@[simp] theorem State.onJunction_stations (n : Nat) (f : Junction → Junction) : (s.onJunction n f).stations = s.stations := rfl
@[simp] theorem State.onJunction_loopLines (n : Nat) (f : Junction → Junction) : (s.onJunction n f).loopLines = s.loopLines := rfl
@[simp] theorem State.onJunction_regions (n : Nat) (f : Junction → Junction) : (s.onJunction n f).regions = s.regions := rfl
@[simp] theorem State.onJunction_contexts (n : Nat) (f : Junction → Junction) : (s.onJunction n f).contexts = s.contexts := rfl
@[simp] theorem State.onJunction_partitions (n : Nat) (f : Junction → Junction) : (s.onJunction n f).partitions = s.partitions := rfl
@[simp] theorem State.onJunction_groups (n : Nat) (f : Junction → Junction) : (s.onJunction n f).groups = s.groups := rfl
@[simp] theorem State.onJunction_queues (n : Nat) (f : Junction → Junction) : (s.onJunction n f).queues = s.queues := rfl
@[simp] theorem State.onJunction_boxes (n : Nat) (f : Junction → Junction) : (s.onJunction n f).boxes = s.boxes := rfl
@[simp] theorem State.onJunction_pointers (n : Nat) (f : Junction → Junction) : (s.onJunction n f).pointers = s.pointers := rfl
@[simp] theorem State.onJunction_pointed (n : Nat) (f : Junction → Junction) : (s.onJunction n f).pointed = s.pointed := rfl
@[simp] theorem State.onJunction_cores (n : Nat) (f : Junction → Junction) : (s.onJunction n f).cores = s.cores := rfl
@[simp] theorem State.onJunction_mainPorts (n : Nat) (f : Junction → Junction) : (s.onJunction n f).mainPorts = s.mainPorts := rfl
@[simp] theorem State.onJunction_colls (n : Nat) (f : Junction → Junction) : (s.onJunction n f).colls = s.colls := rfl
@[simp] theorem State.onJunction_power (n : Nat) (f : Junction → Junction) : (s.onJunction n f).power = s.power := rfl
@[simp] theorem State.onJunction_retiredCh (n : Nat) (f : Junction → Junction) : (s.onJunction n f).retiredCh = s.retiredCh := rfl
@[simp] theorem State.onJunction_critical (n : Nat) (f : Junction → Junction) : (s.onJunction n f).critical = s.critical := rfl
@[simp] theorem State.onJunction_ld0 (n : Nat) (f : Junction → Junction) : (s.onJunction n f).ld0 = s.ld0 := rfl
@[simp] theorem State.onJunction_marked (n : Nat) (f : Junction → Junction) : (s.onJunction n f).marked = s.marked := rfl
@[simp] theorem State.onJunction_clock (n : Nat) (f : Junction → Junction) : (s.onJunction n f).clock = s.clock := rfl
@[simp] theorem State.onJunction_dclock (n : Nat) (f : Junction → Junction) : (s.onJunction n f).dclock = s.dclock := rfl

/-! ### setLoopLine -/

@[simp] theorem State.setLoopLine_agenda (n : Nat) (x : LoopLine) : (s.setLoopLine n x).agenda = s.agenda := rfl
@[simp] theorem State.setLoopLine_cur (n : Nat) (x : LoopLine) : (s.setLoopLine n x).cur = s.cur := rfl
@[simp] theorem State.setLoopLine_clocks (n : Nat) (x : LoopLine) : (s.setLoopLine n x).clocks = s.clocks := rfl
@[simp] theorem State.setLoopLine_dclocks (n : Nat) (x : LoopLine) : (s.setLoopLine n x).dclocks = s.dclocks := rfl
@[simp] theorem State.setLoopLine_free (n : Nat) (x : LoopLine) : (s.setLoopLine n x).free = s.free := rfl
@[simp] theorem State.setLoopLine_ids (n : Nat) (x : LoopLine) : (s.setLoopLine n x).ids = s.ids := rfl
@[simp] theorem State.setLoopLine_mesh (n : Nat) (x : LoopLine) : (s.setLoopLine n x).mesh = s.mesh := rfl
@[simp] theorem State.setLoopLine_mcasts (n : Nat) (x : LoopLine) : (s.setLoopLine n x).mcasts = s.mcasts := rfl
@[simp] theorem State.setLoopLine_flight (n : Nat) (x : LoopLine) : (s.setLoopLine n x).flight = s.flight := rfl
@[simp] theorem State.setLoopLine_dram (n : Nat) (x : LoopLine) : (s.setLoopLine n x).dram = s.dram := rfl
@[simp] theorem State.setLoopLine_host (n : Nat) (x : LoopLine) : (s.setLoopLine n x).host = s.host := rfl
@[simp] theorem State.setLoopLine_peer (n : Nat) (x : LoopLine) : (s.setLoopLine n x).peer = s.peer := rfl
@[simp] theorem State.setLoopLine_scratch (n : Nat) (x : LoopLine) : (s.setLoopLine n x).scratch = s.scratch := rfl
@[simp] theorem State.setLoopLine_sram (n : Nat) (x : LoopLine) : (s.setLoopLine n x).sram = s.sram := rfl
@[simp] theorem State.setLoopLine_signals (n : Nat) (x : LoopLine) : (s.setLoopLine n x).signals = s.signals := rfl
@[simp] theorem State.setLoopLine_lines (n : Nat) (x : LoopLine) : (s.setLoopLine n x).lines = s.lines := rfl
@[simp] theorem State.setLoopLine_replicas (n : Nat) (x : LoopLine) : (s.setLoopLine n x).replicas = s.replicas := rfl
@[simp] theorem State.setLoopLine_presence (n : Nat) (x : LoopLine) : (s.setLoopLine n x).presence = s.presence := rfl
@[simp] theorem State.setLoopLine_invals (n : Nat) (x : LoopLine) : (s.setLoopLine n x).invals = s.invals := rfl
@[simp] theorem State.setLoopLine_delivered (n : Nat) (x : LoopLine) : (s.setLoopLine n x).delivered = s.delivered := rfl
@[simp] theorem State.setLoopLine_repeats (n : Nat) (x : LoopLine) : (s.setLoopLine n x).repeats = s.repeats := rfl
@[simp] theorem State.setLoopLine_poisoned (n : Nat) (x : LoopLine) : (s.setLoopLine n x).poisoned = s.poisoned := rfl
@[simp] theorem State.setLoopLine_boots (n : Nat) (x : LoopLine) : (s.setLoopLine n x).boots = s.boots := rfl
@[simp] theorem State.setLoopLine_units (n : Nat) (x : LoopLine) : (s.setLoopLine n x).units = s.units := rfl
@[simp] theorem State.setLoopLine_stations (n : Nat) (x : LoopLine) : (s.setLoopLine n x).stations = s.stations := rfl
@[simp] theorem State.setLoopLine_junctions (n : Nat) (x : LoopLine) : (s.setLoopLine n x).junctions = s.junctions := rfl
@[simp] theorem State.setLoopLine_regions (n : Nat) (x : LoopLine) : (s.setLoopLine n x).regions = s.regions := rfl
@[simp] theorem State.setLoopLine_contexts (n : Nat) (x : LoopLine) : (s.setLoopLine n x).contexts = s.contexts := rfl
@[simp] theorem State.setLoopLine_partitions (n : Nat) (x : LoopLine) : (s.setLoopLine n x).partitions = s.partitions := rfl
@[simp] theorem State.setLoopLine_groups (n : Nat) (x : LoopLine) : (s.setLoopLine n x).groups = s.groups := rfl
@[simp] theorem State.setLoopLine_queues (n : Nat) (x : LoopLine) : (s.setLoopLine n x).queues = s.queues := rfl
@[simp] theorem State.setLoopLine_boxes (n : Nat) (x : LoopLine) : (s.setLoopLine n x).boxes = s.boxes := rfl
@[simp] theorem State.setLoopLine_pointers (n : Nat) (x : LoopLine) : (s.setLoopLine n x).pointers = s.pointers := rfl
@[simp] theorem State.setLoopLine_pointed (n : Nat) (x : LoopLine) : (s.setLoopLine n x).pointed = s.pointed := rfl
@[simp] theorem State.setLoopLine_cores (n : Nat) (x : LoopLine) : (s.setLoopLine n x).cores = s.cores := rfl
@[simp] theorem State.setLoopLine_mainPorts (n : Nat) (x : LoopLine) : (s.setLoopLine n x).mainPorts = s.mainPorts := rfl
@[simp] theorem State.setLoopLine_colls (n : Nat) (x : LoopLine) : (s.setLoopLine n x).colls = s.colls := rfl
@[simp] theorem State.setLoopLine_power (n : Nat) (x : LoopLine) : (s.setLoopLine n x).power = s.power := rfl
@[simp] theorem State.setLoopLine_retiredCh (n : Nat) (x : LoopLine) : (s.setLoopLine n x).retiredCh = s.retiredCh := rfl
@[simp] theorem State.setLoopLine_critical (n : Nat) (x : LoopLine) : (s.setLoopLine n x).critical = s.critical := rfl
@[simp] theorem State.setLoopLine_ld0 (n : Nat) (x : LoopLine) : (s.setLoopLine n x).ld0 = s.ld0 := rfl
@[simp] theorem State.setLoopLine_marked (n : Nat) (x : LoopLine) : (s.setLoopLine n x).marked = s.marked := rfl
@[simp] theorem State.setLoopLine_clock (n : Nat) (x : LoopLine) : (s.setLoopLine n x).clock = s.clock := rfl
@[simp] theorem State.setLoopLine_dclock (n : Nat) (x : LoopLine) : (s.setLoopLine n x).dclock = s.dclock := rfl

/-! ### putRegion -/

@[simp] theorem State.putRegion_agenda (r : Nat) (x : Region) : (s.putRegion r x).agenda = s.agenda := rfl
@[simp] theorem State.putRegion_cur (r : Nat) (x : Region) : (s.putRegion r x).cur = s.cur := rfl
@[simp] theorem State.putRegion_clocks (r : Nat) (x : Region) : (s.putRegion r x).clocks = s.clocks := rfl
@[simp] theorem State.putRegion_dclocks (r : Nat) (x : Region) : (s.putRegion r x).dclocks = s.dclocks := rfl
@[simp] theorem State.putRegion_free (r : Nat) (x : Region) : (s.putRegion r x).free = s.free := rfl
@[simp] theorem State.putRegion_ids (r : Nat) (x : Region) : (s.putRegion r x).ids = s.ids := rfl
@[simp] theorem State.putRegion_mesh (r : Nat) (x : Region) : (s.putRegion r x).mesh = s.mesh := rfl
@[simp] theorem State.putRegion_mcasts (r : Nat) (x : Region) : (s.putRegion r x).mcasts = s.mcasts := rfl
@[simp] theorem State.putRegion_flight (r : Nat) (x : Region) : (s.putRegion r x).flight = s.flight := rfl
@[simp] theorem State.putRegion_dram (r : Nat) (x : Region) : (s.putRegion r x).dram = s.dram := rfl
@[simp] theorem State.putRegion_host (r : Nat) (x : Region) : (s.putRegion r x).host = s.host := rfl
@[simp] theorem State.putRegion_peer (r : Nat) (x : Region) : (s.putRegion r x).peer = s.peer := rfl
@[simp] theorem State.putRegion_scratch (r : Nat) (x : Region) : (s.putRegion r x).scratch = s.scratch := rfl
@[simp] theorem State.putRegion_sram (r : Nat) (x : Region) : (s.putRegion r x).sram = s.sram := rfl
@[simp] theorem State.putRegion_signals (r : Nat) (x : Region) : (s.putRegion r x).signals = s.signals := rfl
@[simp] theorem State.putRegion_lines (r : Nat) (x : Region) : (s.putRegion r x).lines = s.lines := rfl
@[simp] theorem State.putRegion_replicas (r : Nat) (x : Region) : (s.putRegion r x).replicas = s.replicas := rfl
@[simp] theorem State.putRegion_presence (r : Nat) (x : Region) : (s.putRegion r x).presence = s.presence := rfl
@[simp] theorem State.putRegion_invals (r : Nat) (x : Region) : (s.putRegion r x).invals = s.invals := rfl
@[simp] theorem State.putRegion_delivered (r : Nat) (x : Region) : (s.putRegion r x).delivered = s.delivered := rfl
@[simp] theorem State.putRegion_repeats (r : Nat) (x : Region) : (s.putRegion r x).repeats = s.repeats := rfl
@[simp] theorem State.putRegion_poisoned (r : Nat) (x : Region) : (s.putRegion r x).poisoned = s.poisoned := rfl
@[simp] theorem State.putRegion_boots (r : Nat) (x : Region) : (s.putRegion r x).boots = s.boots := rfl
@[simp] theorem State.putRegion_units (r : Nat) (x : Region) : (s.putRegion r x).units = s.units := rfl
@[simp] theorem State.putRegion_stations (r : Nat) (x : Region) : (s.putRegion r x).stations = s.stations := rfl
@[simp] theorem State.putRegion_junctions (r : Nat) (x : Region) : (s.putRegion r x).junctions = s.junctions := rfl
@[simp] theorem State.putRegion_loopLines (r : Nat) (x : Region) : (s.putRegion r x).loopLines = s.loopLines := rfl
@[simp] theorem State.putRegion_contexts (r : Nat) (x : Region) : (s.putRegion r x).contexts = s.contexts := rfl
@[simp] theorem State.putRegion_partitions (r : Nat) (x : Region) : (s.putRegion r x).partitions = s.partitions := rfl
@[simp] theorem State.putRegion_groups (r : Nat) (x : Region) : (s.putRegion r x).groups = s.groups := rfl
@[simp] theorem State.putRegion_queues (r : Nat) (x : Region) : (s.putRegion r x).queues = s.queues := rfl
@[simp] theorem State.putRegion_boxes (r : Nat) (x : Region) : (s.putRegion r x).boxes = s.boxes := rfl
@[simp] theorem State.putRegion_pointers (r : Nat) (x : Region) : (s.putRegion r x).pointers = s.pointers := rfl
@[simp] theorem State.putRegion_pointed (r : Nat) (x : Region) : (s.putRegion r x).pointed = s.pointed := rfl
@[simp] theorem State.putRegion_cores (r : Nat) (x : Region) : (s.putRegion r x).cores = s.cores := rfl
@[simp] theorem State.putRegion_mainPorts (r : Nat) (x : Region) : (s.putRegion r x).mainPorts = s.mainPorts := rfl
@[simp] theorem State.putRegion_colls (r : Nat) (x : Region) : (s.putRegion r x).colls = s.colls := rfl
@[simp] theorem State.putRegion_power (r : Nat) (x : Region) : (s.putRegion r x).power = s.power := rfl
@[simp] theorem State.putRegion_retiredCh (r : Nat) (x : Region) : (s.putRegion r x).retiredCh = s.retiredCh := rfl
@[simp] theorem State.putRegion_critical (r : Nat) (x : Region) : (s.putRegion r x).critical = s.critical := rfl
@[simp] theorem State.putRegion_ld0 (r : Nat) (x : Region) : (s.putRegion r x).ld0 = s.ld0 := rfl
@[simp] theorem State.putRegion_marked (r : Nat) (x : Region) : (s.putRegion r x).marked = s.marked := rfl
@[simp] theorem State.putRegion_clock (r : Nat) (x : Region) : (s.putRegion r x).clock = s.clock := rfl
@[simp] theorem State.putRegion_dclock (r : Nat) (x : Region) : (s.putRegion r x).dclock = s.dclock := rfl

/-! ### onRegion -/

@[simp] theorem State.onRegion_agenda (r : Nat) (f : Region → Region) : (s.onRegion r f).agenda = s.agenda := by
  unfold State.onRegion; split <;> rfl
@[simp] theorem State.onRegion_cur (r : Nat) (f : Region → Region) : (s.onRegion r f).cur = s.cur := by
  unfold State.onRegion; split <;> rfl
@[simp] theorem State.onRegion_clocks (r : Nat) (f : Region → Region) : (s.onRegion r f).clocks = s.clocks := by
  unfold State.onRegion; split <;> rfl
@[simp] theorem State.onRegion_dclocks (r : Nat) (f : Region → Region) : (s.onRegion r f).dclocks = s.dclocks := by
  unfold State.onRegion; split <;> rfl
@[simp] theorem State.onRegion_free (r : Nat) (f : Region → Region) : (s.onRegion r f).free = s.free := by
  unfold State.onRegion; split <;> rfl
@[simp] theorem State.onRegion_ids (r : Nat) (f : Region → Region) : (s.onRegion r f).ids = s.ids := by
  unfold State.onRegion; split <;> rfl
@[simp] theorem State.onRegion_mesh (r : Nat) (f : Region → Region) : (s.onRegion r f).mesh = s.mesh := by
  unfold State.onRegion; split <;> rfl
@[simp] theorem State.onRegion_mcasts (r : Nat) (f : Region → Region) : (s.onRegion r f).mcasts = s.mcasts := by
  unfold State.onRegion; split <;> rfl
@[simp] theorem State.onRegion_flight (r : Nat) (f : Region → Region) : (s.onRegion r f).flight = s.flight := by
  unfold State.onRegion; split <;> rfl
@[simp] theorem State.onRegion_dram (r : Nat) (f : Region → Region) : (s.onRegion r f).dram = s.dram := by
  unfold State.onRegion; split <;> rfl
@[simp] theorem State.onRegion_host (r : Nat) (f : Region → Region) : (s.onRegion r f).host = s.host := by
  unfold State.onRegion; split <;> rfl
@[simp] theorem State.onRegion_peer (r : Nat) (f : Region → Region) : (s.onRegion r f).peer = s.peer := by
  unfold State.onRegion; split <;> rfl
@[simp] theorem State.onRegion_scratch (r : Nat) (f : Region → Region) : (s.onRegion r f).scratch = s.scratch := by
  unfold State.onRegion; split <;> rfl
@[simp] theorem State.onRegion_sram (r : Nat) (f : Region → Region) : (s.onRegion r f).sram = s.sram := by
  unfold State.onRegion; split <;> rfl
@[simp] theorem State.onRegion_signals (r : Nat) (f : Region → Region) : (s.onRegion r f).signals = s.signals := by
  unfold State.onRegion; split <;> rfl
@[simp] theorem State.onRegion_lines (r : Nat) (f : Region → Region) : (s.onRegion r f).lines = s.lines := by
  unfold State.onRegion; split <;> rfl
@[simp] theorem State.onRegion_replicas (r : Nat) (f : Region → Region) : (s.onRegion r f).replicas = s.replicas := by
  unfold State.onRegion; split <;> rfl
@[simp] theorem State.onRegion_presence (r : Nat) (f : Region → Region) : (s.onRegion r f).presence = s.presence := by
  unfold State.onRegion; split <;> rfl
@[simp] theorem State.onRegion_invals (r : Nat) (f : Region → Region) : (s.onRegion r f).invals = s.invals := by
  unfold State.onRegion; split <;> rfl
@[simp] theorem State.onRegion_delivered (r : Nat) (f : Region → Region) : (s.onRegion r f).delivered = s.delivered := by
  unfold State.onRegion; split <;> rfl
@[simp] theorem State.onRegion_repeats (r : Nat) (f : Region → Region) : (s.onRegion r f).repeats = s.repeats := by
  unfold State.onRegion; split <;> rfl
@[simp] theorem State.onRegion_poisoned (r : Nat) (f : Region → Region) : (s.onRegion r f).poisoned = s.poisoned := by
  unfold State.onRegion; split <;> rfl
@[simp] theorem State.onRegion_boots (r : Nat) (f : Region → Region) : (s.onRegion r f).boots = s.boots := by
  unfold State.onRegion; split <;> rfl
@[simp] theorem State.onRegion_units (r : Nat) (f : Region → Region) : (s.onRegion r f).units = s.units := by
  unfold State.onRegion; split <;> rfl
@[simp] theorem State.onRegion_stations (r : Nat) (f : Region → Region) : (s.onRegion r f).stations = s.stations := by
  unfold State.onRegion; split <;> rfl
@[simp] theorem State.onRegion_junctions (r : Nat) (f : Region → Region) : (s.onRegion r f).junctions = s.junctions := by
  unfold State.onRegion; split <;> rfl
@[simp] theorem State.onRegion_loopLines (r : Nat) (f : Region → Region) : (s.onRegion r f).loopLines = s.loopLines := by
  unfold State.onRegion; split <;> rfl
@[simp] theorem State.onRegion_contexts (r : Nat) (f : Region → Region) : (s.onRegion r f).contexts = s.contexts := by
  unfold State.onRegion; split <;> rfl
@[simp] theorem State.onRegion_partitions (r : Nat) (f : Region → Region) : (s.onRegion r f).partitions = s.partitions := by
  unfold State.onRegion; split <;> rfl
@[simp] theorem State.onRegion_groups (r : Nat) (f : Region → Region) : (s.onRegion r f).groups = s.groups := by
  unfold State.onRegion; split <;> rfl
@[simp] theorem State.onRegion_queues (r : Nat) (f : Region → Region) : (s.onRegion r f).queues = s.queues := by
  unfold State.onRegion; split <;> rfl
@[simp] theorem State.onRegion_boxes (r : Nat) (f : Region → Region) : (s.onRegion r f).boxes = s.boxes := by
  unfold State.onRegion; split <;> rfl
@[simp] theorem State.onRegion_pointers (r : Nat) (f : Region → Region) : (s.onRegion r f).pointers = s.pointers := by
  unfold State.onRegion; split <;> rfl
@[simp] theorem State.onRegion_pointed (r : Nat) (f : Region → Region) : (s.onRegion r f).pointed = s.pointed := by
  unfold State.onRegion; split <;> rfl
@[simp] theorem State.onRegion_cores (r : Nat) (f : Region → Region) : (s.onRegion r f).cores = s.cores := by
  unfold State.onRegion; split <;> rfl
@[simp] theorem State.onRegion_mainPorts (r : Nat) (f : Region → Region) : (s.onRegion r f).mainPorts = s.mainPorts := by
  unfold State.onRegion; split <;> rfl
@[simp] theorem State.onRegion_colls (r : Nat) (f : Region → Region) : (s.onRegion r f).colls = s.colls := by
  unfold State.onRegion; split <;> rfl
@[simp] theorem State.onRegion_power (r : Nat) (f : Region → Region) : (s.onRegion r f).power = s.power := by
  unfold State.onRegion; split <;> rfl
@[simp] theorem State.onRegion_retiredCh (r : Nat) (f : Region → Region) : (s.onRegion r f).retiredCh = s.retiredCh := by
  unfold State.onRegion; split <;> rfl
@[simp] theorem State.onRegion_critical (r : Nat) (f : Region → Region) : (s.onRegion r f).critical = s.critical := by
  unfold State.onRegion; split <;> rfl
@[simp] theorem State.onRegion_ld0 (r : Nat) (f : Region → Region) : (s.onRegion r f).ld0 = s.ld0 := by
  unfold State.onRegion; split <;> rfl
@[simp] theorem State.onRegion_marked (r : Nat) (f : Region → Region) : (s.onRegion r f).marked = s.marked := by
  unfold State.onRegion; split <;> rfl
@[simp] theorem State.onRegion_clock (r : Nat) (f : Region → Region) : (s.onRegion r f).clock = s.clock := by
  unfold State.onRegion; split <;> rfl
@[simp] theorem State.onRegion_dclock (r : Nat) (f : Region → Region) : (s.onRegion r f).dclock = s.dclock := by
  unfold State.onRegion; split <;> rfl

/-! ### setQueue -/

@[simp] theorem State.setQueue_agenda (q : Nat) (x : Queue) : (s.setQueue q x).agenda = s.agenda := rfl
@[simp] theorem State.setQueue_cur (q : Nat) (x : Queue) : (s.setQueue q x).cur = s.cur := rfl
@[simp] theorem State.setQueue_clocks (q : Nat) (x : Queue) : (s.setQueue q x).clocks = s.clocks := rfl
@[simp] theorem State.setQueue_dclocks (q : Nat) (x : Queue) : (s.setQueue q x).dclocks = s.dclocks := rfl
@[simp] theorem State.setQueue_free (q : Nat) (x : Queue) : (s.setQueue q x).free = s.free := rfl
@[simp] theorem State.setQueue_ids (q : Nat) (x : Queue) : (s.setQueue q x).ids = s.ids := rfl
@[simp] theorem State.setQueue_mesh (q : Nat) (x : Queue) : (s.setQueue q x).mesh = s.mesh := rfl
@[simp] theorem State.setQueue_mcasts (q : Nat) (x : Queue) : (s.setQueue q x).mcasts = s.mcasts := rfl
@[simp] theorem State.setQueue_flight (q : Nat) (x : Queue) : (s.setQueue q x).flight = s.flight := rfl
@[simp] theorem State.setQueue_dram (q : Nat) (x : Queue) : (s.setQueue q x).dram = s.dram := rfl
@[simp] theorem State.setQueue_host (q : Nat) (x : Queue) : (s.setQueue q x).host = s.host := rfl
@[simp] theorem State.setQueue_peer (q : Nat) (x : Queue) : (s.setQueue q x).peer = s.peer := rfl
@[simp] theorem State.setQueue_scratch (q : Nat) (x : Queue) : (s.setQueue q x).scratch = s.scratch := rfl
@[simp] theorem State.setQueue_sram (q : Nat) (x : Queue) : (s.setQueue q x).sram = s.sram := rfl
@[simp] theorem State.setQueue_signals (q : Nat) (x : Queue) : (s.setQueue q x).signals = s.signals := rfl
@[simp] theorem State.setQueue_lines (q : Nat) (x : Queue) : (s.setQueue q x).lines = s.lines := rfl
@[simp] theorem State.setQueue_replicas (q : Nat) (x : Queue) : (s.setQueue q x).replicas = s.replicas := rfl
@[simp] theorem State.setQueue_presence (q : Nat) (x : Queue) : (s.setQueue q x).presence = s.presence := rfl
@[simp] theorem State.setQueue_invals (q : Nat) (x : Queue) : (s.setQueue q x).invals = s.invals := rfl
@[simp] theorem State.setQueue_delivered (q : Nat) (x : Queue) : (s.setQueue q x).delivered = s.delivered := rfl
@[simp] theorem State.setQueue_repeats (q : Nat) (x : Queue) : (s.setQueue q x).repeats = s.repeats := rfl
@[simp] theorem State.setQueue_poisoned (q : Nat) (x : Queue) : (s.setQueue q x).poisoned = s.poisoned := rfl
@[simp] theorem State.setQueue_boots (q : Nat) (x : Queue) : (s.setQueue q x).boots = s.boots := rfl
@[simp] theorem State.setQueue_units (q : Nat) (x : Queue) : (s.setQueue q x).units = s.units := rfl
@[simp] theorem State.setQueue_stations (q : Nat) (x : Queue) : (s.setQueue q x).stations = s.stations := rfl
@[simp] theorem State.setQueue_junctions (q : Nat) (x : Queue) : (s.setQueue q x).junctions = s.junctions := rfl
@[simp] theorem State.setQueue_loopLines (q : Nat) (x : Queue) : (s.setQueue q x).loopLines = s.loopLines := rfl
@[simp] theorem State.setQueue_regions (q : Nat) (x : Queue) : (s.setQueue q x).regions = s.regions := rfl
@[simp] theorem State.setQueue_contexts (q : Nat) (x : Queue) : (s.setQueue q x).contexts = s.contexts := rfl
@[simp] theorem State.setQueue_partitions (q : Nat) (x : Queue) : (s.setQueue q x).partitions = s.partitions := rfl
@[simp] theorem State.setQueue_groups (q : Nat) (x : Queue) : (s.setQueue q x).groups = s.groups := rfl
@[simp] theorem State.setQueue_boxes (q : Nat) (x : Queue) : (s.setQueue q x).boxes = s.boxes := rfl
@[simp] theorem State.setQueue_pointers (q : Nat) (x : Queue) : (s.setQueue q x).pointers = s.pointers := rfl
@[simp] theorem State.setQueue_pointed (q : Nat) (x : Queue) : (s.setQueue q x).pointed = s.pointed := rfl
@[simp] theorem State.setQueue_cores (q : Nat) (x : Queue) : (s.setQueue q x).cores = s.cores := rfl
@[simp] theorem State.setQueue_mainPorts (q : Nat) (x : Queue) : (s.setQueue q x).mainPorts = s.mainPorts := rfl
@[simp] theorem State.setQueue_colls (q : Nat) (x : Queue) : (s.setQueue q x).colls = s.colls := rfl
@[simp] theorem State.setQueue_power (q : Nat) (x : Queue) : (s.setQueue q x).power = s.power := rfl
@[simp] theorem State.setQueue_retiredCh (q : Nat) (x : Queue) : (s.setQueue q x).retiredCh = s.retiredCh := rfl
@[simp] theorem State.setQueue_critical (q : Nat) (x : Queue) : (s.setQueue q x).critical = s.critical := rfl
@[simp] theorem State.setQueue_ld0 (q : Nat) (x : Queue) : (s.setQueue q x).ld0 = s.ld0 := rfl
@[simp] theorem State.setQueue_marked (q : Nat) (x : Queue) : (s.setQueue q x).marked = s.marked := rfl
@[simp] theorem State.setQueue_clock (q : Nat) (x : Queue) : (s.setQueue q x).clock = s.clock := rfl
@[simp] theorem State.setQueue_dclock (q : Nat) (x : Queue) : (s.setQueue q x).dclock = s.dclock := rfl

/-! ### setCore -/

@[simp] theorem State.setCore_agenda (c : Nat) (x : Core) : (s.setCore c x).agenda = s.agenda := rfl
@[simp] theorem State.setCore_cur (c : Nat) (x : Core) : (s.setCore c x).cur = s.cur := rfl
@[simp] theorem State.setCore_clocks (c : Nat) (x : Core) : (s.setCore c x).clocks = s.clocks := rfl
@[simp] theorem State.setCore_dclocks (c : Nat) (x : Core) : (s.setCore c x).dclocks = s.dclocks := rfl
@[simp] theorem State.setCore_free (c : Nat) (x : Core) : (s.setCore c x).free = s.free := rfl
@[simp] theorem State.setCore_ids (c : Nat) (x : Core) : (s.setCore c x).ids = s.ids := rfl
@[simp] theorem State.setCore_mesh (c : Nat) (x : Core) : (s.setCore c x).mesh = s.mesh := rfl
@[simp] theorem State.setCore_mcasts (c : Nat) (x : Core) : (s.setCore c x).mcasts = s.mcasts := rfl
@[simp] theorem State.setCore_flight (c : Nat) (x : Core) : (s.setCore c x).flight = s.flight := rfl
@[simp] theorem State.setCore_dram (c : Nat) (x : Core) : (s.setCore c x).dram = s.dram := rfl
@[simp] theorem State.setCore_host (c : Nat) (x : Core) : (s.setCore c x).host = s.host := rfl
@[simp] theorem State.setCore_peer (c : Nat) (x : Core) : (s.setCore c x).peer = s.peer := rfl
@[simp] theorem State.setCore_scratch (c : Nat) (x : Core) : (s.setCore c x).scratch = s.scratch := rfl
@[simp] theorem State.setCore_sram (c : Nat) (x : Core) : (s.setCore c x).sram = s.sram := rfl
@[simp] theorem State.setCore_signals (c : Nat) (x : Core) : (s.setCore c x).signals = s.signals := rfl
@[simp] theorem State.setCore_lines (c : Nat) (x : Core) : (s.setCore c x).lines = s.lines := rfl
@[simp] theorem State.setCore_replicas (c : Nat) (x : Core) : (s.setCore c x).replicas = s.replicas := rfl
@[simp] theorem State.setCore_presence (c : Nat) (x : Core) : (s.setCore c x).presence = s.presence := rfl
@[simp] theorem State.setCore_invals (c : Nat) (x : Core) : (s.setCore c x).invals = s.invals := rfl
@[simp] theorem State.setCore_delivered (c : Nat) (x : Core) : (s.setCore c x).delivered = s.delivered := rfl
@[simp] theorem State.setCore_repeats (c : Nat) (x : Core) : (s.setCore c x).repeats = s.repeats := rfl
@[simp] theorem State.setCore_poisoned (c : Nat) (x : Core) : (s.setCore c x).poisoned = s.poisoned := rfl
@[simp] theorem State.setCore_boots (c : Nat) (x : Core) : (s.setCore c x).boots = s.boots := rfl
@[simp] theorem State.setCore_units (c : Nat) (x : Core) : (s.setCore c x).units = s.units := rfl
@[simp] theorem State.setCore_stations (c : Nat) (x : Core) : (s.setCore c x).stations = s.stations := rfl
@[simp] theorem State.setCore_junctions (c : Nat) (x : Core) : (s.setCore c x).junctions = s.junctions := rfl
@[simp] theorem State.setCore_loopLines (c : Nat) (x : Core) : (s.setCore c x).loopLines = s.loopLines := rfl
@[simp] theorem State.setCore_regions (c : Nat) (x : Core) : (s.setCore c x).regions = s.regions := rfl
@[simp] theorem State.setCore_contexts (c : Nat) (x : Core) : (s.setCore c x).contexts = s.contexts := rfl
@[simp] theorem State.setCore_partitions (c : Nat) (x : Core) : (s.setCore c x).partitions = s.partitions := rfl
@[simp] theorem State.setCore_groups (c : Nat) (x : Core) : (s.setCore c x).groups = s.groups := rfl
@[simp] theorem State.setCore_queues (c : Nat) (x : Core) : (s.setCore c x).queues = s.queues := rfl
@[simp] theorem State.setCore_boxes (c : Nat) (x : Core) : (s.setCore c x).boxes = s.boxes := rfl
@[simp] theorem State.setCore_pointers (c : Nat) (x : Core) : (s.setCore c x).pointers = s.pointers := rfl
@[simp] theorem State.setCore_pointed (c : Nat) (x : Core) : (s.setCore c x).pointed = s.pointed := rfl
@[simp] theorem State.setCore_mainPorts (c : Nat) (x : Core) : (s.setCore c x).mainPorts = s.mainPorts := rfl
@[simp] theorem State.setCore_colls (c : Nat) (x : Core) : (s.setCore c x).colls = s.colls := rfl
@[simp] theorem State.setCore_power (c : Nat) (x : Core) : (s.setCore c x).power = s.power := rfl
@[simp] theorem State.setCore_retiredCh (c : Nat) (x : Core) : (s.setCore c x).retiredCh = s.retiredCh := rfl
@[simp] theorem State.setCore_critical (c : Nat) (x : Core) : (s.setCore c x).critical = s.critical := rfl
@[simp] theorem State.setCore_ld0 (c : Nat) (x : Core) : (s.setCore c x).ld0 = s.ld0 := rfl
@[simp] theorem State.setCore_marked (c : Nat) (x : Core) : (s.setCore c x).marked = s.marked := rfl
@[simp] theorem State.setCore_clock (c : Nat) (x : Core) : (s.setCore c x).clock = s.clock := rfl
@[simp] theorem State.setCore_dclock (c : Nat) (x : Core) : (s.setCore c x).dclock = s.dclock := rfl

/-! ### onCore -/

@[simp] theorem State.onCore_agenda (c : Nat) (f : Core → Core) : (s.onCore c f).agenda = s.agenda := rfl
@[simp] theorem State.onCore_cur (c : Nat) (f : Core → Core) : (s.onCore c f).cur = s.cur := rfl
@[simp] theorem State.onCore_clocks (c : Nat) (f : Core → Core) : (s.onCore c f).clocks = s.clocks := rfl
@[simp] theorem State.onCore_dclocks (c : Nat) (f : Core → Core) : (s.onCore c f).dclocks = s.dclocks := rfl
@[simp] theorem State.onCore_free (c : Nat) (f : Core → Core) : (s.onCore c f).free = s.free := rfl
@[simp] theorem State.onCore_ids (c : Nat) (f : Core → Core) : (s.onCore c f).ids = s.ids := rfl
@[simp] theorem State.onCore_mesh (c : Nat) (f : Core → Core) : (s.onCore c f).mesh = s.mesh := rfl
@[simp] theorem State.onCore_mcasts (c : Nat) (f : Core → Core) : (s.onCore c f).mcasts = s.mcasts := rfl
@[simp] theorem State.onCore_flight (c : Nat) (f : Core → Core) : (s.onCore c f).flight = s.flight := rfl
@[simp] theorem State.onCore_dram (c : Nat) (f : Core → Core) : (s.onCore c f).dram = s.dram := rfl
@[simp] theorem State.onCore_host (c : Nat) (f : Core → Core) : (s.onCore c f).host = s.host := rfl
@[simp] theorem State.onCore_peer (c : Nat) (f : Core → Core) : (s.onCore c f).peer = s.peer := rfl
@[simp] theorem State.onCore_scratch (c : Nat) (f : Core → Core) : (s.onCore c f).scratch = s.scratch := rfl
@[simp] theorem State.onCore_sram (c : Nat) (f : Core → Core) : (s.onCore c f).sram = s.sram := rfl
@[simp] theorem State.onCore_signals (c : Nat) (f : Core → Core) : (s.onCore c f).signals = s.signals := rfl
@[simp] theorem State.onCore_lines (c : Nat) (f : Core → Core) : (s.onCore c f).lines = s.lines := rfl
@[simp] theorem State.onCore_replicas (c : Nat) (f : Core → Core) : (s.onCore c f).replicas = s.replicas := rfl
@[simp] theorem State.onCore_presence (c : Nat) (f : Core → Core) : (s.onCore c f).presence = s.presence := rfl
@[simp] theorem State.onCore_invals (c : Nat) (f : Core → Core) : (s.onCore c f).invals = s.invals := rfl
@[simp] theorem State.onCore_delivered (c : Nat) (f : Core → Core) : (s.onCore c f).delivered = s.delivered := rfl
@[simp] theorem State.onCore_repeats (c : Nat) (f : Core → Core) : (s.onCore c f).repeats = s.repeats := rfl
@[simp] theorem State.onCore_poisoned (c : Nat) (f : Core → Core) : (s.onCore c f).poisoned = s.poisoned := rfl
@[simp] theorem State.onCore_boots (c : Nat) (f : Core → Core) : (s.onCore c f).boots = s.boots := rfl
@[simp] theorem State.onCore_units (c : Nat) (f : Core → Core) : (s.onCore c f).units = s.units := rfl
@[simp] theorem State.onCore_stations (c : Nat) (f : Core → Core) : (s.onCore c f).stations = s.stations := rfl
@[simp] theorem State.onCore_junctions (c : Nat) (f : Core → Core) : (s.onCore c f).junctions = s.junctions := rfl
@[simp] theorem State.onCore_loopLines (c : Nat) (f : Core → Core) : (s.onCore c f).loopLines = s.loopLines := rfl
@[simp] theorem State.onCore_regions (c : Nat) (f : Core → Core) : (s.onCore c f).regions = s.regions := rfl
@[simp] theorem State.onCore_contexts (c : Nat) (f : Core → Core) : (s.onCore c f).contexts = s.contexts := rfl
@[simp] theorem State.onCore_partitions (c : Nat) (f : Core → Core) : (s.onCore c f).partitions = s.partitions := rfl
@[simp] theorem State.onCore_groups (c : Nat) (f : Core → Core) : (s.onCore c f).groups = s.groups := rfl
@[simp] theorem State.onCore_queues (c : Nat) (f : Core → Core) : (s.onCore c f).queues = s.queues := rfl
@[simp] theorem State.onCore_boxes (c : Nat) (f : Core → Core) : (s.onCore c f).boxes = s.boxes := rfl
@[simp] theorem State.onCore_pointers (c : Nat) (f : Core → Core) : (s.onCore c f).pointers = s.pointers := rfl
@[simp] theorem State.onCore_pointed (c : Nat) (f : Core → Core) : (s.onCore c f).pointed = s.pointed := rfl
@[simp] theorem State.onCore_mainPorts (c : Nat) (f : Core → Core) : (s.onCore c f).mainPorts = s.mainPorts := rfl
@[simp] theorem State.onCore_colls (c : Nat) (f : Core → Core) : (s.onCore c f).colls = s.colls := rfl
@[simp] theorem State.onCore_power (c : Nat) (f : Core → Core) : (s.onCore c f).power = s.power := rfl
@[simp] theorem State.onCore_retiredCh (c : Nat) (f : Core → Core) : (s.onCore c f).retiredCh = s.retiredCh := rfl
@[simp] theorem State.onCore_critical (c : Nat) (f : Core → Core) : (s.onCore c f).critical = s.critical := rfl
@[simp] theorem State.onCore_ld0 (c : Nat) (f : Core → Core) : (s.onCore c f).ld0 = s.ld0 := rfl
@[simp] theorem State.onCore_marked (c : Nat) (f : Core → Core) : (s.onCore c f).marked = s.marked := rfl
@[simp] theorem State.onCore_clock (c : Nat) (f : Core → Core) : (s.onCore c f).clock = s.clock := rfl
@[simp] theorem State.onCore_dclock (c : Nat) (f : Core → Core) : (s.onCore c f).dclock = s.dclock := rfl

/-! ### setMainPort -/

@[simp] theorem State.setMainPort_agenda (p : Nat) (x : MainPort) : (s.setMainPort p x).agenda = s.agenda := rfl
@[simp] theorem State.setMainPort_cur (p : Nat) (x : MainPort) : (s.setMainPort p x).cur = s.cur := rfl
@[simp] theorem State.setMainPort_clocks (p : Nat) (x : MainPort) : (s.setMainPort p x).clocks = s.clocks := rfl
@[simp] theorem State.setMainPort_dclocks (p : Nat) (x : MainPort) : (s.setMainPort p x).dclocks = s.dclocks := rfl
@[simp] theorem State.setMainPort_free (p : Nat) (x : MainPort) : (s.setMainPort p x).free = s.free := rfl
@[simp] theorem State.setMainPort_ids (p : Nat) (x : MainPort) : (s.setMainPort p x).ids = s.ids := rfl
@[simp] theorem State.setMainPort_mesh (p : Nat) (x : MainPort) : (s.setMainPort p x).mesh = s.mesh := rfl
@[simp] theorem State.setMainPort_mcasts (p : Nat) (x : MainPort) : (s.setMainPort p x).mcasts = s.mcasts := rfl
@[simp] theorem State.setMainPort_flight (p : Nat) (x : MainPort) : (s.setMainPort p x).flight = s.flight := rfl
@[simp] theorem State.setMainPort_dram (p : Nat) (x : MainPort) : (s.setMainPort p x).dram = s.dram := rfl
@[simp] theorem State.setMainPort_host (p : Nat) (x : MainPort) : (s.setMainPort p x).host = s.host := rfl
@[simp] theorem State.setMainPort_peer (p : Nat) (x : MainPort) : (s.setMainPort p x).peer = s.peer := rfl
@[simp] theorem State.setMainPort_scratch (p : Nat) (x : MainPort) : (s.setMainPort p x).scratch = s.scratch := rfl
@[simp] theorem State.setMainPort_sram (p : Nat) (x : MainPort) : (s.setMainPort p x).sram = s.sram := rfl
@[simp] theorem State.setMainPort_signals (p : Nat) (x : MainPort) : (s.setMainPort p x).signals = s.signals := rfl
@[simp] theorem State.setMainPort_lines (p : Nat) (x : MainPort) : (s.setMainPort p x).lines = s.lines := rfl
@[simp] theorem State.setMainPort_replicas (p : Nat) (x : MainPort) : (s.setMainPort p x).replicas = s.replicas := rfl
@[simp] theorem State.setMainPort_presence (p : Nat) (x : MainPort) : (s.setMainPort p x).presence = s.presence := rfl
@[simp] theorem State.setMainPort_invals (p : Nat) (x : MainPort) : (s.setMainPort p x).invals = s.invals := rfl
@[simp] theorem State.setMainPort_delivered (p : Nat) (x : MainPort) : (s.setMainPort p x).delivered = s.delivered := rfl
@[simp] theorem State.setMainPort_repeats (p : Nat) (x : MainPort) : (s.setMainPort p x).repeats = s.repeats := rfl
@[simp] theorem State.setMainPort_poisoned (p : Nat) (x : MainPort) : (s.setMainPort p x).poisoned = s.poisoned := rfl
@[simp] theorem State.setMainPort_boots (p : Nat) (x : MainPort) : (s.setMainPort p x).boots = s.boots := rfl
@[simp] theorem State.setMainPort_units (p : Nat) (x : MainPort) : (s.setMainPort p x).units = s.units := rfl
@[simp] theorem State.setMainPort_stations (p : Nat) (x : MainPort) : (s.setMainPort p x).stations = s.stations := rfl
@[simp] theorem State.setMainPort_junctions (p : Nat) (x : MainPort) : (s.setMainPort p x).junctions = s.junctions := rfl
@[simp] theorem State.setMainPort_loopLines (p : Nat) (x : MainPort) : (s.setMainPort p x).loopLines = s.loopLines := rfl
@[simp] theorem State.setMainPort_regions (p : Nat) (x : MainPort) : (s.setMainPort p x).regions = s.regions := rfl
@[simp] theorem State.setMainPort_contexts (p : Nat) (x : MainPort) : (s.setMainPort p x).contexts = s.contexts := rfl
@[simp] theorem State.setMainPort_partitions (p : Nat) (x : MainPort) : (s.setMainPort p x).partitions = s.partitions := rfl
@[simp] theorem State.setMainPort_groups (p : Nat) (x : MainPort) : (s.setMainPort p x).groups = s.groups := rfl
@[simp] theorem State.setMainPort_queues (p : Nat) (x : MainPort) : (s.setMainPort p x).queues = s.queues := rfl
@[simp] theorem State.setMainPort_boxes (p : Nat) (x : MainPort) : (s.setMainPort p x).boxes = s.boxes := rfl
@[simp] theorem State.setMainPort_pointers (p : Nat) (x : MainPort) : (s.setMainPort p x).pointers = s.pointers := rfl
@[simp] theorem State.setMainPort_pointed (p : Nat) (x : MainPort) : (s.setMainPort p x).pointed = s.pointed := rfl
@[simp] theorem State.setMainPort_cores (p : Nat) (x : MainPort) : (s.setMainPort p x).cores = s.cores := rfl
@[simp] theorem State.setMainPort_colls (p : Nat) (x : MainPort) : (s.setMainPort p x).colls = s.colls := rfl
@[simp] theorem State.setMainPort_power (p : Nat) (x : MainPort) : (s.setMainPort p x).power = s.power := rfl
@[simp] theorem State.setMainPort_retiredCh (p : Nat) (x : MainPort) : (s.setMainPort p x).retiredCh = s.retiredCh := rfl
@[simp] theorem State.setMainPort_critical (p : Nat) (x : MainPort) : (s.setMainPort p x).critical = s.critical := rfl
@[simp] theorem State.setMainPort_ld0 (p : Nat) (x : MainPort) : (s.setMainPort p x).ld0 = s.ld0 := rfl
@[simp] theorem State.setMainPort_marked (p : Nat) (x : MainPort) : (s.setMainPort p x).marked = s.marked := rfl
@[simp] theorem State.setMainPort_clock (p : Nat) (x : MainPort) : (s.setMainPort p x).clock = s.clock := rfl
@[simp] theorem State.setMainPort_dclock (p : Nat) (x : MainPort) : (s.setMainPort p x).dclock = s.dclock := rfl

/-! ### setPart -/

@[simp] theorem State.setPart_agenda (p : Nat) (x : Partition) : (s.setPart p x).agenda = s.agenda := rfl
@[simp] theorem State.setPart_cur (p : Nat) (x : Partition) : (s.setPart p x).cur = s.cur := rfl
@[simp] theorem State.setPart_clocks (p : Nat) (x : Partition) : (s.setPart p x).clocks = s.clocks := rfl
@[simp] theorem State.setPart_dclocks (p : Nat) (x : Partition) : (s.setPart p x).dclocks = s.dclocks := rfl
@[simp] theorem State.setPart_free (p : Nat) (x : Partition) : (s.setPart p x).free = s.free := rfl
@[simp] theorem State.setPart_ids (p : Nat) (x : Partition) : (s.setPart p x).ids = s.ids := rfl
@[simp] theorem State.setPart_mesh (p : Nat) (x : Partition) : (s.setPart p x).mesh = s.mesh := rfl
@[simp] theorem State.setPart_mcasts (p : Nat) (x : Partition) : (s.setPart p x).mcasts = s.mcasts := rfl
@[simp] theorem State.setPart_flight (p : Nat) (x : Partition) : (s.setPart p x).flight = s.flight := rfl
@[simp] theorem State.setPart_dram (p : Nat) (x : Partition) : (s.setPart p x).dram = s.dram := rfl
@[simp] theorem State.setPart_host (p : Nat) (x : Partition) : (s.setPart p x).host = s.host := rfl
@[simp] theorem State.setPart_peer (p : Nat) (x : Partition) : (s.setPart p x).peer = s.peer := rfl
@[simp] theorem State.setPart_scratch (p : Nat) (x : Partition) : (s.setPart p x).scratch = s.scratch := rfl
@[simp] theorem State.setPart_sram (p : Nat) (x : Partition) : (s.setPart p x).sram = s.sram := rfl
@[simp] theorem State.setPart_signals (p : Nat) (x : Partition) : (s.setPart p x).signals = s.signals := rfl
@[simp] theorem State.setPart_lines (p : Nat) (x : Partition) : (s.setPart p x).lines = s.lines := rfl
@[simp] theorem State.setPart_replicas (p : Nat) (x : Partition) : (s.setPart p x).replicas = s.replicas := rfl
@[simp] theorem State.setPart_presence (p : Nat) (x : Partition) : (s.setPart p x).presence = s.presence := rfl
@[simp] theorem State.setPart_invals (p : Nat) (x : Partition) : (s.setPart p x).invals = s.invals := rfl
@[simp] theorem State.setPart_delivered (p : Nat) (x : Partition) : (s.setPart p x).delivered = s.delivered := rfl
@[simp] theorem State.setPart_repeats (p : Nat) (x : Partition) : (s.setPart p x).repeats = s.repeats := rfl
@[simp] theorem State.setPart_poisoned (p : Nat) (x : Partition) : (s.setPart p x).poisoned = s.poisoned := rfl
@[simp] theorem State.setPart_boots (p : Nat) (x : Partition) : (s.setPart p x).boots = s.boots := rfl
@[simp] theorem State.setPart_units (p : Nat) (x : Partition) : (s.setPart p x).units = s.units := rfl
@[simp] theorem State.setPart_stations (p : Nat) (x : Partition) : (s.setPart p x).stations = s.stations := rfl
@[simp] theorem State.setPart_junctions (p : Nat) (x : Partition) : (s.setPart p x).junctions = s.junctions := rfl
@[simp] theorem State.setPart_loopLines (p : Nat) (x : Partition) : (s.setPart p x).loopLines = s.loopLines := rfl
@[simp] theorem State.setPart_regions (p : Nat) (x : Partition) : (s.setPart p x).regions = s.regions := rfl
@[simp] theorem State.setPart_contexts (p : Nat) (x : Partition) : (s.setPart p x).contexts = s.contexts := rfl
@[simp] theorem State.setPart_groups (p : Nat) (x : Partition) : (s.setPart p x).groups = s.groups := rfl
@[simp] theorem State.setPart_queues (p : Nat) (x : Partition) : (s.setPart p x).queues = s.queues := rfl
@[simp] theorem State.setPart_boxes (p : Nat) (x : Partition) : (s.setPart p x).boxes = s.boxes := rfl
@[simp] theorem State.setPart_pointers (p : Nat) (x : Partition) : (s.setPart p x).pointers = s.pointers := rfl
@[simp] theorem State.setPart_pointed (p : Nat) (x : Partition) : (s.setPart p x).pointed = s.pointed := rfl
@[simp] theorem State.setPart_cores (p : Nat) (x : Partition) : (s.setPart p x).cores = s.cores := rfl
@[simp] theorem State.setPart_mainPorts (p : Nat) (x : Partition) : (s.setPart p x).mainPorts = s.mainPorts := rfl
@[simp] theorem State.setPart_colls (p : Nat) (x : Partition) : (s.setPart p x).colls = s.colls := rfl
@[simp] theorem State.setPart_power (p : Nat) (x : Partition) : (s.setPart p x).power = s.power := rfl
@[simp] theorem State.setPart_retiredCh (p : Nat) (x : Partition) : (s.setPart p x).retiredCh = s.retiredCh := rfl
@[simp] theorem State.setPart_critical (p : Nat) (x : Partition) : (s.setPart p x).critical = s.critical := rfl
@[simp] theorem State.setPart_ld0 (p : Nat) (x : Partition) : (s.setPart p x).ld0 = s.ld0 := rfl
@[simp] theorem State.setPart_marked (p : Nat) (x : Partition) : (s.setPart p x).marked = s.marked := rfl
@[simp] theorem State.setPart_clock (p : Nat) (x : Partition) : (s.setPart p x).clock = s.clock := rfl
@[simp] theorem State.setPart_dclock (p : Nat) (x : Partition) : (s.setPart p x).dclock = s.dclock := rfl

/-! ### onPart -/

@[simp] theorem State.onPart_agenda (p : Nat) (f : Partition → Partition) : (s.onPart p f).agenda = s.agenda := by
  unfold State.onPart; split <;> rfl
@[simp] theorem State.onPart_cur (p : Nat) (f : Partition → Partition) : (s.onPart p f).cur = s.cur := by
  unfold State.onPart; split <;> rfl
@[simp] theorem State.onPart_clocks (p : Nat) (f : Partition → Partition) : (s.onPart p f).clocks = s.clocks := by
  unfold State.onPart; split <;> rfl
@[simp] theorem State.onPart_dclocks (p : Nat) (f : Partition → Partition) : (s.onPart p f).dclocks = s.dclocks := by
  unfold State.onPart; split <;> rfl
@[simp] theorem State.onPart_free (p : Nat) (f : Partition → Partition) : (s.onPart p f).free = s.free := by
  unfold State.onPart; split <;> rfl
@[simp] theorem State.onPart_ids (p : Nat) (f : Partition → Partition) : (s.onPart p f).ids = s.ids := by
  unfold State.onPart; split <;> rfl
@[simp] theorem State.onPart_mesh (p : Nat) (f : Partition → Partition) : (s.onPart p f).mesh = s.mesh := by
  unfold State.onPart; split <;> rfl
@[simp] theorem State.onPart_mcasts (p : Nat) (f : Partition → Partition) : (s.onPart p f).mcasts = s.mcasts := by
  unfold State.onPart; split <;> rfl
@[simp] theorem State.onPart_flight (p : Nat) (f : Partition → Partition) : (s.onPart p f).flight = s.flight := by
  unfold State.onPart; split <;> rfl
@[simp] theorem State.onPart_dram (p : Nat) (f : Partition → Partition) : (s.onPart p f).dram = s.dram := by
  unfold State.onPart; split <;> rfl
@[simp] theorem State.onPart_host (p : Nat) (f : Partition → Partition) : (s.onPart p f).host = s.host := by
  unfold State.onPart; split <;> rfl
@[simp] theorem State.onPart_peer (p : Nat) (f : Partition → Partition) : (s.onPart p f).peer = s.peer := by
  unfold State.onPart; split <;> rfl
@[simp] theorem State.onPart_scratch (p : Nat) (f : Partition → Partition) : (s.onPart p f).scratch = s.scratch := by
  unfold State.onPart; split <;> rfl
@[simp] theorem State.onPart_sram (p : Nat) (f : Partition → Partition) : (s.onPart p f).sram = s.sram := by
  unfold State.onPart; split <;> rfl
@[simp] theorem State.onPart_signals (p : Nat) (f : Partition → Partition) : (s.onPart p f).signals = s.signals := by
  unfold State.onPart; split <;> rfl
@[simp] theorem State.onPart_lines (p : Nat) (f : Partition → Partition) : (s.onPart p f).lines = s.lines := by
  unfold State.onPart; split <;> rfl
@[simp] theorem State.onPart_replicas (p : Nat) (f : Partition → Partition) : (s.onPart p f).replicas = s.replicas := by
  unfold State.onPart; split <;> rfl
@[simp] theorem State.onPart_presence (p : Nat) (f : Partition → Partition) : (s.onPart p f).presence = s.presence := by
  unfold State.onPart; split <;> rfl
@[simp] theorem State.onPart_invals (p : Nat) (f : Partition → Partition) : (s.onPart p f).invals = s.invals := by
  unfold State.onPart; split <;> rfl
@[simp] theorem State.onPart_delivered (p : Nat) (f : Partition → Partition) : (s.onPart p f).delivered = s.delivered := by
  unfold State.onPart; split <;> rfl
@[simp] theorem State.onPart_repeats (p : Nat) (f : Partition → Partition) : (s.onPart p f).repeats = s.repeats := by
  unfold State.onPart; split <;> rfl
@[simp] theorem State.onPart_poisoned (p : Nat) (f : Partition → Partition) : (s.onPart p f).poisoned = s.poisoned := by
  unfold State.onPart; split <;> rfl
@[simp] theorem State.onPart_boots (p : Nat) (f : Partition → Partition) : (s.onPart p f).boots = s.boots := by
  unfold State.onPart; split <;> rfl
@[simp] theorem State.onPart_units (p : Nat) (f : Partition → Partition) : (s.onPart p f).units = s.units := by
  unfold State.onPart; split <;> rfl
@[simp] theorem State.onPart_stations (p : Nat) (f : Partition → Partition) : (s.onPart p f).stations = s.stations := by
  unfold State.onPart; split <;> rfl
@[simp] theorem State.onPart_junctions (p : Nat) (f : Partition → Partition) : (s.onPart p f).junctions = s.junctions := by
  unfold State.onPart; split <;> rfl
@[simp] theorem State.onPart_loopLines (p : Nat) (f : Partition → Partition) : (s.onPart p f).loopLines = s.loopLines := by
  unfold State.onPart; split <;> rfl
@[simp] theorem State.onPart_regions (p : Nat) (f : Partition → Partition) : (s.onPart p f).regions = s.regions := by
  unfold State.onPart; split <;> rfl
@[simp] theorem State.onPart_contexts (p : Nat) (f : Partition → Partition) : (s.onPart p f).contexts = s.contexts := by
  unfold State.onPart; split <;> rfl
@[simp] theorem State.onPart_groups (p : Nat) (f : Partition → Partition) : (s.onPart p f).groups = s.groups := by
  unfold State.onPart; split <;> rfl
@[simp] theorem State.onPart_queues (p : Nat) (f : Partition → Partition) : (s.onPart p f).queues = s.queues := by
  unfold State.onPart; split <;> rfl
@[simp] theorem State.onPart_boxes (p : Nat) (f : Partition → Partition) : (s.onPart p f).boxes = s.boxes := by
  unfold State.onPart; split <;> rfl
@[simp] theorem State.onPart_pointers (p : Nat) (f : Partition → Partition) : (s.onPart p f).pointers = s.pointers := by
  unfold State.onPart; split <;> rfl
@[simp] theorem State.onPart_pointed (p : Nat) (f : Partition → Partition) : (s.onPart p f).pointed = s.pointed := by
  unfold State.onPart; split <;> rfl
@[simp] theorem State.onPart_cores (p : Nat) (f : Partition → Partition) : (s.onPart p f).cores = s.cores := by
  unfold State.onPart; split <;> rfl
@[simp] theorem State.onPart_mainPorts (p : Nat) (f : Partition → Partition) : (s.onPart p f).mainPorts = s.mainPorts := by
  unfold State.onPart; split <;> rfl
@[simp] theorem State.onPart_colls (p : Nat) (f : Partition → Partition) : (s.onPart p f).colls = s.colls := by
  unfold State.onPart; split <;> rfl
@[simp] theorem State.onPart_power (p : Nat) (f : Partition → Partition) : (s.onPart p f).power = s.power := by
  unfold State.onPart; split <;> rfl
@[simp] theorem State.onPart_retiredCh (p : Nat) (f : Partition → Partition) : (s.onPart p f).retiredCh = s.retiredCh := by
  unfold State.onPart; split <;> rfl
@[simp] theorem State.onPart_critical (p : Nat) (f : Partition → Partition) : (s.onPart p f).critical = s.critical := by
  unfold State.onPart; split <;> rfl
@[simp] theorem State.onPart_ld0 (p : Nat) (f : Partition → Partition) : (s.onPart p f).ld0 = s.ld0 := by
  unfold State.onPart; split <;> rfl
@[simp] theorem State.onPart_marked (p : Nat) (f : Partition → Partition) : (s.onPart p f).marked = s.marked := by
  unfold State.onPart; split <;> rfl
@[simp] theorem State.onPart_clock (p : Nat) (f : Partition → Partition) : (s.onPart p f).clock = s.clock := by
  unfold State.onPart; split <;> rfl
@[simp] theorem State.onPart_dclock (p : Nat) (f : Partition → Partition) : (s.onPart p f).dclock = s.dclock := by
  unfold State.onPart; split <;> rfl

/-! ### putSignal -/

@[simp] theorem State.putSignal_agenda (n : Nat) (v : W64) : (s.putSignal n v).agenda = s.agenda := rfl
@[simp] theorem State.putSignal_cur (n : Nat) (v : W64) : (s.putSignal n v).cur = s.cur := rfl
@[simp] theorem State.putSignal_clocks (n : Nat) (v : W64) : (s.putSignal n v).clocks = s.clocks := rfl
@[simp] theorem State.putSignal_dclocks (n : Nat) (v : W64) : (s.putSignal n v).dclocks = s.dclocks := rfl
@[simp] theorem State.putSignal_free (n : Nat) (v : W64) : (s.putSignal n v).free = s.free := rfl
@[simp] theorem State.putSignal_ids (n : Nat) (v : W64) : (s.putSignal n v).ids = s.ids := rfl
@[simp] theorem State.putSignal_mesh (n : Nat) (v : W64) : (s.putSignal n v).mesh = s.mesh := rfl
@[simp] theorem State.putSignal_mcasts (n : Nat) (v : W64) : (s.putSignal n v).mcasts = s.mcasts := rfl
@[simp] theorem State.putSignal_flight (n : Nat) (v : W64) : (s.putSignal n v).flight = s.flight := rfl
@[simp] theorem State.putSignal_dram (n : Nat) (v : W64) : (s.putSignal n v).dram = s.dram := rfl
@[simp] theorem State.putSignal_host (n : Nat) (v : W64) : (s.putSignal n v).host = s.host := rfl
@[simp] theorem State.putSignal_peer (n : Nat) (v : W64) : (s.putSignal n v).peer = s.peer := rfl
@[simp] theorem State.putSignal_scratch (n : Nat) (v : W64) : (s.putSignal n v).scratch = s.scratch := rfl
@[simp] theorem State.putSignal_sram (n : Nat) (v : W64) : (s.putSignal n v).sram = s.sram := rfl
@[simp] theorem State.putSignal_lines (n : Nat) (v : W64) : (s.putSignal n v).lines = s.lines := rfl
@[simp] theorem State.putSignal_replicas (n : Nat) (v : W64) : (s.putSignal n v).replicas = s.replicas := rfl
@[simp] theorem State.putSignal_presence (n : Nat) (v : W64) : (s.putSignal n v).presence = s.presence := rfl
@[simp] theorem State.putSignal_invals (n : Nat) (v : W64) : (s.putSignal n v).invals = s.invals := rfl
@[simp] theorem State.putSignal_delivered (n : Nat) (v : W64) : (s.putSignal n v).delivered = s.delivered := rfl
@[simp] theorem State.putSignal_repeats (n : Nat) (v : W64) : (s.putSignal n v).repeats = s.repeats := rfl
@[simp] theorem State.putSignal_poisoned (n : Nat) (v : W64) : (s.putSignal n v).poisoned = s.poisoned := rfl
@[simp] theorem State.putSignal_boots (n : Nat) (v : W64) : (s.putSignal n v).boots = s.boots := rfl
@[simp] theorem State.putSignal_units (n : Nat) (v : W64) : (s.putSignal n v).units = s.units := rfl
@[simp] theorem State.putSignal_stations (n : Nat) (v : W64) : (s.putSignal n v).stations = s.stations := rfl
@[simp] theorem State.putSignal_junctions (n : Nat) (v : W64) : (s.putSignal n v).junctions = s.junctions := rfl
@[simp] theorem State.putSignal_loopLines (n : Nat) (v : W64) : (s.putSignal n v).loopLines = s.loopLines := rfl
@[simp] theorem State.putSignal_regions (n : Nat) (v : W64) : (s.putSignal n v).regions = s.regions := rfl
@[simp] theorem State.putSignal_contexts (n : Nat) (v : W64) : (s.putSignal n v).contexts = s.contexts := rfl
@[simp] theorem State.putSignal_partitions (n : Nat) (v : W64) : (s.putSignal n v).partitions = s.partitions := rfl
@[simp] theorem State.putSignal_groups (n : Nat) (v : W64) : (s.putSignal n v).groups = s.groups := rfl
@[simp] theorem State.putSignal_queues (n : Nat) (v : W64) : (s.putSignal n v).queues = s.queues := rfl
@[simp] theorem State.putSignal_boxes (n : Nat) (v : W64) : (s.putSignal n v).boxes = s.boxes := rfl
@[simp] theorem State.putSignal_pointers (n : Nat) (v : W64) : (s.putSignal n v).pointers = s.pointers := rfl
@[simp] theorem State.putSignal_pointed (n : Nat) (v : W64) : (s.putSignal n v).pointed = s.pointed := rfl
@[simp] theorem State.putSignal_cores (n : Nat) (v : W64) : (s.putSignal n v).cores = s.cores := rfl
@[simp] theorem State.putSignal_mainPorts (n : Nat) (v : W64) : (s.putSignal n v).mainPorts = s.mainPorts := rfl
@[simp] theorem State.putSignal_colls (n : Nat) (v : W64) : (s.putSignal n v).colls = s.colls := rfl
@[simp] theorem State.putSignal_power (n : Nat) (v : W64) : (s.putSignal n v).power = s.power := rfl
@[simp] theorem State.putSignal_retiredCh (n : Nat) (v : W64) : (s.putSignal n v).retiredCh = s.retiredCh := rfl
@[simp] theorem State.putSignal_critical (n : Nat) (v : W64) : (s.putSignal n v).critical = s.critical := rfl
@[simp] theorem State.putSignal_ld0 (n : Nat) (v : W64) : (s.putSignal n v).ld0 = s.ld0 := rfl
@[simp] theorem State.putSignal_marked (n : Nat) (v : W64) : (s.putSignal n v).marked = s.marked := rfl
@[simp] theorem State.putSignal_clock (n : Nat) (v : W64) : (s.putSignal n v).clock = s.clock := rfl
@[simp] theorem State.putSignal_dclock (n : Nat) (v : W64) : (s.putSignal n v).dclock = s.dclock := rfl

/-! ### Reads after writes -/

@[simp] theorem State.unit?_putUnit (u v : Nat) (x : Unit) :
    (s.putUnit u x).unit? v = if u = v then some x else s.unit? v := Tab.find_put _ _ _ _

theorem State.unit?_onUnit (u v : Nat) (f : Unit → Unit) :
    (s.onUnit u f).unit? v = if u = v then (s.unit? v).map f else s.unit? v := by
  unfold State.onUnit
  by_cases h : u = v
  · subst h; cases hu : s.unit? u <;> simp [hu]
  · cases hu : s.unit? u <;> simp [h]

@[simp] theorem State.unit?_onUnit_self (u : Nat) (f : Unit → Unit) : (s.onUnit u f).unit? u = (s.unit? u).map f := by
  simp [State.unit?_onUnit]

theorem State.unit?_onUnit_of_ne {u v : Nat} (f : Unit → Unit) (h : u ≠ v) : (s.onUnit u f).unit? v = s.unit? v := by
  simp [State.unit?_onUnit, h]

@[simp] theorem State.station_setStation (n m : Nat) (x : Station) :
    (s.setStation n x).station m = if m = n then x else s.station m := Tab.get_set _ _ _ _ _

@[simp] theorem State.station_onStation (n m : Nat) (f : Station → Station) :
    (s.onStation n f).station m = if m = n then f (s.station n) else s.station m := by
  simp [State.onStation]

@[simp] theorem State.junction_setJunction (n m : Nat) (x : Junction) :
    (s.setJunction n x).junction m = if m = n then x else s.junction m := Tab.get_set _ _ _ _ _

@[simp] theorem State.region?_putRegion (r q : Nat) (x : Region) :
    (s.putRegion r x).region? q = if r = q then some x else s.region? q := Tab.find_put _ _ _ _

@[simp] theorem State.queueAt_setQueue (q r : Nat) (x : Queue) :
    (s.setQueue q x).queueAt r = if r = q then x else s.queueAt r := Tab.get_set _ _ _ _ _

@[simp] theorem State.core_setCore (c d : Nat) (x : Core) :
    (s.setCore c x).core d = if d = c then x else s.core d := Tab.get_set _ _ _ _ _

@[simp] theorem State.signal_putSignal (n m : Nat) (v : W64) :
    (s.putSignal n v).signal m = if m = n then v else s.signal m := Tab.get_set _ _ _ _ _

end

end Sys2Proof.Machine
end

