-- ==== Sys2Proof/Tests/Slice0.lean ====
section
/-! SUPPORT. The model's own tests, all of single steps or single words: ill-formed instructions that the check refuses
(R60), words written out from the encodings of R45 to R56 and what they decode to, worked values of the spec, and for
each statement of `Certificates/Slice0/Obligations.lean` that has hypotheses a witness that meets them. -/

open Sys2Proof Sys2Proof.Machine

/-! ### Ill-formed instructions and written-out words -/

theorem test_ill_formed_lanes : [Instr.mad .i32 false (.p 0) (.v 0) (.v 0),
    .div .n32 true (.v 0) (.v 0) (.v 0),
    .abs .n32 false (.v 0) (.v 0),
    .sra .n16 (.v 0) (.v 0) (.v 0),
    .sel .i32 (.o 0) (.v 0) (.v 0),
    .fma .fp32 .rne .discard (.v 0) (.v 0),
    .cvt (.int .i8) .rne (.fl .fp32) true (.p 0) (.v 0),
    .cvt (.int .i8) .rtz (.int .i16) true (.v 0) (.v 0),
    .qcvt .e4m3 .rne (.p 0) (.v 0) (.v 1),
    .qcvt .e4m3 .rne (.v 0) (.v 0) (.imm 3),
    .pack .i64 false 0 0 0,
    .unpk .n64 false 0 0,
    .rdce (.int .i32) .add false .rne .lm 0,
    .rdce (.f8 .e4m3) .add false .rne (.v 0) 0,
    .rdce (.int .i32) .max true .rne (.v 0) 0,
    .rdce (.int .i32) .add false .rtz (.v 0) 0,
    .scan (.fl .fp32) .add true .rne 0 0,
    .scan (.fl .fp32) .max false .rtz 0 0].all (fun i => !Instr.wf i) = true := by decide

theorem test_ill_formed_moves : [Instr.movh (.p 0) 0,
    .shfl .w32 0 0 (.imm (-1)),
    .bcst .w32 (.p 0) 0 (.s 0),
    .bcst .w32 (.v 0) 0 (.v 1),
    .extl .w32 false (.v 0) 0 (.s 0),
    .extl .w32 false (.s 0) 0 (.imm (-1)),
    .extl .w64 true (.s 0) 0 (.s 0),
    .insl .w32 0 (.s 0) (.v 0),
    .pset (.v 0),
    .pclr (.v 0),
    .pread (.p 0) (.s 0),
    .pread (.s 0) (.imm 3)].all (fun i => !Instr.wf i) = true := by decide

theorem test_ill_formed_tokens : [Instr.send 0 (.s 0) (.v 0),
    .send 0 (.s 0) (.imm 16),
    .fwd (.s 0) (.c 0 0),
    .fwd (.o 0) (.s 0),
    .mark (.s 0),
    .retag .usr (.s 0) (.s 0),
    .steer 0 (.s 0) (.s 1),
    .steer 0 (.c 0 0) (.v 1),
    .steer 0 (.c 0 0) (.imm (-1)),
    .merge 0 3 2,
    .statc (.s 0)].all (fun i => !Instr.wf i) = true := by decide

theorem test_ill_formed_storage : [Instr.alloc (.v 0) (.s 0) (.s 1),
    .alloc (.s 0) (.imm 12) (.s 1),
    .alloct (.s 0) (.s 0) (.imm 0),
    .alloct (.p 0) (.s 0) (.s 1),
    .release (.imm 1),
    .retain (.v 0) (.s 0),
    .retain (.s 0) (.imm (-1)),
    .bsize (.v 0) (.s 0),
    .bsize (.s 0) (.v 0),
    .ldb (.p 0) (.s 0),
    .ldb (.s 0) (.v 0),
    .stb (.v 0) (.s 0),
    .ldbx 0 0 (.v 0) 0,
    .stbx 0 0 (.v 0) 0,
    .ldt 0 1 (.s 0),
    .ldt 0 2 (.v 0),
    .stt 0 1 (.s 0),
    .stt 0 2 (.v 0),
    .tmap (.v 0) 2 (.s 0),
    .tmap (.s 0) 3 (.s 0),
    .tmap (.s 0) 2 (.v 0)].all (fun i => !Instr.wf i) = true := by decide

theorem test_ill_formed_signals : [Instr.sigset (.v 0) (.s 0),
    .sigset (.s 0) (.v 0),
    .sigclr (.imm 0),
    .sigwait .ge (.v 0) (.s 0),
    .sigwait .ge (.s 0) (.v 0),
    .sigtest .ge (.v 0) (.s 0) (.s 0),
    .sigtest .ge (.s 0) (.v 0) (.s 0),
    .sigtest .ge (.s 0) (.s 0) (.v 0),
    .sigadd (.v 0) (.s 0),
    .sigadd (.s 0) (.v 0),
    .gjoin (.v 0),
    .gleave (.imm (-1)),
    .gbar .die (.v 0),
    .prio (.imm 4)].all (fun i => !Instr.wf i) = true := by decide

theorem test_ill_formed_memory : [Instr.ldg .natural false (.p 0) (.s 0),
    .ldg .natural false (.s 0) (.v 0),
    .ldg .b4 false (.v 0) (.s 0),
    .ldg .natural true (.s 0) (.s 0),
    .stg .natural (.v 0) (.s 0),
    .stg .b4 (.s 0) (.v 0),
    .gath .w32 false 0 0 (.v 0) 0,
    .gath .w64 false 0 0 (.s 0) 0,
    .gath .w32 true 0 0 (.s 0) 0,
    .scat .w32 0 0 (.v 0) 0,
    .scat .w64 0 0 (.s 0) 0,
    .pref (.v 0) (.s 0),
    .pref (.s 0) (.imm 0),
    .atom .add true .die (.v 0) (.s 0) (.s 1),
    .atom .add true .die (.s 0) (.v 0) (.s 1),
    .atom .add true .die (.s 0) (.s 0) (.v 1),
    .cas true .die (.v 0) (.s 0) 2,
    .cas true .die (.s 0) (.v 0) 2,
    .cas true .die (.s 0) (.s 0) 3,
    .fatom .fp32 .add .die (.v 0) (.s 0) (.s 1),
    .fatom .fp32 .add .die (.s 0) (.v 0) (.s 1),
    .fatom .fp32 .add .die (.s 0) (.s 0) (.v 1)].all (fun i => !Instr.wf i) = true := by decide

theorem test_ill_formed_engines : [Instr.strm 0 (.v 0),
    .copy (.v 0) (.s 0),
    .copy (.s 0) (.imm 8),
    .wptr (.v 0) (.s 0),
    .wptr (.s 0) (.imm 8),
    .mcast (.v 0),
    .fill 1 (.s 0),
    .fill 2 (.imm 0),
    .pin (.v 0) (.s 0) (.s 1),
    .pin (.s 0) (.v 0) (.s 1),
    .pin (.s 0) (.s 0) (.imm 0),
    .unpin (.v 0) (.s 1),
    .unpin (.s 0) (.v 1),
    .clean (.v 0) (.s 1),
    .clean (.s 0) (.imm 0),
    .invl (.v 0) (.s 1),
    .invl (.s 0) (.v 1)].all (fun i => !Instr.wf i) = true := by decide

theorem test_ill_formed_junction : [Instr.wload .e4m3 (.v 0) (.s 0),
    .wload .e4m3 (.s 0) (.imm 0),
    .mma .e4m3 (.v 0) (.s 0),
    .mma .e4m3 (.s 0) (.v 0),
    .accrd (.v 0) (.s 0),
    .accrd (.s 0) (.imm 8),
    .accwr (.imm 8) (.s 0),
    .accwr (.s 0) (.v 0),
    .accclr (.imm 8),
    .ttload (.v 0),
    .ring (.v 0),
    .tinj (.v 0) (.s 0),
    .tinj (.s 0) (.v 0),
    .rstat (.v 0) (.s 0),
    .rstat (.s 0) (.imm 2)].all (fun i => !Instr.wf i) = true := by decide

theorem test_ill_formed_queues : [Instr.coll (.v 0) (.s 0),
    .coll (.s 0) (.v 0),
    .cwait (.v 0) (.s 0),
    .cwait (.s 0) (.v 0),
    .enq (.v 0),
    .jdec (.o 0) (.s 0) (.s 1),
    .jdec (.s 0) (.v 0) (.s 1),
    .jdec (.s 0) (.s 0) (.v 1)].all (fun i => !Instr.wf i) = true := by decide

theorem test_ill_formed_kv : [Instr.pfxm false (.v 0) (.s 0) (.s 1),
    .pfxm false (.s 0) (.v 0) (.s 1),
    .pfxm false (.s 0) (.s 0) (.v 1),
    .pfxi (.v 0) (.s 0) (.s 1),
    .pfxi (.s 0) (.v 0) (.s 1),
    .pfxi (.s 0) (.s 0) (.v 1),
    .kvapp (.v 0) (.s 0) (.s 1),
    .kvapp (.s 0) (.v 0) (.s 1),
    .kvapp (.s 0) (.s 0) (.v 1),
    .kvtrunc (.v 0) (.s 0) (.s 1),
    .kvtrunc (.s 0) (.v 0) (.s 1),
    .kvtrunc (.s 0) (.s 0) (.v 1),
    .kvrel (.v 0) (.s 0),
    .kvrel (.s 0) (.v 0),
    .kvpin false (.v 0) (.s 0),
    .kvpin false (.s 0) (.v 0),
    .kvmap (.v 0) (.s 0) (.s 1),
    .kvmap (.s 0) (.v 0) (.s 1),
    .kvmap (.s 0) (.s 0) (.imm 1),
    .rng 0 (.p 0),
    .rngset 0 (.v 0),
    .rngget 0 (.v 0)].all (fun i => !Instr.wf i) = true := by decide

theorem test_ill_formed_control : [Instr.bri (.imm 0),
    .calli (.v 0),
    .syswr .faddr (.s 0),
    .syswr .oor (.v 0),
    .wait .cyc (.v 0),
    .wait .cyc (.imm (-1))].all (fun i => !Instr.wf i) = true := by decide

theorem test_ill_formed_depot : [Instr.vgath 0 1 0,
    .triple false false 0 1,
    .triple true false 1 2,
    .ptewr (.o 0) (.s 0) (.s 1),
    .ptewr (.s 0) (.v 0) (.s 1),
    .ptewr (.s 0) (.s 0) (.v 1),
    .tlbinv (.v 0) (.s 1),
    .tlbinv (.s 0) (.v 1),
    .migr (.v 0) (.s 1),
    .migr (.s 0) (.v 1),
    .cntrd 0 (.v 0) (.s 1),
    .cntrd 0 (.s 0) (.v 1)].all (fun i => !Instr.wf i) = true := by decide

theorem test_ill_formed_events : [Instr.tokenArrival 0,
    .scrubComplete 0].all (fun i => !Instr.wf i) = true := by decide

theorem test_word_add_i16 : decodeTableWord 64 0x0000000020C04094 = some (.add .i16 true (.v 3) (.v 1) (.v 2)) := by decide

theorem test_word_mul_i16 : decodeTableWord 64 0x0000000060C04094 = some (.mul .i16 true (.v 3) (.v 1) (.v 2)) := by decide

theorem test_word_mulh_i16 : decodeTableWord 64 0x0000000080C04090 = some (.mulh .i16 (.v 3) (.v 1) (.v 2)) := by decide

theorem test_word_mad_i32 : decodeTableWord 64 0x00000000A0C040A0 = some (.mad .i32 false (.v 3) (.v 1) (.v 2)) := by decide

theorem test_word_rem_i32 : decodeTableWord 64 0x00000000E0C040A0 = some (.rem .i32 (.v 3) (.v 1) (.v 2)) := by decide

theorem test_word_abs_i32 : decodeTableWord 64 0x0000000101010024 = some (.abs .i32 true (.v 4) (.v 4)) := by decide

theorem test_word_min_channel : decodeTableWord 64 0x0000000129091068 = some (.min .n32 (.s 4) (.s 4) (.c 1 0)) := by decide

theorem test_word_and_imm : decodeTableWord 64 0x0000000169496FF8 = some (.and .n64 (.s 5) (.s 5) (.imm 63)) := by decide

theorem test_word_shl_special : decodeTableWord 64 0x00000001CB59A1B0 = some (.shl .i64 false (.s 13) (.sp .dieid) (.imm 6)) := by decide

theorem test_word_rot_n8 : decodeTableWord 64 0x000000022080A048 = some (.rot .n8 (.v 2) (.v 2) (.imm 1)) := by decide

theorem test_word_clz_n32 : decodeTableWord 64 0x0000000241C18028 = some (.clz .n32 (.v 7) (.v 6)) := by decide

theorem test_word_sel_i32 : decodeTableWord 64 0x0000000281810160 = some (.sel .i32 (.v 6) (.v 4) (.v 5)) := by decide

theorem test_word_fdiv_fp32 : decodeTableWord 64 0x0000000522C28220 = some (.fdiv .fp32 .rne (.v 11) (.v 10) (.v 8)) := by decide

theorem test_word_fcmp_fp16 : decodeTableWord 64 0x000000051A804084 = some (.fcmp .fp16 .lt (.p 2) (.v 1) (.v 2)) := by decide

theorem test_word_fsqrt_bf16 : decodeTableWord 64 0x0000000540C0C01C = some (.fsqrt .bf16 .rup (.v 3) (.v 3)) := by decide

theorem test_word_cvt_e4m3 : decodeTableWord 64 0x000000060100F220 = some (.cvt (.f8 .e4m3) .rne (.fl .fp32) true (.v 4) (.v 3)) := by decide

theorem test_word_qcvt_e5m2 : decodeTableWord 64 0x0000000621810925 = some (.qcvt .e5m2 .rtz (.v 6) (.v 4) (.s 4)) := by decide

theorem test_word_mov_channel : decodeTableWord 64 0x0000000689104000 = some (.mov (.s 4) (.c 1 0)) := by decide

theorem test_word_mov_lm : decodeTableWord 64 0x000000069E40C000 = some (.mov .lm (.v 3)) := by decide

theorem test_word_movi : decodeTableWord 64 0x00000006A94FEDCB = some (.movi (.s 5) 0xFEDCB) := by decide

theorem test_word_movh : decodeTableWord 64 0x00000006C96A61D9 = some (.movh (.s 5) 0x2A61D9) := by decide

theorem test_word_bcst_32 : decodeTableWord 64 0x000000070140E0A0 = some (.bcst .w32 (.v 5) 3 (.imm 2)) := by decide

theorem test_word_rdce_fp32 : decodeTableWord 64 0x0000000720C0C030 = some (.rdce (.fl .fp32) .add false .rne (.v 3) 3) := by decide

theorem test_word_pset : decodeTableWord 64 0x00000008003FC000 = some (.pset (.imm (-1))) := by decide

theorem test_word_pld_all : decodeTableWord 64 0x000000085AC08001 = some (.pld true 3 2) := by decide

theorem test_word_pread : decodeTableWord 64 0x0000000869204000 = some (.pread (.s 4) (.imm 1)) := by decide

theorem test_word_drop : decodeTableWord 64 0x00000008A0108000 = some (.drop 2) := by decide

theorem test_word_fwd : decodeTableWord 64 0x00000008D8100000 = some (.fwd .discard (.c 0 0)) := by decide

theorem test_word_mark : decodeTableWord 64 0x00000008F8000000 = some (.mark .discard) := by decide

theorem test_word_retag : decodeTableWord 64 0x0000000910904003 = some (.retag .usr (.o 2) (.c 1 0)) := by decide

theorem test_word_stb : decodeTableWord 64 0x0000000AC0090040 = some (.stb (.s 4) (.v 1)) := by decide

theorem test_word_gbar : decodeTableWord 64 0x0000000CE021C002 = some (.gbar .package (.imm 7)) := by decide

theorem test_word_ldg_v : decodeTableWord 64 0x0000000E00890000 = some (.ldg .natural false (.v 2) (.s 4)) := by decide

theorem test_word_ldg_sx : decodeTableWord 64 0x0000000E0989000B = some (.ldg .b4 true (.s 6) (.s 4)) := by decide

theorem test_word_order : decodeTableWord 64 0x0000000EB0400000 = some (.order .region 1) := by decide

theorem test_word_fence : decodeTableWord 64 0x0000000EC0000002 = some (.fence .package) := by decide

theorem test_word_atom : decodeTableWord 64 0x0000000EF80A2046 = some (.atom .add true .package .discard (.s 8) (.imm 1)) := by decide

theorem test_word_accrd : decodeTableWord 64 0x000000126008CAC0 = some (.accrd (.s 3) (.s 11)) := by decide

theorem test_word_accwr : decodeTableWord 64 0x00000012802048C0 = some (.accwr (.imm 1) (.s 3)) := by decide

theorem test_word_tinj : decodeTableWord 64 0x00000013000A0A40 = some (.tinj (.s 8) (.s 9)) := by decide

theorem test_word_enq : decodeTableWord 64 0x0000001400094000 = some (.enq (.s 5)) := by decide

theorem test_word_jdec : decodeTableWord 64 0x0000001428C88900 = some (.jdec (.s 3) (.s 2) (.s 4)) := by decide

theorem test_word_pfxm_probe : decodeTableWord 64 0x00000014890A4A81 = some (.pfxm true (.s 4) (.s 9) (.s 10)) := by decide

theorem test_word_kvapp : decodeTableWord 64 0x00000014C9096000 = some (.kvapp (.s 4) (.s 5) (.imm 0)) := by decide

theorem test_word_kvtrunc : decodeTableWord 64 0x00000014EB480B00 = some (.kvtrunc (.s 13) (.s 0) (.s 12)) := by decide

theorem test_word_kvpin : decodeTableWord 64 0x000000153808C001 = some (.kvpin true .discard (.s 3)) := by decide

theorem test_word_rngset : decodeTableWord 64 0x0000001580098000 = some (.rngset 0 (.s 6)) := by decide

theorem test_word_loop : decodeTableWord 64 0x00000016A87FFFFB = some (.loop 1 (BitVec.ofInt 22 (-5))) := by decide

theorem test_word_call : decodeTableWord 64 0x000000164000000C = some (.call 12) := by decide

theorem test_word_calli : decodeTableWord 64 0x0000001660098000 = some (.calli (.s 6)) := by decide

theorem test_word_bri_s15 : decodeTableWord 64 0x00000016200BC000 = some (.bri (.s 15)) := by decide

theorem test_word_trap : decodeTableWord 64 0x00000016C0000003 = some (.trap 3) := by decide

theorem test_word_bkpt : decodeTableWord 64 0x0000001760000005 = some (.bkpt 5) := by decide

theorem test_word_syswr : decodeTableWord 64 0x000000172008C005 = some (.syswr .status (.s 3)) := by decide

theorem test_word_wait_dcnt : decodeTableWord 64 0x000000178009C002 = some (.wait .dcnt (.s 7)) := by decide

theorem test_word_vld_loc : decodeTableWord 64 0x000000180149C001 = some (.vld true 5 7) := by decide

theorem test_word_vgath : decodeTableWord 64 0x00000018420A8240 = some (.vgath 8 10 9) := by decide

theorem test_word_triple : decodeTableWord 64 0x0000001880030A03 = some (.triple true true 12 8) := by decide

theorem test_word_mbxrd : decodeTableWord 64 0x00000018AA400002 = some (.mbxrd 2 9) := by decide

/-! ### A small machine for the witnesses

Station 0 of partition 0 with one running region and one unit: sequenced (`labS`), triggered (`labT`), or a depot core
(`labD`). One block of 1,024 bytes, one mapped page of 512 MiB at virtual address 0, and tokens on channels 0 to 2. -/

/-- The unit's registers: S1 = 1; S2 the block and S3 a geometry of 4 rows of 32 bytes; S4 signal 5; S6 and S10 addresses;
S12 the block at offset 256; S14 a group number. -/
def labRegs : Tab W64 :=
  [(1, 1), (2, mkHandle 1 0 5 0 0), (3, 0x40020), (4, mkHandle 0 0 15 5 0), (5, 7), (6, 0x1000), (10, 0x4000),
   (12, mkHandle 1 0 5 0 256), (14, 9)]

def labUnit (core trig : Bool) : Machine.Unit :=
  { benchUnit core trig 0#64 with
    s := labRegs
    ins := [0, 1, 2]
    inbox := [(0, ⟨[⟨5, .dat, none, 1, false⟩], 0⟩), (1, ⟨[⟨1, .dat, none, 1, false⟩], 0⟩), (2, ⟨[⟨0, .eoi, none, 1, false⟩], 0⟩)]
    outs := [(0, [⟨0, 1, 0, 5, 0⟩]), (1, [⟨0, 1, 1, 6, 0⟩])] }

def labBlock : Block := ⟨0, 5, 1, 1, 1, none, false⟩

def labStation : Station := { Station.reset with blocks := [labBlock], quotas := [(1, 0, 64)], storeOwner := some 1 }

def labPart : Partition :=
  { Partition.reset with districts := [0], pager := 63, st := .active, memKey := .active, errBase := 0x100000,
                         hreqBase := 0x200000 }

def lab (core trig : Bool) : State :=
  { State.reset with
    cur := ⟨if core then coreBase else 0, 0, none, .none, none⟩
    dram := [(0, 1), (2, 1), (65536, 15), (65539, 32)]
    units := [(if core then coreBase else 0, labUnit core trig)]
    stations := [(0, labStation)]
    regions := [(1, benchRegion)]
    contexts := [(1, ⟨⟨0, 0, true, [], []⟩, false, 0⟩)]
    partitions := [(0, labPart)]
    cores := if core then [(0, { Core.reset with st := .running, ctx := 1 })] else [] }

def labS : State := lab false false
def labT : State := lab false true
def labD : State := lab true false
def uS : Machine.Unit := labUnit false false
def uT : Machine.Unit := labUnit false true
def uD : Machine.Unit := labUnit true false

def firesB (s : State) (i : Instr) (x : Machine.Unit) : Bool :=
  decide (s.unit? s.cur.unit = some x) && s.cur.cap.isNone && i.avail.any (fun a => s.available s.cur.unit x a)
    && x.bound i.srcs i.outs && x.operandsReady i && !(x.isSeq && x.hazard i.reads i.writes)

theorem fires_of {s : State} {i : Instr} {x : Machine.Unit} (h : firesB s i x = true) : s.Fires i x := by
  simp only [firesB, Bool.and_eq_true, decide_eq_true_eq, Option.isNone_iff_eq_none, Bool.not_eq_true'] at h
  exact ⟨h.1.1.1.1.1, h.1.1.1.1.2, h.1.1.1.2, h.1.1.2, h.1.2, h.2⟩

/-- An access translates. -/
def translatesB (r : State × PortRes) : Bool :=
  match r.2 with
  | .ok _ => true
  | _ => false

theorem translates_of {r : State × PortRes} (h : translatesB r = true) : ∃ t evs, r = (t, .ok evs) := by
  obtain ⟨t, r⟩ := r
  cases r with
  | ok evs => exact ⟨t, evs, rfl⟩
  | hold _ => exact absurd h (by simp [translatesB])
  | fault _ => exact absurd h (by simp [translatesB])

def addressesB (r : State × TransRes) : Bool :=
  match r.2 with
  | .ok _ _ _ _ => true
  | _ => false

theorem addresses_of {r : State × TransRes} (h : addressesB r = true) : ∃ t loc pg e f, r = (t, .ok loc pg e f) := by
  obtain ⟨t, r⟩ := r
  cases r with
  | ok loc pg e f => exact ⟨t, loc, pg, e, f, rfl⟩
  | invalid _ => exact absurd h (by simp [addressesB])
  | wb => exact absurd h (by simp [addressesB])
  | fault _ => exact absurd h (by simp [addressesB])

/-! ### Instructions that fire -/

theorem witness_nop : labS.Fires (.nop) uS := fires_of (by decide)

theorem witness_add : labS.Fires (.add .i32 true (.s 5) (.s 1) (.s 5)) uS := fires_of (by decide)

theorem witness_sub : labS.Fires (.sub .n8 false (.v 1) (.v 2) (.imm (-1))) uS := fires_of (by decide)

theorem witness_mul : labT.Fires (.mul .i64 false (.o 0) (.c 0 0) (.s 1)) uT := fires_of (by decide)

theorem witness_mulh : labS.Fires (.mulh .i16 (.s 5) (.s 1) (.s 5)) uS := fires_of (by decide)

theorem witness_mad : labS.Fires (.mad .i32 true (.s 5) (.s 1) (.s 5)) uS := fires_of (by decide)

theorem witness_div : labS.Fires (.div .i32 true (.s 5) (.s 1) (.imm 0)) uS := fires_of (by decide)

theorem witness_rem : labS.Fires (.rem .n64 (.s 5) (.s 1) (.s 0)) uS := fires_of (by decide)

theorem witness_abs : labS.Fires (.abs .i8 false (.s 5) (.s 1)) uS := fires_of (by decide)

theorem witness_min : labS.Fires (.min .i32 (.p 3) (.s 1) (.s 5)) uS := fires_of (by decide)

theorem witness_max : labS.Fires (.max .n16 (.s 5) (.s 1) (.s 5)) uS := fires_of (by decide)

theorem witness_and : labS.Fires (.and .n64 .discard (.s 1) (.s 5)) uS := fires_of (by decide)

theorem witness_or : labS.Fires (.or .n8 (.k 2) (.s 1) (.s 5)) uS := fires_of (by decide)

theorem witness_xor : labS.Fires (.xor .i32 .lm (.s 1) (.s 5)) uS := fires_of (by decide)

theorem witness_shl : labS.Fires (.shl .i32 true (.s 5) (.s 1) (.imm 63)) uS := fires_of (by decide)

theorem witness_shr : labS.Fires (.shr .n32 (.s 5) (.s 1) (.imm 0)) uS := fires_of (by decide)

theorem witness_sra : labS.Fires (.sra .i32 (.s 5) (.s 1) (.imm 31)) uS := fires_of (by decide)

theorem witness_rot : labS.Fires (.rot .n8 (.s 5) (.s 1) (.imm 8)) uS := fires_of (by decide)

theorem witness_clz : labS.Fires (.clz .n32 (.s 5) (.s 0)) uS := fires_of (by decide)

theorem witness_popc : labD.Fires (.popc .n64 (.s 5) (.s 1)) uD := fires_of (by decide)

theorem witness_sel : labS.Fires (.sel .i32 (.s 5) (.s 1) (.s 5)) uS := fires_of (by decide)

theorem witness_cmp : labS.Fires (.cmp .i32 .le .pst (.s 1) (.s 5)) uS := fires_of (by decide)

theorem witness_fadd : labS.Fires (.fadd .fp32 .rdn (.s 5) (.s 1) (.s 5)) uS := fires_of (by decide)

theorem witness_fsub : labS.Fires (.fsub .fp16 .rne (.v 1) (.v 1) (.v 2)) uS := fires_of (by decide)

theorem witness_fmul : labS.Fires (.fmul .bf16 .rtz (.s 5) (.s 1) (.s 5)) uS := fires_of (by decide)

theorem witness_fma : labS.Fires (.fma .fp32 .rup (.v 1) (.v 1) (.v 2)) uS := fires_of (by decide)

theorem witness_fmin : labS.Fires (.fmin .fp32 (.s 5) (.s 1) (.s 5)) uS := fires_of (by decide)

theorem witness_fmax : labS.Fires (.fmax .fp32 (.s 5) (.s 1) (.s 5)) uS := fires_of (by decide)

theorem witness_fabs : labS.Fires (.fabs .fp32 (.s 5) (.s 1)) uS := fires_of (by decide)

theorem witness_fneg : labS.Fires (.fneg .fp32 (.s 5) (.s 1)) uS := fires_of (by decide)

theorem witness_fcmp : labS.Fires (.fcmp .fp32 .un (.p 1) (.s 1) (.s 5)) uS := fires_of (by decide)

theorem witness_fdiv : labS.Fires (.fdiv .fp32 .rne (.s 5) (.s 1) (.s 0)) uS := fires_of (by decide)

theorem witness_fsqrt : labS.Fires (.fsqrt .fp32 .rne (.s 5) (.s 1)) uS := fires_of (by decide)

theorem witness_frcp : labS.Fires (.frcp .fp32 .rne (.s 5) (.s 1)) uS := fires_of (by decide)

theorem witness_frsq : labS.Fires (.frsq .fp32 .rne (.s 5) (.s 1)) uS := fires_of (by decide)

theorem witness_fexp2 : labS.Fires (.fexp2 .fp32 .rne (.s 5) (.s 1)) uS := fires_of (by decide)

theorem witness_flog2 : labS.Fires (.flog2 .fp32 .rne (.s 5) (.s 1)) uS := fires_of (by decide)

theorem witness_cvt : labS.Fires (.cvt (.f8 .e4m3) .rne (.fl .fp32) true (.v 1) (.v 2)) uS := fires_of (by decide)

theorem witness_qcvt : labS.Fires (.qcvt .e5m2 .rtz (.v 1) (.v 2) (.s 1)) uS := fires_of (by decide)

theorem witness_pack : labS.Fires (.pack .i8 true 1 2 3) uS := fires_of (by decide)

theorem witness_unpk : labS.Fires (.unpk .n16 true 1 2) uS := fires_of (by decide)

theorem witness_mov : labS.Fires (.mov (.s 5) (.c 0 0)) uS := fires_of (by decide)

theorem witness_movi : labS.Fires (.movi (.v 1) 0x3FFFFF) uS := fires_of (by decide)

theorem witness_movh_s : labS.Fires (.movh (.s 5) 1) uS := fires_of (by decide)

theorem witness_movh_v : labS.Fires (.movh (.v 5) 1) uS := fires_of (by decide)

theorem witness_shfl : labS.Fires (.shfl .w32 1 2 (.imm 63)) uS := fires_of (by decide)

theorem witness_bcst : labS.Fires (.bcst .w8 (.o 0) 2 (.s 1)) uS := fires_of (by decide)

theorem witness_rdce : labS.Fires (.rdce (.int .i32) .add true .rne (.s 5) 1) uS := fires_of (by decide)

theorem witness_scan : labS.Fires (.scan (.fl .fp32) .add false .rtz 1 2) uS := fires_of (by decide)

theorem witness_extl : labS.Fires (.extl .w8 true (.s 5) 1 (.imm 31)) uS := fires_of (by decide)

theorem witness_insl : labS.Fires (.insl .w16 1 (.s 1) (.imm 15)) uS := fires_of (by decide)

theorem witness_pset : labS.Fires (.pset (.imm (-1))) uS := fires_of (by decide)

theorem witness_pclr : labS.Fires (.pclr (.s 5)) uS := fires_of (by decide)

theorem witness_pld : labS.Fires (.pld true 0 1) uS := fires_of (by decide)

theorem witness_pread : labS.Fires (.pread (.s 5) (.imm 2)) uS ∧
    (labS.opVal uS (.imm 2)).toNat ≤ 2 := ⟨fires_of (by decide), by decide⟩

theorem witness_pread_above : labS.Fires (.pread (.s 5) (.s 5)) uS ∧
    2 < (labS.opVal uS (.s 5)).toNat := ⟨fires_of (by decide), by decide⟩

theorem witness_send : labT.Fires (.send 0 (.s 1) (.imm 15)) uT ∧
    (maskDests (Tab.get uT.outs 0 []) (labT.opVal uT (.imm 15))).isEmpty = false := ⟨fires_of (by decide), by decide⟩

theorem witness_send_none : labT.Fires (.send 0 (.s 1) (.imm 0)) uT ∧
    (maskDests (Tab.get uT.outs 0 []) (labT.opVal uT (.imm 0))).isEmpty = true := ⟨fires_of (by decide), by decide⟩

theorem witness_drop : labT.Fires (.drop 2) uT := fires_of (by decide)

theorem witness_fwd : labT.Fires (.fwd .discard (.c 2 0)) uT ∧
    uT.tagOf (.c 2 0) = .eoi := ⟨fires_of (by decide), by decide⟩

theorem witness_mark : labT.Fires (.mark (.o 1)) uT := fires_of (by decide)

theorem witness_retag : labS.Fires (.retag .eoi (.o 0) (.s 5)) uS := fires_of (by decide)

theorem witness_steer : labT.Fires (.steer 1 (.c 0 0) (.c 1 0)) uT ∧
    uT.tagOf (.c 0 0) ≠ .eoi := ⟨fires_of (by decide), by decide⟩

theorem witness_steer_eoi : labT.Fires (.steer 1 (.c 2 0) (.s 1)) uT ∧
    uT.tagOf (.c 2 0) = .eoi := ⟨fires_of (by decide), by decide⟩

theorem witness_merge : labT.Fires (.merge 0 0 2) uT ∧
    uT.head? 0 = some ⟨5, .dat, none, 1, false⟩ := ⟨fires_of (by decide), by decide⟩

theorem witness_merge_eoi : labT.Fires (.merge 0 2 2) uT ∧
    uT.head? 2 = some ⟨0, .eoi, none, 1, false⟩ := ⟨fires_of (by decide), by decide⟩

theorem witness_statc_o : labT.Fires (.statc (.o 0)) uT := fires_of (by decide)

theorem witness_statc : labT.Fires (.statc .discard) uT := fires_of (by decide)

theorem witness_turn : labT.Fires (.turn 0 1) uT ∧
    uT.fill < 7 := ⟨fires_of (by decide), by decide⟩

theorem witness_alloc : labS.Fires (.alloc (.s 5) (.imm 0) (.imm 1)) uS ∧
    (labS.opVal uS (.imm 0)).toNat ≤ 11 ∧ (labS.opVal uS (.imm 1)).toNat % 2 ^ 16 ≠ 0 := ⟨fires_of (by decide), by decide⟩

theorem witness_alloc_class : labS.Fires (.alloc (.s 5) (.s 6) (.imm 1)) uS ∧
    11 < (labS.opVal uS (.s 6)).toNat := ⟨fires_of (by decide), by decide⟩

theorem witness_alloct : labS.Fires (.alloct (.s 5) (.imm 11) (.s 1)) uS ∧
    (labS.opVal uS (.imm 11)).toNat ≤ 11 ∧ ((labS.taken [.imm 11, .s 1]).tryAlloc 0 uS 11 1 true).isNone = true := ⟨fires_of (by decide), by decide⟩

theorem witness_release : labS.Fires (.release (.s 2)) uS ∧
    isSignalHandle (labS.opVal uS (.s 2)) = false ∧ hStn (labS.opVal uS (.s 2)) = 0 ∧ (labS.taken [.s 2]).blockOf (labS.opVal uS (.s 2)) = some labBlock := ⟨fires_of (by decide), by decide⟩

theorem witness_retain : labS.Fires (.retain (.s 2) (.imm 63)) uS ∧
    (labS.taken [.s 2, .imm 63]).blockOf (labS.opVal uS (.s 2)) = some labBlock := ⟨fires_of (by decide), by decide⟩

theorem witness_bsize : labS.Fires (.bsize (.s 5) (.s 2)) uS ∧
    (labS.taken [.s 2]).blockOf (labS.opVal uS (.s 2)) = some labBlock := ⟨fires_of (by decide), by decide⟩

theorem witness_ldb_s : labS.Fires (.ldb (.s 5) (.s 2)) uS ∧
    hOff (labS.opVal uS (.s 2)) % 8 = 0 ∧ (labS.taken [.s 2]).blockOf (labS.opVal uS (.s 2)) = some labBlock := ⟨fires_of (by decide), by decide⟩

theorem witness_ldb_v : labT.Fires (.ldb (.v 5) (.s 2)) uT ∧
    hOff (labT.opVal uT (.s 2)) % 4 = 0 := ⟨fires_of (by decide), by decide⟩

theorem witness_stb_s : labS.Fires (.stb (.s 2) (.s 5)) uS ∧
    hOff (labS.opVal uS (.s 2)) % 8 = 0 ∧ labBlock.first = 0 := ⟨fires_of (by decide), by decide⟩

theorem witness_stb_v : labS.Fires (.stb (.s 2) (.v 5)) uS ∧
    uS.live 0 = true ∧ 0 < uS.lanes := ⟨fires_of (by decide), by decide⟩

theorem witness_ldbx : labS.Fires (.ldbx 2 1 (.s 2) 3) uS ∧
    ∀ j, j < 8 → idxOff uS (labS.opVal uS (.s 2)) 2 3 j % 4 = 0 := ⟨fires_of (by decide), by decide⟩

theorem witness_stbx : labS.Fires (.stbx 2 1 (.s 2) 3) uS ∧
    ∀ j, j < 8 → idxOff uS (labS.opVal uS (.s 2)) 2 3 j % 4 = 0 := ⟨fires_of (by decide), by decide⟩

theorem witness_ldt : labS.Fires (.ldt 1 2 (.imm 3)) uS ∧
    (uS.sReg 3).toNat / 2 ^ 16 % 2 ^ 16 = 4 ∧ (uS.sReg 3).toNat % 2 ^ 16 = 32 := ⟨fires_of (by decide), by decide⟩

theorem witness_stt : labS.Fires (.stt 1 2 (.imm 63)) uS ∧
    isSignalHandle (uS.sReg 2) = false ∧ hStn (uS.sReg 2) = 0 := ⟨fires_of (by decide), by decide⟩

theorem witness_tmap : labS.Fires (.tmap (.s 5) 2 (.imm 3)) uS ∧
    (uS.sReg 3).toNat < 2 ^ 32 := ⟨fires_of (by decide), by decide⟩

theorem witness_tmap_unsound : labS.Fires (.tmap (.s 5) 4 (.imm 3)) uS ∧
    (uS.sReg 5).toNat / 2 ^ 16 % 2 ^ 16 = 0 := ⟨fires_of (by decide), by decide⟩

theorem witness_sigset : labS.Fires (.sigset (.s 4) (.s 5)) uS ∧
    isSignalHandle (labS.opVal uS (.s 4)) = true ∧ (labS.taken [.s 4, .s 5]).signalOk 0 (labS.opVal uS (.s 4)) = true := ⟨fires_of (by decide), by decide⟩

theorem witness_sigset_block : labS.Fires (.sigset (.s 2) (.s 5)) uS ∧
    isSignalHandle (labS.opVal uS (.s 2)) = false := ⟨fires_of (by decide), by decide⟩

theorem witness_sigclr : labS.Fires (.sigclr (.s 4)) uS ∧
    (labS.taken [.s 4]).signalOk 0 (labS.opVal uS (.s 4)) = true := ⟨fires_of (by decide), by decide⟩

theorem witness_sigwait : labS.Fires (.sigwait .lt (.s 4) (.s 5)) uS ∧
    (labS.taken [.s 4, .s 5]).signalQuiet 0 5 = true ∧ (labS.taken [.s 4, .s 5]).signal 5 = 0 := ⟨fires_of (by decide), by decide⟩

theorem witness_sigtest : labS.Fires (.sigtest .ge (.s 5) (.s 4) (.s 5)) uS ∧
    hSignal (labS.opVal uS (.s 4)) / 1024 = stnOf labS.cur.unit := ⟨fires_of (by decide), by decide⟩

theorem witness_sigadd : labS.Fires (.sigadd (.s 4) (.s 5)) uS ∧
    (labS.taken [.s 4, .s 5]).signalOk 0 (labS.opVal uS (.s 4)) = true := ⟨fires_of (by decide), by decide⟩

theorem witness_gjoin : labS.Fires (.gjoin (.s 14)) uS ∧
    (labS.opVal uS (.s 14)).toNat ≤ 4095 ∧ ((labS.taken [.s 14]).group 4105).members = [] ∧ (labS.taken [.s 14]).memberships 65536 < 4 := ⟨fires_of (by decide), by decide⟩

theorem witness_gleave : labS.Fires (.gleave (.s 14)) uS ∧
    (labS.opVal uS (.s 14)).toNat ≤ 4095 := ⟨fires_of (by decide), by decide⟩

theorem witness_gbar_outside : labS.Fires (.gbar .die (.s 14)) uS ∧
    ((labS.taken [.s 14]).group 4105).members.contains 65536 = false := ⟨fires_of (by decide), by decide⟩

theorem witness_prio : labS.Fires (.prio (.imm 3)) uS ∧
    (labS.opVal uS (.imm 3)).toNat ≤ 3 := ⟨fires_of (by decide), by decide⟩

theorem witness_prio_above : labS.Fires (.prio (.s 5)) uS ∧
    3 < (labS.opVal uS (.s 5)).toNat := ⟨fires_of (by decide), by decide⟩

theorem witness_ldg : labS.Fires (.ldg .natural false (.s 5) (.s 6)) uS ∧
    (labS.opVal uS (.s 6)).toNat % 8 = 0 := ⟨fires_of (by decide), by decide⟩

theorem witness_ldg_misaligned : labS.Fires (.ldg .b4 false (.s 5) (.s 1)) uS ∧
    (labS.opVal uS (.s 1)).toNat % 4 ≠ 0 := ⟨fires_of (by decide), by decide⟩

theorem witness_stg : labS.Fires (.stg .natural (.s 6) (.s 5)) uS ∧
    (labS.taken [.s 6, .s 5]).unrevocable 1 0 = false := ⟨fires_of (by decide), by decide⟩

theorem witness_gath : labS.Fires (.gath .w32 false 2 1 (.s 6) 3) uS ∧
    ∀ j, j < 8 → (labS.opVal uS (.s 6) + ((uS.vLane 3 j).signExtend 64 <<< 2)).toNat % 4 = 0 := ⟨fires_of (by decide), by decide⟩

theorem witness_scat : labS.Fires (.scat .w8 0 1 (.s 6) 3) uS := fires_of (by decide)

theorem witness_pref : labS.Fires (.pref (.s 6) (.imm 1)) uS ∧
    (labS.opVal uS (.s 6)).toNat % 128 = 0 := ⟨fires_of (by decide), by decide⟩

theorem witness_pref_misaligned : labS.Fires (.pref (.s 1) (.imm 1)) uS ∧
    (labS.opVal uS (.s 1)).toNat % 128 ≠ 0 := ⟨fires_of (by decide), by decide⟩

theorem witness_order : labS.Fires (.order .system 0) uS ∧
    (labS.taken []).performedAt 0 .system = true := ⟨fires_of (by decide), by decide⟩

theorem witness_fence : labS.Fires (.fence .package) uS ∧
    (labS.taken []).performedAt 0 .package = true := ⟨fires_of (by decide), by decide⟩

theorem witness_atom : labS.Fires (.atom .add true .die .discard (.s 6) (.imm 1)) uS ∧
    (labS.opVal uS (.s 6)).toNat % 8 = 0 := ⟨fires_of (by decide), by decide⟩

theorem witness_cas : labS.Fires (.cas false .region (.s 5) (.s 6) 8) uS ∧
    (labS.opVal uS (.s 6)).toNat % 4 = 0 := ⟨fires_of (by decide), by decide⟩

theorem witness_fatom : labS.Fires (.fatom .fp32 .add .package (.s 5) (.s 6) (.s 1)) uS ∧
    (labS.taken [.s 6, .s 1]).heldUpTo 1 0 = false := ⟨fires_of (by decide), by decide⟩

theorem witness_strm : labS.Fires (.strm 0 (.s 2)) uS ∧
    (labS.taken [.s 2]).blockQuiet 0 (labS.opVal uS (.s 2)) = true := ⟨fires_of (by decide), by decide⟩

theorem witness_copy : labS.Fires (.copy (.s 2) (.imm 7)) uS ∧
    (labS.opVal uS (.imm 7)).toNat ≤ 7 := ⟨fires_of (by decide), by decide⟩

theorem witness_copy_above : labS.Fires (.copy (.s 2) (.s 6)) uS ∧
    7 < (labS.opVal uS (.s 6)).toNat := ⟨fires_of (by decide), by decide⟩

theorem witness_wptr : labS.Fires (.wptr (.s 5) (.imm 7)) uS ∧
    (labS.opVal uS (.imm 7)).toNat ≤ 7 := ⟨fires_of (by decide), by decide⟩

theorem witness_mcast : labS.Fires (.mcast (.s 2)) uS ∧
    (labS.taken [.s 2]).blockQuiet 0 (labS.opVal uS (.s 2)) = true := ⟨fires_of (by decide), by decide⟩

theorem witness_fill : labS.Fires (.fill 6 (.imm 1)) uS ∧
    (uS.sReg 6).toNat % 128 = 0 ∧ ((labS.taken [.imm 1]).publish 0 uS).2 = true := ⟨fires_of (by decide), by decide⟩

theorem witness_pin : labS.Fires (.pin (.s 5) (.s 6) (.imm 1)) uS ∧
    (labS.opVal uS (.s 6)).toNat % 128 = 0 ∧ labS.opVal uS (.imm 1) = 1 := ⟨fires_of (by decide), by decide⟩

theorem witness_unpin : labS.Fires (.unpin (.s 6) (.imm 1)) uS ∧
    labS.opVal uS (.imm 1) = 1 := ⟨fires_of (by decide), by decide⟩

theorem witness_clean : labS.Fires (.clean (.s 6) (.s 1)) uS ∧
    (labS.taken [.s 6, .s 1]).performedAt 0 .package = true := ⟨fires_of (by decide), by decide⟩

theorem witness_invl : labS.Fires (.invl (.s 6) (.imm 1)) uS ∧
    (labS.taken [.s 6, .imm 1]).performedAt 0 .package = true := ⟨fires_of (by decide), by decide⟩

theorem witness_wload : labS.Fires (.wload .e4m3 (.s 2) (.s 1)) uS ∧
    (labS.taken [.s 2, .s 1]).junctionBlock 0 uS (labS.opVal uS (.s 2)) = none ∧ (labS.taken [.s 2, .s 1]).lineRuns 0 = false := ⟨fires_of (by decide), by decide⟩

theorem witness_wswap : labS.Fires (.wswap) uS ∧
    (labS.taken []).lineRuns 0 = false := ⟨fires_of (by decide), by decide⟩

theorem witness_mma : labS.Fires (.mma .i8 (.s 2) (.s 10)) uS ∧
    (labS.taken [.s 2, .s 10]).junctionBlock 0 uS (labS.opVal uS (.s 2)) = none := ⟨fires_of (by decide), by decide⟩

theorem witness_accrd : labS.Fires (.accrd (.s 2) (.imm 7)) uS ∧
    (labS.opVal uS (.imm 7)).toNat ≤ 7 ∧ (labS.taken [.s 2, .imm 7]).junctionBlock 0 uS (labS.opVal uS (.s 2)) = none := ⟨fires_of (by decide), by decide⟩

theorem witness_accwr : labS.Fires (.accwr (.imm 0) (.s 2)) uS ∧
    (labS.opVal uS (.imm 0)).toNat ≤ 7 := ⟨fires_of (by decide), by decide⟩

theorem witness_accclr : labS.Fires (.accclr (.imm 7)) uS ∧
    (labS.opVal uS (.imm 7)).toNat ≤ 7 := ⟨fires_of (by decide), by decide⟩

theorem witness_accclr_above : labS.Fires (.accclr (.s 6)) uS ∧
    7 < (labS.opVal uS (.s 6)).toNat := ⟨fires_of (by decide), by decide⟩

theorem witness_ttload_outside : labS.Fires (.ttload (.s 2)) uS ∧
    (labS.taken [.s 2]).region? 1 = some benchRegion ∧ benchRegion.line = false := ⟨fires_of (by decide), by decide⟩

theorem witness_ring_outside : labS.Fires (.ring (.s 1)) uS ∧
    (labS.taken [.s 1]).region? 1 = some benchRegion ∧ benchRegion.line = false := ⟨fires_of (by decide), by decide⟩

theorem witness_tinj_outside : labS.Fires (.tinj (.s 6) (.s 1)) uS ∧
    (labS.taken [.s 6, .s 1]).inLine uS = false := ⟨fires_of (by decide), by decide⟩

theorem witness_rstat : labS.Fires (.rstat (.s 5) (.imm 0)) uS ∧
    labS.opVal uS (.imm 0) = 0 := ⟨fires_of (by decide), by decide⟩

theorem witness_coll : labS.Fires (.coll (.s 5) (.s 2)) uS ∧
    (labS.taken [.s 2]).blockQuiet 0 (labS.opVal uS (.s 2)) = true := ⟨fires_of (by decide), by decide⟩

theorem witness_cwait : labS.Fires (.cwait (.s 5) (.s 1)) uS ∧
    ((labS.taken [.s 1]).collNamed 1 (labS.opVal uS (.s 1))).isNone = true := ⟨fires_of (by decide), by decide⟩

theorem witness_enq : labS.Fires (.enq (.s 2)) uS ∧
    (labS.taken [.s 2]).blockQuiet 0 (labS.opVal uS (.s 2)) = true := ⟨fires_of (by decide), by decide⟩

theorem witness_jdec : labS.Fires (.jdec (.s 5) (.s 6) (.s 2)) uS ∧
    (labS.opVal uS (.s 6)).toNat % 8 = 0 := ⟨fires_of (by decide), by decide⟩

theorem witness_yield : labS.Fires (.yield) uS ∧
    (labS.taken []).yields 1 benchRegion = false := ⟨fires_of (by decide), by decide⟩

theorem witness_done : labS.Fires (.done) uS ∧
    isCore labS.cur.unit = false := ⟨fires_of (by decide), by decide⟩

theorem witness_done_core : labD.Fires (.done) uD ∧
    isCore labD.cur.unit = true ∧ (labD.taken []).performedAt coreBase .package = true ∧ ((labD.taken []).core 0).async = [] := ⟨fires_of (by decide), by decide⟩

theorem witness_pfxm : labS.Fires (.pfxm true (.s 5) (.s 6) (.s 2)) uS ∧
    (labS.opVal uS (.s 6)).toNat % 128 = 0 := ⟨fires_of (by decide), by decide⟩

theorem witness_pfxi : labS.Fires (.pfxi (.s 5) (.s 6) (.s 2)) uS ∧
    ((labS.taken [.s 6, .s 2]).publish 0 uS).2 = true := ⟨fires_of (by decide), by decide⟩

theorem witness_kvapp : labS.Fires (.kvapp (.s 5) (.s 2) (.imm 0)) uS ∧
    (labS.taken [.s 2, .imm 0]).blockQuiet 0 (labS.opVal uS (.s 2)) = true := ⟨fires_of (by decide), by decide⟩

theorem witness_kvtrunc : labS.Fires (.kvtrunc .discard (.s 6) (.imm 63)) uS ∧
    (labS.opVal uS (.s 6)).toNat % 128 = 0 := ⟨fires_of (by decide), by decide⟩

theorem witness_kvrel : labS.Fires (.kvrel (.s 5) (.s 6)) uS ∧
    (labS.opVal uS (.s 6)).toNat % 128 = 0 := ⟨fires_of (by decide), by decide⟩

theorem witness_kvpin : labS.Fires (.kvpin true (.s 5) (.s 6)) uS ∧
    (labS.opVal uS (.s 6)).toNat % 1024 = 0 := ⟨fires_of (by decide), by decide⟩

theorem witness_kvmap : labS.Fires (.kvmap (.s 5) (.s 6) (.s 1)) uS ∧
    (labS.opVal uS (.s 6)).toNat % 128 = 0 := ⟨fires_of (by decide), by decide⟩

theorem witness_kvmap_misaligned : labS.Fires (.kvmap (.s 5) (.s 1) (.s 1)) uS ∧
    (labS.opVal uS (.s 1)).toNat % 128 ≠ 0 := ⟨fires_of (by decide), by decide⟩

theorem witness_rng : labS.Fires (.rng 3 (.v 1)) uS := fires_of (by decide)

theorem witness_rngset : labS.Fires (.rngset 0 (.s 2)) uS ∧
    hOff (labS.opVal uS (.s 2)) % 32 = 0 ∧ isCore labS.cur.unit = false := ⟨fires_of (by decide), by decide⟩

theorem witness_rngget : labS.Fires (.rngget 0 (.s 12)) uS ∧
    hOff (labS.opVal uS (.s 12)) + 32 ≤ 32 * 2 ^ labBlock.k := ⟨fires_of (by decide), by decide⟩

theorem witness_br : labS.Fires (.br 1) uS ∧
    (0 : Int) ≤ (uS.pc : Int) + (1#22).toInt ∧ (uS.pc : Int) + (1#22).toInt < storeSize 0 := ⟨fires_of (by decide), by decide⟩

theorem witness_br_outside : labS.Fires (.br 0x3FFFFF) uS ∧
    (uS.pc : Int) + (0x3FFFFF#22).toInt < 0 := ⟨fires_of (by decide), by decide⟩

theorem witness_bri : labS.Fires (.bri (.s 5)) uS ∧
    (labS.opVal uS (.s 5)).toNat < storeSize 0 := ⟨fires_of (by decide), by decide⟩

theorem witness_bri_outside : labS.Fires (.bri (.s 2)) uS ∧
    storeSize 0 ≤ (labS.opVal uS (.s 2)).toNat := ⟨fires_of (by decide), by decide⟩

theorem witness_call : labS.Fires (.call 8191) uS ∧
    uS.rstack.length < 16 ∧ (uS.pc : Int) + (8191#22).toInt < storeSize 0 := ⟨fires_of (by decide), by decide⟩

theorem witness_calli : labS.Fires (.calli (.s 5)) uS ∧
    (labS.opVal uS (.s 5)).toNat < storeSize 0 := ⟨fires_of (by decide), by decide⟩

theorem witness_ret_empty : labS.Fires (.ret) uS ∧
    uS.rstack = [] ∧ uS.sys.spilled = 0 := ⟨fires_of (by decide), by decide⟩

theorem witness_loop : labS.Fires (.loop 5 0) uS ∧
    uS.sReg 5 ≠ 1 := ⟨fires_of (by decide), by decide⟩

theorem witness_loop_last : labS.Fires (.loop 1 0x3FFFFF) uS ∧
    uS.sReg 1 = 1 := ⟨fires_of (by decide), by decide⟩

theorem witness_trap : labS.Fires (.trap 63) uS := fires_of (by decide)

theorem witness_eret_outside : labS.Fires (.eret) uS ∧
    uS.sys.hm = false := ⟨fires_of (by decide), by decide⟩

theorem witness_sysrd : labS.Fires (.sysrd .status 5) uS := fires_of (by decide)

theorem witness_syswr : labS.Fires (.syswr .epc (.s 5)) uS := fires_of (by decide)

theorem witness_syswr_migth : labS.Fires (.syswr .migth (.s 5)) uS ∧
    (labS.taken [.s 5]).isFirmware 1 = true := ⟨fires_of (by decide), by decide⟩

theorem witness_halt : labS.Fires (.halt) uS := fires_of (by decide)

theorem witness_bkpt : labS.Fires (.bkpt 0) uS := fires_of (by decide)

theorem witness_wait_cyc : labS.Fires (.wait .cyc (.s 5)) uS ∧
    uS.isSeq = true ∧ (labS.opVal uS (.s 5)).toNat % 2 ^ 32 ≠ 0 := ⟨fires_of (by decide), by decide⟩

theorem witness_wait_depot_kind : labS.Fires (.wait .land (.s 5)) uS ∧
    isCore labS.cur.unit = false := ⟨fires_of (by decide), by decide⟩

theorem witness_wait_dcnt : labD.Fires (.wait .dcnt (.imm 0)) uD ∧
    (labD.opVal uD (.imm 0)).toNat ≤ ((labD.taken [.imm 0]).core 0).dcount := ⟨fires_of (by decide), by decide⟩

theorem witness_wait_land : labD.Fires (.wait .land (.imm 0)) uD ∧
    uD.isSeq = true := ⟨fires_of (by decide), by decide⟩

theorem witness_vld_local : labD.Fires (.vld true 1 6) uD ∧
    (uD.sReg 6).toNat % 4 = 0 := ⟨fires_of (by decide), by decide⟩

theorem witness_vld : labD.Fires (.vld false 1 6) uD ∧
    (uD.sReg 6).toNat % 4 = 0 := ⟨fires_of (by decide), by decide⟩

theorem witness_vst_local : labD.Fires (.vst true 6 1) uD ∧
    uD.live 63 = true := ⟨fires_of (by decide), by decide⟩

theorem witness_vst_misaligned : labD.Fires (.vst false 5 1) uD ∧
    (uD.sReg 5).toNat % 4 ≠ 0 := ⟨fires_of (by decide), by decide⟩

theorem witness_vgath : labD.Fires (.vgath 1 6 2) uD ∧
    vgathSel (uD.sReg 7).toNat = true ∧ (uD.sReg 6).toNat % 128 = 0 ∧ (labD.taken []).noPackets coreBase = true := ⟨fires_of (by decide), by decide⟩

theorem witness_kvwalk : labD.Fires (.kvwalk 5 6 1) uD ∧
    (uD.sReg 6).toNat % 128 = 0 := ⟨fires_of (by decide), by decide⟩

theorem witness_triple_nowhere : labD.Fires (.triple false false 1 8) uD ∧
    ((labD.taken []).deliveryPath 1 (uD.sReg 8).toNat).isNone = true := ⟨fires_of (by decide), by decide⟩

theorem witness_mbxrd : labD.Fires (.mbxrd 7 5) uD ∧
    ((labD.taken []).core 0).full.getLsbD 7 = false := ⟨fires_of (by decide), by decide⟩

theorem witness_ptewr : labS.Fires (.ptewr (.s 5) (.s 6) (.s 1)) uS ∧
    (labS.opVal uS (.s 6)).toNat % 8 = 0 ∧ (labS.taken [.s 6, .s 1]).ownsAddr 0 (labS.opVal uS (.s 6)).toNat = true := ⟨fires_of (by decide), by decide⟩

theorem witness_tlbinv : labS.Fires (.tlbinv (.s 6) (.s 1)) uS ∧
    (labS.opVal uS (.s 1)).toNat < 2 ^ 16 := ⟨fires_of (by decide), by decide⟩

theorem witness_migr : labS.Fires (.migr (.s 6) (.s 1)) uS ∧
    (labS.opVal uS (.s 1)).toNat < 2 ^ 16 := ⟨fires_of (by decide), by decide⟩

theorem witness_migr_above : labS.Fires (.migr (.s 6) (.s 3)) uS ∧
    2 ^ 16 ≤ (labS.opVal uS (.s 3)).toNat := ⟨fires_of (by decide), by decide⟩

theorem witness_cntrd : labS.Fires (.cntrd 5 (.s 6) (.s 1)) uS ∧
    (labS.taken [.s 6, .s 1]).partOfStn 0 = some 0 := ⟨fires_of (by decide), by decide⟩

/-! ### Events whose conditions hold -/

theorem witness_interval_end :
    let x : Machine.Unit := { uS with busy := some ⟨0, .s 5, 0, 3, .none⟩ }
    let s : State := { labS with units := [(0, x)] }
    s.unit? 0 = some x ∧ x.reads = [] ∧ x.blocked = none ∧ s.draining x = false ∧ 0 ≤ s.clockOf 0 := by decide

theorem witness_own_load_lands :
    let r : OwnRead := ⟨3, 0, .s 5 true, [0x80]⟩
    let x : Machine.Unit := { uS with reads := [r], blocked := some (.answer [3]) }
    let s : State := { labS with units := [(0, x)] }
    s.unit? 0 = some x ∧ x.busy = none ∧ x.reads = [r] ∧ r.until_ ≤ s.clockOf 0 ∧ x.blocked = some (.answer [r.id]) := by decide

theorem witness_clock_gate :
    let x : Machine.Unit := { uT with slots := [0x0000000129091068#64], enable := 0, idleSince := some 0 }
    let s : State := { labT with units := [(0, x)], clocks := [(0, 16)] }
    s.unit? 0 = some x ∧ isCore 0 = false ∧ x.mode = .triggered ∧ x.busy = none ∧ x.blocked = none ∧ x.pickSlot 0 x.slots = none ∧ x.idleSince = some 0 ∧ 0 + 16 ≤ s.clockOf 0 := by decide

theorem witness_wait_cycles_end :
    let x : Machine.Unit := { uS with blocked := some (.waitCyc 9) }
    let s : State := { labS with units := [(0, x)], clocks := [(0, 9)] }
    s.unit? 0 = some x ∧ 9 ≤ s.clockOf 0 := by decide

theorem witness_invix_wait_end :
    let x : Machine.Unit := { uS with blocked := some .invix, invix := 5 }
    let s : State := { labS with units := [(0, x)] }
    s.unit? 0 = some x ∧ ((x.invix + 1) - s.commitIndex x.region).toNat < 2 ^ 31 := by decide

theorem witness_token_arrival :
    let f : Flight := ⟨none, ⟨0, 0, 0, 5, 0⟩, ⟨1, .dat, none, 5, false⟩, false⟩
    let s : State := { labS with flight := [f], stations := [(0, { labStation with arcs := [(5, ⟨1, 0, 0, 1, 4, 0, false⟩)] })] }
    s.flight[0]? = some f ∧ s.unit? (f.dest.unit % 65536) = some uS ∧ f.dest.unit < 65536 ∧ uS.region = s.arcRegion f.dest := by decide

theorem witness_mailbox_forward :
    let f : Flight := ⟨none, ⟨0, 0, 0, 5, 0⟩, ⟨1, .dat, none, 5, false⟩, true⟩
    let s : State := { labS with flight := [f] }
    s.flight[0]? = some f ∧ f.mailbox = true := by decide

theorem witness_promotion :
    let w : Wait := ⟨.block 0 0 1, 0, 0, 0, 0⟩
    let s : State := { labS with clocks := [(0, 2 ^ 16)], units := [(0, { uS with sys := { uS.sys with bclass := 2 } })], stations := [(0, { labStation with platform := [(0, w)] })] }
    Tab.find (s.station 0).platform 0 = some w ∧ w.since + 2 ^ 16 ≤ s.stnNow 0 ∧ s.waitClass w ≠ 0 := by decide

theorem witness_platform_grant :
    let w : Wait := ⟨.block 0 0 1, 0, 0, 0, 0⟩
    let s : State := { labS with stations := [(0, { labStation with platform := [(0, w)], pools := [⟨1, some 0, [(32, 5)]⟩] })] }
    Tab.find (s.station 0).platform 0 = some w ∧ w.start ≤ s.stnNow 0 ∧ (((s.station 0).settle (s.stnNow 0)).grant 1 (some 0) 0 1).isSome = true := by decide

theorem witness_packet :
    let s : State := { labS with mesh := [⟨0, 0, .sigSet 5 1, .request, [], 0, [], [], 1⟩] }
    s.mesh[0]? = some ⟨0, 0, .sigSet 5 1, .request, [], 0, [], [], 1⟩ ∧ s.heldBack 0 ⟨0, 0, .sigSet 5 1, .request, [], 0, [], [], 1⟩ = false := by decide

theorem witness_packet_response :
    let x : Machine.Unit := { uS with blocked := some (.answer [4]) }
    let s : State := { labS with units := [(0, x)], mesh := [⟨4, 0, .access [] none (.s 5 true), .response [0x80], [], 0, [], [], 1⟩] }
    s.mesh[0]? = some ⟨4, 0, .access [] none (.s 5 true), .response [0x80], [], 0, [], [], 1⟩ ∧ x.busy = none ∧
      (∀ q ∈ s.mesh.drop 1, q.id ≠ 4) := by decide

theorem witness_invalidation_ack :
    let s : State := { labS with invals := [⟨0, 3, [], []⟩] }
    s.invals[0]? = some ⟨0, 3, [], []⟩ := by decide

theorem witness_copy_complete :
    let c : CopyChan := ⟨true, 0, [0, 0, 32, 0], 32, false, none, [], false, false, 0⟩
    let s : State := { labS with stations := [(0, { labStation with copies := [(1, c)] })] }
    (s.station 0).copy 1 = c ∧ c.busy = true ∧ copyLen c.desc ≤ c.ptr ∧ s.noInvals (copyAgent 0 1) .package = true ∧ s.mayTurn 0 rankCopy = true ∧ s.completionFree c.unit (wordAt c.desc 3) = true ∧ (wordAt c.desc 3).testBit 63 = false := by decide

theorem witness_mcast_complete :
    let m : Mcast := ⟨0, 1, 1, [0, 128, 0, 0], .sent, none⟩
    let s : State := { labS with mcasts := [(2, m)] }
    Tab.find s.mcasts 2 = some m ∧ m.st = .sent ∧ m.stale = none ∧ s.mesh = [] ∧ s.mayTurn 0 rankCopy = true ∧ s.completionFree m.unit (wordAt m.words 3) = true := by decide

theorem witness_stream_end :
    let x : Machine.Unit := { uS with blocked := some (.stream ⟨[0, 0, 0, 0], [], 0, 0, none, none, [], false, 0, none⟩) }
    let s : State := { labS with units := [(0, x)] }
    s.unit? 0 = some x ∧ strmRows [0, 0, 0, 0] ≤ 0 := by decide

theorem witness_doorbell :
    let s : State := { labS with queues := [(3, { Queue.reset with live := [0x30000, 0, 0, 0], st := .open_ })] }
    s.localQueue 0 3 = some 3 ∧ (s.queueAt 3).st ≠ .disabled ∧ ((8 : BitVec 32) - (s.queueAt 3).head).toNat ≤ 2 ^ qdLog2n (s.queueAt 3).live := by decide

theorem witness_doorbell_broken :
    let s : State := { labS with queues := [(3, { Queue.reset with live := [0x30000, 0, 0, 0], st := .open_ })] }
    2 ^ qdLog2n (s.queueAt 3).live < ((9 : BitVec 32) - (s.queueAt 3).head).toNat := by decide

theorem witness_queue_enable :
    let s : State := { labS with queues := [(3, { Queue.reset with desc := [0x30001, 0x40000, 0, 0] })] }
    s.localQueue 0 3 = some 3 ∧ (s.queueAt 3).st = .disabled ∧ s.qdOk 0 (s.queueAt 3).desc = true := by decide

theorem witness_queue_enable_bad :
    labS.localQueue 0 3 = some 3 ∧ (labS.queueAt 3).st = .disabled ∧ labS.qdOk 0 (labS.queueAt 3).desc = false := by decide

theorem witness_queue_disable :
    let s : State := { labS with queues := [(3, { Queue.reset with st := .full })] }
    (s.queueAt 3).st ≠ .disabled ∧ (s.queueAt 3).waiters = [] := by decide

theorem witness_queue_disable_waiter :
    let c : Captured := ⟨0, 0, 0, none, [], 0, none, false⟩
    let y : Machine.Unit := { uT with blocked := some (.again (.enq (.s 2)) c) }
    let s : State := { labT with units := [(0, y)], queues := [(3, { Queue.reset with st := .full, waiters := [(0, 0, 0, 0)] })] }
    (s.queueAt 3).st ≠ .disabled ∧ (s.queueAt 3).waiters = [(0, 0, 0, 0)] ∧ s.unit? 0 = some y := by decide

theorem witness_ring_fetch :
    let s : State := { labS with queues := [(3, { Queue.reset with live := [0x30000, 0x40000, 0, 0], st := .open_, tail := 1 })] }
    s.queuePart 3 = some 0 ∧ (s.part 0).keyless = false ∧ (s.queueAt 3).listed = false ∧ (s.queueAt 3).st = .open_ ∧ (s.queueAt 3).withheld = false ∧ (s.queueAt 3).window.length < 8 ∧ (s.queueAt 3).siding = [] ∧ (s.queueAt 3).waiters = [] ∧ (s.queueAt 3).tail ≠ (s.queueAt 3).head := by decide

theorem witness_enqueuer_served :
    let s : State := { labS with queues := [(3, { Queue.reset with st := .open_, waiters := [(0, 0, 0, 0)] })] }
    s.firstWaiter (s.queueAt 3).waiters = some (0, 0, 0, 0) ∧ s.unit? 0 = some uS ∧ (s.queueAt 3).room = true ∧ (s.queueAt 3).listed = false := by decide

theorem witness_enqueuer_promotion :
    let s : State := { labS with clocks := [(0, 2 ^ 16)], units := [(0, { uS with sys := { uS.sys with bclass := 1 } })], queues := [(3, { Queue.reset with waiters := [(0, 0, 0, 0)] })] }
    (s.queueAt 3).waiters[0]? = some (0, 0, 0, 0) ∧ 0 + 2 ^ 16 ≤ s.queueNow 3 ∧ s.waiterClass (0, 0, 0, 0) ≠ 0 := by decide

theorem witness_record_promotion :
    let s : State := { labS with clocks := [(0, 2 ^ 24)], queues := [(3, { Queue.reset with window := [⟨[], 3, 0⟩] })] }
    (s.queueAt 3).window[0]? = some ⟨[], 3, 0⟩ ∧ 0 + 2 ^ 24 ≤ s.queueNow 3 := by decide

theorem witness_spill_fault :
    let x : Queue := { Queue.reset with st := .spillFault, spill := some (1, ⟨[0, 0, 0, 0], 0, 0⟩), live := [1, 0, 0, 0] }
    let s : State := { labS with clocks := [(0, 2 ^ 28)], queues := [(3, x)] }
    s.queuePart 3 = some 0 ∧ x.waiters = [] ∧ x.spill = some (1, ⟨[0, 0, 0, 0], 0, 0⟩) ∧ x.readback = none ∧
      ((s.context? 1).map (·.removing)) = some false ∧ x.spillSince + (s.part 0).fslimit ≤ s.queueNow 3 ∧
      labS.queueNow 3 < x.spillSince + (labS.part 0).fslimit := by decide

theorem witness_readback_fault :
    let x : Queue := { Queue.reset with st := .spillFault, readback := some 1, siding := [(0, 0, 0, 1)], live := [1, 0, 0, 0] }
    let s : State := { labS with clocks := [(0, 2 ^ 28 + 1)], queues := [(3, x)] }
    s.queuePart 3 = some 0 ∧ x.waiters = [] ∧ x.spill = none ∧ x.readback = some 1 ∧ x.siding = (0, 0, 0, 1) :: [] ∧
      ((s.context? 1).map (·.removing)) = some false ∧ 1 + (s.part 0).fslimit ≤ s.queueNow 3 ∧
      labS.queueNow 3 < 1 + (labS.part 0).fslimit := by decide

theorem witness_decision_nothing :
    labS.queuesOf false 0 0 = [] ∧ labS.savedOf 0 0 0 = [] ∧ labS.savedOf 0 0 1 = [] ∧ labS.savedOf 0 0 2 = [] ∧ labS.savedOf 0 0 3 = [] := by decide

theorem witness_boundary :
    let r : Region := { benchRegion with st := .switching }
    let s : State := { labS with regions := [(1, r)] }
    s.region? 1 = some r ∧ s.atBoundary 1 r = true ∧ r.discard = false := by decide

theorem witness_boundary_discard :
    let r : Region := { benchRegion with st := .switching, discard := true }
    let s : State := { labS with regions := [(1, r)] }
    s.region? 1 = some r ∧ s.atBoundary 1 r = true := by decide

theorem witness_resume_not_saved :
    labS.region? 1 = some benchRegion ∧ benchRegion.st ≠ .saved ∧ labS.queuesOf false 0 0 = [] := by decide

theorem witness_resume_saved :
    let r : Region := { benchRegion with st := .saved, units := [] }
    let s : State := { labS with units := [], regions := [(1, r)], contexts := [(1, ⟨⟨0, 0, true, [], [⟨0, 1, false, false, [], [], 0⟩]⟩, false, 0⟩)] }
    s.region? 1 = some r ∧ s.queuesOf false 0 0 = [] ∧ (s.resumeRegion 1).isSome = true ∧ s.savedOf 0 0 0 = [] ∧
      s.savedOf 0 0 1 = [] ∧ s.savedOf 0 0 2 = [] ∧ s.savedOf 0 0 3 = [1] := by decide

theorem witness_launch_submit :
    let s : State := { labS with queues := [(3, { Queue.reset with st := .open_ })] }
    labPart.launch = none ∧ s.queuePart 3 = some 0 ∧ (s.queueAt 3).st ≠ .disabled ∧ 8 ≤ (s.queueAt 3).capacity ∧ labPart.laddr.toNat % 32 = 0 ∧ s.ownsAddr 0 (labPart.laddr.toNat + 32 * 8 - 1) = true := by decide

theorem witness_launch_refused :
    labS.queuePart 2048 ≠ some 0 := by decide

theorem witness_launch_bits :
    let v : W64 := 0x80030001
    (0x80030201 : W64).toNat % 2 ^ 9 = v.toNat % 2 ^ 9 ∧ (0x80030201 : W64).toNat / 2 ^ 16 % 2 ^ 15 = v.toNat / 2 ^ 16 % 2 ^ 15 ∧
      (0x80030201 : W64) ≠ v := by decide

theorem witness_launch_entry_disabled :
    let s : State := { labS with partitions := [(0, { labPart with launch := some (3, 0, 1) })] }
    (s.part 0).launch = some (3, 0, 1) ∧ (s.queueAt 3).st = .disabled := by decide

theorem witness_launch_entry :
    let s : State := { labS with queues := [(3, { Queue.reset with st := .open_ })], partitions := [(0, { labPart with launch := some (3, 0, 1) })] }
    (s.part 0).launch = some (3, 0, 1) ∧ (s.queueAt 3).st ≠ .disabled ∧ 1 ≤ (s.queueAt 3).places ∧ (s.queueAt 3).room = true ∧ s.mayEnter 3 rankDispatch = true := by decide

theorem witness_wake_arm :
    (0x8000000000000000#64).getLsbD 63 = true ∧ labS.wakeOk 0 0x8000000000000000#64 = true := by decide

theorem witness_wake_bad :
    labS.wakeOk 0 0xE000000000000000#64 = false := by decide

theorem witness_record_complete :
    let r : Region := { benchRegion with done := true, units := [] }
    let s : State := { labS with units := [], regions := [(1, r)] }
    s.region? 1 = some r ∧ s.recordDone 1 r = true := by decide

theorem witness_watchdog :
    let w : Wait := ⟨.block 0 0 1, 0, 0, 0, 0⟩
    let s : State := { labS with clocks := [(0, 2 ^ 26)], regions := [(1, benchRegion)], stations := [(0, { labStation with platform := [(0, w)] })] }
    (longest (s.requestsOf 1 benchRegion)).isSome = true ∧ benchRegion.st = .running ∧ (s.part 0).wdlimit ≤ s.regionCycles 1 - benchRegion.wdBase := by decide

theorem witness_depot_idle :
    labS.stackPart 0 = some 0 ∧ labS.idleCore 0 = some 0 := by decide

theorem witness_depot_stop :
    let s : State := { labD with cores := [(0, { Core.reset with st := .stopping })] }
    s.unit? (coreBase + 0) = some uD ∧ (s.core 0).st = .stopping ∧ s.kernelQuiet 0 uD = true ∧ uD.blocked = none := by decide

theorem witness_depot_save :
    let s : State := { labD with cores := [(0, { Core.reset with st := .saving })] }
    s.unit? (coreBase + 0) = some uD ∧ (s.core 0).st = .saving := by decide

theorem witness_mailbox_full :
    let s : State := { labD with cores := [(0, { Core.reset with full := 0x80 })] }
    (s.core 0).full.getLsbD 7 = true ∧ (Tab.find (s.core 0).heldMsg 7).isNone = true ∧ (s.core 0).full.getLsbD 0 = false := by decide

theorem witness_depot_failure :
    (labS.core 255).st = .idle := by decide

theorem witness_triple_delivery :
    let t : Triple := ⟨7, ⟨0, 0, 0, 5, 0⟩, [], some 0⟩
    let s : State := { labD with cores := [(0, { Core.reset with async := [t] })] }
    (s.core 0).async[0]? = some t ∧ t.handle = some 0 ∧ s.unit? (coreBase + 0) = some uD := by decide

theorem witness_pager_in :
    let x : Partition := { labPart with faultq := [⟨0, 0, none, [], none⟩] }
    let s : State := { labS with partitions := [(0, x)] }
    Tab.find s.partitions 0 = some x ∧ x.pagerIn = false ∧ (x.faultq ≠ [] ∨ x.migq ≠ []) := by decide

theorem witness_pager_out :
    let x : Partition := { labPart with pagerIn := true }
    let s : State := { labS with partitions := [(0, x)], clocks := [(0, 2 ^ 20)] }
    Tab.find s.partitions 0 = some x ∧ x.faultq = [] ∧ x.migq = [] ∧ x.migration = none ∧ x.pagerIdle + 2 ^ 20 ≤ s.pagerNow 0 := by decide

theorem witness_pager_serve :
    let r : FaultRec := ⟨0x0001000000000000, 0x1000, none, [], none⟩
    let x : Partition := { labPart with pagerIn := true, faultq := [r] }
    let s : State := { labS with partitions := [(0, x)] }
    x.faultq[0]? = some r ∧ s.context? (recCtx r) ≠ none ∧ s.mapped 0 r = true ∧ x.hreqWait = [] ∧ x.hreqRoom = true := by decide

theorem witness_fault_release :
    let r : FaultRec := ⟨0x0001000000000000, 0x1000, none, [], some true⟩
    let x : Partition := { labPart with faultq := [r] }
    x.faultq[0]? = some r ∧ r.release = some true := by decide

theorem witness_fault_released :
    let r : FaultRec := ⟨0x0001000000000000, 0x1000, none, [], some false⟩
    let s : State := { labS with partitions := [(0, { labPart with faultq := [r] })] }
    let t : State := { s with mesh := [⟨4, 0, .access [⟨0x1000, ⟨.device, 0x20001000⟩, ⟨0, false, false, false⟩, 8, [], []⟩] none (.s 5 true), .request, [], 0, [], [], 1⟩] }
    s.pageQuiet (recCtx r) r.w0.toNat = true ∧ t.pageQuiet (recCtx r) r.w0.toNat = false := by decide

theorem witness_host_request :
    let x : Partition := { labPart with hreqWait := [[1, 0, 0]] }
    x.hreqWait = [1, 0, 0] :: [] ∧ x.hreqRoom = true := by decide

theorem witness_host_answer :
    let r : FaultRec := ⟨0x0001000000000000, 0x1000, some 0, [], none⟩
    let x : Partition := { labPart with faultq := [r], hreqHead := 1 }
    x.faultq = [r] ∧ r.host = some 0 ∧ r.release = none ∧ fld (0 : BitVec 64).toNat 32 32 = 0 ∧ x.hreqWait.length ≤ (BitVec.ofNat 32 0 - x.hreqHead).toNat ∧ x.hframe = none := by decide

theorem witness_migration_done :
    let m : Migration := ⟨1, 0, 0, 0, 5⟩
    let x : Partition := { labPart with pagerIn := true, migration := some m }
    let s : State := { labS with partitions := [(0, x)] }
    Tab.find s.partitions 0 = some x ∧ x.migration = some m ∧ 5 ≤ m.step ∧ x.hreqWait = [] ∧ x.hreqRoom = true := by decide

theorem witness_no_frame_free :
    let s : State := { labS with partitions := [(0, { labPart with districts := [] })] }
    s.noFrameFree 0 = true ∧ labS.noFrameFree 0 = false := by decide

theorem witness_poison_walk :
    let s : State := { labS with contexts := [] }
    s.ownsAddr 0 (2 ^ 16 * 7) = true ∧ labPart.kvcb = 0 ∧ labPart.poisons = [] ∧ s.poisoned.contains 7 = false := by decide

def markB (r : Kv Nat) : Nat :=
  match r with
  | .ok mark _ => if mark / 2 ^ 32 % 2 ^ 32 ≤ mark % 2 ^ 32 then 0 else 1
  | .fault _ => 2
  | .hold _ _ _ _ => 3

theorem witness_eviction_above :
    let p : Partition := { labPart with kvcb := 0x1000 }
    let s : State := { labS with partitions := [(0, p)] }
    s.engineCtx 0 = some 1 ∧ p.kvcb ≠ 0 ∧ p.evicting = none ∧
      markB ((engineEnv 0 1).cbq 8 s) = 0 := by decide

theorem witness_eviction_withheld :
    let s : State := { labS with partitions := [(0, { labPart with kvcb := 0x10000000000 })] }
    markB ((engineEnv 0 1).cbq 8 s) = 3 := by decide

theorem witness_flit :
    (labS.mainPort 15).lanes.getLsbD 7 = true ∧ labS.portPart 15 = none ∧ (labS.mainPort 15).down = false ∧
      (labS.mainPort 15).key ≠ .live ∧ ({ MainPort.reset with key := .live } : MainPort).key = .live ∧
      ({ MainPort.reset with key := .zeroed } : MainPort).key = .zeroed := by decide

theorem witness_lane_retires :
    let x : MainPort := { MainPort.reset with lanes := 0x0F, refusals := [(3, 15)] }
    let s : State := { labS with mainPorts := [(15, x)] }
    s.portPart 15 = none ∧ x.lanes.getLsbD 3 = true ∧ 16 ≤ Tab.get x.refusals 3 0 + 1 ∧
      ({ x with lanes := x.lanes &&& ~~~(1#8 <<< 3) } : MainPort).width < 4 := by decide

theorem witness_epoch :
    let s : State := { labS with mainPorts := [(0, { MainPort.reset with key := .live, nextKey := true, txSeq := 2 ^ 40 - 2 ^ 20 })] }
    (s.mainPort 0).nextKey = true ∧ 2 ^ 40 - 2 ^ 20 ≤ (s.mainPort 0).txSeq ∧ (s.mainPort 0).key = .live ∧ (s.mainPort 0).queued = [] ∧ (s.mainPort 0).down = false := by decide

theorem witness_port_down :
    let s : State := { labS with mainPorts := [(4, { MainPort.reset with lanes := 7 })] }
    (s.mainPort 4).width < 4 ∧ 4 ≤ (labS.mainPort 4).width := by decide

theorem witness_context_other :
    labS.context? 2 = none ∧ Tab.find labS.partitions 0 = some labPart := by decide

theorem witness_context_kill :
    (labS.context? 1).map (·.desc.part) = some 0 := by decide

theorem witness_context_resume :
    let r : Region := { benchRegion with st := .stoppedSaved }
    let s : State := { labS with regions := [(1, r)] }
    s.regions = [(1, r)] ∧ s.cores = [] ∧ r.ctx = 1 := by decide

theorem witness_switch_out :
    labS.regions = [(1, benchRegion)] ∧ benchRegion.st = .running ∧ labS.frozen 1 = false := by decide

theorem witness_region_release :
    let r : Region := { benchRegion with st := .draining }
    let s : State := { labS with regions := [(1, r)], units := [(0, { uS with inbox := [] })] }
    s.region? 1 = some r ∧ s.drained 1 r = true := by decide

theorem witness_context_removal :
    let s : State := { labS with regions := [], contexts := [(1, ⟨⟨0, 0, false, [], []⟩, true, 2⟩)] }
    (s.context? 1).map (·.removing) = some true ∧ s.noKernels 1 = true ∧ s.regions = [] := by decide

theorem witness_context_create :
    labPart.st = .active ∧ labS.critical = none ∧ labS.context? 65535 = none ∧ labS.ownsAddr 0 0x10000 = true ∧ 0x10000 % 2 ^ 16 = 0 := by decide

theorem witness_host_memory :
    labS.inWindow 0 0 8 = true ∧ labPart.memKey = .active ∧ labS.poisoned = [] := by decide

theorem witness_window_none :
    labS.shown 0 (selOf labPart.unitsel) = .none := by decide

theorem witness_window_live :
    let s : State := { labS with regions := [(1, { benchRegion with st := .stoppedResident })] }
    s.shown 0 (selOf 1) = .live 0 uS ∧ isCore 0 = false := by decide

theorem witness_window_unrev :
    let s : State := { labS with regions := [(1, { benchRegion with st := .stoppedResident })] }
    s.shown 0 (selOf 1) = .live 0 uS ∧ uS.region ≠ 0 ∧ (s.region? uS.region).isSome = true := by decide

theorem witness_limits :
    2 ^ 16 ≤ (0x10000#64).toNat ∧ (0x10000#64).toNat ≤ 2 ^ 40 ∧ 2 ^ 40 < (0x10000000001#64).toNat := by decide

theorem witness_report :
    labS.inWindow 0 labPart.attAddr.toNat 36320 = true := by decide

theorem witness_key_install :
    let s : State := { labS with partitions := [(0, { labPart with memKey := .empty })] }
    (s.part 0).memKey = .empty ∧ 0 ∈ (s.part 0).districts := by decide

theorem witness_main_line_keys :
    let s : State := { labS with mainPorts := [(1, { MainPort.reset with key := .live }), (2, { MainPort.reset with key := .zeroed })],
                                 partitions := [(0, { labPart with districts := [0, 1, 2] })] }
    (s.part 0).districts.Nodup ∧ (s.mainPort 0).key = .none ∧ (s.mainPort 1).key = .live ∧ (s.mainPort 2).key = .zeroed := by decide

theorem witness_key_scrubbing :
    let s : State := { labS with partitions := [(0, { labPart with memKey := .scrubbing, ideKey := .installed })] }
    (s.part 0).memKey = .scrubbing ∧ (s.part 0).ideKey = .installed := by decide

theorem witness_key_revoked :
    let s : State := { labS with contexts := [], partitions := [(0, { labPart with memKey := .empty, ideKey := .revoked })] }
    (s.part 0).memKey = .empty ∧ (s.part 0).ideKey = .revoked ∧ s.contexts = [] ∧ s.colls = [] := by decide

theorem witness_key_revoke :
    let s : State := { labS with contexts := [] }
    (s.part 0).memKey = .active ∧ s.contexts = [] ∧ s.colls = [] := by decide

theorem witness_partition_create :
    (Tab.find labS.partitions 1).isNone = true ∧ labS.power = .up ∧ labS.critical = none ∧ ascending [1, 2, 3] = true ∧ labS.partOf 1 = none ∧ labS.partOf 2 = none ∧ labS.partOf 3 = none ∧ connected [1, 3, 2] = true ∧ districtOfStn 64 ∈ [1, 2, 3] ∧ (labS.station 64).retired = false := by decide

theorem witness_partition_destroy :
    let s : State := { labS with contexts := [] }
    s.contextsOf 0 = [] ∧ s.queuesOff 0 = true := by decide

theorem witness_station_retire :
    (labS.station 511).retired = false ∧ labS.regionsAt 511 = [] ∧ labS.partOf (districtOfStn 511) = none ∧ labS.regionsAt 0 ≠ [] := by decide

theorem witness_channel_retire :
    labS.retiredCh = [] ∧ labS.partOf 15 = none := by decide

theorem witness_power_on :
    labS.power.runs = true ∧ labS.critical = none ∧ State.reset.power.runs = true ∧
      ({ labS with power := .off } : State).power.runs = false := by decide

theorem witness_bring_up :
    let fs : List Failing := [.rails, .station 511, .core 255, .channel 2559, .lanes 15 0x80]
    Failing.rails ∈ fs ∧ Failing.station 511 ∈ fs ∧ Failing.core 255 ∈ fs ∧ Failing.channel 2559 ∈ fs ∧ Failing.lanes 15 0x80 ∈ fs ∧
      (0x80 : BitVec 8).getLsbD 7 = true := by decide

theorem witness_recovery :
    let s : State := { labS with power := .recovery, partitions := [] }
    s.power = .recovery ∧ Tab.find s.partitions 0 = none := by decide

theorem witness_critical_temperature :
    let s : State := { labS with contexts := [] }
    s.power.runs = true ∧ s.critical = none ∧ s.contexts = [] ∧ labS.contexts ≠ [] ∧
      ({ labS with critical := some 7 } : State).critical = some 7 := by decide

theorem witness_wear :
    let v (unit wear : Nat) : W64 := w64 (unit * 2 ^ 32 + wear)
    (v 5 1).toNat % 2 ^ 16 ≠ 0 ∧ (v 511 0).toNat % 2 ^ 16 = 0 ∧ (v 511 0).toNat / 2 ^ 32 % 2 ^ 16 = 511 ∧
      (v 127 0).toNat / 2 ^ 32 % 2 ^ 16 = 127 ∧ (labS.mainPort (127 / 8)).lanes.getLsbD (127 % 8) = true := by decide

/-! ### Witnesses of waits, faults and repeats -/

/-- A page that no table maps. -/
def far : Nat := 2 ^ 40

def heldB (r : State × PortRes) : Bool := match r.2 with | .hold _ => true | _ => false

theorem held_of {r : State × PortRes} (h : heldB r = true) : ∃ t k, r = (t, .hold k) := by
  obtain ⟨t, r⟩ := r
  cases r with
  | hold k => exact ⟨t, k, rfl⟩
  | ok _ => exact absurd h (by simp [heldB])
  | fault _ => exact absurd h (by simp [heldB])

def faultB (r : State × PortRes) : Bool := match r.2 with | .fault _ => true | _ => false

theorem fault_of {r : State × PortRes} (h : faultB r = true) : ∃ t e, r = (t, .fault e) := by
  obtain ⟨t, r⟩ := r
  cases r with
  | fault e => exact ⟨t, e, rfl⟩
  | ok _ => exact absurd h (by simp [faultB])
  | hold _ => exact absurd h (by simp [faultB])

theorem witness_load_withheld : ∃ t h, (labS.taken [.s 6]).translateAccess 0 uS wantRead true (loadPieces far 8) = (t, .hold h) :=
  held_of (by decide)

theorem witness_load_faults : ∃ t e, (labS.taken [.s 6]).translateAccess 0 uS wantRead true (loadPieces (2 ^ 56) 8) = (t, .fault e) :=
  fault_of (by decide)

theorem witness_store_withheld : ∃ t h, (labS.taken [.s 6, .s 5]).translateAccess 0 uS wantWrite true (storePieces far 8 [(0, 7)]) =
    (t, .hold h) := held_of (by decide)

theorem witness_interval_going :
    let x : Machine.Unit := { uS with busy := some ⟨3, .s 5, 0, 3, .none⟩ }
    let s : State := { labS with units := [(0, x)] }
    s.unit? 0 = some x ∧ s.clockOf 0 < 3 ∧ s.draining x = false := by decide

theorem witness_interval_draining :
    let x : Machine.Unit := { uS with busy := some ⟨0, .s 5, 0, 3, .none⟩ }
    let s : State := { labS with units := [(0, x)], regions := [(1, { benchRegion with st := .draining })] }
    s.unit? 0 = some x ∧ 0 ≤ s.clockOf 0 ∧ s.draining x = true := by decide

theorem witness_interval_emits :
    let x : Machine.Unit := { uS with busy := some ⟨0, .o 0, 0, 3, .none⟩ }
    let s : State := { labS with units := [(0, x)], regions := [(1, { benchRegion with st := .draining })],
                                 stations := [(0, { labStation with arcs := [(5, ⟨1, 0, 0, 8192, 8192, false, false⟩)] })] }
    (((s.writeResult 0 (.o 0) 0 3).unit? 0).bind (·.blocked)).map (fun b => match b with | .emit _ _ _ => true | _ => false) =
      some true := by decide

theorem witness_arc_order :
    let f : Flight := ⟨none, ⟨0, 0, 0, 5, 0⟩, ⟨1, .dat, none, 5, false⟩, false⟩
    let s : State := { labS with flight := [f, f] }
    s.flight[1]? = some f ∧ s.flight[0]? = some f ∧ f.dest.station = f.dest.station ∧ f.dest.entry = f.dest.entry := by decide

theorem witness_slot_grant :
    let f : Flight := ⟨some 0, ⟨0, 0, 0, 5, 1⟩, ⟨1, .dat, none, 5, false⟩, false⟩
    let w : Wait := ⟨.slot 5 (some 0) f, 0, 0, 0, 0⟩
    let s : State := { labS with stations := [(0, { labStation with platform := [(5, w)], arcs := [(5, ⟨1, 0, 0, 1, 0, false, false⟩)] })] }
    Tab.find (s.station 0).platform 5 = some w ∧ w.start ≤ s.stnNow 0 ∧ s.arcRegion (s.pathAt 0 5) = 1 ∧ s.isResident 1 = true ∧
      s.slotGrant 0 5 = true := by decide

theorem witness_alloc_granted :
    let s : State := { labS with stations := [(0, { labStation with pools := [⟨1, some 0, [(32, 5)]⟩] })] }
    s.Fires (.alloc (.s 5) (.imm 0) (.imm 1)) uS ∧ ((s.taken [.imm 0, .imm 1]).tryAlloc 0 uS 0 1 false).isSome = true :=
  ⟨fires_of (by decide), by decide⟩

theorem witness_alloc_waits : labS.Fires (.alloc (.s 5) (.imm 0) (.imm 1)) uS ∧
    (labS.taken [.imm 0, .imm 1]).tryAlloc 0 uS 0 1 false = none := ⟨fires_of (by decide), by decide⟩

theorem witness_alloc_wait_ends :
    let x : Machine.Unit := { uS with blocked := some (.alloc 0 1 (some 5) []) }
    let s : State := { labS with units := [(0, x)] }
    s.unit? 0 = some x ∧ x.busy = none := by decide

/-- The block of the laboratory at station 1, and S2 naming it there. -/
def labFar : State :=
  { labS with stations := [(0, labStation), (1, labStation)]
              regions := [(1, { benchRegion with stations := [0, 1] })]
              units := [(0, { uS with s := Tab.put labRegs 2 (mkHandle 1 1 5 0 0) })] }

theorem witness_load_elsewhere :
    let x : Machine.Unit := { uS with s := Tab.put labRegs 2 (mkHandle 1 1 5 0 0) }
    labFar.Fires (.ldb (.s 5) (.s 2)) x ∧ isSignalHandle (labFar.opVal x (.s 2)) = false ∧ hStn (labFar.opVal x (.s 2)) ≠ stnOf 0 ∧
      (labFar.taken [.s 2]).resolveBlock x.ctx (labFar.opVal x (.s 2)) = .ok labBlock := ⟨fires_of (by decide), by decide⟩

theorem witness_load_stale : labS.Fires (.ldb (.s 5) (.s 6)) uS ∧ isSignalHandle (labS.opVal uS (.s 6)) = false ∧
    (match (labS.taken [.s 6]).resolveBlock uS.ctx (labS.opVal uS (.s 6)) with | .ok _ => false | _ => true) = true :=
  ⟨fires_of (by decide), by decide⟩

theorem witness_event_performs :
    let e : Machine.Event := ⟨0x1000, ⟨.device, 0x20001000⟩, ⟨2, false, false, false⟩, 8, [], []⟩
    (match labS.performEvent 0 [0] 0 e none with | .done _ _ => true | _ => false) = true ∧ labS.peerWaits e.loc = false := by decide

theorem witness_event_waits :
    let e : Machine.Event := ⟨0x1000, ⟨.device, 0x20001000⟩, ⟨0, false, false, false⟩, 8, [], []⟩
    (match labS.performEvent 0 [0] 0 e none with | .wait _ _ => true | _ => false) = true := by decide

theorem witness_peer_spent :
    let s : State := { labS with mainPorts := [(0, { MainPort.reset with txSeq := 2 ^ 40 - 2 ^ 20 })] }
    s.peerWaits ⟨.peer, 0⟩ = true := by decide

theorem witness_held_again :
    let h : Held := ⟨0, 1, 0, ⟨0x1000, ⟨.device, 0x20001000⟩, ⟨0, false, false, false⟩, 8, [(0, 7)], []⟩, none, .system, some ⟨0x1000, 0, true, 0, 0⟩, [], true, 0, [], []⟩
    let s : State := { labS with stations := [(0, { labStation with ports := [(0, ⟨[], [], [h]⟩)] })] }
    s.nextHeld 0 0 = some h ∧ s.region? h.region = some benchRegion ∧ h.withheld.isSome = true := by
  decide

theorem witness_home_byte : labS.keyless 0 ⟨.device, 0⟩ = false ∧ labS.line? (labS.keyOf 0 ⟨.device, 0⟩) = none ∧ (0 : Nat) % 128 = 0 := by
  decide

theorem witness_home_refuses :
    let s : State := { labS with partitions := [(0, { labPart with memKey := .revoked })] }
    s.keyless 0 ⟨.device, 0⟩ = true := by decide

def sideB {α : Type} (r : SideRes α) : Nat := match r with | .ok _ _ => 0 | .hold _ _ => 1 | .wait _ => 2 | .fault _ _ => 3

theorem witness_copy_event :
    let c : CopyChan := ⟨true, 0, [mkHandle 1 0 5 0 0, mkHandle 1 0 5 0 512, 32, 0], 0, false, none, [], false, false, 0⟩
    let s : State := { labS with stations := [(0, { labStation with copies := [(1, c)] })] }
    let t := s.repeated (copyAgent 0 1)
    (s.station 0).copy 1 = c ∧ c.wrote = false ∧ c.busy = true ∧ c.hold = none ∧ c.ptr < copyLen c.desc ∧ s.mayRepeat (copyAgent 0 1) = true ∧
      sideB (t.readSide 0 uS (copyAgent 0 1) c.asked (copySrcGlobal c.desc) (copySrc c.desc) c.ptr 32) = 0 ∧
      sideB (t.writeSide 0 uS (copyAgent 0 1) false (copyDstGlobal c.desc) (copyDst c.desc) c.ptr (List.replicate 32 0)) = 0 := by decide

set_option maxRecDepth 4000 in
theorem witness_copy_wrote :
    let c : CopyChan := ⟨true, 0, [mkHandle 1 0 5 0 0, 0x1000, 32 + 2 ^ 61, 0], 0, false, none, [], false, true, 0⟩
    let s : State := { labS with stations := [(0, { labStation with copies := [(1, c)] })], invals := [⟨0, 3, [copyAgent 0 1], []⟩] }
    (s.station 0).copy 1 = c ∧ c.wrote = true ∧ s.noInvals (copyAgent 0 1) .package = false ∧
      labS.noInvals (copyAgent 0 1) .package = true := by decide

theorem witness_copy_withheld :
    let c : CopyChan := ⟨true, 0, [w64 far, mkHandle 1 0 5 0 512, 32 + 2 ^ 62, 0], 0, false, none, [], false, false, 0⟩
    sideB (labS.readSide 0 uS (copyAgent 0 1) c.asked true (w64 far) c.ptr 32) = 1 ∧
      sideB (labS.readSide 0 uS (copyAgent 0 1) c.asked true 0x1000 c.ptr 32) = 2 ∧
      sideB (labS.readSide 0 uS (copyAgent 0 1) c.asked true 0x8000000000000000 c.ptr 32) = 3 := by decide

theorem witness_mcast_stale :
    let m : Mcast := ⟨0, 1, 1, [0, 128, 0, 0], .sent, some 7⟩
    let s : State := { labS with mcasts := [(2, m)] }
    Tab.find s.mcasts 2 = some m ∧ m.st = .sent ∧ m.stale = some 7 ∧ s.mesh = [] := by decide

theorem witness_vector :
    let j : Junction := { Junction.reset with bank0 := { Bank.reset with fmt := .i8 } }
    (j.bank 0).fmt = .i8 ∧ (j.bank 1).fmt ≠ .i8 ∧ jMode .i8 ≠ jMode (j.bank 1).fmt := by decide

theorem witness_task_fill :
    let t : Task := ⟨0, false, some ([], 0), some ([], 0), .loading, 0, none, []⟩
    let j : Junction := { Junction.reset with load := some (none, .wswap), tasks := [t] }
    j.load = some (none, .wswap) ∧ loadingTask j.tasks = some t ∧ rowsEntering j.tasks = false ∧ j.mma = none ∧
      rowsEntering ({ t with stage := .streaming } :: j.tasks) = true := by decide

theorem witness_task_row :
    let t : Task := ⟨0, false, some ([], 0), some ([], 0), .streaming, 5, none, []⟩
    let j : Junction := { Junction.reset with tasks := [t] }
    let s : State := { labS with junctions := [(0, j)] }
    s.junction 0 = j ∧ j.mma = none ∧ j.queue = [] ∧ streamingTask j.tasks = some t ∧ j.slotShut (j.entrySlot t.entry) = false := by decide

theorem witness_line_stop :
    let l : LoopLine := { LoopLine.reset with claim := some 1, running := true, stopping := true }
    let s : State := { labS with loopLines := [(0, l)] }
    s.loopLine (0 * 8 + 0) = l ∧ l.stopping = true := by decide

theorem witness_fetch :
    let t : Task := ⟨3, true, none, none, .fetching, 0, none, []⟩
    let l : LoopLine := { LoopLine.reset with claim := some 1, running := true }
    let s : State := { labS with loopLines := [(0, l)], junctions := [(0, { Junction.reset with tasks := [t] })] }
    s.loopLine 0 = l ∧ s.region? 1 = some benchRegion ∧ fetchingTask (s.junction 0).tasks = some t ∧ s.mayRepeat (junctionAgent 0) = true := by
  decide

theorem witness_tile_moves :
    let t : Tile := ⟨true, 0, 0, 0, 3, 0, 7, 0, []⟩
    let l : LoopLine := { LoopLine.reset with tiles := [(0, t)], arm := 0x10000 }
    (0, t) ∈ l.tiles ∧ ((0 + 7) % 8 = t.start ∧ t.laps + 1 = l.arm.toNat / 2 ^ 16 % 2 ^ 8) := by decide

theorem witness_list_waits :
    let q : Queue := { Queue.reset with st := .open_, listed := true, window := List.replicate 8 ⟨[], 0, 0⟩, live := [0, 0, 0, 0] }
    let s : State := { labS with queues := [(3, q)], partitions := [(0, { labPart with launch := some (3, 0, 2) })] }
    (s.part 0).launch = some (3, 0, 2) ∧ s.queueAt 3 = q ∧ q.room = false ∧ s.mayEnter 3 rankDispatch = true := by decide

theorem witness_list_address :
    let p : Partition := { labPart with laddr := 7 }
    let s : State := { labS with queues := [(3, { Queue.reset with st := .open_ })], partitions := [(0, p)] }
    Tab.find s.partitions 0 = some p ∧ p.laddr.toNat % 32 ≠ 0 ∧ s.ownsAddr 0 p.laddr.toNat = true ∧
      s.ownsAddr 0 (p.laddr.toNat + 32 * 1 - 1) = true ∧ s.ownsAddr 0 (2 ^ 54) = false := by decide

/-- A graph of one station with one unit of one word, and one of a depot core. -/
def labGraph : Graph := ⟨0, 1, false, false, [], [], 0⟩
def labDepotGraph : Graph := ⟨0, 1, false, true, [], [0], 0⟩

theorem witness_decision :
    let x : Queue := { Queue.reset with st := .open_, live := [0x4000001, 0, 0, 0], window := [⟨[0, 0, 0, 0], 0, 0⟩] }
    let s : State := { labS with regions := [], units := [], queues := [(3, x)],
                                 contexts := [(1, ⟨⟨0, 0, true, [], [labGraph]⟩, false, 0⟩)] }
    s.queuesOf false 0 0 = [3] ∧ s.headBad 3 ⟨[0, 0, 0, 0], 0, 0⟩ = false ∧
      (s.candidates [3] (s.savedOf 0 0) (fabricKey 0 0)).2 = [(0, .head 3)] ∧
      (match (s.candidates [3] (s.savedOf 0 0) (fabricKey 0 0)).1.place 0 3 [0, 0, 0, 0] [] with | .started _ => true | _ => false) = true := by
  decide

theorem witness_service_timeout :
    let c : Captured := ⟨w64 far, 0, 0, some ⟨far, 0, false, 0, 0⟩, [], 0, none, false⟩
    let x : Machine.Unit := { uS with blocked := some (.again (.ldg .natural false (.s 5) (.s 6)) c) }
    let s : State := { labS with units := [(0, x)], clocks := [(0, 2 ^ 40)] }
    s.unit? 0 = some x ∧ x.region = 1 ∧ benchRegion.st = .running ∧ s.holdsOf 0 x = [⟨far, 0, false, 0, 0⟩] ∧
      benchRegion.unrevocable (s.commitIndex 1) = false ∧ 0 + (s.part x.part).fslimit ≤ s.regionCycles 1 := by decide

theorem witness_depot_dispatch :
    let x : Queue := { Queue.reset with st := .open_, live := [0xC000001, 0, 0, 0], window := [⟨[0, 0, 0, 0], 0, 0⟩] }
    let s : State := { labS with queues := [(3, x)], contexts := [(1, ⟨⟨0, 0, true, [], [labDepotGraph]⟩, false, 0⟩)] }
    s.stackPart 0 = some 0 ∧ s.idleCore 0 = some 0 ∧ (s.depotSearch 0 0).2 = [(0, .head 3)] ∧
      ((s.depotSearch 0 0).1.queueAt 3).window = x.window ∧ s.graph? 1 0 = some labDepotGraph ∧ depotReason labDepotGraph = none := by decide

theorem witness_depot_resume :
    let k : SavedKernel := ⟨uD, [0, 0, 0, 0], 3, 0, 0, [], 0, [], [], [], [], 5⟩
    let s : State := { labS with cores := [(1, { Core.reset with saved := [k] })] }
    s.stackPart 0 = some 0 ∧ s.idleCore 0 = some 0 ∧ (s.depotSearch 0 0).2 = [(0, .saved 5)] ∧
      ((s.savedKernels 0).find? fun k => k.2.order == 5) = some (1, k) := by decide

theorem witness_pager_maps :
    let r : FaultRec := ⟨0x0001000000000000, w64 (2 ^ 29), none, [], none⟩
    let x : Partition := { labPart with pagerIn := true, faultq := [r] }
    let s : State := { labS with partitions := [(0, x)] }
    x.faultq[0]? = some r ∧ s.mapped 0 r = false ∧ s.framesFree 0 [9, 10] = true := by decide

theorem witness_migration_begins :
    let x : Partition := { labPart with pagerIn := true, migq := [(0x0001000000000000, 0)] }
    let s : State := { labS with partitions := [(0, x)], dram := Memory.writes [] [(0, 1), (2, 1), (65536, 1), (65538, 2), (131072, 0x1F)] }
    x.migration = none ∧ s.frameFree 0 9 = true ∧ (s.leafAt 0 1 0).isSome = true := by decide

theorem witness_poison_marks :
    let p : Partition := { labPart with kvcb := 0x1000 }
    let s : State := { labS with partitions := [(0, p)], contexts := [] }
    s.ownsAddr 0 (2 ^ 16 * 7) = true ∧ p.kvcb ≠ 0 ∧ s.engineCtx 0 = none ∧ p.poisons = [] := by decide

theorem witness_eviction_retry :
    let e : Evicting := ⟨0, 0, 3, 0, none⟩
    let p : Partition := { labPart with evicting := some e }
    let s : State := { labS with partitions := [(0, p)], clocks := [(0, 2 ^ 16)] }
    s.engineCtx 0 = some 1 ∧ p.evicting = some e ∧ s.mayRepeat (engineAgent 0) = true ∧
      e.since + 2 ^ 16 ≤ (s.repeated (engineAgent 0)).pagerNow 0 := by decide

theorem witness_collective_abandon :
    let c : Coll := { collOf 0 uS [0x20100000008, mkHandle 1 0 5 0 0, mkHandle 1 0 5 0 512, 1] with partials := 0 }
    let s : State := { labS with colls := [(0 * 64 + 0, c)] }
    Tab.find s.colls (0 * 64 + 0) = some c ∧ c.first = false ∧ c.prev = 0 ∧ (s.mainPort 0).down = false := by decide

theorem witness_context_resident :
    let r : Region := { benchRegion with st := .stoppedResident, units := [] }
    let s : State := { labS with units := [], regions := [(1, r)] }
    s.regions = [(1, r)] ∧ s.cores = [] ∧ r.ctx = 1 ∧ r.units = [] := by decide

theorem witness_host_memory_closed :
    let s : State := { labS with partitions := [(0, { labPart with memKey := .revoked })] }
    s.inWindow 0 0 8 = true ∧ (s.part 0).memKey ≠ .active := by decide

theorem witness_channel_taken :
    let s : State := { labS with retiredCh := [(0, 0)] }
    (0 * 32 + 3 / 5, 0) ∈ s.retiredCh ∧ (0 * 32 + 3 / 5, 3 % 5) ∉ s.retiredCh := by decide

theorem witness_call_spills :
    let x : Machine.Unit := { uS with rstack := List.replicate 16 3, sys := { uS.sys with rspill := mkHandle 1 0 5 0 0, rslimit := 512 } }
    let s : State := { labS with units := [(0, x)] }
    s.Fires (.call 1) x ∧ 16 ≤ x.rstack.length ∧ spillOff 0 x + 8 ≤ spillLimit 0 x ∧
      (s.taken []).resolveBlock x.ctx x.sys.rspill = .ok labBlock := ⟨fires_of (by decide), by decide⟩

theorem witness_ret_refills :
    let x : Machine.Unit := { uS with rstack := [], sys := { uS.sys with rspill := mkHandle 1 0 5 0 8, spilled := 1 } }
    let s : State := { labS with units := [(0, x)] }
    s.Fires .ret x ∧ x.sys.spilled ≠ 0 ∧ (s.taken []).resolveBlock x.ctx x.sys.rspill = .ok labBlock := ⟨fires_of (by decide), by decide⟩

/-- A unit of the laboratory carried on. -/
def labAgain (s : State) (c : Captured) : State := { s with cur := { s.cur with cap := some c } }

theorem witness_wait_carried : (labAgain labD ⟨0, 0, 1, none, [7], 0, none, false⟩).Carried (.wait .land (.imm 0)) uD ⟨0, 0, 1, none, [7], 0, none, false⟩ ∧
    isCore coreBase = true := ⟨⟨by rfl, rfl, by decide, by decide⟩, by decide⟩

theorem witness_sigwait_carried :
    let c : Captured := ⟨mkHandle 0 0 15 5 0, 0, 0, none, [], 0, none, false⟩
    (labAgain labS c).Carried (.sigwait .ge (.s 4) (.s 5)) uS c ∧ isSignalHandle c.a = true ∧
      ((labAgain labS c).resumed uS [.s 4, .s 5]).signalQuiet 0 (hSignal c.a) = true ∧
      sigHolds .ge (((labAgain labS c).resumed uS [.s 4, .s 5]).signal (hSignal c.a)) c.b = true :=
  ⟨⟨by rfl, rfl, by decide, by decide⟩, by decide⟩

theorem witness_held_covers :
    let h : Held := ⟨0, 1, 0, ⟨0x1000, ⟨.device, 0x20001000⟩, ⟨0, false, false, false⟩, 8, [(0, 7)], []⟩, some (.atom .add 1), .die, none, [], false, 0, [], []⟩
    let e : Machine.Event := ⟨0x1000, ⟨.device, 0x20001000⟩, ⟨0, false, false, false⟩, 8, [], []⟩
    let s : State := { labS with stations := [(0, { labStation with ports := [(0, ⟨[], [], [h]⟩)] })] }
    s.heldCovers 1 [e] true = true := by decide

theorem witness_triple_path :
    let s : State := { labD with stations := [(0, { labStation with pools := [⟨1, none, [(32, 5)]⟩], arcs := [(5, ⟨1, 0, 0, 1, 0, true, false⟩)] })] }
    s.deliveryPath 1 0 = some (1, ⟨0, 0, 0, 5, 1⟩) ∧ s.performedAt coreBase .package = true ∧ (s.core 0).async.length < 4 ∧
      Tab.find (s.station 0).platform 5 = none := by decide

theorem witness_invalidations_wait :
    let s : State := { labS with invals := [⟨0, 3, [0], []⟩] }
    s.noInvals 0 .package = false ∧ labS.noInvals 0 .package = true := by decide

/-! ### Witnesses of what a memory access, a firing that is carried on, and a junction need -/

theorem witness_load_translates : ∃ t evs, (labS.taken [.s 6]).translateAccess 0 uS wantRead true (loadPieces 0x1000 8) = (t, .ok evs) :=
  translates_of (by decide)

theorem witness_store_translates : ∃ t evs, (labS.taken [.s 6, .s 5]).translateAccess 0 uS wantWrite true
    (storePieces 0x1000 8 [(0, 7)]) = (t, .ok evs) := translates_of (by decide)

theorem witness_gather_translates : ∃ t evs, (labS.taken [.s 6]).translateAccess 0 uS wantRead true
    ((List.range 8).map fun j => ⟨0x1000 + 4 * j, 4, []⟩) = (t, .ok evs) := translates_of (by decide)

theorem witness_scatter_translates : ∃ t evs, (labS.taken [.s 6]).translateAccess 0 uS wantWrite true
    ((List.range 8).map fun j => ⟨0x1000 + j, 1, [(0, 7)]⟩) = (t, .ok evs) := translates_of (by decide)

theorem witness_atomic_translates : ∃ t evs, (labS.taken [.s 6, .imm 1]).translateAccess 0 uS ⟨true, true, true, .die, false⟩ true
    [⟨0x1000, 8, []⟩] = (t, .ok evs) := translates_of (by decide)

theorem witness_stack_load_translates :
    let s : State := { labD with dram := [(0, 1), (2, 1), (65536, 0x8F), (65539, 0x20)] }
    ∃ t evs, (s.taken []).translateAccess coreBase uD wantRead true (loadPieces 0x1000 256) = (t, .ok evs) := translates_of (by decide)

theorem witness_stack_store_translates :
    let s : State := { labD with dram := [(0, 1), (2, 1), (65536, 0x8F), (65539, 0x20)] }
    ∃ t evs, (s.taken []).translateAccess coreBase uD wantWrite true (vstPieces 0x1000 (vstBytes uD 1)) = (t, .ok evs) :=
  translates_of (by decide)

theorem witness_line_translates : ∃ t loc pg e f, (labS.taken [.s 6, .imm 1]).translateFor 0 uS 0x1000 1 wantRead true =
    (t, .ok loc pg e f) := addresses_of (by decide)

theorem witness_fill_translates : ∃ t loc pg e f, ((labS.taken [.imm 1]).publish 0 uS).1.translateFor 0 uS 0x1000 1 wantWrite true =
    (t, .ok loc pg e f) := addresses_of (by decide)

theorem witness_counter_translates : ∃ t loc pg e f, (labS.taken [.s 6, .s 2]).translateFor 0 uS 0x1000 1 wantCounter false =
    (t, .ok loc pg e f) := addresses_of (by decide)

theorem witness_held_event_translates : ∃ t loc pg e f, labS.translate 1 0 0 0 0x1000 0 wantWrite = (t, .ok loc pg e f) :=
  addresses_of (by decide)

/-- The laboratory carrying an instruction on. -/
def labCarried (c : Captured) : State := { labS with cur := ⟨0, 0, none, .none, some c⟩ }

theorem carried_of {i : Instr} {c : Captured} (h : i.avail.any (fun a => (labCarried c).available 0 uS a) = true)
    (hb : uS.bound i.srcs i.outs = true) : (labCarried c).Carried i uS c := ⟨by rfl, rfl, h, hb⟩

theorem witness_copy_carried : (labCarried ⟨0, 7, 1, none, [mkHandle 1 0 5 0 512, mkHandle 1 0 5 0 0, 32, 0], 0, none, false⟩).Carried
    (.copy (.s 2) (.imm 7)) uS ⟨0, 7, 1, none, [mkHandle 1 0 5 0 512, mkHandle 1 0 5 0 0, 32, 0], 0, none, false⟩ ∧
    labS.copyCheck 0 uS [mkHandle 1 0 5 0 512, mkHandle 1 0 5 0 0, 32, 0] = none ∧ ((labS.station 0).copy 7).busy = false :=
  ⟨carried_of (by decide) (by decide), by decide, by decide⟩

theorem witness_stream_carried : (labCarried ⟨0, 0, 1, none, [mkHandle 1 0 5 0 0, mkHandle 1 0 5 0 512, 0x2000010020, 0x100000000], 0, none, false⟩).Carried
    (.strm 0 (.s 2)) uS ⟨0, 0, 1, none, [mkHandle 1 0 5 0 0, mkHandle 1 0 5 0 512, 0x2000010020, 0x100000000], 0, none, false⟩ ∧
    labS.strmCheck 0 uS [mkHandle 1 0 5 0 0, mkHandle 1 0 5 0 512, 0x2000010020, 0x100000000] = none :=
  ⟨carried_of (by decide) (by decide), by decide⟩

theorem witness_multicast_carried : (labCarried ⟨0, 0, 1, none, [0x1000, 128, 0, 0, mkHandle 1 0 5 0 0], 0, none, false⟩).Carried
    (.mcast (.s 2)) uS ⟨0, 0, 1, none, [0x1000, 128, 0, 0, mkHandle 1 0 5 0 0], 0, none, false⟩ ∧
    labS.mcastCheck 0 uS [0x1000, 128, 0, 0, mkHandle 1 0 5 0 0] = none ∧ mcastLen [0x1000, 128, 0, 0, mkHandle 1 0 5 0 0] = 128 :=
  ⟨carried_of (by decide) (by decide), by decide, by decide⟩

theorem witness_collective_carried : (labCarried ⟨0, 0, 1, none, [0x20000000008, mkHandle 1 0 5 0 0, mkHandle 1 0 5 0 512, 1], 0, none, false⟩).Carried
    (.coll (.s 5) (.s 2)) uS ⟨0, 0, 1, none, [0x20000000008, mkHandle 1 0 5 0 0, mkHandle 1 0 5 0 512, 1], 0, none, false⟩ ∧
    ((labS.publish 0 uS).2 = true ∧
      (collOf 0 uS [0x20000000008, mkHandle 1 0 5 0 0, mkHandle 1 0 5 0 512, 1]).keys.all fun k => (Tab.find labS.colls k).isNone) :=
  ⟨carried_of (by decide) (by decide), by decide⟩

theorem witness_enqueue_carried : (labCarried ⟨0, 0, 1, none, [0x30000, 0, 0, 0], 0, none, false⟩).Carried (.enq (.s 2)) uS
      ⟨0, 0, 1, none, [0x30000, 0, 0, 0], 0, none, false⟩ ∧
    (let s : State := { labS with queues := [(3, { Queue.reset with st := .open_ })] }
     s.enqueueCheck uS [0x30000, 0, 0, 0] = none ∧ (s.queueAt 3).room = true ∧ (s.queueAt 3).waiters = []) :=
  ⟨carried_of (by decide) (by decide), by decide⟩

theorem witness_decrement_carried : (labCarried ⟨0x1000, 0, 1, none, [0x30000, 0, 0, 0], 0, none, false⟩).Carried (.jdec (.s 5) (.s 6) (.s 2)) uS
    ⟨0x1000, 0, 1, none, [0x30000, 0, 0, 0], 0, none, false⟩ := carried_of (by decide) (by decide)

theorem witness_append_carried : (labCarried ⟨0, 0, 2, none, [0], 0, none, false⟩).Carried (.kvapp (.s 5) (.s 2) (.imm 0)) uS
    ⟨0, 0, 2, none, [0], 0, none, false⟩ := carried_of (by decide) (by decide)

theorem witness_handler : uS.mode = .sequenced ∧
    (let x : Machine.Unit := { uS with sys := { uS.sys with hen := true, hvec := 8191 } }
     x.sys.hen = true ∧ x.sys.hm = false ∧ x.sys.hvec.toNat < storeSize 0) := by decide

theorem witness_stop : labS.region? uS.region = some benchRegion ∧ benchRegion.st = .running ∧ uS.sys.hen = false := by decide

theorem witness_eret :
    let x : Machine.Unit := { uS with sys := { uS.sys with hm := true, epc := 8191 } }
    let s : State := { labS with units := [(0, x)] }
    s.Fires .eret x ∧ x.sys.epc.toNat % 2 ^ 15 < storeSize 0 := ⟨fires_of (by decide), by decide⟩

theorem witness_ret :
    let x : Machine.Unit := { uS with rstack := [8191] }
    let s : State := { labS with units := [(0, x)] }
    s.Fires .ret x ∧ x.rstack = 8191 :: [] ∧ (8191 : BitVec 15).toNat < storeSize 0 := ⟨fires_of (by decide), by decide⟩

theorem witness_barrier :
    let s : State := { labS with groups := [(4105, ⟨[65536], []⟩)] }
    s.Fires (.gbar .package (.s 14)) uS ∧ ((s.taken [.s 14]).group 4105).members = [65536] ∧
      (s.taken [.s 14]).performedAt 0 .package = true := ⟨fires_of (by decide), by decide⟩

theorem witness_multiply :
    let x : Machine.Unit := { uS with s := Tab.put labRegs 10 (BitVec.ofNat 64 (7 * 2 ^ 16 + 128 * 2 ^ 8 + 0)) }
    let s : State := { labS with units := [(0, x)] }
    s.Fires (.mma .e4m3 (.s 2) (.s 10)) x ∧ (s.opVal x (.s 10)).toNat = 7 * 2 ^ 16 + 128 * 2 ^ 8 + 0 ∧
      (s.taken [.s 2, .s 10]).junctionBlock 0 x (s.opVal x (.s 2)) = none := ⟨fires_of (by decide), by decide⟩

theorem witness_line_region :
    let r : Region := { benchRegion with line := true }
    let s : State := { labS with regions := [(1, r)] }
    s.Fires (.ttload (.s 2)) uS ∧ (s.taken [.s 2]).region? 1 = some r ∧ (s.taken [.s 2]).lineRuns 0 = false ∧ (s.taken [.s 2]).blockQuiet 0 (mkHandle 1 0 5 0 0) = true ∧
      s.Fires (.ring (.s 1)) uS ∧ ringBad (s.opVal uS (.s 1)).toNat = ringBad 1 := ⟨fires_of (by decide), by decide, by decide, by decide,
      fires_of (by decide), by decide⟩

theorem witness_ticket :
    let s : State := labS
    s.Fires (.cwait (.s 5) (.s 1)) uS ∧ (s.taken [.s 1]).collNamed uS.ctx (s.opVal uS (.s 1)) = none := ⟨fires_of (by decide), by decide⟩

theorem witness_mailbox :
    let s : State := { labD with cores := [(0, { Core.reset with full := 0x80, m := [(7, 3)] })] }
    s.Fires (.mbxrd 7 5) uD ∧ ((s.taken []).core (coreOf s.cur.unit)).full.getLsbD 7 = true := ⟨fires_of (by decide), by decide⟩

theorem witness_wavefront_entry :
    let j : Junction := { Junction.reset with mma := some (0, .mma (mkHandle 1 0 5 0 0) .e4m3 7 128 0, 126) }
    let s : State := { labS with junctions := [(0, j)] }
    s.junction 0 = j ∧ j.slotShut 7 = false ∧ 126 + 1 < 128 := by decide

theorem witness_wavefront_apply :
    let w : Wavefront := ⟨0, 7, 127, .e4m3, 0, [], 0, none⟩
    let j : Junction := { Junction.reset with waves := [w] }
    let s : State := { labS with junctions := [(0, j)], clocks := [(0, 264)] }
    s.junction 0 = j ∧ j.waves = w :: [] ∧ w.entered + 264 ≤ s.stnNow 0 := by decide

theorem witness_bank_fill :
    let j : Junction := { Junction.reset with load := some (some 0, .wload (mkHandle 1 0 5 0 0) .e4m3 0) }
    let s : State := { labS with junctions := [(0, j)] }
    s.junction 0 = j := by decide

theorem witness_transfer :
    let j : Junction := { Junction.reset with xfer := some (0, .accclr 7), waves := [⟨0, 6, 0, .e4m3, 0, [], 0, none⟩] }
    let s : State := { labS with junctions := [(0, j)] }
    s.junction 0 = j ∧ (∀ v ∈ j.waves, v.slot ≠ 7) ∧ j.queue = [] := by decide

theorem witness_line_beat :
    let l : LoopLine := { LoopLine.reset with claim := some 1, running := true, armed := true }
    let s : State := { labS with loopLines := [(0, l)] }
    s.loopLine (0 * 8 + 0) = l ∧ l.claim = some 1 ∧ l.running = true ∧ l.stopping = false ∧ l.armed = true := by decide

theorem witness_task_start :
    let t : Task := ⟨0, false, some ([], 0), some ([], 0), .waiting, 0, none, []⟩
    let j : Junction := { Junction.reset with tasks := [t] }
    let s : State := { labS with junctions := [(0, j)] }
    nextTask (s.junction 0).tasks = some t ∧ (s.junction 0).canLoad = true := by decide

theorem witness_fill_return :
    let l : Line := ⟨⟨.device, 0⟩, 0, .filling, 0, 0, 0, [(3, 7)], [(3, true)], [], false, false, [], none, 0⟩
    let s : State := { labS with lines := [(0, l)] }
    s.line? 0 = some l ∧ l.kind = .filling ∧ l.loc.kind = .device := by decide

theorem witness_snoop :
    let l : Line := ⟨⟨.host, 0⟩, 0, .present, 0, 15, 1, [], [], [], false, false, [], some .modified, 0⟩
    let s : State := { labS with lines := [(labS.keyOf 0 ⟨.host, 0⟩, l)] }
    s.line? (s.keyOf 0 ⟨.host, 128 * 0⟩) = some l ∧ l.kind ≠ .filling ∧ l.loc.kind = .host := by decide

theorem witness_held_event :
    let h : Held := ⟨0, 1, 0, ⟨0x1000, ⟨.device, 0x20001000⟩, ⟨0, false, false, false⟩, 8, [(0, 7)], []⟩, none, .system, none, [], true, 0, [], []⟩
    let s : State := { labS with stations := [(0, { labStation with ports := [(0, ⟨[], [], [h]⟩)] })] }
    s.nextHeld 0 0 = some h ∧ s.region? h.region = some benchRegion ∧ s.packetAhead h = false ∧ s.heldAhead h = false ∧
      s.mayRepeat (heldAgent h.order) = true := by
  decide

/-- A held event waits behind one at another port that was accepted before it and shares a byte with it (R173). -/
theorem witness_held_ahead :
    let e : Machine.Event := ⟨0x1000, ⟨.device, 0x20001000⟩, ⟨0, false, false, false⟩, 8, [(0, 7)], []⟩
    let g : Held := ⟨0, 1, 0, e, none, .system, none, [], true, 0, [], []⟩
    let h : Held := ⟨8, 1, 0, e, none, .system, none, [], true, 1, [], []⟩
    let s : State := { labS with stations := [(0, { labStation with ports := [(0, ⟨[], [], [g]⟩), (1, ⟨[], [], [h]⟩)] })] }
    s.nextHeld 0 1 = some h ∧ s.heldAhead h = true := by decide

theorem witness_may_merge :
    let e : Machine.Event := ⟨0x1000, ⟨.device, 0x20001000⟩, ⟨0, false, false, false⟩, 1, [(0, 7)], []⟩
    let h : Held := ⟨0, 1, 0, e, none, .system, none, [], true, 0, [], []⟩
    let s : State := { labS with stations := [(0, { labStation with ports := [(0, ⟨[], [], [h]⟩)] })] }
    h.takes 1 0 e = true ∧ s.mayMerge 0 e h = true ∧
      { s with stations := [(0, { labStation with ports := [(0, ⟨[], [], [h, { h with rmw := some (.atom .add 1), order := 1 }]⟩)] })] }.mayMerge
        0 e h = false := by decide

theorem witness_collective_flit :
    let c : Coll := { collOf 0 uS [0x20100000008, mkHandle 1 0 5 0 0, mkHandle 1 0 5 0 512, 1] with partials := 0 }
    let s : State := { labS with colls := [(0 * 64 + 0, c)] }
    Tab.find s.colls (0 * 64 + 0) = some c ∧ c.status = none ∧ c.first = false ∧ c.prev = 0 ∧ c.partials < c.count := by decide

theorem witness_victim :
    let s : State := { labS with cores := (List.range 16).map fun c => (c, { Core.reset with st := .running }) }
    s.stackPart 0 = some 0 ∧ s.idleCore 0 = none ∧ s.coreFreeing 0 = false := by decide

theorem witness_step :
    let s : State := { labS with
      agenda := [⟨[1], [], .unit 0⟩], stations := [(0, { labStation with store := [(0, 0x00000006A94FEDCB)] })] }
    s.power.runs = true ∧ s.canTurn 0 uS = true ∧ s.fetch 0 uS = some 0x00000006A94FEDCB#64 ∧ uS.blocked = none := by decide

theorem witness_slot :
    let x : Machine.Unit := { uT with slots := [0x0000000129091068#64], enable := 1 }
    let s : State := { labT with agenda := [⟨[1], [], .unit 0⟩], units := [(0, x)] }
    s.canTurn 0 x = true ∧ x.slots[0]? = some 0x0000000129091068#64 ∧ x.enable.getLsbD 0 = true ∧
      (match decodeWord 0x0000000129091068#64 with
       | .ok i => x.slotReady i
       | .error _ => false) = true := by decide

theorem witness_round_trip : (⟨⟨0x03, 0x01, some (2, .eoi)⟩, .toggle 5, .add .i16 true (.v 3) (.v 1) (.v 2)⟩ : IWord).wf = true := by decide

/-! ### Values that the spec works out

Each is one step of one instruction on the small machine, its operands placed in lanes of V1, V2 and V3, and lane `j` of
V3 read afterwards. The expected values are those of the tables of the reference chapters. -/

/-- The small machine with `v1`, `v2` and `v3` in the first lanes of V1, V2 and V3. -/
def labWith (v1 v2 v3 : List Lane) : State :=
  let put (r : Nat) (l : List Lane) : List (Nat × Lane) := (l.zipIdx).map (fun e => (r * 128 + e.2, e.1))
  { labS with units := [(0, { uS with v := put 1 v1 ++ put 2 v2 ++ put 3 v3 })] }

/-- Lane `j` of V3 after the instruction and, where its result comes at the end of its issue interval, after that. -/
def lane3 (i : Instr) (j : Nat) (s : State) : Option Lane :=
  match exec i s with
  | .next t =>
    let t := match (t.unit? 0).bind (·.busy) with
      | some b => t.writeResult 0 b.dst b.vec b.scalar
      | none => t
    (t.unit? 0).map (fun x => x.vLane 3 j)
  | _ => none

def run3 (i : Instr) (a b d : Lane) : Option Lane := lane3 i 0 (labWith [a] [b] [d])

/-- The example of R326. -/
theorem test_add : [run3 (.add .i16 false (.v 3) (.v 1) (.v 2)) 0x7FF00005 0x20FFFE 0,
    run3 (.add .i16 true (.v 3) (.v 1) (.v 2)) 0x7FF00005 0x20FFFE 0,
    run3 (.add .n16 false (.v 3) (.v 1) (.v 2)) 0x7FF00005 0x20FFFE 0,
    run3 (.add .n16 true (.v 3) (.v 1) (.v 2)) 0x7FF00005 0x20FFFE 0] =
      [some 0x80100003, some 0x7FFF0003, some 0x80100003, some 0x8010FFFF] := by decide

theorem test_clz_popc : [run3 (.clz .n16 (.v 3) (.v 1)) 0x18000 0 0, run3 (.popc .n32 (.v 3) (.v 1)) 0xF0F00001 0 0] =
    [some 0x000F0000, some 9] := by decide

/-- The table of DIV in R354. -/
theorem test_div : [run3 (.div .i32 false (.v 3) (.v 1) (.v 2)) 7 0xFFFFFFFE 0,
    run3 (.div .i32 false (.v 3) (.v 1) (.v 2)) 0xFFFFFFF9 2 0,
    run3 (.div .i32 false (.v 3) (.v 1) (.v 2)) 5 0 0,
    run3 (.div .i32 false (.v 3) (.v 1) (.v 2)) 0x80000000 0xFFFFFFFF 0,
    run3 (.div .i32 true (.v 3) (.v 1) (.v 2)) 0x80000000 0xFFFFFFFF 0,
    run3 (.div .n32 false (.v 3) (.v 1) (.v 2)) 0xFFFFFFF9 2 0] =
      [some 0xFFFFFFFD, some 0xFFFFFFFD, some 0xFFFFFFFF, some 0x80000000, some 0x7FFFFFFF, some 0x7FFFFFFC] := by decide

/-- The table of R385. -/
theorem test_mul : [run3 (.mul .i16 false (.v 3) (.v 1) (.v 2)) 300 300 0,
    run3 (.mul .i16 true (.v 3) (.v 1) (.v 2)) 300 300 0, run3 (.mulh .i16 (.v 3) (.v 1) (.v 2)) 300 300 0,
    run3 (.mul .i16 false (.v 3) (.v 1) (.v 2)) 0xFED4 300 0, run3 (.mulh .i16 (.v 3) (.v 1) (.v 2)) 0xFED4 300 0,
    run3 (.mad .i32 false (.v 3) (.v 1) (.v 2)) 4 5 0x7FFFFFF0, run3 (.mad .i32 true (.v 3) (.v 1) (.v 2)) 4 5 0x7FFFFFF0] =
      [some 0x5F90, some 0x7FFF, some 1, some 0xA070, some 0xFFFE, some 0x80000004, some 0x7FFFFFFF] := by decide

theorem test_rem_max_rot : [run3 (.rem .i32 (.v 3) (.v 1) (.v 2)) 7 0xFFFFFFFE 0,
    run3 (.rem .i32 (.v 3) (.v 1) (.v 2)) 0xFFFFFFF9 2 0, run3 (.rem .i32 (.v 3) (.v 1) (.v 2)) 5 0 0,
    run3 (.max .i16 (.v 3) (.v 1) (.v 2)) 0xFFFF 1 0, run3 (.max .n16 (.v 3) (.v 1) (.v 2)) 0xFFFF 1 0,
    run3 (.rot .n8 (.v 3) (.v 1) (.imm 1)) 0x81 0 0, run3 (.rot .n8 (.v 3) (.v 1) (.imm 9)) 0x81 0 0] =
      [some 1, some 0xFFFFFFFF, some 5, some 1, some 0xFFFF, some 3, some 0x03] := by decide

/-- The table of R418. -/
theorem test_sel_shifts : [run3 (.sel .i16 (.v 3) (.v 1) (.v 2)) 0x00110022 0x00330044 0xFFFF0000,
    run3 (.sel .i32 (.v 3) (.v 1) (.v 2)) 0x00110022 0x00330044 0xFFFF0000,
    run3 (.shl .n16 true (.v 3) (.v 1) (.imm 4)) 0xF123 0 0, run3 (.shl .n16 false (.v 3) (.v 1) (.imm 4)) 0xF123 0 0,
    run3 (.sra .i16 (.v 3) (.v 1) (.imm 3)) 0x8010 0 0, run3 (.shr .i16 (.v 3) (.v 1) (.imm 3)) 0x8010 0 0,
    run3 (.sub .i32 true (.v 3) (.v 1) (.imm 1)) 0x80000000 0 0, run3 (.sub .i32 false (.v 3) (.v 1) (.imm 1)) 0x80000000 0 0] =
      [some 0x00110044, some 0x00110022, some 0xFFFF, some 0x1230, some 0xF002, some 0x1002, some 0x80000000,
       some 0x7FFFFFFF] := by decide

/-- The table of R360. -/
theorem test_float : [run3 (.fadd .fp16 .rne (.v 3) (.v 1) (.v 2)) 0x7BFF 0x4C00 0,
    run3 (.fadd .fp16 .rtz (.v 3) (.v 1) (.v 2)) 0x7BFF 0x4C00 0,
    run3 (.fsub .fp32 .rdn (.v 3) (.v 1) (.v 2)) 0x3FC00000 0x3FC00000 0,
    run3 (.fmax .fp32 (.v 3) (.v 1) (.v 2)) 0x7FC00000 0x40000000 0,
    run3 (.fmin .fp32 (.v 3) (.v 1) (.v 2)) 0x80000000 0 0,
    run3 (.fcmp .fp32 .ne (.v 3) (.v 1) (.v 2)) 0x7FC00000 0x7FC00000 0,
    run3 (.frsq .fp32 .rne (.v 3) (.v 1)) 0x80000000 0 0] =
      [some 0x7C00, some 0x7BFF, some 0x80000000, some 0x40000000, some 0x80000000, some 1, some 0xFF800000] := by decide

/-- 2^3 and log2 8 are exact (R106). -/
theorem test_powers : [run3 (.fexp2 .fp32 .rne (.v 3) (.v 1)) 0x40400000 0 0, run3 (.flog2 .fp32 .rne (.v 3) (.v 1)) 0x41000000 0 0] =
    [some 0x41000000, some 0x40400000] := by decide

/-- The table of R108 and R109: FP32 to E4M3. -/
theorem test_cvt_e4m3 : ([0x43960000, 0x43E60000, 0x43EB0000, 0xFF800000, 0x3A000000].map fun x =>
    ((convert (.f8 .e4m3) .rne (.fl .fp32) true x), (convert (.f8 .e4m3) .rne (.fl .fp32) false x).bits)) =
    [(⟨0x79, false, false, false⟩, 0x79), (⟨0x7E, false, false, false⟩, 0x7E), (⟨0x7E, true, false, true⟩, 0x7F),
     (⟨0xFE, true, false, true⟩, 0x7F), (⟨0, false, false, false⟩, 0)] := by decide

/-- The table of R351: FP32 to I16. -/
theorem test_cvt_i16 : ([0xC0300000, 0x471C4000, 0x501502F9, 0x7FC00000].map fun x =>
    ((convert (.int .i16) .rtz (.fl .fp32) true x), (convert (.int .i16) .rtz (.fl .fp32) false x).bits)) =
    [(⟨0xFFFE, false, false, false⟩, 0xFFFE), (⟨0x7FFF, true, false, true⟩, 0x9C40), (⟨0x7FFF, true, false, true⟩, 0xE400),
     (⟨0, true, false, false⟩, 0)] := by decide

/-- The example of R400. -/
theorem test_pack :
    let s := labWith [40000, 0xFFFFFFFB] [0xFFFF63C0, 0] []
    (lane3 (.pack .i16 true 3 1 2) 0 s, lane3 (.pack .i16 true 3 1 2) 4 s, lane3 (.pack .i16 false 3 1 2) 0 s) =
      (some 0xFFFB7FFF, some 0x8000, some 0xFFFB9C40) := by decide

/-- The example of UNPK, on the V3 that R400 gives. -/
theorem test_unpk :
    let s := labWith [0xFFFB7FFF, 0, 0, 0, 0x8000] [] []
    (lane3 (.unpk .i16 false 3 1) 0 s, lane3 (.unpk .i16 false 3 1) 1 s, lane3 (.unpk .i16 true 3 1) 0 s) =
      (some 32767, some 0xFFFFFFFB, some 0xFFFF8000) := by decide

/-- The table of R419. -/
theorem test_scan :
    let s := labWith (0x4B800000 :: List.replicate 7 0x3F800000) [] []
    (List.range 8).map (fun j => lane3 (.scan (.fl .fp32) .add false .rne 3 1) j s) =
      [0x4B800000, 0x4B800000, 0x4B800000, 0x4B800001, 0x4B800002, 0x4B800002, 0x4B800002, 0x4B800003].map some := by decide

set_option maxRecDepth 4000 in
/-- The example under R113: the exact chunk of 65,536 and 127 products of 2^-9. -/
theorem test_chunk :
    rne32 (chunkSum (FVal.mul (Fmt.e4m3Fmt.decode 0x78) (Fmt.e4m3Fmt.decode 0x78) ::
      List.replicate 127 (FVal.mul (Fmt.e4m3Fmt.decode 0x08) (Fmt.e4m3Fmt.decode 0x20)))) = 0x47800020 := by decide

/-- The example after R74. -/
theorem test_handle : (fun h : W64 => (hGen h, hStn h, hSize h, hGranule h, hOff h)) 0x0003488804000000 =
    (3, 2 * 64 + 17, 1, 256, 0) := by decide

/-- The example after R192: the walk ends in a host leaf, and the access goes to 0x1_4000_2345. -/
theorem test_walk :
    let s : State :=
      { labS with
        contexts := [(1, ⟨{ (⟨0, 0, true, [], []⟩ : CtxDesc) with root := 0x006000010000 }, false, 0⟩)]
        partitions := [(0, { labPart with districts := [3] })]
        dram := Memory.writes [] ((leBytes 8 0x0000006000020001).zipIdx.map (fun e => (0x006000010000 + e.2, e.1)) ++
          (leBytes 8 0x0000006000030001).zipIdx.map (fun e => (0x006000020800 + e.2, e.1)) ++
          (leBytes 8 0x400000014000000F).zipIdx.map (fun e => (0x006000030008 + e.2, e.1))) }
    s.translatePlain 1 0 0x0000002000012345 wantRead = .ok ⟨.host, 0x0000000140002345⟩ ⟨0, false, false, false⟩ 0x400000014000000F 16 := by decide

/-- The example after R396: P0 takes lane 0 only. -/
theorem test_mov_predicate :
    let s : State := { labS with units := [(0, { uS with s := Tab.put labRegs 4 0x0000000100000000, p := 1 })] }
    (match exec (.mov (.p 0) (.s 4)) s with
     | .next t => (t.unit? 0).map (fun x => x.p.getLsbD 0)
     | _ => none) = some false := by decide

/-- The checkpoint of R436's program: TRAP 3 at word 5 with HEN = 1 and HVEC = 9. -/
theorem test_trap :
    let s : State := { labS with units := [(0, { uS with pc := 5, sys := { uS.sys with hen := true, hvec := 9 } })] }
    (match exec (.trap 3) s with
     | .next t => (t.unit? 0).map (fun x => (x.sys.cause, x.sys.epc, x.sys.hm, x.pc))
     | _ => none) = some (0x030E, 5, true, 9) := by decide

/-- The return at word 13 with SY.EPC 6. -/
theorem test_eret :
    let s : State := { labS with units := [(0, { uS with pc := 13, sys := { uS.sys with hm := true, epc := 6 } })] }
    (match exec .eret s with
     | .next t => (t.unit? 0).map (fun x => (x.sys.hm, x.pc))
     | _ => none) = some (false, 6) := by decide

/-- R2, R4, R150: pseudo-channel 5j + i of a stack belongs to the stack's slice j, from 0 to 31. -/
theorem test_retire : (match exec (.pseudoChannelRetire 15 159) labS with
     | .next t => some t.retiredCh
     | _ => none) = some [(511, 4)] := by decide

/-! ### Witnesses of single clauses, at the values where clauses meet -/

theorem witness_unit_waits :
    let x : Machine.Unit := { uS with blocked := some .invix, invix := 0x7FFFFFFF }
    let y : Machine.Unit := { uT with idleSince := some 1 }
    x.blocked = some .invix ∧ 2 ^ 31 ≤ ((x.invix + 1) - labS.commitIndex x.region).toNat ∧
      ({ labT with clocks := [(0, 16)] } : State).clockOf 0 < 1 + 16 ∧ y.idleSince = some 1 := by decide

theorem witness_shared_grant :
    let w : Wait := ⟨.block 0 0 1, 0, 0, 0, 0⟩
    let s : State := { labS with stations := [(0, { labStation with platform := [(0, w)], pools := [⟨1, none, [(32, 5)]⟩] })] }
    let old := (s.station 0).settle (s.stnNow 0)
    (old.grant 1 (some 0) 0 1).isNone = true ∧ uS.cover = false ∧ s.heads 0 1 0 = true ∧
      old.hasGranted (s.stnNow 0) (1 + 1) = false ∧ (old.grant 1 none 0 1).isSome = true := by decide

theorem witness_packet_back :
    let p (i : Nat) : Packet := ⟨i, 0, .blockWrite (mkHandle 1 0 5 0 0) [(0, 7)], .request, [], 0, [], [], 1⟩
    let s : State := { labS with mesh := [p 0, p 1] }
    s.mesh[1]? = some (p 1) ∧ s.heldBack 1 (p 1) = true ∧ s.heldBack 0 (p 0) = false ∧
      (match s.resolveBlock uS.ctx (mkHandle 1 0 5 0 0) with | .ok _ => true | _ => false) = true ∧
      isSignalHandle (mkHandle 1 0 5 0 0) = false := by decide

theorem witness_packet_peer :
    let s : State := { labS with mainPorts := [(0, { MainPort.reset with key := .live, txSeq := 2 ^ 40 - 2 ^ 20 - 1 })] }
    s.peerWaits ⟨.peer, 0⟩ = false ∧ labS.peerWaits ⟨.device, 0⟩ = false := by decide

theorem witness_response_passed :
    let s : State := { labS with mesh := [⟨4, 0, .access [] none (.s 5 true), .response [0x80], [], 0, [], [], 1⟩] }
    uS.blocked = none ∧ (s.mesh[0]?).map (·.id) = some 4 := by decide

def transB (r : State × TransRes) : Nat :=
  match r.2 with
  | .ok _ _ _ _ => 0
  | .invalid _ => 1
  | .wb => 2
  | .fault _ => 3

theorem witness_held_faults :
    let w : Want := wantWrite
    transB (labS.translate 1 0 0 0 0x1000 0 w) = 0 ∧ transB (labS.translate 1 0 0 0 far 0 w) = 1 ∧
      transB (labS.translate 1 0 0 0 (2 ^ 56) 0 w) = 3 := by decide

theorem witness_fill_host :
    let l : Line := ⟨⟨.host, 0⟩, 0, .filling, 0, 0, 0, [], [], [], false, false, [], none, 0⟩
    let s : State := { labS with lines := [(labS.keyOf 0 ⟨.host, 0⟩, l)] }
    s.line? (s.keyOf 0 ⟨.host, 128 * 0⟩) = some l ∧ l.kind = .filling ∧ l.joined = [] ∧ l.pins = [] ∧
      (∀ p ∈ s.mesh, p.st ≠ .atFill (s.keyOf 0 ⟨.host, 0⟩)) := by decide

theorem witness_copy_waits :
    let c : CopyChan := ⟨true, 0, [mkHandle 1 0 5 0 0, mkHandle 1 0 5 0 512, 64, 0], 32, false, none, [], false, false, 0⟩
    let s : State := { labS with stations := [(0, { labStation with copies := [(7, c)] })] }
    (s.station 0).copy 7 = c ∧ c.busy = true ∧ c.ptr < copyLen c.desc ∧ ({ c with ptr := 64 } : CopyChan).ptr = copyLen c.desc := by
  decide

theorem witness_mcast_broken :
    let m : Mcast := ⟨0, 1, 1, [0, 128, 0, 0], .broken, none⟩
    let s : State := { labS with mcasts := [(2, m), (3, { m with st := .sending })] }
    Tab.find s.mcasts 2 = some m ∧ m.st = .broken ∧ s.mesh = [] ∧ (Tab.find s.mcasts 3).map (·.st) = some .sending := by decide

/-- A stream of one row of one event, from the block to a slot of 32 bytes behind it. -/
def labStream (src : W64) : Stream := ⟨[src, mkHandle 1 0 5 0 512, 0x10001000020, 0], [], 0, mkHandle 1 0 5 0 512, none, none, [], false, 0, none⟩

theorem witness_stream_row :
    let x : Machine.Unit := { uS with blocked := some (.stream (labStream 0x1000)) }
    let s : State := { labS with units := [(0, x)] }
    let st := labStream 0x1000
    s.unit? 0 = some x ∧ st.pend = none ∧ st.hold = none ∧ (strmRows st.desc ≤ st.row ∨ s.streamRuns 0 x = true) ∧ s.mayRepeat 0 = true ∧
      sideB (s.readSide 0 x 0 st.asked true 0x1000 0 32) = 2 ∧ sideB (s.readSide 0 x 0 st.asked true (w64 far) 0 32) = 1 ∧
      sideB (s.readSide 0 x 0 st.asked true (w64 (2 ^ 56)) 0 32) = 3 := by decide

theorem witness_stream_stale :
    sideB (labS.readSide 0 uS 0 false false (mkHandle 2 0 5 0 0) 0 32) = 3 ∧
      (match labS.readSide 0 uS 0 false false (mkHandle 2 0 5 0 0) 0 32 with
       | .fault _ e => e.code == .staleHandle
       | _ => false) = true := by decide

theorem witness_slot_shut :
    let op : JOp := .mma (mkHandle 1 0 5 0 0) .e4m3 7 128 0
    let j : Junction := { Junction.reset with queue := [(0, op)], xfer := some (0, .accclr 7) }
    j.mma = none ∧ j.queue = (0, op) :: [] ∧ labS.lineRuns 0 = false ∧ j.slotShut 7 = true ∧ j.slotShut 6 = false := by decide

theorem witness_apply_early :
    let w : Wavefront := ⟨0, 7, 127, .e4m3, 0, [], 1, some 3⟩
    let s : State := { labS with clocks := [(0, 264)] }
    s.stnNow 0 < w.entered + 264 ∧ w.task = some 3 ∧ w.row = 127 := by decide

theorem witness_transfer_waits :
    let v : Wavefront := ⟨0, 7, 0, .e4m3, 0, [], 0, none⟩
    let j : Junction := { Junction.reset with xfer := some (0, .accrd (mkHandle 1 0 5 0 0) 7), waves := [v] }
    j.xfer = some (0, .accrd (mkHandle 1 0 5 0 0) 7) ∧ v ∈ j.waves ∧ (JOp.accrd (mkHandle 1 0 5 0 0) 7).accSlot = some v.slot := by decide

theorem witness_line_stands :
    let l : LoopLine := { LoopLine.reset with claim := some 1 }
    l.claim = some 1 ∧ l.running = false ∧ LoopLine.reset.claim = none ∧ ({ l with running := true } : LoopLine).armed = false := by decide

theorem witness_promotion_ends :
    let w : Wait := ⟨.block 0 0 1, 0, 0, 0, 0⟩
    let s : State := { labS with clocks := [(0, 2 ^ 16 - 1)], stations := [(0, { labStation with platform := [(0, w)] })] }
    s.stnNow 0 < w.since + 2 ^ 16 ∧ s.waitClass w = 0 := by decide

theorem witness_ring_empty :
    let x : Queue := { Queue.reset with live := [0x30000, 0x40000, 0, 0], st := .open_, head := 0xFFFFFFFF, tail := 0xFFFFFFFF }
    x.tail = x.head ∧ x.window.length < 8 ∧ x.spill = none ∧ x.readback = none := by decide

theorem witness_decision_frozen :
    let r : Region := { benchRegion with st := .switching, after := .saved }
    let s : State := { labS with regions := [(1, r)], contexts := [(1, ⟨⟨0, 0, true, [], []⟩, true, 0⟩)] }
    r.after = .saved ∧ s.region? 1 = some r ∧ (r.after ≠ .saved ∨ labS.frozen 1 = false) := by decide

theorem witness_list_sizes :
    let s : State := { labS with queues := [(3, { Queue.reset with st := .open_ })] }
    s.queuePart 3 = some 0 ∧ 8 ≤ (s.queueAt 3).capacity ∧ (s.queueAt 3).capacity < 9 ∧ (257 : Nat) < 2 ^ 9 ∧
      s.ownsAddr 0 (0 + 32 * 8 - 1) = true := by decide

theorem witness_message_lands :
    let s : State := { labD with cores := [(0, { Core.reset with heldMsg := [(7, (5, false, 0))], full := 0x80 })] }
    (s.core 0).full.getLsbD 0 = false ∧ Tab.find (s.core 0).heldMsg 0 = none ∧ Tab.find (s.core 0).heldMsg 7 ≠ none := by decide

theorem witness_core_running :
    let s : State := { labD with queues := [(0, { Queue.reset with st := .open_ })] }
    (s.core 0).st = .running ∧ s.unit? (coreBase + 0) ≠ none ∧ (s.core 0).queue = 0 ∧ (s.queueAt 0).st ≠ .disabled ∧
      (s.core 0).st ≠ .outOfService ∧ (labS.core 255).st = .idle := by decide

theorem witness_triple_waits :
    let t : Triple := ⟨7, ⟨0, 0, 0, 5, 0⟩, [], none⟩
    let s : State := { labD with cores := [(0, { Core.reset with async := [t] })] }
    (s.core 0).async[0]? = some t ∧ t.handle = none := by decide

theorem witness_pager_answers :
    let r : FaultRec := ⟨0x0001000000000000, w64 (2 ^ 40), none, [], none⟩
    let x : Partition := { labPart with pagerIn := true, faultq := [r] }
    let s : State := { labS with partitions := [(0, x)] }
    s.mapped 0 r = false ∧ s.framesFree 0 [9, 9] = false ∧ (s.mapPage 0 1 (2 ^ 40) [] 0).isNone = true ∧
      ({ labS with contexts := [] } : State).context? (recCtx r) = none := by decide

theorem witness_host_maps :
    let r : FaultRec := ⟨0x0001000000000000, w64 (2 ^ 29), some 0xFFFFFFFF, [9, 10], none⟩
    let x : Partition := { labPart with faultq := [r], hreqHead := 0, hframe := some 0x1000C }
    (BitVec.ofNat 32 0xFFFFFFFF - x.hreqHead).toNat = 0xFFFFFFFF ∧ hframeOk 0x1000C = true ∧ hframeOk 0x10000 = false ∧
      x.hreqWait.length ≤ 0xFFFFFFFF := by decide

theorem witness_migration_steps :
    let s : State := { labS with dram := Memory.writes [] [(0, 1), (2, 1), (65536, 1), (65538, 2), (131072, 0x1F)] }
    s.pageQuiet 1 0 = true ∧ (s.leafAt 0 1 0).isSome = true ∧ labS.pageQuiet 1 0 = true ∧
      ({ labS with mesh := [⟨4, 0, .access [⟨0x1000, ⟨.device, 0x20001000⟩, ⟨0, false, false, false⟩, 8, [], []⟩] none (.s 5 true), .request, [], 0, [], [], 1⟩] } : State).pageQuiet 1 0 =
        false := by decide

theorem witness_walk_again :
    let p : Partition := { labPart with kvcb := 0x1000, poisons := [⟨7, some 0, none⟩] }
    let s : State := { labS with partitions := [(0, p)], clocks := [(0, 2 ^ 16 - 1)] }
    s.ownsAddr 0 (2 ^ 16 * 7) = true ∧ p.poisons.find? (fun e => e.frame == 7) = some ⟨7, some 0, none⟩ ∧
      s.pagerNow 0 < 0 + 2 ^ 16 := by decide

theorem witness_flits_not_due :
    let c : Coll := { collOf 0 uS [0x20100000008, mkHandle 1 0 5 0 0, mkHandle 1 0 5 0 512, 1] with partials := 1, written := 0 }
    c.last = true ∧ c.first = false ∧ ({ c with ranks := 3 } : Coll).last = false ∧ c.written < c.partials ∧ c.op ≠ 3 ∧
      CollHdr.differs ⟨c.ranks, c.op, c.ty, c.count, 0, true⟩ c = false ∧ CollHdr.differs ⟨c.ranks + 1, c.op, c.ty, c.count, 0, true⟩ c = true := by
  decide

theorem witness_retire_again :
    (∀ c ∈ labS.retiredCh, c.1 ≠ 15 * 32 + 159 / 5) ∧ labS.partOf 0 = some 0 ∧
      (let r : Region := { benchRegion with st := .saved }
       let s : State := { labS with regions := [(1, r)] }
       s.regionsAt 0 = [(1, r)] ∧ r.st.resident = false) := by decide

theorem witness_decrement_again :
    let e : Machine.Event := ⟨0x4000, ⟨.device, 0x20004000⟩, ⟨0, false, false, false⟩, 8, [], []⟩
    let h : Held := ⟨0, 1, 5, e, none, .system, none, [], false, 0, [], []⟩
    let s : State := { labS with stations := [(0, { labStation with ports := [(0, ⟨[], [], [h]⟩)] })] }
    let t : State := { labS with stations := [(0, { labStation with ports := [(0, ⟨[], [], [{ h with due := true }]⟩)] })] }
    s.heldCovers 1 [e] false = true ∧ labS.heldCovers 1 [e] false = false ∧ t.heldDue 1 = true ∧ labS.heldDue 1 = false := by decide

theorem witness_tlbinv_pages :
    labS.tlbinvLog 0 1 0x1000 = 29 ∧ labS.tlbinvLog 0 1 far = 16 := by decide

theorem witness_compare_narrow :
    labS.Fires (.cmp .i8 .eq (.p 3) (.s 1) (.s 1)) uS ∧ 0 < uS.count IntTy.i8.width ∧ (Dst.p 3 = .p 3) ∧ (∀ n, Dst.s 0 ≠ .p n) :=
  ⟨fires_of (by decide), by decide, rfl, fun _ => nofun⟩

/-- One value of each kind that a conversion and a quotient tell apart. -/
theorem witness_conversions :
    (Fmt.fp32.decode 0x7FC00000 = .nan ∧ Fmt.fp32.decode 0xFF800000 = .inf true ∧ Fmt.fp32.decode 0x80000000 = .fin true 0 (-149)) ∧
      (quantize .e4m3 .rne 0x7FC00000 0x3F800000, quantize .e4m3 .rne 0x7F800000 0xFF800000, quantize .e4m3 .rne 0 0,
        quantize .e4m3 .rne 0x3F800000 0x80000000) =
      (⟨0x7F, false, false, false⟩, ⟨0x7F, false, true, false⟩, ⟨0x7F, false, true, false⟩, ⟨0xFE, true, false, true⟩) := by decide

theorem witness_arrival_stale :
    let p : Packet := ⟨4, 0, .release (mkHandle 2 0 5 0 0), .request, [], 0, [], [], 1⟩
    let s : State := { labS with mesh := [p] }
    s.mesh[0]? = some p ∧ s.heldBack 0 p = false ∧ s.unit? p.unit = some uS ∧
      (match s.resolveBlock uS.ctx (mkHandle 2 0 5 0 0) with | .ok _ => true | _ => false) = false := by decide

theorem witness_encoding_refused :
    (match decodeWord (w64 (0xFF * 2 ^ 29)) with | .error .reservedOpcode => true | _ => false) = true ∧
      (match decodeWord (w64 (0xBA * 2 ^ 29)) with | .ok _ => true | _ => false) = true ∧
      (match decodeWord (w64 (0xBA * 2 ^ 29 + 2 ^ 40)) with | .error .reservedField => true | _ => false) = true := by decide

theorem witness_unit_drains :
    let r : Region := { benchRegion with st := .draining }
    let s : State := { labS with regions := [(1, r)], contexts := [(1, ⟨⟨0, 0, true, [], []⟩, true, 0⟩)] }
    isCore 0 = false ∧ s.draining uS = true ∧ (s.context? uS.ctx).isSome = true := by decide

theorem witness_signal_waiter :
    let y : Machine.Unit := { uS with blocked := some (.signal 5 .ge 7) }
    let s : State := { labS with units := [(0, y)] }
    Tab.rising s.units 0 = true ∧ s.unit? 0 = some y ∧
      (((s.putSignal 5 7).afterSignal 5).unit? 0).map (·.blocked) = some none ∧
      (((s.putSignal 5 6).afterSignal 5).unit? 0).map (·.blocked) = some (some (.signal 5 .ge 7)) := by decide

theorem witness_departures :
    let g (arrived : List Nat) : State := { labS with groups := [(4105, ⟨[1, 65536], arrived⟩)] }
    let me := 65536
    (labS.taken [.s 14]).group 4105 = ⟨[], []⟩ ∧ ((g [1]).group 4105).members.contains me = true ∧
      ((g [1]).group 4105).members.filter (· != me) = [1] ∧ (∀ m ∈ [1], m ∈ ((g [1]).group 4105).arrived) ∧
      (∃ m ∈ [1], m ∉ ((g []).group 4105).arrived) := by decide

def reserveB (w : W64) : Nat := match decodeWord w with | .error .reservedField => 1 | .error .reservedOpcode => 2 | .error .reservedGuard => 3 | _ => 0

/-- A program counter at the last word of the store and behind it, a word with TEN = 1, a reserved word, and an unbound channel. -/
theorem witness_step_faults :
    let at_ (pc : Nat) : Machine.Unit := { uS with pc := pc }
    let with_ (w : W64) : State := { labS with agenda := [⟨[1], [], .unit 0⟩], stations := [(0, { labStation with store := [(0, w)] })] }
    storeSize 0 ≤ (at_ 8192).pc ∧ ¬ storeSize 0 ≤ (at_ 8191).pc ∧ (at_ 8192).mode = .sequenced ∧
      ((with_ (1#64 <<< 47)).fetch 0 uS = some (1#64 <<< 47)) ∧ (1#64 <<< 47).getLsbD 47 = true ∧
      ((with_ (w64 (0xFF * 2 ^ 29))).fetch 0 uS = some (w64 (0xFF * 2 ^ 29))) ∧ reserveB (w64 (0xFF * 2 ^ 29)) = 2 ∧
      labS.reservedHere 0 uS (.wait .dcnt (.s 7)) = true ∧ uS.bound (Instr.drop 7).srcs (Instr.drop 7).outs = false := by decide

/-- A unit that carries on, one that is withheld, and one that finishes while its region drains. -/
theorem witness_step_again :
    let c : Captured := ⟨0, 0, 0, none, [], 0, none, false⟩
    let x : Machine.Unit := { uT with blocked := some (.again (.fence .package) c) }
    let y : Machine.Unit := { uT with blocked := some (.again (.fence .package) { c with hold := some ⟨0x1000, 0, false, 0, 0⟩ }) }
    let z : Machine.Unit := { uT with blocked := some (.again (.pfxi (.s 5) (.s 6) (.s 2)) c) }
    let s : State := { labT with units := [(0, x)] }
    let t : State := { labT with units := [(0, z)], regions := [(1, { benchRegion with st := .draining })] }
    s.canTurn 0 x = true ∧ c.hold = none ∧ s.mayRepeat 0 = true ∧ s.canTurn 0 y = true ∧ t.canTurn 0 z = false ∧
      t.runsOn 0 z = true := by decide

/-- A RELEASE slot fires though the unit is blocked, and no slot where none is ready. -/
theorem witness_step_bypass :
    let w : W64 := (encode ⟨⟨0, 0, none⟩, .none, .release (.s 2)⟩).getD 0
    let x : Machine.Unit := { uT with slots := [0x0000000129091068#64, w], enable := 3, blocked := some .invix }
    (match decodeWord w with | .ok i => x.slotReady i && decide (i.instr = .release (.s 2)) | _ => false) = true ∧
      (match decodeWord 0x0000000129091068#64 with | .ok i => x.slotReady i | _ => false) = false ∧
      x.blocked = some .invix ∧ labT.canTurn 0 x = true := by decide

def heldOne (h : Held) : State := { labS with stations := [(0, { labStation with ports := [(0, ⟨[], [], [h]⟩)] })] }
def heldEv : Machine.Event := ⟨0x1000, ⟨.device, 0x20001000⟩, ⟨0, false, false, false⟩, 8, [(0, 7)], []⟩

/-- An atomic that returns nothing behind a held event of its location, and one without. -/
theorem witness_atomic_behind :
    let s := heldOne ⟨0, 1, 5, heldEv, none, .system, none, [], false, 0, [], []⟩
    s.heldCovers 1 [{ heldEv with wr := [] }] false = true ∧ labS.heldCovers 1 [{ heldEv with wr := [] }] false = false ∧
      (s.heldOf 1).map (·.order) = [0] ∧ labS.noInvals 0 .package = true ∧ s.heldDue 1 = false ∧
      s.heldUpTo 1 5 = true ∧ s.heldUpTo 1 4 = false := by decide

/-- PREF fills an absent line: its page is cached, its set not pinned, its stack has its key. -/
theorem witness_pref_line :
    let r := (labS.taken [.s 6, .imm 1]).translateFor 0 uS 0x1000 1 wantRead true
    (match r.2 with
     | .ok loc pg _ _ => decide (loc.kind = .device) && decide (pg.cmode ≠ 2) && !r.1.keyless 0 loc &&
         !r.1.setPinned (setOfLine (r.1.homeDistrict 0 loc) loc) && (r.1.line? (r.1.keyOf 0 loc)).isNone
     | _ => false) = true ∧ 0x1000 % 128 = 0 ∧ 1 ≤ 65536 ∧ ¬ 1 ≤ 0 ∧ 65536 < 65537 := by decide

/-- A bypass in flight that is no way, and a peer line. -/
theorem witness_line_forms :
    let l : Line := ⟨⟨.device, 0x20001000⟩, 0, .present, bypassWay, 15, 0, [], [], [], false, false, [], none, 0⟩
    let p : Packet := ⟨4, 0, .access [heldEv] none .none, .request, [], 0, [], [], 1⟩
    l.kind ≠ .filling ∧ l.way = bypassWay ∧ (15 ≠ bypassWay) ∧ (⟨.peer, 0⟩ : Loc).kind = .peer ∧
      ({ labS with mesh := [p] } : State).noPackets 0 = false ∧ labS.noPackets 0 = true := by decide

/-- A run of the line keeps a WLOAD waiting; a vector has entered in this cycle, or in one before. -/
theorem witness_junction_waits :
    let s : State := { labS with loopLines := [(0, { LoopLine.reset with claim := some 1, running := true })] }
    let j : Junction := { Junction.reset with awaiting := [(0, .wswap), (1, .wswap)], waves := [⟨0, 7, 0, .e4m3, 0, [], 3, none⟩] }
    s.lineRuns 0 = true ∧ labS.lineRuns 0 = false ∧ j.awaiting = [(0, .wswap)] ++ [(1, .wswap)] ∧
      (∀ e ∈ [((0 : Nat), JOp.wswap)], e.1 ≤ 0) ∧ (∀ e, [((1 : Nat), JOp.wswap)].head? = some e → 0 < e.1) ∧
      j.enteredAt 3 = true ∧ j.enteredAt 4 = false := by decide

/-- A run of the line that has ended: nothing is armed and every junction has signalled. -/
theorem witness_run_ends :
    let l : LoopLine := { LoopLine.reset with claim := some 1, running := true }
    let s : State := { labS with loopLines := [(0, l)], regions := [(1, { benchRegion with line := true, stations := List.range 8 })],
                                 junctions := (List.range 8).map fun n => (n, { Junction.reset with signalled := true }) }
    s.loopLine 0 = l ∧ l.running = true ∧ l.armed = false ∧ (∀ m ∈ s.lineStations 0, (s.junction m).signalled = true) := by decide

/-- Values of the two modes, an infinite product and a NaN, and an MMA at the head of the queue. -/
theorem witness_vector_modes :
    let j : Junction := { Junction.reset with queue := [(0, .mma (mkHandle 1 0 5 0 0) .e4m3 7 128 0)] }
    jMode .e4m3 = jMode .e5m2 ∧ jMode .fp16 ≠ jMode .e4m3 ∧ JFmt.fp16 ≠ .i8 ∧
      ((jFormat .e5m2).decode 0x7C).mul ((jFormat .e4m3).decode 0x38) = .inf false ∧
      ((jFormat .e5m2).decode 0x7C).mul ((jFormat .e4m3).decode 0) = .nan ∧
      j.queue = (0, .mma (mkHandle 1 0 5 0 0) .e4m3 7 128 0) :: [] ∧ ({ labS with junctions := [(0, j)] } : State).lineRuns 0 = false := by decide

/-- Structures of the KV cache in the laboratory: the control block at 0x8000 with one free group, node and table page, a group at
0x400 and a live sequence of 17 tokens at 0x1000. -/
def kvLab (cells : List (Nat × Nat)) : State :=
  { labS with dram := Memory.writes [] (cells.flatMap fun c => (List.range 8).map fun i => (c.1 + i, BitVec.ofNat 8 (c.2 >>> (8 * i)))),
              partitions := [(0, { labPart with kvcb := 0x8000 })] }
def kvEnvLab : KvEnv := ⟨fun s va _ => (s, .ok ⟨.device, va⟩ ⟨2, false, false, false⟩ 0 0), 0⟩
def kvOut {α : Type} (m : KvM α) (s : State) : Option α := match m s with | .ok v _ => some v | _ => none

theorem to_of {α : Type} {m : KvM α} {s : State} {v : α} (h : kvOut m s = some v) : ∃ t, m.To s v t := by
  unfold kvOut at h
  split at h
  · next v' t hm => exact ⟨t, by cases h; exact hm⟩
  · cases h

/-- PINS at 0, 1 and 65,535, and a group that is being evicted. -/
theorem witness_kv_pins : (∃ t, (kvEnvLab.pin true 0x400).To (kvLab []) (5, 0) t) ∧
    (∃ t, (kvEnvLab.pin true 0x400).To (kvLab [(0x600, 2 ^ 32 + 1)]) (0, 0) t) ∧
    (∃ t, (kvEnvLab.pin false 0x400).To (kvLab [(0x600, 65535 * 2 ^ 32)]) (5, 65535) t) ∧
    (∃ t, (kvEnvLab.pin false 0x400).To (kvLab [(0x600, 65534 * 2 ^ 32)]) (0, 65535) t) ∧
    ∃ t, (kvEnvLab.pin false 0x400).To (kvLab [(0x600, 2 ^ 63)]) (2, 0) t :=
  ⟨to_of (by decide), to_of (by decide), to_of (by decide), to_of (by decide), to_of (by decide)⟩

/-- A list that is empty, one element, and a group that nothing holds. -/
theorem witness_kv_references : (∃ t, kvEnvLab.popGroup.To (kvLab []) 0 t) ∧
    (∃ t, kvEnvLab.popGroup.To (kvLab [(0x8000, 0x400), (0x8008, 1)]) 0x400 t) ∧ (∃ t, (kvEnvLab.pushGroup 0x400).To (kvLab []) ⟨⟩ t) ∧
    (∃ t, (kvEnvLab.pushTable 0x10000).To (kvLab []) ⟨⟩ t) ∧ (∃ t, (kvEnvLab.dropRef 0x400).To (kvLab [(0x600, 1)]) ⟨⟩ t) ∧
    (∃ t, (kvEnvLab.dropRef 0x400).To (kvLab [(0x600, 2)]) ⟨⟩ t) ∧ ∃ t, (kvEnvLab.dropRef 0x400).To (kvLab [(0x600, 2 ^ 62 + 1)]) ⟨⟩ t :=
  ⟨to_of (by decide), to_of (by decide), to_of (by decide), to_of (by decide), to_of (by decide), to_of (by decide), to_of (by decide)⟩

def kvLive (len : Nat) : Nat × Nat := (0x1000, 2 ^ 62 + len)

/-- A descriptor that is not live, one shorter than the length, and truncations to 16 of 17 tokens and to all of them. -/
theorem witness_kv_truncations : (∃ t, (kvEnvLab.trunc 0x1000 0).To (kvLab []) (6, 0) t) ∧
    (∃ t, (kvEnvLab.trunc 0x1000 18).To (kvLab [kvLive 17]) (5, 17) t) ∧
    (∃ t, (kvEnvLab.trunc 0x1000 17).To (kvLab [kvLive 17]) (0, 17) t) ∧
    (∃ t, (kvEnvLab.trunc 0x1000 16).To (kvLab [kvLive 17, (0x1020, 0x20000), (0x20008, 0x400), (0x600, 2)]) (0, 17) t) ∧
    (∃ t, (kvEnvLab.rel 0x1000).To (kvLab [kvLive 0]) (0, 0) t) ∧
    ∃ t, (kvEnvLab.rel 0x1000).To (kvLab [kvLive 16, (0x1020, 0x20000), (0x20000, 0x400), (0x600, 2)]) (0, 16) t :=
  ⟨to_of (by decide), to_of (by decide), to_of (by decide), to_of (by decide), to_of (by decide), to_of (by decide)⟩

set_option maxRecDepth 8000 in
/-- A table without an entry, one whose first entry is no node, and one whose node is of the block. -/
theorem witness_kv_probes : (∃ t, (kvEnvLab.find 0x10000 0 kvEnvLab.unpoisoned).To (kvLab []) none t) ∧
    (∃ t, (kvEnvLab.find 0x10000 0 kvEnvLab.unpoisoned).To (kvLab [(0x10000, 1)]) none t) ∧
    (∃ t, (kvEnvLab.find 0x10000 0 kvEnvLab.unpoisoned).To (kvLab [(0x10000, 0x3000), (0x3040, 0x400)]) (some (0x3000, 0x400)) t) ∧
    blockHash 0 = 0 :=
  ⟨to_of (by decide), to_of (by decide), to_of (by decide), by decide⟩

/-- An append to a sequence that is not live, is poisoned, is full, and at a block's first token with an empty free list. -/
theorem witness_kv_appends : (∃ t, (kvEnvLab.appendHead 0x1000).To (kvLab []) (some 6, 0, 0, 0) t) ∧
    (∃ t, (kvEnvLab.appendHead 0x1000).To (kvLab [(0x1000, 2 ^ 63 + 2 ^ 62)]) (some 3, 0, 0, 0) t) ∧
    (∃ t, (kvEnvLab.appendHead 0x1000).To (kvLab [kvLive 1048576]) (some 5, 0, 0, 0) t) ∧
    (∃ t, (kvEnvLab.appendGroup 0x1000 16 1 1).To (kvLab []) 0 t) ∧
    (∃ t, (kvEnvLab.appendGroup 0x1000 16 1 1).To (kvLab [(0x8000, 0x400), (0x1020, 0x20000)]) 0x400 t) ∧
    ∃ t, (kvEnvLab.appendGroup 0x1000 17 1 1).To (kvLab [(0x1020, 0x20000), (0x20008, 0x400), (0x600, 1)]) 0x400 t :=
  ⟨to_of (by decide), to_of (by decide), to_of (by decide), to_of (by decide), to_of (by decide), to_of (by decide)⟩

/-- An insertion under a node that is being removed, and into an empty tree. -/
theorem witness_kv_inserts : (∃ t, (kvEnvLab.attach 0x2000 0x400 0 0 0).To (kvLab [(0x2058, 2 ^ 63)]) none t) ∧
    (∃ t, (kvEnvLab.attach 0x2000 0x400 0 0 0).To (kvLab [(0x2050, 0x10000), (0x8010, 0x3000)]) (some 0x3000) t) ∧
    (∃ t, (kvEnvLab.pfxi 0x1000 0 fun _ => KvM.pure 0).To (kvLab []) (6, 0) t) ∧
    ∃ t, (kvEnvLab.pfxi 0x1000 16 fun _ => KvM.pure 0).To (kvLab [kvLive 17]) (5, 0) t :=
  ⟨to_of (by decide), to_of (by decide), to_of (by decide), to_of (by decide)⟩

theorem witness_landing_over_result :
    let b : Busy := ⟨2, .s 14, 0, 9, .none⟩
    let s (now : Nat) : State := { labD with units := [(coreBase, { uD with busy := some b })], dclocks := [(0, now)] }
    (s 1).clockOf coreBase < b.until_ ∧ ¬ (s 2).clockOf coreBase < b.until_ ∧ ((s 2).unit? (coreBase + 0)).isSome = true := by decide

/-- A write of an unrevocable invocation that follows a held event of a later, still revocable one. -/
theorem witness_urge :
    let h : Held := ⟨8, 1, 9, heldEv, none, .system, none, [], false, 0, [0], [(0, 1)]⟩
    let p : Packet := ⟨4, 0, .access [{ heldEv with loc := ⟨.device, 0x20002000⟩ }] none .none, .request, [], 0, [], [], 1⟩
    let s : State := { heldOne h with mesh := [p] }
    s.mesh[0]? = some p ∧ s.heldBack 0 p = true ∧ h.leadsPacket p = true ∧ s.performable h = false ∧
      ({ labS with mesh := [p] } : State).heldBack 0 p = false := by decide

theorem witness_snoop_pinned :
    let l : Line := ⟨⟨.host, 0⟩, 0, .present, 15, 15, 1, [(0, 7)], [], [], false, false, [1], some .modified, 0⟩
    let s : State := { labS with lines := [(labS.keyOf 0 ⟨.host, 0⟩, l)] }
    s.line? (s.keyOf 0 ⟨.host, 128 * 0⟩) = some l ∧ l.pins ≠ [] ∧ l.dirtyBytes ≠ [] := by decide

theorem witness_mcast_broken_stale :
    let m : Mcast := ⟨0, 1, 1, [0, 128, 0, 0], .broken, some (mkHandle 2 0 5 0 0)⟩
    let s : State := { labS with mcasts := [(2, m)] }
    Tab.find s.mcasts 2 = some m ∧ m.st ≠ .sending ∧ m.stale = some (mkHandle 2 0 5 0 0) ∧ s.mesh = [] := by decide

/-- Two units that wait at one queue, of which the second has the better class; their queue takes a record or is disabled. -/
theorem witness_two_waiters :
    let y (cls : BitVec 2) : Machine.Unit := { uS with sys := { uS.sys with bclass := cls }, blocked := some (.again (.enq (.s 2)) ⟨0, 0, 2, none, [0x30000, 0, 0, 0], 0, none, false⟩) }
    let x : Queue := { Queue.reset with st := .open_, live := [0x4000001, 0, 0, 0], waiters := [(0, 0, 0, 0), (1, 0, 0, 0)] }
    let s : State := { labS with units := [(0, y 1), (1, y 0)], queues := [(3, x)] }
    s.retryPort 3 = s ∧ s.firstWaiter (s.queueAt 3).waiters = some (1, 0, 0, 0) ∧ x.room = true ∧ x.listed = false ∧
      x.siding = [] ∧ x.portWaits = false ∧ s.queuePart 3 = some 0 ∧ s.waiterClass (1, 0, 0, 0) < s.waiterClass (0, 0, 0, 0) := by decide

/-- A spill that waits beyond the limit, with an enqueuer of the context behind it. -/
theorem witness_spill_waiters :
    let x : Queue := { Queue.reset with st := .open_, spill := some (1, ⟨[0x30000, 0, 0, 0], 0, 0⟩), waiters := [(0, 0, 0, 0)] }
    let s (now : Nat) : State := { labS with queues := [(3, x)], clocks := [(0, now)] }
    let limit := (labS.part 0).fslimit
    x.spillSince + limit ≤ (s limit).queueNow 3 ∧ ¬ x.spillSince + limit ≤ (s (limit - 1)).queueNow 3 ∧ x.portWaits = false ∧
      x.waiters.filterMap (fun w => ((s 0).unit? w.1).map fun y => y.ctx) = [1] := by decide

/-- A head that finds no stations before one that does; the pointer stays, moves and wraps. -/
theorem witness_second_candidate :
    let big : Graph := ⟨1, 1, false, false, [⟨0, 1, [], [], []⟩], [], 0⟩
    let x (g : W64) : Queue := { Queue.reset with st := .open_, live := [0x4000001, 0, 0, 0], window := [⟨[g, 0, 0, 0], 0, 0⟩], deficit := 1 }
    let full : Station := { labStation with quotas := [(9, 0, 131072)] }
    let s : State := { labS with regions := [], units := [], queues := [(3, x 1), (4, x 0)], stations := (List.range 64).map fun n => (n, full),
                                 contexts := [(1, ⟨⟨0, 0, true, [], [labGraph, big]⟩, false, 0⟩)] }
    let r := s.candidates [3, 4] (s.savedOf 0 0) (fabricKey 0 0)
    let placed (q : Nat) (w : W64) : Nat := match r.1.place 0 q [w, 0, 0, 0] (avoidFor (r.1.reserved 0 0 r.2) (.head q)) with
      | .started _ => 1
      | .no => 2
      | _ => 3
    s.queuesOf false 0 0 = [3, 4] ∧ [3, 4].Pairwise (· < ·) ∧ r.2 = [(0, .head 3), (0, .head 4)] ∧ placed 3 1 = 2 ∧ placed 4 0 = 1 ∧
      (s.point (fabricKey 0 0 0) [3, 4]).2 = some 3 ∧
      ({ s with pointers := [(fabricKey 0 0 0, 3)] }.point (fabricKey 0 0 0) [3, 4]).2 = some 4 ∧
      ({ s with pointers := [(fabricKey 0 0 0, 4)] }.point (fabricKey 0 0 0) [3, 4]).2 = some 3 ∧
      ({ s with pointers := [(fabricKey 0 0 0, 3)], pointed := [(fabricKey 0 0 0, true)] }.point (fabricKey 0 0 0) [3, 4]).2 = some 3 := by
  decide

theorem witness_switch_called :
    let r : Region := { benchRegion with qclass := 3, stations := [0] }
    let s : State := { labS with regions := [(1, r)], units := [(0, { uS with sys := { uS.sys with bclass := 3 } })] }
    (1, r) ∈ s.regionsOn 0 0 ∧ r.st = .running ∧ s.frozen 1 = false ∧ 2 < s.regionClass r ∧ ¬ 3 < s.regionClass r ∧
      (∃ n ∈ r.stations, n ∈ [0, 5]) ∧ (∀ e ∈ s.regionsOn 0 0, e.2.st ≠ .switching) := by decide

theorem witness_record_done :
    let x : Machine.Unit := { uS with halted := true, inbox := [] }
    let r : Region := { benchRegion with done := true, units := [0], stations := [0] }
    let s : State := { labS with regions := [(1, r)], units := [(0, x)] }
    s.region? 1 = some r ∧ r.done = true ∧ r.st = .running ∧ s.flight = [] ∧ s.mesh = [] ∧ s.mcasts = [] ∧ s.colls = [] ∧
      (s.loopLine 0).claim = none ∧ s.triplesDue 1 = false ∧ x.busy = none ∧ x.blocked = none ∧ x.halted = true ∧
      (labS.unit? 0).map (·.halted) = some false := by decide

/-- No core is idle; two kernels run above the class of a waiting record, and the later of the higher class is chosen. -/
theorem witness_victim_chosen :
    let y (cls : BitVec 2) : Machine.Unit := { uD with sys := { uD.sys with bclass := cls } }
    let k (t : Nat) : Core := { Core.reset with st := .running, started := t }
    let s : State := { labD with cores := (List.range 16).map fun c => (c, k (if c = 9 then 5 else c % 4)),
                                 units := (List.range 16).map fun c => (coreBase + c, y (if c < 8 then 2 else 3)) }
    s.stackPart 0 = some 0 ∧ (∀ j, j < 16 → (s.core (16 * 0 + j)).st ≠ .idle) ∧
      (∀ k, k < 16 → k ≠ 9 → (s.core k).started < (s.core 9).started) ∧ (s.unit? (coreBase + 9)).map (·.sys.bclass) = some 3 := by decide

/-- Frames that are free beside those in use, and none where every run is taken. -/
theorem witness_spare_frames :
    (labS.spareFrames 0 2 []).length = 2 ∧ (labS.spareFrames 0 2 [(0, 2)]) = [2, 3] ∧ (labS.spareFrames 0 2 [(0, 2 ^ 40)]) = [] := by decide

/-- The receiving epoch is the sending one, the next one with its key, the next one without, and a zeroed port. -/
theorem witness_hears :
    let x : MainPort := { MainPort.reset with key := .live }
    x.hears = true ∧ { x with rxEpoch := 1, nextKey := true }.hears = true ∧ { x with rxEpoch := 1 }.hears = false ∧
      { x with rxEpoch := 2, nextKey := true }.hears = false ∧ { x with key := .zeroed }.hears = false := by decide

theorem witness_window_running :
    isCore 0 = false ∧ (∀ r, labS.region? uS.region = some r → r.st ≠ .stoppedResident) := by decide

/-- Wear of a die's rail, of a station, of a lane and of a channel of the partition's own district, and of the districts behind it. -/
theorem witness_wear_own :
    let own (which unit : Nat) : Bool := (which == 0 && decide (unit < 64)) ||
      (which == 1 && decide (unit < 512) && labPart.districts.contains (2 * (unit / 64) + unit % 64 / 32)) ||
      (which == 2 && decide (unit < 128) && labPart.districts.contains (unit / 8)) || (which == 3 && labPart.districts.contains (unit / 160))
    own 0 63 = true ∧ own 0 64 = false ∧ own 1 31 = true ∧ own 1 32 = false ∧ own 2 7 = true ∧ own 2 8 = false ∧ own 3 159 = true ∧
      own 3 160 = false := by decide
end

section
/-! SUPPORT. The turn of a unit, an equation per case: the word at the head of a byte list, the lowest-numbered ready slot, what
an idle and a blocked unit choose, and what a step makes of it. -/
namespace Sys2Proof

/-! ### The word in memory (R7) -/

@[simp] theorem length_leBytes (n x : Nat) : (leBytes n x).length = n := by
  induction n generalizing x with
  | zero => rfl
  | succ n ih => simp [leBytes, ih]

theorem leNat_leBytes (n x : Nat) : leNat (leBytes n x) = x % 256 ^ n := by
  induction n generalizing x with
  | zero => simp [leBytes, leNat, Nat.mod_one]
  | succ n ih =>
    have hbyte : (BitVec.ofNat 8 (x % 256)).toNat = x % 256 := by simp
    rw [leBytes, leNat, ih, hbyte, Nat.pow_succ', Nat.mod_mul]

/-- Bytes that begin with those of a word decode as the word does, and what follows them is left. -/
theorem decode_leBytes_append (w : W64) (l : List Byte) :
    decode (leBytes 8 w.toNat ++ l) = (decodeWord w).map fun i => (i, l) := by
  have hword : BitVec.ofNat 64 (leNat ((leBytes 8 w.toNat ++ l).take 8)) = w := by
    rw [List.take_left' (length_leBytes 8 _), leNat_leBytes]
    exact BitVec.eq_of_toNat_eq (by simpa using w.isLt)
  have hrest : (leBytes 8 w.toNat ++ l).drop 8 = l := List.drop_left' (length_leBytes 8 _)
  rw [decode, if_neg (by simp), hword, hrest]
  cases decodeWord w <;> rfl

theorem decode_leBytes_iff {w : W64} {i : IWord} {rest : List Byte} :
    decode (leBytes 8 w.toNat) = .ok (i, rest) ↔ decodeWord w = .ok i ∧ rest = [] := by
  have h := decode_leBytes_append w []
  rw [List.append_nil] at h
  rw [h]
  cases decodeWord w <;> simp [Except.map, eq_comm]

namespace Machine

theorem Unit.isSeq_of_sequenced {x : Unit} (h : x.mode = .sequenced) : x.isSeq = true := by simp [Unit.isSeq, h]

theorem Unit.isSeq_of_triggered {x : Unit} (h : x.mode = .triggered) : x.isSeq = false := by simp [Unit.isSeq, h]

/-! ### The lowest-numbered ready slot (R16) -/

section
variable {x : Unit} {n : Nat} {w : W64} {ws : List W64}

theorem Unit.pickSlot_cons_ready {i : IWord} (he : x.enable.getLsbD n = true) (hd : decodeWord w = .ok i)
    (hr : x.slotReady i = true) : x.pickSlot n (w :: ws) = some (n, i) := by
  simp [Unit.pickSlot, he, hd, hr]

theorem Unit.pickSlot_cons_unready
    (h : x.enable.getLsbD n = true → ∀ j, decodeWord w = .ok j → x.slotReady j = false) :
    x.pickSlot n (w :: ws) = x.pickSlot (n + 1) ws := by
  rw [Unit.pickSlot]
  split
  next he =>
    split
    next j hd => simp [h he j hd]
    next => rfl
  next => rfl

/-- No slot is chosen where none that is enabled holds a ready word. -/
theorem Unit.pickSlot_eq_none
    (h : ∀ m v j, ws[m]? = some v → x.enable.getLsbD (n + m) = true → decodeWord v = .ok j → x.slotReady j = false) :
    x.pickSlot n ws = none := by
  induction ws generalizing n with
  | nil => rfl
  | cons w ws ih =>
    rw [Unit.pickSlot_cons_unready (n := n) fun he j => h 0 w j rfl he]
    exact ih fun m v j hv he hd => h (m + 1) v j (by simpa using hv) (by rwa [← Nat.add_assoc, Nat.add_right_comm]) hd

/-- The slot that is chosen: it is ready, and no lower one is. -/
theorem Unit.pickSlot_eq_some {m : Nat} {i : IWord} (hw : ws[m]? = some w) (he : x.enable.getLsbD (n + m) = true)
    (hd : decodeWord w = .ok i) (hr : x.slotReady i = true)
    (h : ∀ k, k < m → ∀ v j, ws[k]? = some v → x.enable.getLsbD (n + k) = true → decodeWord v = .ok j →
      x.slotReady j = false) : x.pickSlot n ws = some (n + m, i) := by
  induction ws generalizing n m with
  | nil => simp at hw
  | cons v ws ih =>
    cases m with
    | zero =>
      obtain rfl : v = w := by simpa using hw
      exact Unit.pickSlot_cons_ready he hd hr
    | succ m =>
      have hshift (k : Nat) : n + 1 + k = n + (k + 1) := by omega
      rw [Unit.pickSlot_cons_unready (n := n) fun he j => h 0 (Nat.succ_pos m) v j rfl he, ← hshift m]
      exact ih (by simpa using hw) (by rwa [hshift]) fun k hk v j hv he hd =>
        h (k + 1) (Nat.succ_lt_succ hk) v j (by simpa using hv) (by rwa [← hshift]) hd

end

/-- A slot that is ready while the unit is blocked holds a RELEASE (R19). -/
theorem Unit.release_of_slotReady {x : Unit} {i : IWord} (hb : x.blocked ≠ none) (hr : x.slotReady i = true) :
    ∃ h, i.instr = .release h := by
  have hrel : i.instr.isRelease = true := by
    simp only [Unit.slotReady, Bool.and_eq_true, Bool.or_eq_true, Option.isNone_iff_eq_none] at hr
    exact hr.2.resolve_left hb
  generalize i.instr = j at hrel
  cases j with
  | release h => exact ⟨h, rfl⟩
  | _ => cases hrel

/-- Slot `n` is the lowest-numbered one that is enabled and ready, and `i` is the word in it (R15, R16). -/
def Unit.FirstReady (x : Unit) (n : Nat) (i : IWord) : Prop :=
  ∃ w, x.slots[n]? = some w ∧ x.enable.getLsbD n = true ∧ decode (leBytes 8 w.toNat) = .ok (i, []) ∧ x.slotReady i = true ∧
    ∀ m, m < n → ∀ v j, x.slots[m]? = some v → x.enable.getLsbD m = true → decodeWord v = .ok j → x.slotReady j = false

/-- No slot that is enabled is ready. -/
def Unit.NoneReady (x : Unit) : Prop :=
  ∀ m v j, x.slots[m]? = some v → x.enable.getLsbD m = true → decodeWord v = .ok j → x.slotReady j = false

theorem Unit.FirstReady.pickSlot {x : Unit} {n : Nat} {i : IWord} (h : x.FirstReady n i) :
    x.pickSlot 0 x.slots = some (n, i) := by
  obtain ⟨w, hw, he, hd, hr, hlow⟩ := h
  have := Unit.pickSlot_eq_some (n := 0) hw (by rwa [Nat.zero_add]) (decode_leBytes_iff.1 hd).1 hr (by simpa using hlow)
  rwa [Nat.zero_add] at this

theorem Unit.NoneReady.pickSlot {x : Unit} (h : x.NoneReady) : x.pickSlot 0 x.slots = none :=
  Unit.pickSlot_eq_none (by simpa [Unit.NoneReady] using h)

/-! ### The word of a sequenced unit (R27, R61) -/

section
variable {s : State} {u : Nat} {x : Unit} {w : W64} {i : IWord}

theorem State.chooseWord_outside (h : storeSize u ≤ x.pc) : s.chooseWord u x = .trap (illegal 4) := by
  simp [State.chooseWord, State.fetch, h]

theorem State.chooseWord_ten (hf : s.fetch u x = some w) (ht : w.getLsbD 47 = true) :
    s.chooseWord u x = .trap (illegal 3) := by
  simp [State.chooseWord, hf, wordTen, ht]

theorem State.chooseWord_undecoded (hf : s.fetch u x = some w) (ht : w.getLsbD 47 = false)
    (hd : ∀ i, decodeWord w ≠ .ok i) : s.chooseWord u x = .trap (illegal 0) := by
  cases he : decodeWord w with
  | error e => simp only [State.chooseWord, hf, wordTen, ht, he, Bool.false_eq_true, if_false]
  | ok i => exact absurd he (hd i)

/-- What becomes of a word that decodes: a reserved encoding here, a channel that is not bound, then the guard. -/
theorem State.chooseWord_decoded (hf : s.fetch u x = some w) (ht : w.getLsbD 47 = false) (hd : decodeWord w = .ok i) :
    s.chooseWord u x =
      if (isCore u && relvyReserved i.instr) || s.reservedHere u x i.instr then .trap (illegal 0)
      else if !x.bound i.instr.srcs i.instr.outs then .trap (illegal 1)
      else if x.guardOk i.guard then .fire ⟨u, 0, none, i.upd, none⟩ i.instr
      else .skip := by
  simp only [State.chooseWord, hf, wordTen, ht, hd, Bool.false_eq_true, if_false]

theorem State.chooseWord_reserved (hf : s.fetch u x = some w) (ht : w.getLsbD 47 = false) (hd : decodeWord w = .ok i)
    (h : (isCore u && relvyReserved i.instr) = true ∨ s.reservedHere u x i.instr = true) :
    s.chooseWord u x = .trap (illegal 0) := by
  rw [State.chooseWord_decoded hf ht hd, if_pos (Bool.or_eq_true _ _ ▸ h)]

theorem State.chooseWord_unbound (hf : s.fetch u x = some w) (ht : w.getLsbD 47 = false) (hd : decodeWord w = .ok i)
    (hc : (isCore u && relvyReserved i.instr) = false) (hr : s.reservedHere u x i.instr = false)
    (hb : x.bound i.instr.srcs i.instr.outs = false) : s.chooseWord u x = .trap (illegal 1) := by
  simp [State.chooseWord_decoded hf ht hd, hc, hr, hb]

theorem State.chooseWord_bound (hf : s.fetch u x = some w) (ht : w.getLsbD 47 = false) (hd : decodeWord w = .ok i)
    (hc : (isCore u && relvyReserved i.instr) = false) (hr : s.reservedHere u x i.instr = false)
    (hb : x.bound i.instr.srcs i.instr.outs = true) :
    s.chooseWord u x = if x.guardOk i.guard then .fire ⟨u, 0, none, i.upd, none⟩ i.instr else .skip := by
  simp [State.chooseWord_decoded hf ht hd, hc, hr, hb]

end

/-! ### What a unit chooses -/

section
variable {s : State} {u : Nat} {x : Unit}

theorem State.choose_word (hm : x.mode = .sequenced) (hb : x.blocked = none) : s.choose u x = s.chooseWord u x := by
  simp [State.choose, Unit.isSeq_of_sequenced hm, hb]

theorem State.choose_blocked_sequenced (hm : x.mode = .sequenced) (hb : x.blocked ≠ none) : s.choose u x = .none := by
  simp [State.choose, Unit.isSeq_of_sequenced hm, Option.isSome_iff_ne_none.2 hb]

theorem State.choose_slot {n : Nat} {i : IWord} (hm : x.mode = .triggered) (h : x.FirstReady n i) :
    s.choose u x = .fire ⟨u, n, i.guard.test, i.upd, none⟩ i.instr := by
  simp [State.choose, Unit.isSeq_of_triggered hm, h.pickSlot]

theorem State.choose_noneReady (hm : x.mode = .triggered) (h : x.NoneReady) : s.choose u x = .none := by
  simp [State.choose, Unit.isSeq_of_triggered hm, h.pickSlot]

theorem State.choose_blocked_noneReady (hb : x.blocked ≠ none) (h : x.mode = .sequenced ∨ x.NoneReady) :
    s.choose u x = .none := by
  cases hm : x.mode with
  | sequenced => exact State.choose_blocked_sequenced hm hb
  | triggered => exact State.choose_noneReady hm (h.resolve_left (by simp [hm]))

/-- A blocked unit starts no count of idle cycles (R20). -/
theorem State.noteIdle_of_blocked (hu : s.unit? u = some x) (hb : x.blocked ≠ none) :
    s.noteIdle u = s.onUnit u fun y => y := by
  have : x.blocked.isNone = false := Option.isNone_eq_false_iff.2 (Option.isSome_iff_ne_none.2 hb)
  simp [State.noteIdle, State.onUnit, hu, this]

end

/-! ### What a unit's turn comes to -/

section
variable {s : State} {u : Nat} {x : Unit} {i : Instr} {c : Captured}

theorem Unit.retry_again (hb : x.blocked = some (.again i c)) (hh : c.hold = none) :
    x.retry u = some (⟨u, c.slot, none, .none, some c⟩, i) := by
  simp [Unit.retry, hb, hh]

theorem Unit.retry_eq_none (h : ∀ i c, x.blocked = some (.again i c) → c.hold ≠ none) : x.retry u = none := by
  rw [Unit.retry]
  split
  next i c hb => rw [if_pos (Option.isSome_iff_ne_none.2 (h i c hb))]
  next => rfl

/-- Where no instruction is carried on, the unit does what it chooses. -/
theorem takeUp_chosen (h : ∀ i c, x.blocked = some (.again i c) → c.hold ≠ none ∨ s.mayRepeat u = false) :
    takeUp u x s = runChoice u (s.choose u x) s := by
  have hnone : (if s.mayRepeat u then x.retry u else none) = none := by
    split
    next hr => exact Unit.retry_eq_none fun i c hb => (h i c hb).resolve_right (by simp [hr])
    next => rfl
  rw [takeUp, hnone]

/-- A unit that is not blocked does what it chooses. -/
theorem takeUp_idle (hb : x.blocked = none) : takeUp u x s = runChoice u (s.choose u x) s :=
  takeUp_chosen fun i c h => by simp [hb] at h

section
variable (hb : x.blocked = some (.again i c)) (hh : c.hold = none) (hr : s.mayRepeat u = true)
include hb hh hr

theorem takeUp_carried_next {t : State}
    (he : exec i ((s.repeated u).begin ⟨u, c.slot, none, .none, some c⟩) = .next t) : takeUp u x s = bypass u t := by
  simp [takeUp, hr, Unit.retry_again hb hh, he]

theorem takeUp_carried_stop
    (he : ∀ t, exec i ((s.repeated u).begin ⟨u, c.slot, none, .none, some c⟩) ≠ .next t) :
    takeUp u x s = exec i ((s.repeated u).begin ⟨u, c.slot, none, .none, some c⟩) := by
  cases ho : exec i ((s.repeated u).begin ⟨u, c.slot, none, .none, some c⟩) with
  | next t => exact absurd ho (he t)
  | fault => simp [takeUp, hr, Unit.retry_again hb hh, ho]
  | refused => simp [takeUp, hr, Unit.retry_again hb hh, ho]

end

/-- A unit that is still blocked, and may take a turn, goes on to the release bypass (R19). -/
theorem bypass_blocked (hu : s.unit? u = some x) (hb : x.blocked ≠ none) (ht : s.canTurn u x = true) :
    bypass u s = runChoice u (s.choose u x) s := by
  simp [bypass, hu, ht, Option.isSome_iff_ne_none.2 hb]

theorem bypass_over (hu : s.unit? u = some x) (h : x.blocked = none ∨ s.canTurn u x = false) : bypass u s = .next s := by
  rcases h with h | h <;> simp [bypass, hu, h]

/-- A blocked unit with no ready RELEASE does nothing more (R19); `y` is the unit that chooses, `x` what stands in the state. -/
theorem runChoice_noneReady (hu : s.unit? u = some x) (hb : x.blocked ≠ none) {y : Unit} (hy : y.blocked ≠ none)
    (h : y.mode = .sequenced ∨ y.NoneReady) : runChoice u (s.choose u y) s = .next (s.onUnit u fun y => y) := by
  rw [State.choose_blocked_noneReady hy h, runChoice, State.noteIdle_of_blocked hu hb]

/-- Taking the turn changes nothing of the unit but the cycle of its next turn (R183). -/
theorem State.unit?_takeTurn (hu : s.unit? u = some x) :
    (s.takeTurn u).unit? u = some { x with turned := s.clockOf u + 1 } := by
  have hn : (s.noteLanding u).unit? u = some { x with turned := s.clockOf u + 1 } := by simp [State.noteLanding, hu]
  unfold State.takeTurn
  split
  · exact hn
  · exact hn

end

/-! ### A step that is a unit's turn -/

theorem step_unit {s : State} {u : Nat} {dts ddts : List Nat} {ts : List Turn} (hag : s.agenda = ⟨dts, ddts, .unit u⟩ :: ts)
    (hp : s.power.runs = true) : step s = unitTurn u (s.afterCycles ts dts ddts) := by
  simp only [step, State.nextTurn, hag, hp, if_true, State.afterCycles]

/-- A unit that may go on takes its turn: what it does, and what lands at the end of its cycle. -/
theorem unitTurn_takeUp {s : State} {u : Nat} {x : Unit} (hx : (s.landCore u (s.clockOf u)).unit? u = some x)
    (hi : (s.landCore u (s.clockOf u)).inTurn u x = true)
    (hc : (s.landCore u (s.clockOf u)).canTurn u x = true ∨ (s.landCore u (s.clockOf u)).runsOn u x = true) :
    unitTurn u s =
      (s.landCore u (s.clockOf u)).endTurn u (takeUp u x ((s.landCore u (s.clockOf u)).takeTurn u)) := by
  simp [unitTurn, hx, hi, hc]

/-- The step from `s` is a turn of unit `u` that began in state `s1` and has come to `r` before its end (R87, R279). -/
def StepEnds (s s1 : State) (u : Nat) (r : Host.Outcome State Fault Refusal) : Prop :=
  step s = s1.endTurn u r ∧
    ∀ t, r = .next t → step s = .next (if s1.late t u then s1 else t.landCore u (t.clockOf u + 1))

theorem StepEnds.of_endTurn {s s1 : State} {u : Nat} {r : Host.Outcome State Fault Refusal} (h : step s = s1.endTurn u r) :
    StepEnds s s1 u r := ⟨h, fun _ ht => by rw [h, ht, State.endTurn]⟩

/-- What is left of a turn whose unit is blocked as `y` in state `r`: the release bypass, or nothing more (R19). -/
def BypassEnds (s s1 : State) (u : Nat) (r : State) (y : Unit) : Prop :=
  (∀ n i, y.mode = .triggered → y.FirstReady n i →
    (∃ h, i.instr = .release h) ∧ StepEnds s s1 u (exec i.instr (r.begin ⟨u, n, i.guard.test, i.upd, none⟩))) ∧
  (y.mode = .sequenced ∨ y.NoneReady → StepEnds s s1 u (.next (r.onUnit u fun y => y)))

theorem BypassEnds.of_choice {s s1 r : State} {u : Nat} {y z : Unit} (hz : r.unit? u = some z) (hzb : z.blocked ≠ none)
    (hyb : y.blocked ≠ none) (h : StepEnds s s1 u (runChoice u (r.choose u y) r)) : BypassEnds s s1 u r y := by
  refine ⟨fun n i hm hf => ⟨?_, ?_⟩, fun hn => runChoice_noneReady hz hzb hyb hn ▸ h⟩
  · obtain ⟨_, _, _, _, hready, _⟩ := hf
    exact Unit.release_of_slotReady hyb hready
  · rwa [State.choose_slot hm hf, runChoice] at h

section
variable {s s1 : State} {u : Nat} {x : Unit} (h : StepEnds s s1 u (takeUp u x (s1.takeTurn u)))
include h

theorem StepEnds.idle_word (hb : x.blocked = none) (hm : x.mode = .sequenced) :
    StepEnds s s1 u (runChoice u ((s1.takeTurn u).chooseWord u x) (s1.takeTurn u)) := by
  rwa [takeUp_idle hb, State.choose_word hm hb] at h

theorem StepEnds.idle_trap {tr : Trap} (hb : x.blocked = none) (hm : x.mode = .sequenced)
    (hc : (s1.takeTurn u).chooseWord u x = .trap tr) : StepEnds s s1 u (.next ((s1.takeTurn u).raise u 0 tr)) := by
  have hw := h.idle_word hb hm
  rwa [hc, runChoice] at hw

/-- An idle sequenced unit's word that is decoded, not reserved and bound: it fires, or is passed over (R27). -/
theorem StepEnds.idle_decoded {w : W64} {i : IWord} (hb : x.blocked = none) (hm : x.mode = .sequenced)
    (hf : (s1.takeTurn u).fetch u x = some w) (ht : w.getLsbD 47 = false) (hd : decodeWord w = .ok i)
    (hc : (isCore u && relvyReserved i.instr) = false) (hr : (s1.takeTurn u).reservedHere u x i.instr = false)
    (hbd : x.bound i.instr.srcs i.instr.outs = true) :
    (x.guardOk i.guard = true → StepEnds s s1 u (exec i.instr ((s1.takeTurn u).begin ⟨u, 0, none, i.upd, none⟩))) ∧
      (x.guardOk i.guard = false →
        StepEnds s s1 u (.next ((s1.takeTurn u).onUnit u fun y => { y with pc := y.pc + 1 }))) := by
  have hw := h.idle_word hb hm
  rw [State.chooseWord_bound hf ht hd hc hr hbd] at hw
  constructor
  · intro hg
    rwa [if_pos hg, runChoice] at hw
  · intro hg
    rwa [if_neg (ne_true_of_eq_false hg), runChoice, State.skipWord] at hw

theorem StepEnds.idle_slot {n : Nat} {i : IWord} (hb : x.blocked = none) (hm : x.mode = .triggered)
    (hf : x.FirstReady n i) : StepEnds s s1 u (exec i.instr ((s1.takeTurn u).begin ⟨u, n, i.guard.test, i.upd, none⟩)) := by
  rwa [takeUp_idle hb, State.choose_slot hm hf, runChoice] at h

/-- An instruction that is carried on: it ends the turn where it answers no next state; else the release bypass is left. -/
theorem StepEnds.carried {i : Instr} {c : Captured} (hb : x.blocked = some (.again i c)) (hh : c.hold = none)
    (hr : (s1.takeTurn u).mayRepeat u = true) :
    let r := exec i (((s1.takeTurn u).repeated u).begin ⟨u, c.slot, none, .none, some c⟩)
    ((∀ t, r ≠ .next t) → StepEnds s s1 u r) ∧
      ∀ t y, r = .next t → t.unit? u = some y →
        (y.blocked = none ∨ t.canTurn u y = false → StepEnds s s1 u (.next t)) ∧
        (y.blocked ≠ none → t.canTurn u y = true → BypassEnds s s1 u t y) := by
  refine ⟨fun hstop => takeUp_carried_stop hb hh hr hstop ▸ h, fun t y hnext hy => ?_⟩
  rw [takeUp_carried_next hb hh hr hnext] at h
  exact ⟨fun hover => bypass_over hy hover ▸ h,
    fun hyb hyt => .of_choice hy hyb hyb (bypass_blocked hy hyb hyt ▸ h)⟩

/-- A blocked unit that carries nothing on: the release bypass is left. -/
theorem StepEnds.blocked (hx : s1.unit? u = some x) (hb : x.blocked ≠ none)
    (hn : ∀ i c, x.blocked = some (.again i c) → c.hold ≠ none ∨ (s1.takeTurn u).mayRepeat u = false) :
    BypassEnds s s1 u (s1.takeTurn u) x :=
  .of_choice (State.unit?_takeTurn hx) hb hb (takeUp_chosen hn ▸ h)

end

end Machine

open Machine

/-- Settles O16: the step is `endTurn` of what `takeUp` comes to, and each clause is one of its cases. -/
theorem stepRunsDecodedInstruction : Obligations.StepRunsDecodedInstruction := by
  intro s x u dts ddts ts hag hp s0 s1 t ends first noSlot bypassEnds hx hin
  have turn (hgo : s1.canTurn u x = true ∨ s1.runsOn u x = true) : StepEnds s s1 u (takeUp u x t) :=
    .of_endTurn (by rw [step_unit hag hp, unitTurn_takeUp hx hin hgo])
  refine ⟨fun hcan hb => ?idle, fun i c hgo hb hh hr => (turn hgo).carried hb hh hr, fun b hcan hb hn => ?blocked⟩
  case idle =>
    have h := turn (.inl hcan)
    refine ⟨fun w i rest hm hf ht hd hc hr hbd => h.idle_decoded hb hm hf ht (decode_leBytes_iff.1 hd).1 hc hr hbd,
      fun hm hpc => h.idle_trap hb hm (State.chooseWord_outside hpc),
      fun w hm hf => ⟨fun ht => ?ten, fun ht hd => ?undecoded, fun i ht hd => ⟨fun hr => ?reserved, fun hc hr hbd => ?unbound⟩⟩,
      fun n i hm hf => h.idle_slot hb hm hf⟩
    case ten => exact h.idle_trap hb hm (State.chooseWord_ten hf ht)
    case undecoded => exact h.idle_trap hb hm (State.chooseWord_undecoded hf ht hd)
    case reserved => exact h.idle_trap hb hm (State.chooseWord_reserved hf ht hd hr)
    case unbound => exact h.idle_trap hb hm (State.chooseWord_unbound hf ht hd hc hr hbd)
  case blocked =>
    exact (turn (.inl hcan)).blocked hx (by simp [hb]) fun i c h => hn i c (Option.some.inj (hb.symm.trans h))

end Sys2Proof
end

section
/-! SUPPORT. What a firing answers for each outcome of its instruction's body, and what the reading of its tokens leaves
unchanged. -/
namespace Sys2Proof.Machine

@[simp] theorem State.unit?_onStation (s : State) (n : Nat) (f : Station → Station) (u : Nat) :
    (s.onStation n f).unit? u = s.unit? u := rfl

@[simp] theorem State.unit?_onRegion (s : State) (r : Nat) (f : Region → Region) (u : Nat) :
    (s.onRegion r f).unit? u = s.unit? u := by simp [State.unit?]

theorem State.onUnit_eq_putUnit {s : State} {u : Nat} {x : Unit} (h : s.unit? u = some x) (f : Unit → Unit) :
    s.onUnit u f = s.putUnit u (f x) := by
  simp [State.onUnit, h]

/-- Changing a unit changes nothing of the state but the table of units. -/
theorem State.onUnit_rest (s : State) (u : Nat) (f : Unit → Unit) : s.onUnit u f = { s with units := (s.onUnit u f).units } := by
  unfold State.onUnit
  split <;> rfl

theorem Unit.blocked_block (x : Unit) (b : Blocked) (upd : Upd) (defer : Bool) : (x.block b upd defer).blocked = some b := by
  unfold Unit.block
  split <;> rfl

/-! ### The outcomes of a fresh firing (R17, R19, R27, R228) -/

/-- The state in which a fresh firing of instruction `i` leaves the machine, whose body comes to `r`. -/
def State.fired (s : State) (x : Unit) (i : Instr) (r : Res) (defer : Bool := false) : State :=
  s.commit i s.cur.unit s.cur (s.opVal x (i.reads.getD 0 (.sp .zero))) (s.opVal x (i.reads.getD 1 (.sp .zero))) defer r

/-- What an unhindered firing answers, from the meaning of its instruction: a run that names its channels once. -/
theorem State.Fires.answersWith {i : Instr} {av : Avail} {srcs : List Src} {dsts : List Dst} {body : Body} {s : State} {x : Unit}
    {defer : Bool} (h : s.Fires i x) (meaning : State → Host.Outcome State Fault Refusal) (he : exec i s = meaning s)
    (hm : meaning s = runWith i av srcs srcs (outsOf dsts) dsts defer body s) (hav : i.avail = some av) (hr : i.reads = srcs)
    (hw : i.writes = dsts) (hs : chansOf srcs = chansOf i.srcs) (ho : i.outs = outsOf dsts)
    (hk : x.operandsReady i = x.hasTokens i.srcs) :
    exec i s = .next (s.fired x i (body s.cur.unit x (s.taken i.srcs) (s.opVal x (srcs.getD 0 (.sp .zero)))
      (s.opVal x (srcs.getD 1 (.sp .zero))) 0) defer) := by
  obtain ⟨hu, hc, ha, hb, ht, hz⟩ := h
  have hbound : x.bound (srcs ++ srcs) (outsOf dsts) = true := by
    refine Unit.bound_double ?_
    rw [← ho, Unit.bound, hs]
    exact hb
  have htokens : x.hasTokens srcs = true := by
    rw [hk] at ht
    rwa [Unit.hasTokens, hs]
  rw [he, hm, runWith_fires hu hc (by simpa [hav] using ha) hbound htokens (by rwa [← hr, ← hw]), State.taken_congr hs,
    State.fired, hr]

/-- The common case: the meaning is a call of `runUnit`. -/
theorem State.Fires.answers {i : Instr} {av : Avail} {srcs : List Src} {dsts : List Dst} {body : Body} {s : State} {x : Unit}
    (h : s.Fires i x) (meaning : State → Host.Outcome State Fault Refusal) (he : exec i s = meaning s)
    (hm : meaning s = runUnit i av srcs dsts body s) (hav : i.avail = some av) (hr : i.reads = srcs)
    (hw : i.writes = dsts) (hs : chansOf srcs = chansOf i.srcs) (ho : i.outs = outsOf dsts)
    (hk : x.operandsReady i = x.hasTokens i.srcs) :
    exec i s = .next (s.fired x i (body s.cur.unit x (s.taken i.srcs) (s.opVal x (srcs.getD 0 (.sp .zero)))
      (s.opVal x (srcs.getD 1 (.sp .zero))) 0)) :=
  h.answersWith meaning he hm hav hr hw hs ho hk

section
variable {s t : State} {i j : Instr} {x y : Unit} {defer : Bool}

@[simp] theorem State.fired_done : s.fired x i (.done t) defer = s.doneWith t := rfl

@[simp] theorem State.fired_write (d : Dst) (vec : Nat) (sc : W64) (cyc : Nat) :
    s.fired x i (.write t d vec sc cyc) defer = t.finish s.cur.unit s.cur.upd d vec sc cyc := rfl

@[simp] theorem State.fired_jump (pc : Nat) : s.fired x i (.jump t pc) defer = s.jumpTo t pc := rfl

variable (h : s.Fires i x)
include h

theorem State.Fires.fired_trap (tr : Trap) : s.fired y j (.trap tr) defer = s.raised tr := by
  simp [State.fired, State.commit, State.returnTaken, State.giveTaken, h.fresh, State.raised]

theorem State.Fires.fired_block (bl : Blocked) :
    s.fired y j (.block t bl) defer = t.onUnit s.cur.unit fun y => y.block bl s.cur.upd defer := by
  simp [State.fired, State.commit, h.fresh]

/-- A firing that waits is to be carried on by its unit. -/
theorem State.Fires.fired_wait (ht : (t.unit? s.cur.unit).isSome = true) (n : Nat) :
    (s.fired y j (.wait t n) defer).CarriesOn s.cur.unit j n := by
  obtain ⟨z, hz⟩ := Option.isSome_iff_exists.1 ht
  simp only [State.fired, State.commit, h.unit, State.carryOn, State.giveBack, h.fresh, State.CarriesOn]
  cases x.isSeq <;> simp [hz, Unit.blocked_block]

end

/-! ### A firing that is carried on (R19, R28) -/

/-- The state in which a firing of instruction `i` that is carried on leaves the machine, where its body comes to `r`. -/
def State.wentOn (s : State) (x : Unit) (i : Instr) (c : Captured) (r : Res) : State :=
  (s.lift s.cur.unit).commit i s.cur.unit { s.cur with upd := x.blockedUpd, test := none } c.a c.b false r

@[simp] theorem State.wentOn_done {s t : State} {x : Unit} {i : Instr} {c : Captured} :
    s.wentOn x i c (.done t) = s.carriedTo x t := rfl

/-- What an instruction that is carried on answers: its body runs on the captured values. -/
theorem State.Carried.answers {i : Instr} {av : Avail} {srcs : List Src} {dsts : List Dst} {body : Body} {s : State} {x : Unit}
    {c : Captured} (h : s.Carried i x c) (meaning : State → Host.Outcome State Fault Refusal) (he : exec i s = meaning s)
    (hm : meaning s = runUnit i av srcs dsts body s) (hav : i.avail = some av) (hs : chansOf srcs = chansOf i.srcs)
    (ho : i.outs = outsOf dsts) :
    exec i s = .next (s.wentOn x i c (body s.cur.unit x (s.resumed x i.srcs) c.a c.b c.phase)) := by
  have hbound : x.bound (srcs ++ srcs) (outsOf dsts) = true := by
    refine Unit.bound_double ?_
    rw [← ho, Unit.bound, hs]
    exact h.bound
  have havail : s.available s.cur.unit x av = true := by simpa [hav] using h.avail
  have hupd : s.retryUpd s.cur.unit s.cur = { s.cur with upd := x.blockedUpd, test := none } := by
    simp [State.retryUpd, h.cap, h.unit]
  have hres : s.resumed x i.srcs = if x.isSeq then (s.lift s.cur.unit).consume s.cur.unit srcs none else s.lift s.cur.unit := by
    simp [State.resumed, State.consume, hs]
  rw [he, hm, hres]
  cases hq : x.isSeq <;> simp [runUnit, runWith, State.wentOn, h.unit, h.cap, havail, hbound, hupd, hq]

/-! ### What the reading of tokens leaves unchanged (R17, R25, R43, R85, R171) -/

/-- `t` comes from `s` by reads of unit `u`: its inboxes and its live mask may differ, and so may the stations. -/
structure State.ReadBy (s t : State) (u : Nat) : Prop where
  rest : t = { s with units := t.units, stations := t.stations }
  others : ∀ w, w ≠ u → t.unit? w = s.unit? w
  own : ∀ x, s.unit? u = some x → ∃ y, t.unit? u = some y ∧ y = { x with inbox := y.inbox, lm := y.lm }

namespace State.ReadBy
variable {s t r : State} {u : Nat}

theorem refl (s : State) (u : Nat) : s.ReadBy s u := ⟨rfl, fun _ _ => rfl, fun x hx => ⟨x, hx, rfl⟩⟩

theorem trans (h : s.ReadBy t u) (g : t.ReadBy r u) : s.ReadBy r u where
  rest := g.rest.trans (by rw [h.rest])
  others w hw := (g.others w hw).trans (h.others w hw)
  own x hx := by
    obtain ⟨y, hy, hxy⟩ := h.own x hx
    obtain ⟨z, hz, hyz⟩ := g.own y hy
    exact ⟨z, hz, hyz.trans (by rw [hxy])⟩

theorem stations (s : State) (u : Nat) (st : Tab Station) : s.ReadBy { s with stations := st } u :=
  ⟨rfl, fun _ _ => rfl, fun x hx => ⟨x, hx, rfl⟩⟩

theorem onUnit (s : State) (u : Nat) {f : Unit → Unit} (hf : ∀ x, f x = { x with inbox := (f x).inbox, lm := (f x).lm }) :
    s.ReadBy (s.onUnit u f) u where
  rest := by unfold State.onUnit; split <;> rfl
  others w hw := State.unit?_onUnit_of_ne _ _ hw.symm
  own x hx := ⟨f x, by simp [hx], hf x⟩

theorem putUnit {x : Unit} (hx : s.unit? u = some x) {y : Unit} (hy : y = { x with inbox := y.inbox, lm := y.lm }) :
    s.ReadBy (s.putUnit u y) u where
  rest := rfl
  others w hw := by simp [Ne.symm hw]
  own z hz := ⟨y, by simp, Option.some.inj (hx.symm.trans hz) ▸ hy⟩

end State.ReadBy

section
variable (s : State) (u : Nat)

theorem State.readBy_dequeue (c : Nat) : s.ReadBy (s.dequeue u c) u := by
  unfold State.dequeue
  split
  next => exact .refl s u
  next x hx =>
    split
    next => exact .refl s u
    next => exact (State.ReadBy.putUnit hx rfl).trans (.stations _ _ _)

theorem State.readBy_gainOrder (c : Nat) : s.ReadBy (s.gainOrder u c) u := by
  unfold State.gainOrder
  split
  next => exact .refl s u
  next =>
    split
    next =>
      split
      · exact .stations _ _ _
      · exact .refl s u
    next => exact .refl s u

theorem State.readBy_readToken (c : Chan) (k : Fin 4) : s.ReadBy (s.readToken u c k) u := by
  unfold State.readToken
  split
  next => exact .refl s u
  next x hx =>
    have hbox (b : Inbox) : s.ReadBy (s.putUnit u (x.setBox c.val b)) u := .putUnit hx rfl
    dsimp only
    split
    · split
      · exact s.readBy_dequeue u c.val
      · exact hbox _
    · split
      · exact s.readBy_dequeue u c.val
      · exact hbox _

theorem State.readBy_readChans (l : List (Chan × Fin 4)) : s.ReadBy (s.readChans u l) u := by
  induction l generalizing s with
  | nil => exact .refl s u
  | cons e l ih =>
    have hlive : s.ReadBy (s.onUnit u fun x => x.takeLive e.1) u := by
      refine .onUnit s u fun x => ?_
      unfold Unit.takeLive
      repeat' split
      all_goals rfl
    exact hlive.trans (((State.readBy_gainOrder _ u _).trans (State.readBy_readToken _ u _ _)).trans (ih _))

/-- Everything that a firing consumes changes only its unit's inboxes and live mask, and the stations. -/
theorem State.readBy_consume (l : List Src) (test : Option (Chan × Tag)) : s.ReadBy (s.consume u l test) u := by
  refine (s.readBy_readChans u (chansOf l)).trans ?_
  unfold State.consume State.takeOrd
  split
  next => exact (State.readBy_gainOrder _ u _).trans (State.readBy_dequeue _ u _)
  next => exact .refl _ u

theorem State.readBy_taken (l : List Src) : s.ReadBy (s.taken l) s.cur.unit := s.readBy_consume _ _ _

end

theorem chansOf_eq_nil {l : List Src} (h : ∀ ch k, .c ch k ∉ l) : chansOf l = [] := by
  refine List.eq_nil_iff_forall_not_mem.2 fun e he => ?_
  obtain ⟨k, hk⟩ := mem_chansOf he
  exact h _ _ hk

/-- A firing that names no channel and tests no head reads nothing. -/
theorem State.taken_of_no_channel {s : State} {l : List Src} (h : ∀ ch k, .c ch k ∉ l) (ht : s.cur.test = none) : s.taken l = s := by
  simp [State.taken, State.consume, chansOf_eq_nil h, State.readChans, ht, State.takeOrd]

theorem State.ReadBy.isSome_unit? {s t : State} {u : Nat} (h : s.ReadBy t u) {x : Unit} (hx : s.unit? u = some x) :
    (t.unit? u).isSome = true := by
  obtain ⟨y, hy, -⟩ := h.own x hx
  simp [hy]

section
variable (s : State) (l : List Src)

@[simp] theorem State.taken_cur : (s.taken l).cur = s.cur := (congrArg State.cur (s.readBy_taken l).rest :)
@[simp] theorem State.taken_clocks : (s.taken l).clocks = s.clocks := (congrArg State.clocks (s.readBy_taken l).rest :)
@[simp] theorem State.taken_dclocks : (s.taken l).dclocks = s.dclocks := (congrArg State.dclocks (s.readBy_taken l).rest :)
@[simp] theorem State.taken_mesh : (s.taken l).mesh = s.mesh := (congrArg State.mesh (s.readBy_taken l).rest :)
@[simp] theorem State.taken_flight : (s.taken l).flight = s.flight := (congrArg State.flight (s.readBy_taken l).rest :)
@[simp] theorem State.taken_dram : (s.taken l).dram = s.dram := (congrArg State.dram (s.readBy_taken l).rest :)
@[simp] theorem State.taken_host : (s.taken l).host = s.host := (congrArg State.host (s.readBy_taken l).rest :)
@[simp] theorem State.taken_peer : (s.taken l).peer = s.peer := (congrArg State.peer (s.readBy_taken l).rest :)
@[simp] theorem State.taken_scratch : (s.taken l).scratch = s.scratch := (congrArg State.scratch (s.readBy_taken l).rest :)
@[simp] theorem State.taken_sram : (s.taken l).sram = s.sram := (congrArg State.sram (s.readBy_taken l).rest :)
@[simp] theorem State.taken_signals : (s.taken l).signals = s.signals := (congrArg State.signals (s.readBy_taken l).rest :)
@[simp] theorem State.taken_lines : (s.taken l).lines = s.lines := (congrArg State.lines (s.readBy_taken l).rest :)
@[simp] theorem State.taken_regions : (s.taken l).regions = s.regions := (congrArg State.regions (s.readBy_taken l).rest :)

end

end Sys2Proof.Machine
end

section
/-! SUPPORT. Branches (R27, R47, R336, R384): where a target lies, and what BR, BRI and LOOP come to. -/
namespace Sys2Proof.Machine

theorem asInt_toNat {w : Nat} (x : BitVec (w + 1)) : asInt (w + 1) x.toNat = x.toInt := by
  have hnat : 2 ^ (w + 1) = 2 * 2 ^ w := pow_succ' 2 w
  have hint : (2 : Int) ^ (w + 1) = ((2 * 2 ^ w : Nat) : Int) := by push_cast; ring
  rw [asInt, Nat.mod_eq_of_lt x.isLt, BitVec.toInt_eq_toNat_cond, Nat.add_sub_cancel, hnat, hint]
  split <;> split <;> omega

/-- A relative target lies at the program counter plus the signed immediate. -/
theorem relTarget_inside {u pc : Nat} {imm : BitVec 22} (h : 0 ≤ (pc : Int) + imm.toInt ∧ (pc : Int) + imm.toInt < storeSize u) :
    relTarget u pc imm = some ((pc : Int) + imm.toInt).toNat := by
  simp [relTarget, asInt_toNat, h]

theorem relTarget_outside {u pc : Nat} {imm : BitVec 22}
    (h : ¬ (0 ≤ (pc : Int) + imm.toInt ∧ (pc : Int) + imm.toInt < storeSize u)) : relTarget u pc imm = none := by
  simpa [relTarget, asInt_toNat] using h

theorem absTarget_inside {u : Nat} {v : W64} (h : v.toNat < storeSize u) : absTarget u v = some v.toNat := if_pos h

theorem absTarget_outside {u : Nat} {v : W64} (h : storeSize u ≤ v.toNat) : absTarget u v = none := if_neg (by omega)

section
variable {s : State} {x : Unit} {imm : BitVec 22} {a : Src} {n : SReg}

theorem State.Fires.exec_br (h : s.Fires (.br imm) x) :
    exec (.br imm) s = .next (s.fired x (.br imm) (goto (s.taken []) (relTarget s.cur.unit x.pc imm))) :=
  (h.answers (execBr imm) rfl rfl rfl rfl rfl rfl rfl rfl :)

theorem State.Fires.exec_bri (h : s.Fires (.bri a) x) :
    exec (.bri a) s = .next (s.fired x (.bri a) (goto (s.taken [a]) (absTarget s.cur.unit (s.opVal x a)))) :=
  (h.answers (execBri a) rfl rfl rfl rfl rfl rfl rfl rfl :)

theorem State.Fires.exec_loop (h : s.Fires (.loop n imm) x) :
    exec (.loop n imm) s = .next (s.fired x (.loop n imm) (
      if x.sReg n - 1 = 0 then .jump ((s.taken []).onUnit s.cur.unit fun y => y.countDown n) (x.pc + 1)
      else goto ((s.taken []).onUnit s.cur.unit fun y => y.countDown n) (relTarget s.cur.unit x.pc imm))) :=
  (h.answers (execLoop n imm) rfl rfl rfl rfl rfl rfl rfl rfl :)

end

end Sys2Proof.Machine

namespace Sys2Proof
open Machine

/-- Settles O28: each branch goes to its target, or traps where that lies outside the store. -/
theorem branches : Obligations.Branches := by
  intro s x imm a n u rel inside
  refine ⟨fun h hin => ?br, fun h hout => ?brOut, fun h hin => ?bri, fun h hout => ?briOut, fun h hn hin => ?loop,
    fun h hn => ?loopEnds, fun h hn hout => ?loopOut⟩
  case br => rw [h.exec_br, relTarget_inside hin]; rfl
  case brOut => rw [h.exec_br, relTarget_outside hout, goto, h.fired_trap]
  case bri => rw [h.exec_bri, absTarget_inside hin]; rfl
  case briOut => rw [h.exec_bri, absTarget_outside hout, goto, h.fired_trap]
  case loop => rw [h.exec_loop, if_neg (sub_ne_zero.2 hn), relTarget_inside hin]; rfl
  case loopOut => rw [h.exec_loop, if_neg (sub_ne_zero.2 hn), relTarget_outside hout, goto, h.fired_trap]
  case loopEnds =>
    obtain ⟨y, hy, hxy⟩ := (s.readBy_taken []).own x h.unit
    have hone : y.sReg n = 1 := by rw [hxy]; exact hn
    have hcount : y.countDown n = { y.setS n 0 with lastLoop := some n } := by simp [Unit.countDown, hone]
    rw [h.exec_loop, if_pos (by simp [hn])]
    simp [State.onUnit_eq_putUnit hy, hcount, u]

end Sys2Proof
end

section
/-! SUPPORT. The system registers (R65, R231 to R233, R436): what SYSRD and SYSWR come to. -/
namespace Sys2Proof.Machine

section
variable {s : State} {x : Unit} {reg : SysReg} {n : SReg} {a : Src}

theorem State.Fires.exec_sysrd (h : s.Fires (.sysrd reg n) x) :
    exec (.sysrd reg n) s =
      .next ((s.taken []).finish s.cur.unit s.cur.upd (.s n) 0 ((s.taken []).sysRead s.cur.unit x reg) 1) :=
  (h.answers (execSysrd reg n) rfl rfl rfl rfl rfl rfl rfl rfl :)

theorem State.Fires.exec_syswr (h : s.Fires (.syswr reg a) x) :
    exec (.syswr reg a) s = .next (s.fired x (.syswr reg a)
      (if !reg.writable || (reg == .migth && !(s.taken [a]).privileged s.cur.unit x) then .trap (illegal 0)
       else if reg == .migth then
         .done ((s.taken [a]).setPart x.part { (s.taken [a]).part x.part with migth := (s.opVal x a).setWidth 16 })
       else .done ((s.taken [a]).onUnit s.cur.unit fun y => y.sysWrite reg (s.opVal x a)))) :=
  (h.answers (execSyswr reg a) rfl rfl rfl rfl rfl rfl rfl rfl :)

/-- A register that is written whole in the unit, and is not SY.MIGTH. -/
theorem State.Fires.exec_syswr_unit (h : s.Fires (.syswr reg a) x) (hw : reg.writable = true) (hm : reg ≠ .migth) :
    exec (.syswr reg a) s =
      .next (s.doneWith ((s.taken [a]).onUnit s.cur.unit fun y => y.sysWrite reg (s.opVal x a))) := by
  rw [h.exec_syswr]
  simp [hw, hm]

end

/-- The 15 bits of SY.EPC that a write takes (R233). -/
theorem w64_mod_eq_and (v : W64) : w64 (v.toNat % 2 ^ 15) = v &&& 0x7FFF#64 := by
  refine BitVec.eq_of_toNat_eq ?_
  have hand : v.toNat &&& 0x7FFF = v.toNat % 2 ^ 15 := Nat.and_two_pow_sub_one_eq_mod _ 15
  simp only [w64, BitVec.toNat_ofNat, BitVec.toNat_and, Nat.reducePow, Nat.reduceMod] at hand ⊢
  omega

/-- SY.STATUS, a power of two for each bit that is set (R232). -/
theorem statusWord_eq (x : Unit) (unrev : Bool) :
    statusWord x unrev = BitVec.ofNat 64 ((if x.sys.replay then 2 ^ 36 else 0) + (if unrev then 2 ^ 35 else 0)
      + (if x.sys.hm then 2 ^ 33 else 0) + (if x.sys.hen then 2 ^ 32 else 0) + x.sys.hvec.toNat) := by
  simp only [statusWord, b2n, ite_mul, one_mul, zero_mul, w64]

end Sys2Proof.Machine

namespace Sys2Proof
open Machine

/-- Settles O30: one case for each register that is read, and one for each that is written. -/
theorem systemRegisters : Obligations.SystemRegisters := by
  intro s x n a reg u v t mayMigth
  refine ⟨fun h => ?read, fun h hro => ?readOnly, fun h hmay => ?migthRefused, fun h hmay => ?migth, fun h hreg => ?write⟩
  case read =>
    rw [h.exec_sysrd]
    cases reg with
    | status => rw [State.sysRead, statusWord_eq]
    | _ => rfl
  case readOnly =>
    have hw : reg.writable = false := by revert hro; cases reg <;> decide
    rw [h.exec_syswr, hw]
    exact congrArg _ (h.fired_trap _)
  case migthRefused =>
    have hpriv : t.privileged u x = false := hmay
    rw [h.exec_syswr, hpriv]
    exact congrArg _ (h.fired_trap _)
  case migth =>
    have hpriv : t.privileged u x = true := hmay
    rw [h.exec_syswr, hpriv]
    rfl
  case write =>
    have hw : reg.writable = true ∧ reg ≠ .migth := by revert hreg; cases reg <;> decide
    rw [h.exec_syswr_unit hw.1 hw.2]
    cases reg with
    | epc => simp only [Unit.sysWrite, w64_mod_eq_and, u, v, t]
    | _ => rfl

end Sys2Proof
end

section
/-! SUPPORT. Groups and priority (R36, R39, R369 to R371, R407): what GJOIN, GLEAVE, GBAR and PRIO come to. -/
namespace Sys2Proof

theorem Tab.put_put {α : Type} (t : Tab α) (k : Nat) (v w : α) : Tab.put (Tab.put t k v) k w = Tab.put t k w := by
  induction t with
  | nil => simp [Tab.put]
  | cons e t ih =>
    obtain ⟨j, u⟩ := e
    rcases Nat.lt_trichotomy k j with h | h | h
    · simp [Tab.put, h]
    · simp [Tab.put, h]
    · simp [Tab.put, h.not_gt, h.ne', ih]

theorem Tab.del_put {α : Type} (t : Tab α) (k : Nat) (v : α) : Tab.del (Tab.put t k v) k = Tab.del t k := by
  induction t with
  | nil => simp [Tab.put, Tab.del]
  | cons e t ih =>
    obtain ⟨j, u⟩ := e
    rcases Nat.lt_trichotomy k j with h | h | h
    · simp [Tab.put, Tab.del, h]
    · simp [Tab.put, Tab.del, h]
    · have ih' : (Tab.put t k v).filter (fun e => e.1 != k) = t.filter (fun e => e.1 != k) := ih
      simp [Tab.put, Tab.del, h.not_gt, h.ne', List.filter_cons, ih']

namespace Machine

theorem groupKey_inside {x : Unit} {g : W64} (h : g.toNat ≤ 4095) : groupKey x g = .ok (x.ctx * 4096 + g.toNat) :=
  if_neg (by omega)

theorem groupKey_outside {x : Unit} {g : W64} (h : ¬ g.toNat ≤ 4095) : groupKey x g = .error (illegal 2) :=
  if_pos (by omega)

/-! ### A member that leaves (R370) -/

section
variable {s : State} {m k : Nat}

theorem State.leaveGroup_no_member (h : (s.group k).members.contains m = false) : s.leaveGroup m k = s := by
  unfold State.leaveGroup
  split
  next => rfl
  next g hg =>
    have : s.group k = g := by simp [State.group, Tab.get, hg]
    rw [if_neg (by simpa [this] using h)]

theorem State.leaveGroup_member (h : (s.group k).members.contains m = true) :
    s.leaveGroup m k = State.checkBarrier
      { s with groups := Tab.put s.groups k ⟨(s.group k).members.filter (· != m), (s.group k).arrived.filter (· != m)⟩ } k := by
  unfold State.leaveGroup
  split
  next hg => simp [State.group, Tab.get, hg, Group.reset] at h
  next g hg =>
    have : s.group k = g := by simp [State.group, Tab.get, hg]
    rw [this] at h ⊢
    rw [if_pos h]

/-- The groups with an open barrier looked at, where group `k` has just been put to `g` (R371). -/
theorem State.checkBarrier_put (g : Group) :
    { s with groups := Tab.put s.groups k g }.checkBarrier k =
      if g.members.isEmpty then { s with groups := Tab.del s.groups k }
      else if g.members.all (fun m => g.arrived.contains m) then
        g.arrived.foldl (fun (q : State) m => q.unblockMember m) { s with groups := Tab.put s.groups k { g with arrived := [] } }
      else { s with groups := Tab.put s.groups k g } := by
  simp only [State.checkBarrier, Tab.find_put_self, Tab.put_put, Tab.del_put]

end

/-! ### The instructions -/

/-- GJOIN of member `m` and group `k` (R369). -/
def State.joinRes (t : State) (m k : Nat) : Res :=
  if (t.group k).members.contains m then .done t
  else if 4 ≤ t.memberships m then .trap (illegal 2)
  else .done { t with groups := Tab.put t.groups k { t.group k with members := (t.group k).members ++ [m] } }

/-- GBAR of unit `u`, as member `m`, and group `k` (R371). -/
def State.barrierRes (t : State) (u m : Nat) (sc : Scope) (k : Nat) : Res :=
  if !(t.group k).members.contains m then .trap (illegal 2)
  else if t.performedAt u sc then t.arrive m k
  else .wait t 0

section
variable {s : State} {x : Unit} {g : Src} {sc : Scope} {c : Captured}

theorem State.Fires.exec_gjoin (h : s.Fires (.gjoin g) x) (hin : (s.opVal x g).toNat ≤ 4095) :
    exec (.gjoin g) s = .next (s.fired x (.gjoin g)
      ((s.taken [g]).joinRes (memberOf s.cur.unit x) (x.ctx * 4096 + (s.opVal x g).toNat))) := by
  simp only [h.answers (execGjoin g) rfl rfl rfl rfl rfl rfl rfl rfl, List.getD_cons_zero, groupKey_inside hin]
  rfl

theorem State.Fires.exec_gleave (h : s.Fires (.gleave g) x) (hin : (s.opVal x g).toNat ≤ 4095) :
    exec (.gleave g) s = .next (s.doneWith
      ((s.taken [g]).leaveGroup (memberOf s.cur.unit x) (x.ctx * 4096 + (s.opVal x g).toNat))) := by
  simp only [h.answers (execGleave g) rfl rfl rfl rfl rfl rfl rfl rfl, List.getD_cons_zero, groupKey_inside hin]
  rfl

theorem State.Fires.exec_gbar (h : s.Fires (.gbar sc g) x) (hin : (s.opVal x g).toNat ≤ 4095) :
    exec (.gbar sc g) s = .next (s.fired x (.gbar sc g)
      ((s.taken [g]).barrierRes s.cur.unit (memberOf s.cur.unit x) sc (x.ctx * 4096 + (s.opVal x g).toNat))) := by
  simp only [h.answers (execGbar sc g) rfl rfl rfl rfl rfl rfl rfl rfl, List.getD_cons_zero, groupKey_inside hin]
  rfl

theorem State.Carried.exec_gbar (h : s.Carried (.gbar sc g) x c) (hin : c.a.toNat ≤ 4095) :
    exec (.gbar sc g) s = .next (s.wentOn x (.gbar sc g) c
      ((s.resumed x [g]).barrierRes s.cur.unit (memberOf s.cur.unit x) sc (x.ctx * 4096 + c.a.toNat))) := by
  simp only [h.answers (execGbar sc g) rfl rfl rfl rfl rfl, groupKey_inside hin]
  rfl

theorem State.Fires.exec_prio (h : s.Fires (.prio g) x) :
    exec (.prio g) s = .next (s.fired x (.prio g) (
      if 3 < (s.opVal x g).toNat then .trap (illegal 2)
      else .done ((s.taken [g]).onUnit s.cur.unit fun y => y.setBclass (s.opVal x g).toNat))) :=
  (h.answers (execPrio g) rfl rfl rfl rfl rfl rfl rfl rfl :)

/-! A group above 4,095 (R369 to R371). -/

variable (hout : ¬ (s.opVal x g).toNat ≤ 4095)
include hout

theorem State.Fires.exec_gjoin_outside (h : s.Fires (.gjoin g) x) : exec (.gjoin g) s = .next (s.raised (illegal 2)) := by
  simp only [h.answers (execGjoin g) rfl rfl rfl rfl rfl rfl rfl rfl, List.getD_cons_zero, groupKey_outside hout, h.fired_trap]

theorem State.Fires.exec_gleave_outside (h : s.Fires (.gleave g) x) : exec (.gleave g) s = .next (s.raised (illegal 2)) := by
  simp only [h.answers (execGleave g) rfl rfl rfl rfl rfl rfl rfl rfl, List.getD_cons_zero, groupKey_outside hout, h.fired_trap]

theorem State.Fires.exec_gbar_outside (h : s.Fires (.gbar sc g) x) : exec (.gbar sc g) s = .next (s.raised (illegal 2)) := by
  simp only [h.answers (execGbar sc g) rfl rfl rfl rfl rfl rfl rfl rfl, List.getD_cons_zero, groupKey_outside hout, h.fired_trap]

end

section
variable {t : State} {u m k : Nat} {sc : Scope}

theorem State.joinRes_member (hm : (t.group k).members.contains m = true) : t.joinRes m k = .done t := if_pos hm

theorem State.joinRes_stranger (hm : (t.group k).members.contains m = false) :
    t.joinRes m k = if 4 ≤ t.memberships m then .trap (illegal 2)
      else .done { t with groups := Tab.put t.groups k { t.group k with members := (t.group k).members ++ [m] } } :=
  if_neg (ne_true_of_eq_false hm)

theorem State.barrierRes_stranger (hm : (t.group k).members.contains m = false) : t.barrierRes u m sc k = .trap (illegal 2) := by
  rw [State.barrierRes, hm]
  rfl

theorem State.barrierRes_early (hm : (t.group k).members.contains m = true) (hp : t.performedAt u sc = false) :
    t.barrierRes u m sc k = .wait t 0 := by
  rw [State.barrierRes, hm, hp]
  rfl

end

section
variable {t : State} {u m k : Nat} {sc : Scope} (hm : (t.group k).members.contains m = true) (hp : t.performedAt u sc = true)
include hm hp

/-- The last member to arrive completes the episode for all. -/
theorem State.barrierRes_last (hl : ∀ n ∈ (t.group k).members, n = m ∨ n ∈ (t.group k).arrived) :
    t.barrierRes u m sc k = .done ((t.group k).arrived.foldl (fun (q : State) n => q.unblockMember n)
      { t with groups := Tab.put t.groups k { t.group k with arrived := [] } }) := by
  have hall : (t.group k).members.all (fun n => ((t.group k).arrived ++ [m]).contains n) = true := by
    simpa [or_comm] using hl
  rw [State.barrierRes, hm, hp, State.arrive, hall]
  rfl

theorem State.barrierRes_not_last (hl : ¬ ∀ n ∈ (t.group k).members, n = m ∨ n ∈ (t.group k).arrived) :
    t.barrierRes u m sc k = .block
      { t with groups := Tab.put t.groups k { t.group k with arrived := (t.group k).arrived ++ [m] } } (.barrier k) := by
  have hall : (t.group k).members.all (fun n => ((t.group k).arrived ++ [m]).contains n) = false := by
    refine Bool.eq_false_iff.2 fun h => hl ?_
    simpa [or_comm] using h
  rw [State.barrierRes, hm, hp, State.arrive, hall]
  rfl

end

end Machine

open Machine

/-- Settles O33: the group's members and arrivals decide what each instruction does. -/
theorem groupsAndPriority : Obligations.GroupsAndPriority := by
  intro s x g sc u t k inRange me bad last completed waiting
  have gjoin (h : s.Fires (.gjoin g) x) (hin : inRange) : exec (.gjoin g) s = .next (s.fired x (.gjoin g) (t.joinRes me k)) :=
    h.exec_gjoin hin
  have gleave (h : s.Fires (.gleave g) x) (hin : inRange) : exec (.gleave g) s = .next (s.doneWith (t.leaveGroup me k)) :=
    h.exec_gleave hin
  have gbar (h : s.Fires (.gbar sc g) x) (hin : inRange) :
      exec (.gbar sc g) s = .next (s.fired x (.gbar sc g) (t.barrierRes u me sc k)) := h.exec_gbar hin
  refine ⟨fun h hin hm => ?member, fun h hin hm hlt => ?joins, fun h hin hm hle => ?fifth,
    fun h hin => ⟨fun hm => ?stranger, fun hm he => ?empties, fun hm he ha => ?releases, fun hm he ha => ?leaves⟩,
    fun h hin hm => ?noMember, fun h hin hm => ⟨fun hp => ?waits, fun hp hl => ?completes, fun hp hl => ?arrives⟩,
    fun c h hin hm hp hl => ?carried, fun h hle => ?prio, fun h hout => h.exec_gjoin_outside hout,
    fun h hout => h.exec_gleave_outside hout, fun h hout => h.exec_gbar_outside hout, fun h hgt => ?prioAbove⟩
  case member => rw [gjoin h hin, State.joinRes_member hm, State.fired_done]
  case joins => rw [gjoin h hin, State.joinRes_stranger hm, if_neg (Nat.not_le.2 hlt), State.fired_done]
  case fifth => exact (gjoin h hin).trans (by rw [State.joinRes_stranger hm, if_pos hle, h.fired_trap])
  case stranger => rw [gleave h hin, State.leaveGroup_no_member hm]
  case empties =>
    rw [gleave h hin, State.leaveGroup_member hm, State.checkBarrier_put, if_pos (List.isEmpty_iff.2 he)]
  case releases =>
    rw [gleave h hin, State.leaveGroup_member hm, State.checkBarrier_put, if_neg (by simpa using he),
      if_pos (List.all_eq_true.2 fun m hmem => List.contains_iff_mem.2 (ha m hmem))]
  case leaves =>
    obtain ⟨m, hmem, hout⟩ := ha
    rw [gleave h hin, State.leaveGroup_member hm, State.checkBarrier_put, if_neg (by simpa using he),
      if_neg fun hall => hout (List.contains_iff_mem.1 (List.all_eq_true.1 hall m hmem))]
  case noMember => exact (gbar h hin).trans (by rw [State.barrierRes_stranger hm, h.fired_trap])
  case waits =>
    refine ⟨_, gbar h hin, ?_⟩
    rw [State.barrierRes_early hm hp]
    exact h.fired_wait ((s.readBy_taken [g]).isSome_unit? h.unit) 0
  case completes => rw [gbar h hin, State.barrierRes_last hm hp hl, State.fired_done]
  case arrives => rw [gbar h hin, State.barrierRes_not_last hm hp hl, h.fired_block]; rfl
  case carried =>
    exact (h.exec_gbar hin).trans (congrArg (Host.Outcome.next ∘ s.wentOn x (.gbar sc g) c) (State.barrierRes_last hm hp hl))
  case prio => rw [h.exec_prio, if_neg (by omega)]; rfl
  case prioAbove => exact h.exec_prio.trans (by rw [if_pos hgt, h.fired_trap])

end Sys2Proof
end

section
/-! SUPPORT. Signals (R77, R97, R422 to R424): what a signal instruction comes to, and which unit an operation on a signal lets
go on. -/
namespace Sys2Proof

theorem Tab.lt_of_rising {α : Type} {t : Tab α} {lo : Nat} (h : Tab.rising t lo = true) : ∀ e ∈ t, lo ≤ e.1 := by
  induction t generalizing lo with
  | nil => simp
  | cons e t ih =>
    obtain ⟨k, v⟩ := e
    simp only [Tab.rising, Bool.and_eq_true, decide_eq_true_eq] at h
    intro e he
    rcases List.mem_cons.1 he with rfl | he
    · exact h.1
    · exact (Nat.le_succ_of_le h.1).trans (ih h.2 e he)

theorem Tab.nodup_keys_of_rising {α : Type} {t : Tab α} {lo : Nat} (h : Tab.rising t lo = true) : (t.map (·.1)).Nodup := by
  induction t generalizing lo with
  | nil => simp
  | cons e t ih =>
    obtain ⟨k, v⟩ := e
    simp only [Tab.rising, Bool.and_eq_true, decide_eq_true_eq] at h
    refine List.nodup_cons.2 ⟨fun hk => ?_, ih h.2⟩
    obtain ⟨e, he, rfl⟩ := List.mem_map.1 hk
    exact absurd (Tab.lt_of_rising h.2 e he) (by simp)

theorem Tab.mem_of_find {α : Type} {t : Tab α} {k : Nat} {v : α} (h : Tab.find t k = some v) : (k, v) ∈ t := by
  induction t with
  | nil => simp [Tab.find] at h
  | cons e t ih =>
    obtain ⟨j, u⟩ := e
    rw [Tab.find] at h
    split at h
    next hj => simp_all
    next => exact List.mem_cons_of_mem _ (ih h)

theorem Tab.find_eq_some_iff {α : Type} {t : Tab α} {k : Nat} {v : α} (hn : (t.map (·.1)).Nodup) :
    Tab.find t k = some v ↔ (k, v) ∈ t := by
  refine ⟨Tab.mem_of_find, fun h => ?_⟩
  induction t with
  | nil => simp at h
  | cons e t ih =>
    obtain ⟨j, u⟩ := e
    obtain ⟨hj, hn⟩ := List.nodup_cons.1 hn
    rw [Tab.find]
    rcases List.mem_cons.1 h with h | h
    · obtain ⟨rfl, rfl⟩ := Prod.mk.inj h
      exact if_pos rfl
    · rw [if_neg fun e => hj (List.mem_map.2 ⟨_, h, e.symm⟩), ih hn h]

namespace Machine

/-! ### The waiters of a signal (R423) -/

/-- Units that are let go on one after the other, none of them twice. -/
theorem State.unit?_foldl_unblock {l : List (Nat × Unit)} (hn : (l.map (·.1)).Nodup) (s : State) (w : Nat) :
    (l.foldl (fun (q : State) e => q.unblock e.1) s).unit? w =
      if w ∈ l.map (·.1) then (s.unit? w).map Unit.unblock else s.unit? w := by
  induction l generalizing s with
  | nil => simp
  | cons e l ih =>
    obtain ⟨he, hn⟩ := List.nodup_cons.1 hn
    rw [List.foldl_cons, ih hn, State.unblock, State.unit?_onUnit]
    by_cases hw : e.1 = w
    · subst hw
      simp [he]
    · rw [if_neg hw]
      simp only [List.map_cons, List.mem_cons, Ne.symm hw, false_or]

/-- The unit waits for a condition on signal `n` that holds of value `v`. -/
def Unit.waitsFor (x : Unit) (n : Nat) (v : W64) : Bool :=
  match x.blocked with
  | some (.signal m c q) => m == n && sigHolds c v q
  | _ => false

theorem State.serveSignal_eq (s : State) (n : Nat) :
    s.serveSignal n = (s.units.filter fun e => e.2.waitsFor n (s.signal n)).foldl (fun (q : State) e => q.unblock e.1) s := by
  unfold State.serveSignal Unit.waitsFor
  rfl

@[simp] theorem State.unit?_testWakes (s : State) (p n u : Nat) : (s.testWakes p n).unit? u = s.unit? u := by
  unfold State.testWakes
  dsimp only
  split <;> rfl

/-- After an operation on a signal exactly the units whose condition holds have gone on. -/
theorem State.unit?_afterSignal {s : State} (hu : Tab.rising s.units 0 = true) {w n : Nat} {y : Unit} (hy : s.unit? w = some y) :
    (s.afterSignal n).unit? w = some (if y.waitsFor n (s.signal n) then y.unblock else y) := by
  have hn := Tab.nodup_keys_of_rising hu
  have hmem : w ∈ (s.units.filter fun e => e.2.waitsFor n (s.signal n)).map (·.1) ↔ y.waitsFor n (s.signal n) = true := by
    refine ⟨fun h => ?_, fun h => List.mem_map.2 ⟨(w, y), List.mem_filter.2 ⟨Tab.mem_of_find hy, h⟩, rfl⟩⟩
    obtain ⟨⟨k, z⟩, he, rfl⟩ := List.mem_map.1 h
    obtain ⟨he, hz⟩ := List.mem_filter.1 he
    have : some z = some y := ((Tab.find_eq_some_iff hn).2 he).symm.trans hy
    exact Option.some.inj this ▸ hz
  have hserve : (s.serveSignal n).unit? w = some (if y.waitsFor n (s.signal n) then y.unblock else y) := by
    rw [State.serveSignal_eq, State.unit?_foldl_unblock ((List.filter_sublist.map _).nodup hn), hy]
    simp only [hmem, Option.map_some]
    split <;> rfl
  rw [← hserve, State.afterSignal]
  split
  · exact State.unit?_testWakes _ _ _ _
  · rfl

/-! ### The handle (R77) -/

section
variable {s : State} {x : Unit} {hv : W64}

theorem State.needSignal_other (h : isSignalHandle hv = false) : s.needSignal x hv = .error (illegal 2) := by
  simp [State.needSignal, h]

theorem State.needSignal_stale (h : isSignalHandle hv = true) (hs : s.signalOk x.part hv = false) :
    s.needSignal x hv = .error (stale hv) := by
  simp [State.needSignal, h, hs]

theorem State.needSignal_ok (h : isSignalHandle hv = true) (hs : s.signalOk x.part hv = true) :
    s.needSignal x hv = .ok (hSignal hv) := by
  simp [State.needSignal, h, hs]

end

/-- What a signal instruction comes to: a fault of its handle, or what it does with the signal. -/
def signalRes (e : Except Trap Nat) (f : Nat → Res) : Res :=
  match e with
  | .error t => .trap t
  | .ok n => f n

/-- The three ways in which a signal instruction ends (R77). -/
theorem State.Fires.signal_forms {s t : State} {x : Unit} {i : Instr} {hv : W64} {f : Nat → Res} {defer : Bool} (h : s.Fires i x)
    (he : exec i s = .next (s.fired x i (signalRes (t.needSignal x hv) f) defer)) :
    (isSignalHandle hv = false → exec i s = .next (s.raised (illegal 2))) ∧
    (isSignalHandle hv = true → t.signalOk x.part hv = false → exec i s = .next (s.raised (stale hv))) ∧
    (isSignalHandle hv = true → t.signalOk x.part hv = true → exec i s = .next (s.fired x i (f (hSignal hv)) defer)) := by
  refine ⟨fun hn => ?_, fun hy hs => ?_, fun hy hs => ?_⟩
  · rw [he, State.needSignal_other hn, signalRes, h.fired_trap]
  · rw [he, State.needSignal_stale hy hs, signalRes, h.fired_trap]
  · rw [he, State.needSignal_ok hy hs, signalRes]

/-! ### The instructions -/

/-- What SIGWAIT of unit `u` does with its signal. -/
def State.sigwaitRes (t : State) (u : Nat) (c : SigCond) (v : W64) (n : Nat) : Res :=
  if !t.signalQuiet u n then .wait t 0
  else if sigHolds c (t.signal n) v then .done t
  else .block t (.signal n c v)

/-- What SIGTEST of unit `u` does with its signal. -/
def State.sigtestRes (t : State) (u : Nat) (x : Unit) (c : SigCond) (d : Dst) (v : W64) (n : Nat) : Res :=
  if !isCore u && n / 1024 == stnOf u then
    .write t d (b2n (sigHolds c (t.signal n) v)) (w64 (b2n (sigHolds c (t.signal n) v))) 1
  else .block (t.send u (.sigTest n c v (x.landOf 0 d))).1 (.answer [(t.send u (.sigTest n c v (x.landOf 0 d))).2])

/-- A destination that the word's update names too (R17). -/
def updatesDst (upd : Upd) (d : Dst) : Bool :=
  match d with
  | .p n => updNames upd n
  | _ => false

theorem execSigtest_eq (c : SigCond) (d : Dst) (h v : Src) (s : State) :
    execSigtest c d h v s = runWith (.sigtest c d h v) avTSD [h, v] [h, v] (outsOf [d]) [d] (updatesDst s.cur.upd d)
      (fun u x t vh vv _ => signalRes (t.needSignal x vh) (t.sigtestRes u x c d vv)) s := rfl

section
variable {s : State} {x : Unit} {h v : Src} {c : SigCond} {d : Dst} {cap : Captured}

theorem State.Fires.exec_sigset (hf : s.Fires (.sigset h v) x) :
    exec (.sigset h v) s = .next (s.fired x (.sigset h v) (signalRes ((s.taken [h, v]).needSignal x (s.opVal x h)) fun n =>
      signalOp s.cur.unit (s.taken [h, v]) n (fun t => t.sigSet n (s.opVal x v)) (.sigSet n (s.opVal x v)))) :=
  (hf.answers (execSigset h v) rfl rfl rfl rfl rfl rfl rfl rfl :)

theorem State.Fires.exec_sigclr (hf : s.Fires (.sigclr h) x) :
    exec (.sigclr h) s = .next (s.fired x (.sigclr h) (signalRes ((s.taken [h]).needSignal x (s.opVal x h)) fun n =>
      signalOp s.cur.unit (s.taken [h]) n (fun t => t.sigSet n 0) (.sigSet n 0))) :=
  (hf.answers (execSigclr h) rfl rfl rfl rfl rfl rfl rfl rfl :)

theorem State.Fires.exec_sigadd (hf : s.Fires (.sigadd h v) x) :
    exec (.sigadd h v) s = .next (s.fired x (.sigadd h v) (signalRes ((s.taken [h, v]).needSignal x (s.opVal x h)) fun n =>
      signalOp s.cur.unit (s.taken [h, v]) n (fun t => t.sigAdd n (s.opVal x v)) (.sigAdd n (s.opVal x v)))) :=
  (hf.answers (execSigadd h v) rfl rfl rfl rfl rfl rfl rfl rfl :)

theorem State.Fires.exec_sigwait (hf : s.Fires (.sigwait c h v) x) :
    exec (.sigwait c h v) s = .next (s.fired x (.sigwait c h v) (signalRes ((s.taken [h, v]).needSignal x (s.opVal x h))
      ((s.taken [h, v]).sigwaitRes s.cur.unit c (s.opVal x v)))) :=
  (hf.answers (execSigwait c h v) rfl rfl rfl rfl rfl rfl rfl rfl :)

theorem State.Carried.exec_sigwait (hf : s.Carried (.sigwait c h v) x cap) :
    exec (.sigwait c h v) s = .next (s.wentOn x (.sigwait c h v) cap (signalRes ((s.resumed x [h, v]).needSignal x cap.a)
      ((s.resumed x [h, v]).sigwaitRes s.cur.unit c cap.b))) :=
  (hf.answers (execSigwait c h v) rfl rfl rfl rfl rfl :)

theorem State.Fires.exec_sigtest (hf : s.Fires (.sigtest c d h v) x) :
    exec (.sigtest c d h v) s = .next (s.fired x (.sigtest c d h v)
      (signalRes ((s.taken [h, v]).needSignal x (s.opVal x h)) ((s.taken [h, v]).sigtestRes s.cur.unit x c d (s.opVal x v)))
      (updatesDst s.cur.upd d)) :=
  (hf.answersWith (execSigtest c d h v) rfl (execSigtest_eq c d h v s) rfl rfl rfl rfl rfl rfl :)

end

/-! ### What they do with the signal -/

section
variable {s t : State} {u n : Nat} {x : Unit} {c : SigCond} {v : W64} {d : Dst}

theorem signalOp_here {now : State → State} {req : Req} (h : isCore u = false ∧ n / 1024 = stnOf u) :
    signalOp u t n now req = .done (now t) := by
  simp [signalOp, h]

theorem signalOp_sent {now : State → State} {req : Req} (h : ¬ (isCore u = false ∧ n / 1024 = stnOf u)) :
    signalOp u t n now req = .done (t.send u req).1 := by
  rw [signalOp, if_neg (by simpa using h)]

theorem State.sigwaitRes_busy (h : t.signalQuiet u n = false) : t.sigwaitRes u c v n = .wait t 0 := by
  simp [State.sigwaitRes, h]

theorem State.sigwaitRes_quiet (h : t.signalQuiet u n = true) :
    t.sigwaitRes u c v n = if sigHolds c (t.signal n) v then .done t else .block t (.signal n c v) := by
  simp [State.sigwaitRes, h]

theorem State.sigtestRes_here (h : isCore u = false ∧ n / 1024 = stnOf u) : t.sigtestRes u x c d v n =
    .write t d (if sigHolds c (t.signal n) v then 1 else 0) (if sigHolds c (t.signal n) v then 1 else 0) 1 := by
  cases hs : sigHolds c (t.signal n) v <;> simp [State.sigtestRes, h, hs, b2n, w64]

theorem State.sigtestRes_sent (h : ¬ (isCore u = false ∧ n / 1024 = stnOf u)) : t.sigtestRes u x c d v n =
    .block (t.send u (.sigTest n c v (x.landOf 0 d))).1 (.answer [(t.send u (.sigTest n c v (x.landOf 0 d))).2]) := by
  rw [State.sigtestRes, if_neg (by simpa using h)]

end

end Machine

open Machine

/-- Settles O32: the three ends of a signal instruction, what it does with its signal here and elsewhere, and the waiters. -/
theorem signalInstructions : Obligations.SignalInstructions := by
  intro s x h v c d u hv vv n here t holds forms writes
  have hholds : holds = sigHolds := by
    funext c p q
    cases c <;> rfl
  have writesOf {i : Instr} {t : State} {w : W64} (now : Nat → State → State) (req : Nat → Req)
      (he : s.Fires i x → exec i s = .next (s.fired x i (signalRes (t.needSignal x hv) fun n => signalOp u t n (now n) (req n))))
      (hnow : now n t = (t.putSignal n w).afterSignal n) : writes i t w (req n) := by
    intro hf
    obtain ⟨hother, hstale, hok⟩ := hf.signal_forms (he hf)
    refine ⟨hother, hstale, fun hy hs => ⟨fun hh => ?_, fun hh => ?_⟩⟩
    · exact (hok hy hs).trans (by rw [signalOp_here hh, State.fired_done, ← hnow])
    · exact (hok hy hs).trans (by rw [signalOp_sent hh, State.fired_done])
  refine ⟨writesOf (fun n t => t.sigSet n vv) (fun n => .sigSet n vv) (fun hf => hf.exec_sigset) rfl,
    writesOf (fun n t => t.sigSet n 0) (fun n => .sigSet n 0) (fun hf => hf.exec_sigclr) rfl,
    writesOf (fun n t => t.sigAdd n vv) (fun n => .sigAdd n vv) (fun hf => hf.exec_sigadd) rfl, fun hf => ?test, fun hf => ?wait,
    fun cap hf hy hs hq hc => ?carried, fun w m y c' q p hu hw hb => ?waiter⟩
  case test =>
    obtain ⟨hother, hstale, hok⟩ := hf.signal_forms hf.exec_sigtest
    refine ⟨hother, hstale, fun hy hs => ⟨fun hh => ?_, fun hh => ?_⟩⟩
    · rw [hok hy hs, State.sigtestRes_here hh, State.fired_write, hholds]
    · exact (hok hy hs).trans (by rw [State.sigtestRes_sent hh, hf.fired_block]; rfl)
  case wait =>
    obtain ⟨hother, hstale, hok⟩ := hf.signal_forms hf.exec_sigwait
    refine ⟨hother, hstale, fun hy hs => ⟨fun hq => ⟨_, hok hy hs, ?_⟩, fun hq hc => ?_, fun hq hc => ?_⟩⟩
    · rw [State.sigwaitRes_busy hq]
      exact hf.fired_wait ((s.readBy_taken [h, v]).isSome_unit? hf.unit) 0
    · rw [hholds] at hc
      rw [hok hy hs, State.sigwaitRes_quiet hq, if_pos hc, State.fired_done]
    · rw [hholds] at hc
      rw [hok hy hs, State.sigwaitRes_quiet hq, if_neg (ne_true_of_eq_false hc), hf.fired_block]
      rfl
  case carried =>
    rw [hholds] at hc
    exact hf.exec_sigwait.trans
      (by rw [State.needSignal_ok hy hs, signalRes, State.sigwaitRes_quiet hq, if_pos hc, State.wentOn_done])
  case waiter =>
    rw [State.unit?_afterSignal (s := s.putSignal m p) hu hw]
    have hwaits : y.waitsFor m ((s.putSignal m p).signal m) = sigHolds c' p q := by simp [Unit.waitsFor, hb]
    rw [hwaits, hholds, apply_ite some]
    rfl

end Sys2Proof
end

section
/-! SUPPORT. Stores to the scratchpad (R42, R95, R96, R426, R427): which bytes a store writes and which it leaves. -/
namespace Sys2Proof.Machine

theorem Memory.writes_append (m : Memory) (l r : List (Nat × Byte)) :
    Memory.writes m (l ++ r) = Memory.writes (Memory.writes m l) r := by
  induction l generalizing m with
  | nil => rfl
  | cons e l ih => exact ih _

/-! ### The bytes of a block -/

section
variable (t : State) (stn : Nat) (b : Block)

/-- Of the bytes stored at one offset of the block the last stays. -/
theorem State.read_blockPut_last {p q : List (Nat × Byte)} {o : Nat} {v : Byte} (ho : o < b.bytes) (hq : ∀ e ∈ q, e.1 ≠ o) :
    Memory.read (t.blockPut stn b (p ++ (o, v) :: q)).scratch (blockAddr stn b o) = v := by
  have hlater : ∀ e ∈ (q.filter fun e => decide (e.1 < b.bytes)).map fun e => (blockAddr stn b e.1, e.2),
      e.1 ≠ blockAddr stn b o := by
    intro e he
    obtain ⟨f, hf, rfl⟩ := List.mem_map.1 he
    have := hq f (List.mem_filter.1 hf).1
    simp only [blockAddr]
    omega
  simp only [State.blockPut, List.filter_append, List.filter_cons, ho, decide_true, if_true, List.map_append, List.map_cons,
    Memory.writes_append, Memory.writes]
  rw [Memory.read_writes_of_not_mem _ _ hlater, Memory.read_write_self]

/-- A byte that no stored byte inside the block names reads as before. -/
theorem State.read_blockPut_other {bs : List (Nat × Byte)} {a : Nat} (h : ∀ e ∈ bs, e.1 < b.bytes → a ≠ blockAddr stn b e.1) :
    Memory.read (t.blockPut stn b bs).scratch a = Memory.read t.scratch a := by
  refine Memory.read_writes_of_not_mem _ _ fun e he => ?_
  obtain ⟨f, hf, rfl⟩ := List.mem_map.1 he
  obtain ⟨hmem, hlt⟩ := List.mem_filter.1 hf
  exact (h f hmem (of_decide_eq_true hlt)).symm

end

theorem State.noteOor_rest (s : State) (u : Nat) (h : W64) (b : Block) (os : List Nat) :
    s.noteOor u h b os = { s with units := (s.noteOor u h b os).units } := by
  unfold State.noteOor
  split
  · exact s.onUnit_rest u _
  · rfl

/-- A store at the own station, done with its word, changes only units, stations and the scratchpad. -/
theorem State.ReadBy.store_rest {s t : State} {u : Nat} (h : s.ReadBy t u) (hv : W64) (stn : Nat) (b : Block)
    (bs : List (Nat × Byte)) (f : Unit → Unit) {r : State}
    (hr : r = ((t.noteOor u hv b (bs.map (·.1))).blockPut stn b bs).onUnit u f) :
    r = { s with units := r.units, stations := r.stations, scratch := r.scratch } := by
  subst hr
  rw [State.onUnit_rest, State.blockPut, State.noteOor_rest, h.rest]

/-- What a store at the own station leaves in the scratchpad. -/
theorem State.ReadBy.store_scratch {s t : State} {u : Nat} (h : s.ReadBy t u) (hv : W64) (stn : Nat) (b : Block)
    (bs : List (Nat × Byte)) (f : Unit → Unit) :
    (((t.noteOor u hv b (bs.map (·.1))).blockPut stn b bs).onUnit u f).scratch = (s.blockPut stn b bs).scratch := by
  rw [State.onUnit_rest, State.blockPut, State.noteOor_rest, h.rest]
  rfl

/-! ### Here or sent -/

section
variable {u : Nat} {t : State} {h : W64} {b : Block} {bs : List (Nat × Byte)}

theorem writeBlock_here (hown : hStn h = stnOf u) :
    writeBlock u t h b bs = .done ((t.noteOor u h b (bs.map (·.1))).blockPut (stnOf u) b bs) := if_pos hown

theorem writeBlock_sent (hfar : hStn h ≠ stnOf u) :
    writeBlock u t h b bs = .done ((t.noteOor u h b (bs.map (·.1))).send u (.blockWrite h bs)).1 := if_neg hfar

end

theorem State.resolveBlock_stale {t : State} {ctx : Nat} {h : W64} (hb : ∀ b, t.resolveBlock ctx h ≠ .ok b) :
    t.resolveBlock ctx h = .error (stale h) := by
  unfold State.resolveBlock at hb ⊢
  split
  next => rfl
  next hc =>
    rw [if_neg hc] at hb
    split
    next b hblock => exact absurd (by rw [hblock]) (hb b)
    next => rfl

/-! ### The instructions -/

section
variable {s : State} {x : Unit} {h src : Src} {sc : Fin 4} {vs vi : VReg}

theorem State.Fires.exec_stb (hf : s.Fires (.stb h src) x) :
    exec (.stb h src) s = .next (s.fired x (.stb h src)
      (storeBlock s.cur.unit x (s.taken [h, src]) (s.opVal x h) src (s.opVal x src))) :=
  (hf.answers (execStb h src) rfl rfl rfl rfl rfl rfl rfl rfl :)

section
variable {u : Nat} {t : State} {hv v : W64} {b : Block}

theorem storeBlock_register {n : VReg} (hn : isSignalHandle hv = false) (hb : t.resolveBlock x.ctx hv = .ok b)
    (ha : hOff hv % 4 = 0) : storeBlock u x t hv (.v n) v =
      writeBlock u t hv b ((liveLanes x (t.lmNow u x)).flatMap fun j => laneBytes (hOff hv + 4 * j) (x.vLane n j)) := by
  simp [storeBlock, hn, hb, ha]

theorem storeBlock_scalar (hs : vSrc src = none) (hn : isSignalHandle hv = false) (hb : t.resolveBlock x.ctx hv = .ok b)
    (ha : hOff hv % 8 = 0) : storeBlock u x t hv src v = writeBlock u t hv b (wordBytes 8 (hOff hv) v) := by
  cases src with
  | v n => cases hs
  | _ => simp [storeBlock, hn, hb, ha]

theorem storeBlock_misaligned (hn : isSignalHandle hv = false) (hb : t.resolveBlock x.ctx hv = .ok b)
    (ha : hOff hv % (if (vSrc src).isSome then 4 else 8) ≠ 0) : storeBlock u x t hv src v = .trap (misaligned 0) := by
  cases src <;> simp_all [storeBlock, vSrc]

theorem storeBlock_stale (hn : isSignalHandle hv = false) (hb : ∀ b, t.resolveBlock x.ctx hv ≠ .ok b) :
    storeBlock u x t hv src v = .trap (stale hv) := by
  simp [storeBlock, hn, State.resolveBlock_stale hb]

theorem storeBlock_staleSignal (hy : isSignalHandle hv = true) (hs : t.signalOk x.part hv = false) :
    storeBlock u x t hv src v = .trap (stale hv) := by
  simp [storeBlock, hy, hs]

/-- A signal handle that resolves takes a scalar alone (R97, R426). -/
theorem storeBlock_signal (hy : isSignalHandle hv = true) (hs : t.signalOk x.part hv = true) :
    storeBlock u x t hv src v = if (vSrc src).isSome then .trap (illegal 2)
      else signalOp u t (hSignal hv) (fun t => t.sigSet (hSignal hv) v) (.sigSet (hSignal hv) v) := by
  cases src <;> simp [storeBlock, vSrc, hy, hs]

end

/-- What STBX does with the block that its handle names. -/
def indexedStore (u : Nat) (x : Unit) (t : State) (sc : Fin 4) (vs : VReg) (h : W64) (vi : VReg) (b : Block) : Res :=
  if (liveLanes x (t.lmNow u x)).any fun j => idxOff x h sc vi j % 4 != 0 then .trap (misaligned 0)
  else writeBlock u t h b ((liveLanes x (t.lmNow u x)).flatMap fun j => laneBytes (idxOff x h sc vi j) (x.vLane vs j))

theorem State.Fires.exec_stbx (hf : s.Fires (.stbx sc vs h vi) x) :
    exec (.stbx sc vs h vi) s = .next (s.fired x (.stbx sc vs h vi) (match (s.taken [h]).needBlock x.ctx (s.opVal x h) with
      | .error t => .trap t
      | .ok b => indexedStore s.cur.unit x (s.taken [h]) sc vs (s.opVal x h) vi b)) := by
  refine (hf.answers (execStbx sc vs h vi) rfl rfl rfl rfl rfl (by cases h <;> rfl) rfl rfl).trans ?_
  rfl

end
end Sys2Proof.Machine

namespace Sys2Proof
open Machine

/-- Settles O14: a store writes the block's bytes at its own station, or sends them. -/
theorem scratchpadStores : Obligations.ScratchpadStores := by
  intro s x vs vi h src sc u hv own lanesOf laneAt stores
  have storesOf {i : Instr} {t : State} {b : Block} {bs : List (Nat × Byte)} (ht : s.ReadBy t u)
      (he : exec i s = .next (s.fired x i (writeBlock u t hv b bs))) : stores i t b bs := by
    refine ⟨fun hown => ⟨_, ?_, rfl, fun p q o v hbs ho hq => ?last, fun a ha => ?other, ?rest⟩, fun hfar => ?sent⟩
    · rw [he, writeBlock_here hown, State.fired_done]
    case last =>
      rw [State.doneWith, ht.store_scratch, hbs]
      exact s.read_blockPut_last _ b ho hq
    case other =>
      rw [State.doneWith, ht.store_scratch]
      exact s.read_blockPut_other _ b ha
    case rest =>
      have hrest := ht.store_rest hv (stnOf u) b bs (fun y => y.close s.cur.upd) rfl
      exact ⟨(congrArg State.dram hrest :), (congrArg State.host hrest :), (congrArg State.peer hrest :),
        (congrArg State.lines hrest :), (congrArg State.sram hrest :), (congrArg State.signals hrest :)⟩
    case sent => rw [he, writeBlock_sent hfar, State.fired_done]
  refine ⟨fun hf => ⟨fun hn b hb => ⟨fun ha => ?stb, fun ha => ?misaligned⟩, fun hn hb => ?stale, fun hy hs => ?staleSignal,
      fun hy hs => ⟨fun hreg => ?lanes, fun hreg => ?signal⟩⟩,
    fun hf => ⟨fun hy => ?signalX, fun hn hb => ?staleX, fun hn b hb => ⟨fun ha => ?misalignedX, fun ha => ?stbx⟩⟩⟩
  case stb =>
    refine storesOf (s.readBy_taken _) (hf.exec_stb.trans (congrArg (Host.Outcome.next ∘ s.fired x _) ?_))
    cases src with
    | v n => exact storeBlock_register hn hb ha
    | _ => exact storeBlock_scalar rfl hn hb ha
  case misaligned => exact hf.exec_stb.trans (by rw [storeBlock_misaligned hn hb ha, hf.fired_trap])
  case stale => exact hf.exec_stb.trans (by rw [storeBlock_stale hn hb, hf.fired_trap])
  case staleSignal => exact hf.exec_stb.trans (by rw [storeBlock_staleSignal hy hs, hf.fired_trap])
  case lanes => exact hf.exec_stb.trans (by rw [storeBlock_signal hy hs, if_pos hreg, hf.fired_trap])
  case signal =>
    refine hf.exec_stb.trans ?_
    rw [storeBlock_signal hy hs, if_neg (ne_true_of_eq_false hreg), signalOp, apply_ite (s.fired x _)]
    simp only [State.fired_done, ← apply_ite s.doneWith]
    rfl
  case signalX => 
    rw [hf.exec_stbx, State.needBlock, if_pos hy]
    exact congrArg _ (hf.fired_trap _)
  case staleX =>
    rw [hf.exec_stbx, State.needBlock, if_neg (ne_true_of_eq_false hn), State.resolveBlock_stale hb]
    exact congrArg _ (hf.fired_trap _)
  case misalignedX =>
    obtain ⟨j, hj, hoff⟩ := ha
    have hany : ((liveLanes x ((s.taken [h]).lmNow u x)).any fun j => idxOff x hv sc vi j % 4 != 0) = true :=
      List.any_eq_true.2 ⟨j, hj, bne_iff_ne.2 hoff⟩
    rw [hf.exec_stbx, State.needBlock, if_neg (ne_true_of_eq_false hn), hb]
    exact congrArg _ ((congrArg (s.fired x _) (if_pos hany)).trans (hf.fired_trap _))
  case stbx =>
    have hany : ¬ ((liveLanes x ((s.taken [h]).lmNow u x)).any fun j => idxOff x hv sc vi j % 4 != 0) = true := by
      intro h
      obtain ⟨j, hj, hoff⟩ := List.any_eq_true.1 h
      exact bne_iff_ne.1 hoff (ha j hj)
    refine storesOf (s.readBy_taken _) ?_
    rw [hf.exec_stbx, State.needBlock, if_neg (ne_true_of_eq_false hn), hb]
    exact congrArg (Host.Outcome.next ∘ s.fired x _) (if_neg hany)

end Sys2Proof
end

section
/-! SUPPORT. What reset leaves. -/
namespace Sys2Proof

/-- Settles O22: every table is empty at reset, so each look-up gives its default. -/
theorem resetState : Obligations.ResetState :=
  ⟨rfl, fun _ => rfl, fun _ => rfl, fun _ => rfl, fun _ => rfl, fun _ => rfl, fun _ => rfl, fun _ => rfl, fun _ => rfl,
    fun _ => rfl, fun _ => rfl, fun _ => rfl, fun _ => rfl, fun _ => rfl⟩

end Sys2Proof
end

section
/-! SUPPORT. What a result writes in its unit (R42, R51), register by register. -/
namespace Sys2Proof.Machine

section
variable (x : Unit)

/-! ### Registers read after a write -/

theorem Unit.vLane_setLane (n m : VReg) (i j : Nat) (v : Lane) (hi : i < 128) (hj : j < 128) :
    (x.setLane n i v).vLane m j = if m = n ∧ j = i then v else x.vLane m j := by
  have hkey : m.val * 128 + j = n.val * 128 + i ↔ m = n ∧ j = i := by
    rw [Fin.ext_iff]
    omega
  simp only [Unit.vLane, Unit.setLane, Tab.get_set, hkey]

theorem Unit.setLanes_eq (n : VReg) (mask : BitVec 128) (vec : Nat) (l : List Nat) :
    x.setLanes n mask vec l = { x with v := (x.setLanes n mask vec l).v } := by
  induction l generalizing x with
  | nil => rfl
  | cons i l ih =>
    rw [Unit.setLanes, ih]
    split <;> rfl

/-- Of the lanes of a list those of the mask are written, each with its own value (R42). -/
theorem Unit.vLane_setLanes (n : VReg) (mask : BitVec 128) (vec : Nat) (l : List Nat) (m : VReg) {j : Nat} (hj : j < 128) :
    (x.setLanes n mask vec l).vLane m j = if m = n ∧ j ∈ l ∧ mask.getLsbD j = true then Sys2Proof.laneAt vec j
      else x.vLane m j := by
  induction l generalizing x with
  | nil => simp [Unit.setLanes]
  | cons i l ih =>
    rw [Unit.setLanes, ih]
    by_cases hi : mask.getLsbD i = true
    · have hlt : i < 128 := BitVec.lt_of_getLsbD hi
      by_cases hji : j = i
      · subst hji
        by_cases hm : m = n <;> simp [hi, hm, Unit.vLane_setLane, hlt]
      · simp [hi, Unit.vLane_setLane, hlt, hj, hji]
    · have hji : j = i → mask.getLsbD j ≠ true := fun e => e ▸ hi
      simp only [hi, Bool.false_eq_true, if_false, List.mem_cons]
      refine if_congr ?_ rfl rfl
      tauto

@[simp] theorem Unit.sReg_setS (n m : SReg) (v : W64) : (x.setS n v).sReg m = if m = n then v else x.sReg m := by
  simp only [Unit.sReg, Unit.setS, Tab.get_set, Fin.val_inj]

theorem Unit.kReg_setK (n : Nat) (m : Fin 4) (v : BitVec 16) (hn : 0 < n) :
    (x.setK n v).kReg m = if m.val = n then v else x.kReg m := by
  by_cases hm : m.val = 0
  · simp [Unit.kReg, hm, hn.ne]
  · simp only [Unit.kReg, Unit.setK, hm, if_false, Tab.get_set]

end

theorem predBit_setPred (p : BitVec 8) (n m : Fin 8) (b : Bool) : predBit (setPred p n b) m = if m = n then b else predBit p m := by
  have hbit : (BitVec.ofNat 8 (2 ^ n.val)).getLsbD m.val = decide (m = n) := by
    rw [BitVec.getLsbD_ofNat, Nat.testBit_two_pow]
    simp [m.isLt, Fin.ext_iff, eq_comm]
  unfold predBit setPred
  by_cases h : m = n
  · cases b <;> simp_all
  · cases b <;> simp_all

/-- Bit `j` of a vector of bits. -/
theorem testBit_vecMk_one (n : Nat) (f : Nat → Nat) (j : Nat) : (vecMk 1 n f).testBit j = (decide (j < n) && decide (f j % 2 = 1)) := by
  by_cases hj : j < n
  · have hval := valAt_vecMk 1 f hj
    simp only [valAt, fld, one_mul, pow_one] at hval
    simp [Nat.testBit_eq_decide_div_mod_eq, ← Nat.shiftRight_eq_div_pow, hval, hj]
  · have hlt : vecMk 1 n f < 2 ^ j := (vecMk_lt 1 n f).trans_le (Nat.pow_le_pow_right (by omega) (by omega))
    simp [Nat.testBit_lt_two_pow hlt, hj]

/-- The live mask that a result writes (R51). -/
theorem getLsbD_lmOf (lanes vec : Nat) {j : Nat} (hj : j < 128) :
    (lmOf lanes vec).getLsbD j = (decide (j < lanes) && (laneAt vec j != 0)) := by
  rw [lmOf, BitVec.getLsbD_ofNat, testBit_vecMk_one]
  cases h : laneAt vec j != 0 <;> simp [b2n, hj]

end Sys2Proof.Machine

namespace Sys2Proof
open Machine

/-- Settles O8: a write is a write of one register, live lanes only where R42 says so. -/
theorem destinationWriteRules : Obligations.DestinationWriteRules := by
  intro x vec sc
  refine ⟨fun n y hy => ⟨fun m j hj => ?_, ?_⟩, fun n y hy => ⟨fun m => ?_, ?_⟩, fun n y hy => ⟨fun m => ?_, ?_⟩,
    fun n y hy => ⟨fun m => ?_, ?_⟩, rfl, fun y hy => ⟨fun j hj => ?_, ?_⟩, rfl⟩ <;> subst hy
  · exact (x.vLane_setLanes n _ vec _ m hj).trans (if_congr (by rw [List.mem_range, Unit.live]) rfl rfl)
  · exact x.setLanes_eq ..
  · exact x.sReg_setS ..
  · rfl
  · cases h : x.live 0 <;> simp [Unit.write, h, predBit_setPred]
  · cases h : x.live 0 <;> simp [Unit.write, h]
  · cases h : x.live 0 <;> simp [Unit.write, h, Unit.kReg_setK]
  · cases h : x.live 0 <;> simp [Unit.write, h, Unit.setK]
  · exact getLsbD_lmOf _ _ hj
  · rfl

end Sys2Proof
end

section
/-! SUPPORT. Emissions (R24, R31, R32, R85 to R89): what they change besides the tokens on their way. -/
namespace Sys2Proof.Machine

/-- `t` comes from `s` by emissions of unit `u`: stations, regions and the tokens on their way may differ, and in the unit what
it is blocked on and, at an EOI, INVIX. No region's state changes, and no token that was on its way is lost. -/
structure State.EmittedBy (s t : State) (u : Nat) (eoi : Bool) : Prop where
  rest : t = { s with units := t.units, stations := t.stations, regions := t.regions, flight := t.flight }
  others : ∀ w, w ≠ u → t.unit? w = s.unit? w
  own : ∀ x, s.unit? u = some x → ∃ y, t.unit? u = some y ∧ y = { x with blocked := y.blocked, invix := y.invix } ∧
    (eoi = false → y.invix = x.invix)
  status : ∀ r, (t.region? r).map (·.st) = (s.region? r).map (·.st)
  sent : ∀ f ∈ s.flight, f ∈ t.flight

namespace State.EmittedBy
variable {s t r : State} {u : Nat} {eoi : Bool}

theorem refl (s : State) (u : Nat) (eoi : Bool) : s.EmittedBy s u eoi :=
  ⟨rfl, fun _ _ => rfl, fun x hx => ⟨x, hx, rfl, fun _ => rfl⟩, fun _ => rfl, fun _ h => h⟩

theorem trans (h : s.EmittedBy t u eoi) (g : t.EmittedBy r u eoi) : s.EmittedBy r u eoi where
  rest := g.rest.trans (by rw [h.rest])
  others w hw := (g.others w hw).trans (h.others w hw)
  own x hx := by
    obtain ⟨y, hy, hxy, hyi⟩ := h.own x hx
    obtain ⟨z, hz, hyz, hzi⟩ := g.own y hy
    exact ⟨z, hz, hyz.trans (by rw [hxy]), fun he => (hzi he).trans (hyi he)⟩
  status q := (g.status q).trans (h.status q)
  sent f hf := g.sent f (h.sent f hf)

/-- A change that leaves every unit as it is. -/
theorem of_rest (hrest : t = { s with stations := t.stations, regions := t.regions, flight := t.flight })
    (hst : ∀ r, (t.region? r).map (·.st) = (s.region? r).map (·.st)) (hsent : ∀ f ∈ s.flight, f ∈ t.flight) :
    s.EmittedBy t u eoi := by
  have hunits : t.units = s.units := (congrArg State.units hrest :)
  have hunit (w : Nat) : t.unit? w = s.unit? w := by rw [State.unit?, hunits, State.unit?]
  refine ⟨?_, fun w _ => hunit w, fun x hx => ⟨x, (hunit u).trans hx, rfl, fun _ => rfl⟩, hst, hsent⟩
  rw [hunits]
  exact hrest

/-- A change of the unit alone. -/
theorem putUnit {x y : Unit} (hx : s.unit? u = some x) (hy : y = { x with blocked := y.blocked, invix := y.invix })
    (hi : eoi = false → y.invix = x.invix) : s.EmittedBy (s.putUnit u y) u eoi where
  rest := rfl
  others w hw := by simp [Ne.symm hw]
  own z hz := ⟨y, by simp, Option.some.inj (hx.symm.trans hz) ▸ hy, Option.some.inj (hx.symm.trans hz) ▸ hi⟩
  status _ := rfl
  sent _ h := h

end State.EmittedBy

/-! ### Copies -/

section
variable (s : State)

theorem State.status_onRegion (q : Nat) {f : Region → Region} (hf : ∀ x, (f x).st = x.st) (r : Nat) :
    ((s.onRegion q f).region? r).map (·.st) = (s.region? r).map (·.st) := by
  unfold State.onRegion
  split
  next x hx =>
    by_cases hr : q = r
    · subst hr
      simp [hx, hf]
    · simp [hr]
  next => rfl

theorem State.status_noteGrant (q r : Nat) : ((s.noteGrant q).region? r).map (·.st) = (s.region? r).map (·.st) :=
  s.status_onRegion q (f := fun x => { x with wdBase := s.regionCycles q }) (fun _ => rfl) r

theorem State.onRegion_rest (q : Nat) (f : Region → Region) : s.onRegion q f = { s with regions := (s.onRegion q f).regions } := by
  unfold State.onRegion
  split <;> rfl

theorem State.noteWait_eq_or (q : Nat) : s.noteWait q = s ∨ s.noteWait q = s.noteGrant q := by
  unfold State.noteWait
  split
  · split
    · exact .inr rfl
    · exact .inl rfl
  · exact .inl rfl

variable (src : Option Nat) (d : Dest) (t : Token) (u : Nat) (eoi : Bool)

theorem State.emittedBy_dispatch : s.EmittedBy (s.dispatch src d t) u eoi := by
  refine .of_rest ?_ (State.status_noteGrant _ _) fun f hf => List.mem_append_left _ hf
  simp only [State.dispatch, State.noteGrant]
  rw [State.onRegion_rest]
  rfl

theorem State.emittedBy_queueCopy : s.EmittedBy (s.queueCopy src d t) u eoi := by
  unfold State.queueCopy
  rcases s.noteWait_eq_or (s.arcRegion d) with hw | hw <;> rw [hw]
  · exact .of_rest rfl (fun _ => rfl) fun _ h => h
  · refine .of_rest ?_ (s.status_noteGrant _) fun f hf => ?_
    · rw [State.noteGrant, State.onRegion_rest]
      rfl
    · rw [State.noteGrant, State.onRegion_rest]
      exact hf

theorem State.emittedBy_emitCopies (cls : Nat) (ds : List Dest) : s.EmittedBy (s.emitCopies src cls t ds).1 u eoi := by
  induction ds generalizing s with
  | nil => exact .refl s u eoi
  | cons d ds ih =>
    rw [State.emitCopies]
    split
    · exact (s.emittedBy_dispatch src d t u eoi).trans (ih _)
    · exact (s.emittedBy_queueCopy src d t u eoi).trans (ih _)

theorem State.emittedBy_advanceInvix : s.EmittedBy (s.advanceInvix u) u true := by
  unfold State.advanceInvix
  split
  next => exact .refl s u true
  next x hx =>
    split
    · exact .putUnit hx rfl fun h => by simp at h
    · exact .putUnit hx rfl fun h => by simp at h

theorem State.emittedBy_emitAll (ems : List Emission) : s.EmittedBy (s.emitAll u eoi ems) u eoi := by
  induction ems generalizing s with
  | nil =>
    cases eoi with
    | false => exact .refl s u false
    | true => exact s.emittedBy_advanceInvix u
  | cons e ems ih =>
    have hcopies := s.emittedBy_emitCopies (some u) e.tok u eoi (s.eclass u) (byEntry e.dests)
    rw [State.emitAll]
    split
    next r hr =>
      rw [hr] at hcopies
      exact hcopies.trans (ih r)
    next r w hw hr =>
      rw [hr] at hcopies
      refine hcopies.trans ?_
      cases hu : r.unit? u with
      | none => simp [State.onUnit, hu, State.EmittedBy.refl]
      | some x =>
        rw [State.onUnit_eq_putUnit hu]
        exact .putUnit hu rfl fun _ => rfl

end

end Sys2Proof.Machine
end

section
/-! SUPPORT. The emission of one copy (R24, R88, R89). -/
namespace Sys2Proof.Machine

section
variable (s : State) (src : Option Nat) (d : Dest) (t : Token) (cls : Nat)

theorem byEntry_singleton : byEntry [d] = [d] := rfl

theorem State.emitCopies_singleton : s.emitCopies src cls t [d] =
    if s.slotFree d cls then (s.dispatch src d t, []) else (s.queueCopy src d t, [d]) := rfl

/-- A copy that waits changes no unit and no token on its way. -/
theorem State.queueCopy_rest : s.queueCopy src d t =
    { s with stations := (s.queueCopy src d t).stations, regions := (s.queueCopy src d t).regions } := by
  unfold State.queueCopy
  rcases s.noteWait_eq_or (s.arcRegion d) with hw | hw <;> rw [hw]
  · rfl
  · rw [State.noteGrant, State.onRegion_rest]
    rfl

/-- A copy that waits stands on the platform at its arc's entry (R89). -/
theorem State.platform_queueCopy : ∃ w, Tab.find ((s.queueCopy src d t).station d.station).platform d.entry = some w ∧ w.promos = 0 := by
  simp [State.queueCopy, Station.enqueue]

variable (u : Nat)

theorem State.emitAll_single_of_slot (h : s.slotFree d (s.eclass u) = true) : s.emitAll u false [⟨[d], t⟩] = s.dispatch (some u) d t := by
  simp [State.emitAll, byEntry_singleton, State.emitCopies_singleton, h]

theorem State.emitAll_single_of_no_slot (h : s.slotFree d (s.eclass u) = false) : s.emitAll u false [⟨[d], t⟩] =
    (s.queueCopy (some u) d t).onUnit u fun x => { x with blocked := some (.emit ⟨[d], t⟩ [] false) } := by
  simp [State.emitAll, byEntry_singleton, State.emitCopies_singleton, h]

end

end Sys2Proof.Machine

namespace Sys2Proof
open Machine

/-- Settles O11: a copy is either dispatched or queued, and each of the two is read off its definition. -/
theorem copiesAreSentOrWait : Obligations.CopiesAreSentOrWait := by
  intro s x u d t hx
  refine ⟨fun h => ⟨s.emitAll_single_of_slot d t u h, _, rfl, rfl, rfl, rfl, rfl⟩, fun h => ?_⟩
  rw [s.emitAll_single_of_no_slot d t u h]
  have hrest := s.queueCopy_rest (some u) d t
  have hu : (s.queueCopy (some u) d t).unit? u = some x := by
    rw [hrest]
    exact hx
  rw [State.onUnit_eq_putUnit hu]
  exact ⟨by simp, (congrArg State.flight hrest :), s.platform_queueCopy (some u) d t⟩

end Sys2Proof
end

section
/-! SUPPORT. The end of a word (R17, R18): which parts of its unit and of the machine a result reaches. -/
namespace Sys2Proof.Machine

/-! ### In the unit -/

section
variable (x : Unit) (d : Dst) (vec : Nat) (sc : W64) (upd : Upd)

theorem predBit_updPred (p : BitVec 8) (m : Fin 8) : predBit (updPred p upd) m = match upd with
    | .none => predBit p m
    | .set n => if m = n then true else predBit p m
    | .clear n => if m = n then false else predBit p m
    | .toggle n => if m = n then !predBit p m else predBit p m := by
  cases upd with
  | none => rfl
  | set n => exact predBit_setPred p n m true
  | clear n => exact predBit_setPred p n m false
  | toggle n =>
    refine (predBit_setPred p n m _).trans ?_
    by_cases h : m = n
    · subst h; rfl
    · simp [h]

theorem Unit.write_eq : x.write d vec sc = { x with
    v := (x.write d vec sc).v, s := (x.write d vec sc).s, p := (x.write d vec sc).p, k := (x.write d vec sc).k,
    lm := (x.write d vec sc).lm } := by
  cases d with
  | v n =>
    rw [Unit.write, Unit.writeV, Unit.setLanes_eq]
  | p n | k n | pst => cases h : x.live 0 <;> simp [Unit.write, h, Unit.setK]
  | s n | lm | o n | discard => rfl

theorem Unit.next_eq : x.next upd = { x with p := updPred x.p upd, pc := if x.mode = .sequenced then x.pc + 1 else x.pc } := by
  cases h : x.mode <;> simp [Unit.next, Unit.applyUpd, h]

theorem Unit.close_eq : ∃ p pc b, x.close upd = { x with p := p, pc := pc, blockedUpd := b } ∧ (p = x.p ∨ p = updPred x.p upd) := by
  unfold Unit.close
  split
  · split
    · exact ⟨_, _, _, rfl, .inl rfl⟩
    · exact ⟨_, _, _, rfl, .inr rfl⟩
  · split
    · exact ⟨_, _, _, rfl, .inl rfl⟩
    · rw [Unit.next_eq]
      exact ⟨_, _, _, rfl, .inr rfl⟩

theorem Unit.close_of_free (hb : x.blocked = none) (hy : x.busy = none) : x.close upd = x.next upd := by
  simp [Unit.close, hb, hy]

end

section
variable (x : Unit) (d : Dst) (vec : Nat) (sc : W64)

theorem Unit.sReg_write_of_ne (n : SReg) (h : d ≠ .s n) : (x.write d vec sc).sReg n = x.sReg n := by
  cases d with
  | v m =>
    rw [Unit.write, Unit.writeV, Unit.setLanes_eq]
    rfl
  | s m => simp [Unit.write, show n ≠ m from fun e => h (e ▸ rfl)]
  | p m | k m | pst => cases hl : x.live 0 <;> simp [Unit.write, hl, Unit.setK, Unit.sReg]
  | lm | o m | discard => rfl

theorem Unit.vLane_write_of_ne (n : VReg) {j : Nat} (hj : j < 128) (h : d ≠ .v n) : (x.write d vec sc).vLane n j = x.vLane n j := by
  cases d with
  | v m => simp [Unit.write, Unit.writeV, Unit.vLane_setLanes _ _ _ _ _ _ hj, show n ≠ m from fun e => h (e ▸ rfl)]
  | p m | k m | pst => cases hl : x.live 0 <;> simp [Unit.write, hl, Unit.setK, Unit.vLane]
  | s m | lm | o m | discard => rfl

theorem Unit.kReg_write_of_ne (n : Fin 4) (h : ∀ m : Fin 3, d = .k m → m.val + 1 ≠ n.val) : (x.write d vec sc).kReg n = x.kReg n := by
  cases d with
  | v m =>
    rw [Unit.write, Unit.writeV, Unit.setLanes_eq]
    rfl
  | k m => cases hl : x.live 0 <;> simp [Unit.write, hl, Unit.kReg_setK, (h m rfl).symm]
  | p m | pst => cases hl : x.live 0 <;> simp [Unit.write, hl, Unit.kReg]
  | s m | lm | o m | discard => rfl

theorem Unit.predBit_write_of_ne (n : Fin 8) (hp : d ≠ .p n) (hpst : d ≠ .pst) :
    predBit (x.write d vec sc).p n = predBit x.p n := by
  cases d with
  | v m => rw [Unit.write, Unit.writeV, Unit.setLanes_eq]
  | p m => cases hl : x.live 0 <;> simp [Unit.write, hl, predBit_setPred, show n ≠ m from fun e => hp (e ▸ rfl)]
  | k m => cases hl : x.live 0 <;> simp [Unit.write, hl, Unit.setK]
  | pst => exact absurd rfl hpst
  | s m | lm | o m | discard => rfl

theorem Unit.lm_write_of_ne (h : d ≠ .lm) : (x.write d vec sc).lm = x.lm := by
  cases d with
  | v m => rw [Unit.write, Unit.writeV, Unit.setLanes_eq]
  | p m | k m | pst => cases hl : x.live 0 <;> simp [Unit.write, hl, Unit.setK]
  | lm => exact absurd rfl h
  | s m | o m | discard => rfl

end

theorem predBit_updPred_of_not_mem (p : BitVec 8) {upd : Upd} {n : Fin 8} (h : upd ∉ [.set n, .clear n, .toggle n]) :
    predBit (updPred p upd) n = predBit p n := by
  rw [predBit_updPred]
  cases upd with
  | none => rfl
  | set m | clear m | toggle m => simp [show n ≠ m from fun e => h (e ▸ by simp)]

/-- What no result and no conversion changes in its unit. -/
def Unit.aside (x : Unit) := (x.region, x.sys, x.invix, x.gens, x.turn, x.fill, x.rstack, x.lastLoop)

/-- The converter counters (R116). -/
def Unit.convCounts (x : Unit) := (x.ovf, x.nanp, x.satn)

/-- From `x` to `y` an instruction of destination `d` and update `upd` has changed its unit: `reads` says that it may read a
stream token, `counts` that it counts conversions. -/
structure Unit.ResultOf (d : Dst) (upd : Upd) (reads counts : Prop) (x y : Unit) : Prop where
  sReg : ∀ n : SReg, d ≠ .s n → y.sReg n = x.sReg n
  vLane : ∀ (n : VReg) (j : Nat), j < 128 → d ≠ .v n → y.vLane n j = x.vLane n j
  kReg : ∀ n : Fin 4, (∀ m : Fin 3, d = .k m → m.val + 1 ≠ n.val) → y.kReg n = x.kReg n
  pred : ∀ n : Fin 8, d ≠ .p n → d ≠ .pst → upd ∉ [.set n, .clear n, .toggle n] → predBit y.p n = predBit x.p n
  lm : ¬ reads → d ≠ .lm → y.lm = x.lm
  counters : ¬ counts → y.convCounts = x.convCounts
  aside : y.aside = x.aside

namespace Unit.ResultOf
variable {d : Dst} {upd : Upd} {reads counts : Prop} {x y z : Unit}

theorem trans (h : Unit.ResultOf d upd reads counts x y) (g : Unit.ResultOf d upd reads counts y z) :
    Unit.ResultOf d upd reads counts x z where
  sReg n hd := (g.sReg n hd).trans (h.sReg n hd)
  vLane n j hj hd := (g.vLane n j hj hd).trans (h.vLane n j hj hd)
  kReg n hd := (g.kReg n hd).trans (h.kReg n hd)
  pred n hp hpst hu := (g.pred n hp hpst hu).trans (h.pred n hp hpst hu)
  lm hr hd := (g.lm hr hd).trans (h.lm hr hd)
  counters hc := (g.counters hc).trans (h.counters hc)
  aside := g.aside.trans h.aside

/-- Registers, counters and what stands aside are all the same. -/
theorem of_same (hs : y.s = x.s) (hv : y.v = x.v) (hk : y.k = x.k) (hp : y.p = x.p) (hlm : ¬ reads → y.lm = x.lm)
    (hc : y.convCounts = x.convCounts) (ha : y.aside = x.aside) : Unit.ResultOf d upd reads counts x y where
  sReg n _ := by rw [Unit.sReg, hs, Unit.sReg]
  vLane n j _ _ := by rw [Unit.vLane, hv, Unit.vLane]
  kReg n _ := by rw [Unit.kReg, hk, Unit.kReg]
  pred n _ _ _ := by rw [hp]
  lm hr _ := hlm hr
  counters _ := hc
  aside := ha

theorem write (vec : Nat) (sc : W64) : Unit.ResultOf d upd reads counts x (x.write d vec sc) where
  sReg n hd := x.sReg_write_of_ne d vec sc n hd
  vLane n j hj hd := x.vLane_write_of_ne d vec sc n hj hd
  kReg n hd := x.kReg_write_of_ne d vec sc n hd
  pred n hp hpst _ := x.predBit_write_of_ne d vec sc n hp hpst
  lm _ hd := x.lm_write_of_ne d vec sc hd
  counters _ := by rw [Unit.write_eq]; rfl
  aside := by rw [Unit.write_eq]; rfl

theorem close : Unit.ResultOf d upd reads counts x (x.close upd) := by
  obtain ⟨p, pc, b, hy, hp⟩ := x.close_eq upd
  rw [hy]
  refine ⟨fun _ _ => rfl, fun _ _ _ _ => rfl, fun _ _ => rfl, fun n _ _ hu => ?_, fun _ _ => rfl, fun _ => rfl, rfl⟩
  rcases hp with hp | hp <;> subst hp
  · rfl
  · exact predBit_updPred_of_not_mem _ hu

/-- The lanes of a V register written under some mask. -/
theorem setLanes {n : VReg} (mask : BitVec 128) (vec : Nat) (l : List Nat) :
    Unit.ResultOf (.v n) upd reads counts x (x.setLanes n mask vec l) where
  sReg _ _ := by rw [Unit.setLanes_eq]; rfl
  vLane m j hj hd := by
    rw [Unit.vLane_setLanes _ _ _ _ _ _ hj]
    simp [show m ≠ n from fun e => hd (e ▸ rfl)]
  kReg _ _ := by rw [Unit.setLanes_eq]; rfl
  pred _ _ _ _ := by rw [Unit.setLanes_eq]
  lm _ _ := by rw [Unit.setLanes_eq]
  counters _ := by rw [Unit.setLanes_eq]; rfl
  aside := by rw [Unit.setLanes_eq]; rfl

theorem countConv (cs : List Conv) (hc : counts) : Unit.ResultOf d upd reads counts x (x.countConv cs) :=
  ⟨fun _ _ => rfl, fun _ _ _ _ => rfl, fun _ _ => rfl, fun _ _ _ _ => rfl, fun _ _ => rfl, fun h => absurd hc h, rfl⟩

/-- What the frame of a result says about the registers that no result names. -/
theorem sameElse (h : Unit.ResultOf d upd reads counts x y) :
    x.SameElse { y with ovf := x.ovf, nanp := x.nanp, satn := x.satn } := by
  obtain ⟨-, hsys, hinvix, hgens, hturn, hfill, hrstack, hloop⟩ := (by simpa [Unit.aside] using h.aside :
    y.region = x.region ∧ y.sys = x.sys ∧ y.invix = x.invix ∧ y.gens = x.gens ∧ y.turn = x.turn ∧ y.fill = x.fill ∧ y.rstack = x.rstack ∧
      y.lastLoop = x.lastLoop)
  exact ⟨hsys, hinvix, ⟨rfl, rfl, rfl⟩, hgens, ⟨hturn, hfill⟩, ⟨hrstack, hloop⟩⟩

theorem sameElse_of_not_counts (h : Unit.ResultOf d upd reads counts x y) (hc : ¬ counts) : x.SameElse y := by
  have hcnt := h.counters hc
  simp only [Unit.convCounts, Prod.mk.injEq] at hcnt
  obtain ⟨hovf, hnanp, hsatn⟩ := hcnt
  obtain ⟨hsys, hinvix, -, hgens, hturn, hstack⟩ := h.sameElse
  exact ⟨hsys, hinvix, ⟨hovf, hnanp, hsatn⟩, hgens, hturn, hstack⟩

end Unit.ResultOf

/-! ### In the machine -/

theorem State.draining_eq (s : State) (x : Unit) : s.draining x = ((s.region? x.region).map (·.st) == some .draining) := by
  unfold State.draining
  cases s.region? x.region <;> simp

/-- From `s` to `t` an instruction of unit `u`, of destination `d` and update `upd`, has changed the machine. -/
structure State.ResultOf (s t : State) (u : Nat) (d : Dst) (upd : Upd) (reads counts : Prop) : Prop where
  rest : t = { s with units := t.units, stations := t.stations, regions := t.regions, flight := t.flight }
  others : ∀ w, w ≠ u → t.unit? w = s.unit? w
  inside : (∀ n, d ≠ .o n) → t.regions = s.regions ∧ t.flight = s.flight
  own : ∀ x, s.unit? u = some x → ∃ y, t.unit? u = some y ∧ Unit.ResultOf d upd reads counts x y
  status : ∀ r, (t.region? r).map (·.st) = (s.region? r).map (·.st)

namespace State.ResultOf
variable {s t r : State} {u : Nat} {d : Dst} {upd : Upd} {reads counts : Prop}

theorem trans (h : s.ResultOf t u d upd reads counts) (g : t.ResultOf r u d upd reads counts) :
    s.ResultOf r u d upd reads counts where
  rest := g.rest.trans (by rw [h.rest])
  others w hw := (g.others w hw).trans (h.others w hw)
  inside hd := ⟨(g.inside hd).1.trans (h.inside hd).1, (g.inside hd).2.trans (h.inside hd).2⟩
  own x hx := by
    obtain ⟨y, hy, hxy⟩ := h.own x hx
    obtain ⟨z, hz, hyz⟩ := g.own y hy
    exact ⟨z, hz, hxy.trans hyz⟩
  status q := (g.status q).trans (h.status q)

theorem onUnit (s : State) {f : Unit → Unit} (hf : ∀ x, Unit.ResultOf d upd reads counts x (f x)) :
    s.ResultOf (s.onUnit u f) u d upd reads counts where
  rest := by
    rw [State.onUnit_rest]
  others w hw := State.unit?_onUnit_of_ne _ _ hw.symm
  inside _ := by
    rw [State.onUnit_rest]
    exact ⟨rfl, rfl⟩
  own x hx := ⟨f x, by simp [hx], hf x⟩
  status _ := by
    rw [State.onUnit_rest]
    rfl

/-- What the firing reads changes its unit's live mask only where it may read a stream token. -/
theorem of_readBy (h : s.ReadBy t u) (hq : ¬ reads → t = s) : s.ResultOf t u d upd reads counts where
  rest := h.rest.trans (by rw [h.rest])
  others := h.others
  inside _ := by
    rw [h.rest]
    exact ⟨rfl, rfl⟩
  own x hx := by
    obtain ⟨y, hy, hxy⟩ := h.own x hx
    refine ⟨y, hy, ?_⟩
    rw [hxy]
    refine .of_same rfl rfl rfl rfl (fun hr => ?_) rfl rfl
    have hyx : some x = some y := by rw [← hx, ← hy, hq hr]
    rw [Option.some.inj hyx]
  status _ := by
    rw [h.rest]
    rfl

theorem of_emittedBy (h : s.EmittedBy t u false) (hd : ∃ n, d = .o n) : s.ResultOf t u d upd reads counts where
  rest := h.rest
  others := h.others
  inside hn := hd.elim fun n e => absurd e (hn n)
  own x hx := by
    obtain ⟨y, hy, hxy, hi⟩ := h.own x hx
    refine ⟨y, hy, ?_⟩
    rw [hxy, hi rfl]
    exact .of_same rfl rfl rfl rfl (fun _ => rfl) rfl rfl
  status := h.status

theorem writeResult (s : State) (vec : Nat) (sc : W64) : s.ResultOf (s.writeResult u d vec sc) u d upd reads counts := by
  unfold State.writeResult
  split
  next n =>
    split
    next => exact .of_emittedBy (s.emittedBy_emitAll u false _) ⟨n, rfl⟩
    next => exact .of_emittedBy (.refl s u false) ⟨n, rfl⟩
  next => exact .onUnit s fun x => .write vec sc

/-- A result written now or held for its interval (R18). -/
theorem finish (s : State) (vec : Nat) (sc : W64) (cyc : Nat) : s.ResultOf (s.finish u upd d vec sc cyc) u d upd reads counts := by
  unfold State.finish
  split
  · exact .onUnit s fun x => .of_same rfl rfl rfl rfl (fun _ => rfl) rfl rfl
  · exact (State.ResultOf.writeResult s vec sc).trans (.onUnit _ fun x => .close)

/-- A result does not end or begin the draining of its unit's region. -/
theorem draining (h : s.ResultOf t u d upd reads counts) {x y : Unit} (hx : s.unit? u = some x) (hy : t.unit? u = some y) :
    t.draining y = s.draining x := by
  obtain ⟨z, hz, hxz⟩ := h.own x hx
  obtain rfl : z = y := Option.some.inj (hz.symm.trans hy)
  have hregion : z.region = x.region := congrArg Prod.fst hxz.aside
  rw [State.draining_eq, State.draining_eq, hregion, h.status]

theorem sameMemory (h : s.ResultOf t u d upd reads counts) : s.SameMemory t := by
  rw [h.rest]
  refine ⟨fun k a => ?_, rfl, fun _ => rfl, fun _ => rfl, fun _ => rfl⟩
  cases k <;> rfl

end State.ResultOf

end Sys2Proof.Machine
end

section
/-! SUPPORT. The end of a word (R17, R18, R24, R27, R51): a result written, held or emitted. -/
namespace Sys2Proof.Machine

section
variable {s : State} {u : Nat} {x : Unit} {upd : Upd} {d : Dst} {vec : Nat} {sc : W64} {cyc : Nat}

theorem State.finish_held (h : 1 < cyc) : s.finish u upd d vec sc cyc =
    s.onUnit u fun x => { x with busy := some ⟨s.clockOf u + cyc, d, vec, sc, upd⟩ } := if_pos h

theorem State.finish_now (h : cyc ≤ 1) : s.finish u upd d vec sc cyc = (s.writeResult u d vec sc).onUnit u fun x => x.close upd :=
  if_neg h.not_gt

theorem State.writeResult_register (hd : ∀ n, d ≠ .o n) : s.writeResult u d vec sc = s.onUnit u fun x => x.write d vec sc := by
  cases d with
  | o n => exact absurd rfl (hd n)
  | v n | s n | p n | k n | pst | lm | discard => rfl

theorem State.writeResult_output (hx : s.unit? u = some x) (n : Chan) :
    s.writeResult u (.o n) vec sc = s.emitAll u false [⟨Tab.get x.outs n.val [], plainTok .dat sc⟩] := by
  simp [State.writeResult, hx]

/-- A result that reaches a register at once, in a unit that is neither blocked nor busy. -/
theorem State.unit?_finish_register (hx : s.unit? u = some x) (h : cyc ≤ 1) (hd : ∀ n, d ≠ .o n) (hb : x.blocked = none)
    (hy : x.busy = none) : (s.finish u upd d vec sc cyc).unit? u = some ((x.write d vec sc).next upd) := by
  have hfree : (x.write d vec sc).close upd = (x.write d vec sc).next upd := by
    refine Unit.close_of_free _ _ ?_ ?_ <;> rw [Unit.write_eq] <;> assumption
  simp [State.finish_now h, State.writeResult_register hd, hx, hfree]

/-- A result that no output channel takes now changes only the table of units. -/
theorem State.finish_rest (h : (∀ n, d ≠ .o n) ∨ 1 < cyc) :
    s.finish u upd d vec sc cyc = { s with units := (s.finish u upd d vec sc cyc).units } := by
  by_cases hc : 1 < cyc
  · rw [State.finish_held hc, State.onUnit_rest]
  · rw [State.finish_now (by omega), State.writeResult_register (h.resolve_right hc), State.onUnit_rest, State.onUnit_rest]

/-- The unit after its result has been emitted. -/
theorem State.unit?_finish_output (hx : s.unit? u = some x) (h : cyc ≤ 1) (n : Chan) :
    ∃ y, (s.finish u upd (.o n) vec sc cyc).unit? u = some y ∧ y.v = x.v ∧ y.s = x.s ∧ y.k = x.k ∧ y.lm = x.lm ∧
      y.inbox = x.inbox ∧ x.SameElse y := by
  obtain ⟨y, hy, hxy, hi⟩ := (s.emittedBy_emitAll u false [⟨Tab.get x.outs n.val [], plainTok .dat sc⟩]).own x hx
  obtain ⟨p, pc, b, hclose, -⟩ := y.close_eq upd
  refine ⟨y.close upd, by simp [State.finish_now h, State.writeResult_output hx, hy], ?_⟩
  rw [hclose, hxy, hi rfl]
  exact ⟨rfl, rfl, rfl, rfl, rfl, rfl, rfl, ⟨rfl, rfl, rfl⟩, rfl, ⟨rfl, rfl⟩, rfl, rfl⟩

end

end Sys2Proof.Machine

namespace Sys2Proof
open Machine

/-- Settles O9: a result is held, written to its register or emitted, and the frame of a result says what it leaves. -/
theorem wordsEndWithTheirUpdate : Obligations.WordsEndWithTheirUpdate := by
  refine ⟨?_, fun x upd => ?_⟩
  · intro s u x upd d vec sc cyc hx t
    have hframe : s.ResultOf t u d upd True True := .finish s vec sc cyc
    refine ⟨fun h hd hb hy => State.unit?_finish_register hx h hd hb hy, fun h => ?_, hframe.others, State.finish_rest,
      fun n hn h => ?_⟩
    · rw [show t = _ from State.finish_held h]
      simp [hx]
    · subst hn
      exact ⟨by rw [← State.writeResult_output hx n]; exact State.finish_now h, hframe.sameMemory,
        (congrArg State.mesh hframe.rest :), State.unit?_finish_output hx h n⟩
  · rw [Unit.next_eq]
    exact ⟨predBit_updPred upd x.p, rfl, rfl⟩

end Sys2Proof
end

section
/-! SUPPORT. The instructions whose result goes to a register or an output channel (R17, R18, R25, R42, R51, R116). -/
namespace Sys2Proof.Machine

/-- Instruction `i` answers a result for destination `d`, after it has taken the tokens of its operands (R17, R25). -/
def GivesResult (d : Dst) (i : Instr) : Prop := ∀ (s : State) (x : Unit), s.Fires i x →
  ∃ vec sc cyc, exec i s = .next ((s.taken i.srcs).finish s.cur.unit s.cur.upd d vec sc cyc)

theorem givesResult_of_fired {s : State} {x : Unit} {i : Instr} {d : Dst} {r : Res} {vec : Nat} {sc : W64} {cyc : Nat}
    (he : exec i s = .next (s.fired x i r)) (hr : r = .write (s.taken i.srcs) d vec sc cyc) :
    ∃ vec sc cyc, exec i s = .next ((s.taken i.srcs).finish s.cur.unit s.cur.upd d vec sc cyc) :=
  ⟨vec, sc, cyc, by rw [he, hr, State.fired_write]⟩

section
variable {i : Instr} {d : Dst} {a b : Src} {w cyc : Nat} {imm : BitVec 7 → Nat}

theorem givesResult_of_laneOp1 {f : Nat → Nat} (he : ∀ s, exec i s = laneOp1 i w imm cyc f d a s) (hav : i.avail = some avTSD)
    (hs : i.srcs = [a]) (hr : i.reads = [a]) (hw : i.writes = [d]) (ho : i.outs = outsOf [d])
    (hk : ∀ x : Unit, x.operandsReady i = x.hasTokens i.srcs) : GivesResult d i := fun s x h => by
  obtain ⟨vec, hvec, -⟩ := laneOp1_result (P := fun _ _ => True) h (he s) hav hs hr hw ho (hk x) fun _ _ => trivial
  exact ⟨vec, _, _, hvec⟩

theorem givesResult_of_laneOp2 {f : Nat → Nat → Nat} (he : ∀ s, exec i s = laneOp2 i w imm cyc f d a b s)
    (hav : i.avail = some avTSD) (hs : i.srcs = [a, b]) (hr : i.reads = [a, b]) (hw : i.writes = [d]) (ho : i.outs = outsOf [d])
    (hk : ∀ x : Unit, x.operandsReady i = x.hasTokens i.srcs) : GivesResult d i := fun s x h => by
  obtain ⟨vec, hvec, -⟩ := laneOp2_result (P := fun _ _ => True) h (he s) hav hs hr hw ho (hk x) fun _ _ => trivial
  exact ⟨vec, _, _, hvec⟩

theorem givesResult_of_laneOp3 {f : Nat → Nat → Nat → Nat} (he : ∀ s, exec i s = laneOp3 i w imm cyc f d a b s)
    (hav : i.avail = some avTSD) (hs : i.srcs = [a, b]) (hr : i.reads = [a, b]) (hw : i.writes = [d]) (ho : i.outs = outsOf [d])
    (hk : ∀ x : Unit, x.operandsReady i = x.hasTokens i.srcs) : GivesResult d i := fun s x h => by
  obtain ⟨vec, hvec, -⟩ := laneOp3_result (P := fun _ _ => True) h (he s) hav hs hr hw ho (hk x) fun _ _ => trivial
  exact ⟨vec, _, _, hvec⟩

end

section
variable (ty : IntTy) (ft : FTy) (sat : Bool) (rnd : Rnd) (c : Cond) (fc : FCond) (imm : BitVec 22) (w : Width) (rt st : Ty)
  (op : RedOp) (sx : Bool) (d : Dst) (va vb vd : VReg) (a b : Src) (f8 : F8)

/-- The operations of one operand that share the mould of R326. -/
def laneOps1 : List Instr := [.abs ty sat d a, .clz ty d a, .popc ty d a, .fsqrt ft rnd d a, .frcp ft rnd d a, .frsq ft rnd d a,
  .fexp2 ft rnd d a, .flog2 ft rnd d a, .fabs ft d a, .fneg ft d a]

/-- Those of two operands. -/
def laneOps2 : List Instr := [.add ty sat d a b, .sub ty sat d a b, .mul ty sat d a b, .mulh ty d a b, .div ty sat d a b,
  .rem ty d a b, .min ty d a b, .max ty d a b, .and ty d a b, .or ty d a b, .xor ty d a b, .shl ty sat d a b, .shr ty d a b,
  .sra ty d a b, .rot ty d a b, .fadd ft rnd d a b, .fsub ft rnd d a b, .fmul ft rnd d a b, .fdiv ft rnd d a b, .fmin ft d a b,
  .fmax ft d a b, .fcmp ft fc d a b]

/-- Those that read their destination too. -/
def laneOps3 : List Instr := [.mad ty sat d a b, .sel ty d a b, .fma ft rnd d a b]

/-- The others with a free destination. -/
def otherOps : List Instr := [.cmp ty c d a b, .mov d a, .movi d imm, .bcst w d va b, .extl w sx d va b, .rdce rt op sat rnd d va]

/-- Those that write a V register. -/
def vectorOps : List Instr := [.pack ty sat vd va vb, .unpk ty sx vd va, .shfl w vd va b, .scan rt op sat rnd vd va, .insl w vd a b]

theorem givesResult_laneOps1 : ∀ i ∈ laneOps1 ty ft sat rnd d a, GivesResult d i := by
  simp only [laneOps1, List.forall_mem_cons]
  refine ⟨givesResult_of_laneOp1 (fun s => (rfl : execAbs ty sat d a s = _)) rfl rfl rfl rfl rfl fun _ => rfl, ?_, ?_, ?_, ?_, ?_,
    ?_, ?_, givesResult_of_laneOp1 (fun s => (rfl : execFabs ft d a s = _)) rfl rfl rfl rfl rfl fun _ => rfl,
    givesResult_of_laneOp1 (fun s => (rfl : execFneg ft d a s = _)) rfl rfl rfl rfl rfl fun _ => rfl, by simp⟩
  all_goals exact givesResult_of_laneOp1 (fun _ => rfl) rfl rfl rfl rfl rfl fun _ => rfl

theorem givesResult_laneOps2 : ∀ i ∈ laneOps2 ty ft sat rnd fc d a b, GivesResult d i := by
  simp only [laneOps2, List.forall_mem_cons]
  refine ⟨?_, ?_, ?_, ?_, ?_, ?_, ?_, ?_, ?_, ?_, ?_, ?_, ?_, ?_, ?_, ?_, ?_, ?_, ?_, ?_, ?_,
    givesResult_of_laneOp2 (fun s => (rfl : execFcmp ft fc d a b s = _)) rfl rfl rfl rfl rfl fun _ => rfl, by simp⟩
  all_goals exact givesResult_of_laneOp2 (fun _ => rfl) rfl rfl rfl rfl rfl fun _ => rfl

theorem givesResult_laneOps3 : ∀ i ∈ laneOps3 ty ft sat rnd d a b, GivesResult d i := by
  simp only [laneOps3, List.forall_mem_cons]
  exact ⟨givesResult_of_laneOp3 (fun s => (rfl : execMad ty sat d a b s = _)) rfl rfl rfl rfl rfl fun _ => rfl,
    givesResult_of_laneOp3 (fun s => (rfl : execSel ty d a b s = _)) rfl rfl rfl rfl rfl fun _ => rfl,
    givesResult_of_laneOp3 (fun s => (rfl : execFma ft rnd d a b s = _)) rfl rfl rfl rfl rfl fun _ => rfl, by simp⟩

theorem givesResult_otherOps : ∀ i ∈ otherOps ty sat rnd c imm w rt op sx d va a b, GivesResult d i := by
  simp only [otherOps, List.forall_mem_cons]
  exact ⟨fun _ _ h => givesResult_of_fired (h.answers (execCmp ty c d a b) rfl rfl rfl rfl rfl rfl rfl rfl) rfl,
    fun _ _ h => givesResult_of_fired (h.answers (execMov d a) rfl rfl rfl rfl rfl rfl rfl rfl) rfl,
    fun _ _ h => givesResult_of_fired (h.answers (execMovi d imm) rfl rfl rfl rfl rfl rfl rfl rfl) rfl,
    fun _ _ h => givesResult_of_fired (h.answers (execBcst w d va b) rfl rfl rfl rfl rfl rfl rfl rfl) rfl,
    fun _ _ h => givesResult_of_fired (h.answers (execExtl w sx d va b) rfl rfl rfl rfl rfl rfl rfl rfl) rfl,
    fun _ _ h => givesResult_of_fired (h.answers (execRdce rt op sat rnd d va) rfl rfl rfl rfl rfl rfl rfl rfl) rfl, by simp⟩

theorem chansOf_concat_register (l : List Src) (n : VReg) : chansOf (l ++ [.v n]) = chansOf l := by
  induction l with
  | nil => rfl
  | cons a l ih => cases a <;> simp [chansOf, ih]

theorem givesResult_vectorOps : ∀ i ∈ vectorOps ty sat rnd w rt op sx va vb vd a b, GivesResult (.v vd) i := by
  simp only [vectorOps, List.forall_mem_cons]
  exact ⟨fun _ _ h => givesResult_of_fired (h.answers (execPack ty sat vd va vb) rfl rfl rfl rfl rfl rfl rfl rfl) rfl,
    fun _ _ h => givesResult_of_fired (h.answers (execUnpk ty sx vd va) rfl rfl rfl rfl rfl rfl rfl rfl) rfl,
    fun _ _ h => givesResult_of_fired (h.answers (execShfl w vd va b) rfl rfl rfl rfl rfl rfl rfl rfl) rfl,
    fun _ _ h => givesResult_of_fired (h.answers (execScan rt op sat rnd vd va) rfl rfl rfl rfl rfl rfl rfl rfl) rfl,
    fun _ _ h => givesResult_of_fired
      (h.answers (execInsl w vd a b) rfl rfl rfl rfl rfl (chansOf_concat_register [a, b] vd) rfl rfl) rfl, by simp⟩

/-! ### Their frame -/

/-- The firing takes no token: it names no channel and tests no head. -/
def State.Quiet (s : State) (i : Instr) : Prop := s.cur.test = none ∧ ∀ ch sel, .c ch sel ∉ i.srcs

/-- Instruction `i` changes only what a result for `d` changes; `counts` says that it counts conversions. -/
def Framed (d : Dst) (counts : Prop) (i : Instr) : Prop := ∀ (s t : State) (x : Unit), s.Fires i x → exec i s = .next t →
  s.ResultOf t s.cur.unit d s.cur.upd (¬ s.Quiet i) counts

variable {d} in
theorem State.resultOf_taken (s : State) (i : Instr) {counts : Prop} :
    s.ResultOf (s.taken i.srcs) s.cur.unit d s.cur.upd (¬ s.Quiet i) counts :=
  .of_readBy (s.readBy_taken i.srcs) fun h => State.taken_of_no_channel (not_not.1 h).2 (not_not.1 h).1

variable {d} in
theorem GivesResult.framed {i : Instr} (h : GivesResult d i) (counts : Prop) : Framed d counts i := by
  intro s t x hf ht
  obtain ⟨vec, sc, cyc, he⟩ := h s x hf
  obtain rfl : (s.taken i.srcs).finish s.cur.unit s.cur.upd d vec sc cyc = t := Host.Outcome.next.inj (he.symm.trans ht)
  exact (s.resultOf_taken i).trans (.finish _ vec sc cyc)

/-- MOVH writes an S or a V register, and nothing else (R373). -/
theorem framed_movh (counts : Prop) : Framed d counts (.movh d imm) := by
  cases d with
  | s n | v n =>
    exact GivesResult.framed (fun _ _ hf =>
      givesResult_of_fired (hf.answers (execMovh _ imm) rfl rfl rfl rfl rfl rfl rfl rfl) rfl) counts
  | _ =>
    intro s t x hf ht
    have he := hf.answers (execMovh _ imm) rfl rfl rfl rfl rfl rfl rfl rfl
    obtain rfl : s.doneWith (s.taken _) = t := Host.Outcome.next.inj (he.symm.trans ht)
    exact (s.resultOf_taken (.movh _ imm)).trans (.onUnit _ fun _ => .close)

/-- The instructions with a free destination that count no conversion. -/
def registerOps : List Instr := [.add ty sat d a b, .sub ty sat d a b, .mul ty sat d a b, .mad ty sat d a b, .mulh ty d a b,
  .div ty sat d a b, .rem ty d a b, .abs ty sat d a, .min ty d a b, .max ty d a b, .and ty d a b, .or ty d a b, .xor ty d a b,
  .shl ty sat d a b, .shr ty d a b, .sra ty d a b, .rot ty d a b, .clz ty d a, .popc ty d a, .sel ty d a b, .cmp ty c d a b,
  .fadd ft rnd d a b, .fsub ft rnd d a b, .fmul ft rnd d a b, .fma ft rnd d a b, .fdiv ft rnd d a b, .fsqrt ft rnd d a,
  .frcp ft rnd d a, .frsq ft rnd d a, .fexp2 ft rnd d a, .flog2 ft rnd d a, .fmin ft d a b, .fmax ft d a b, .fabs ft d a,
  .fneg ft d a, .fcmp ft fc d a b, .mov d a, .movi d imm, .bcst w d va b, .movh d imm, .extl w sx d va b, .rdce rt op sat rnd d va]

theorem framed_registerOps (counts : Prop) : ∀ i ∈ registerOps ty ft sat rnd c fc imm w rt op sx d va a b, Framed d counts i := by
  have hone := fun i hi => (givesResult_laneOps1 ty ft sat rnd d a i hi).framed counts
  have htwo := fun i hi => (givesResult_laneOps2 ty ft sat rnd fc d a b i hi).framed counts
  have hthree := fun i hi => (givesResult_laneOps3 ty ft sat rnd d a b i hi).framed counts
  have hother := fun i hi => (givesResult_otherOps ty sat rnd c imm w rt op sx d va a b i hi).framed counts
  simp only [laneOps1, laneOps2, laneOps3, otherOps, List.forall_mem_cons] at hone htwo hthree hother
  simp only [registerOps, List.forall_mem_cons, hone, htwo, hthree, hother, framed_movh, true_and]
  simp

variable {d} in
/-- What a conversion writes and counts (R107, R116). -/
theorem State.resultOf_convWrite (s : State) (x : Unit) (i : Instr) (k n : Nat) (f : Nat → Conv) :
    s.ResultOf (s.fired x i (convWrite s.cur.unit (s.taken i.srcs) d k n f)) s.cur.unit d s.cur.upd (¬ s.Quiet i) True := by
  refine (s.resultOf_taken i).trans ?_
  cases d with
  | v m =>
    exact (State.ResultOf.onUnit _ fun _ => (Unit.ResultOf.setLanes _ _ _).trans (.countConv _ trivial)).trans
      (.onUnit _ fun _ => .close)
  | _ =>
    simp only [convWrite, State.fired_write]
    exact (State.ResultOf.onUnit _ fun _ => .countConv _ trivial).trans (.finish _ _ _ _)

theorem framed_cvt : Framed d True (.cvt rt rnd st sat d a) := by
  intro s t x hf ht
  have he := hf.answers (execCvt rt rnd st sat d a) rfl rfl rfl rfl rfl rfl rfl rfl
  exact Host.Outcome.next.inj (he.symm.trans ht) ▸ s.resultOf_convWrite x _ _ _ _

theorem framed_qcvt : Framed d True (.qcvt f8 rnd d a b) := by
  intro s t x hf ht
  have he := hf.answers (execQcvt f8 rnd d a b) rfl rfl rfl rfl rfl rfl rfl rfl
  exact Host.Outcome.next.inj (he.symm.trans ht) ▸ s.resultOf_convWrite x _ _ _ _

end

end Sys2Proof.Machine

namespace Sys2Proof
open Machine

/-- Settles O7: each instruction's change is framed by the result that it writes, and the frame of a result says the rest. -/
theorem registerInstructionsFrame : Obligations.RegisterInstructionsFrame := by
  intro s t x i d a b ty ft sat rnd c fc imm va w rt st op sx f8 vd vb conversions hi hf ht
  have hframed : Framed d (i ∈ conversions) i := by
    by_cases hc : i ∈ conversions
    · rw [eq_true hc]
      simp only [conversions, List.mem_cons, List.not_mem_nil, or_false] at hc
      obtain rfl | rfl := hc
      · exact framed_cvt sat rnd rt st d a
      · exact framed_qcvt rnd d a b f8
    · rcases hi with hi | hi | ⟨rfl, hi⟩
      · exact framed_registerOps ty ft sat rnd c fc imm w rt op sx d va a b _ i hi
      · exact absurd hi hc
      · exact (givesResult_vectorOps ty sat rnd w rt op sx va vb vd a b i hi).framed _
  have h := hframed s t x hf ht
  obtain ⟨y, hy, hxy⟩ := h.own x hf.unit
  refine ⟨h.sameMemory, h.others, (congrArg State.mesh h.rest :), h.inside, y, hy, ?_, hxy.sReg, hxy.vLane, hxy.kReg, hxy.pred,
    fun hd htest hch => hxy.lm (not_not.2 ⟨htest, hch⟩) hd⟩
  split
  next => exact hxy.sameElse
  next hc => exact hxy.sameElse_of_not_counts hc

end Sys2Proof
end

section
/-! SUPPORT. The turns that a unit does not take, and the firings of the drain configuration (R17, R20, R241, R242). -/
namespace Sys2Proof.Machine

/-! ### A step by the turn that it takes -/

section
variable {s : State} {u : Nat} {i : Instr} {dts ddts : List Nat} {ts : List Turn}

theorem step_unit_off (hag : s.agenda = ⟨dts, ddts, .unit u⟩ :: ts) (hp : s.power.runs = false) :
    step s = .next (s.afterCycles ts dts ddts) := by
  simp [step, State.nextTurn, hag, hp, State.afterCycles]

theorem step_event_off (hag : s.agenda = ⟨dts, ddts, .event i⟩ :: ts) (hp : s.power.runs = false) (hw : wakes i = false) :
    step s = .next (s.afterCycles ts dts ddts) := by
  simp [step, State.nextTurn, hag, hp, hw, State.afterCycles]

theorem step_event_on (hag : s.agenda = ⟨dts, ddts, .event i⟩ :: ts) (hp : s.power.runs = true ∨ wakes i = true)
    (hav : i.avail = none) : step s = exec i (s.afterCycles ts dts ddts) := by
  simp [step, State.nextTurn, hag, hp, eventTurn, hav, State.afterCycles]

end

theorem wakes_iff {i : Instr} : wakes i = true ↔ ∃ v fs, i = .powerOnReset v fs ∨ i = .conventionalReset v fs := by
  constructor
  · intro h
    unfold wakes at h
    split at h
    · exact ⟨_, _, .inl rfl⟩
    · exact ⟨_, _, .inr rfl⟩
    · exact absurd h Bool.false_ne_true
  · rintro ⟨v, fs, rfl | rfl⟩ <;> rfl

/-! ### A unit that takes no turn -/

section
variable {s : State} {u : Nat} {x : Unit}

theorem unitTurn_absent (hx : (s.landCore u (s.clockOf u)).unit? u = none) : unitTurn u s = .next (s.landCore u (s.clockOf u)) := by
  simp [unitTurn, hx]

theorem unitTurn_taken (hx : (s.landCore u (s.clockOf u)).unit? u = some x) (hi : (s.landCore u (s.clockOf u)).inTurn u x = false) :
    unitTurn u s = .next (s.landCore u (s.clockOf u)) := by
  simp [unitTurn, hx, hi]

/-- A unit that may not go on does nothing, or fires as the drain configuration. -/
theorem unitTurn_held (hx : (s.landCore u (s.clockOf u)).unit? u = some x) (hc : (s.landCore u (s.clockOf u)).canTurn u x = false)
    (hr : (s.landCore u (s.clockOf u)).runsOn u x = false) : unitTurn u s =
      .next (if (s.landCore u (s.clockOf u)).inTurn u x && (s.landCore u (s.clockOf u)).drains u x then
        ((s.landCore u (s.clockOf u)).takeTurn u).drainFire u x else s.landCore u (s.clockOf u)) := by
  cases hi : (s.landCore u (s.clockOf u)).inTurn u x
  · simp [unitTurn_taken hx hi]
  · simp [unitTurn, hx, hi, hc, hr]

/-- A unit that may not go on and is not being drained does nothing. -/
theorem unitTurn_still (hx : (s.landCore u (s.clockOf u)).unit? u = some x) (hc : (s.landCore u (s.clockOf u)).canTurn u x = false)
    (hr : (s.landCore u (s.clockOf u)).runsOn u x = false)
    (hd : (s.landCore u (s.clockOf u)).draining x = false ∨ isCore u = true) : unitTurn u s = .next (s.landCore u (s.clockOf u)) := by
  have hdrains : (s.landCore u (s.clockOf u)).drains u x = false := by
    rcases hd with hd | hd <;> simp [State.drains, hd]
  simp [unitTurn_held hx hc hr, hdrains]

theorem State.canTurn_of_resting (h : x.halted = true ∨ x.gated = true ∨ x.busy.isSome = true) : s.canTurn u x = false := by
  rcases h with h | h | h
  · simp [State.canTurn, h]
  · simp [State.canTurn, h]
  · simp [State.canTurn, Option.isNone_eq_false_iff.2 h]

theorem State.canTurn_of_stopped (h : x.stopped = true) : s.canTurn u x = false := by simp [State.canTurn, h]

theorem State.runsOn_of_not_mustFinish (h : x.mustFinish = false) : s.runsOn u x = false := by simp [State.runsOn, h]

theorem State.runsOn_of_stopped (h : x.stopped = true) : s.runsOn u x = false := by simp [State.runsOn, h]

/-- A unit whose region is being drained has no turn of its own (R242). -/
theorem State.canTurn_of_draining (hd : s.draining x = true) (hu : isCore u = false) : s.canTurn u x = false := by
  unfold State.draining at hd
  cases hr : s.region? x.region with
  | none => simp [hr] at hd
  | some r =>
    have hst : r.st = .draining := by simpa [hr] using hd
    simp [State.canTurn, hu, hr, hst]

end

/-! ### The drain configuration (R242) -/

section
variable (s : State) (u : Nat) {x : Unit}

theorem State.drainFire_empty (h : ∀ b ∈ x.inbox, b.2.q = []) : s.drainFire u x = s := by
  have hnone : x.inbox.find? (fun b => !b.2.q.isEmpty) = none := List.find?_eq_none.2 fun b hb => by simp [h b hb]
  simp [State.drainFire, hnone]

theorem State.drainFire_first {p q : Tab Inbox} {b : Nat × Inbox} (hx : x.inbox = p ++ b :: q) (hp : ∀ e ∈ p, e.2.q = [])
    (hb : b.2.q ≠ []) : s.drainFire u x = s.dequeue u b.1 := by
  have hnone : p.find? (fun b => !b.2.q.isEmpty) = none := List.find?_eq_none.2 fun e he => by simp [hp e he]
  have hsome : x.inbox.find? (fun b => !b.2.q.isEmpty) = some b := by
    rw [hx, List.find?_append, hnone]
    simp [hb]
  simp [State.drainFire, hsome]

end

end Sys2Proof.Machine

namespace Sys2Proof
open Machine

/-- Settles O17: a turn is the power's, the event's or the unit's, and a unit that may not go on only drains. -/
theorem turnsThatDoNothing : Obligations.TurnsThatDoNothing := by
  intro s x u dts ddts ts i s0 s1 wake
  have hwake : wakes i = true ↔ wake := wakes_iff
  refine ⟨step_unit_off, fun hag hp hw => ?_, fun hag hp hav => ?_, fun hag hp hx => ?_, fun hag hp hx => ?_⟩
  · exact step_event_off hag hp (Bool.eq_false_iff.2 fun h => hw (hwake.1 h))
  · exact step_event_on hag (hp.imp_right hwake.2) hav
  · exact (step_unit hag hp).trans (unitTurn_absent hx)
  · have hstep : step s = unitTurn u s0 := step_unit hag hp
    rw [hstep]
    refine ⟨unitTurn_taken hx, fun hd hrest hm => ?_, fun hd hst => ?_, fun hu hd hi hb hm => ?_⟩
    · exact unitTurn_still hx (State.canTurn_of_resting hrest) (State.runsOn_of_not_mustFinish hm) hd
    · exact unitTurn_still hx (State.canTurn_of_stopped hst) (State.runsOn_of_stopped hst) hd
    · have hfire : unitTurn u s0 = .next ((s1.takeTurn u).drainFire u x) := by
        have hheld := unitTurn_held hx (State.canTurn_of_draining hd hu) (State.runsOn_of_not_mustFinish hm)
        have hdrains : s1.drains u x = true := by simp [State.drains, hu, hd, hb]
        rw [hheld, show (s0.landCore u (s0.clockOf u)).inTurn u x = true from hi,
          show (s0.landCore u (s0.clockOf u)).drains u x = true from hdrains]
        rfl
      rw [hfire]
      refine ⟨fun h => ?_, fun p b q hq hp hne => ?_⟩
      · rw [State.drainFire_empty _ _ h]
      · rw [State.drainFire_first _ _ hq hp hne]

end Sys2Proof
end

section
/-! SUPPORT. The events of a unit's own counters (R18, R20, R31, R32, R243, R353, R380, R447). -/
namespace Sys2Proof.Machine

theorem Unit.closeBlocked_of_none {x : Unit} (h : x.blocked = none) :
    x.closeBlocked = { x.next x.blockedUpd with blockedUpd := .none } := by
  simp [Unit.closeBlocked, h]

theorem Unit.blocked_closeBlocked_of_none {x : Unit} (h : x.blocked = none) : x.closeBlocked.blocked = none := by
  rw [Unit.closeBlocked_of_none h, Unit.next_eq]
  exact h

section
variable {s : State} {u : Nat} {x : Unit} (hx : s.unit? u = some x)
include hx

/-! ### The end of an interval (R18, R243) -/

theorem issueIntervalEnd_idle (hb : x.busy = none) :
    exec (.issueIntervalEnd u) s = .next (s.landReads u (x.reads.filter fun r => decide (r.until_ ≤ s.clockOf u))) := by
  show execIssueIntervalEnd u s = _
  simp [execIssueIntervalEnd, hx, hb]

theorem issueIntervalEnd_early {b : Busy} (hb : x.busy = some b) (h : s.clockOf u < b.until_) :
    exec (.issueIntervalEnd u) s = .next (s.landReads u (x.reads.filter fun r => decide (r.until_ ≤ s.clockOf u))) := by
  show execIssueIntervalEnd u s = _
  simp [execIssueIntervalEnd, hx, hb, h]

theorem issueIntervalEnd_due {b : Busy} (hb : x.busy = some b) (h : b.until_ ≤ s.clockOf u) :
    exec (.issueIntervalEnd u) s = .next (((s.endInterval u b).dropEmission u).landReads u
      (x.reads.filter fun r => decide (r.until_ ≤ s.clockOf u))) := by
  show execIssueIntervalEnd u s = _
  simp [execIssueIntervalEnd, hx, hb, h.not_gt]

theorem State.dropEmission_waiting {e : Emission} {m : List Emission} {eoi : Bool} (hb : x.blocked = some (.emit e m eoi))
    (hd : s.draining x = true) : s.dropEmission u = s.withdrawn u := by
  simp [State.dropEmission, hx, hb, hd]

theorem State.dropEmission_of_not_draining (hd : s.draining x = false) : s.dropEmission u = s := by
  unfold State.dropEmission
  simp only [hx, hd]
  split <;> rfl

theorem State.dropEmission_of_not_emit (h : ∀ e m eoi, x.blocked ≠ some (.emit e m eoi)) : s.dropEmission u = s := by
  -- `h` decides the match: its emission branch cannot be the one
  simp only [State.dropEmission, hx]

theorem State.dropEmission_of_not_blocked (h : x.blocked = none) : s.dropEmission u = s :=
  State.dropEmission_of_not_emit hx fun e m eoi hb => by simp [h] at hb

/-- The end of an interval finishes the result at once in the unit that is not busy any more. -/
theorem State.endInterval_eq (b : Busy) :
    s.endInterval u b = (s.putUnit u { x with busy := none }).finish u b.upd b.dst b.vec b.scalar 0 := by
  rw [State.endInterval, State.onUnit_eq_putUnit hx, State.finish_now (by omega)]

omit hx in
/-- The end of an interval changes only what its result changes. -/
theorem State.resultOf_endInterval (b : Busy) : s.ResultOf (s.endInterval u b) u b.dst b.upd True True := by
  have hfree : s.ResultOf (s.onUnit u fun y => { y with busy := none }) u b.dst b.upd True True :=
    .onUnit s fun _ => .of_same rfl rfl rfl rfl (fun _ => rfl) rfl rfl
  exact (hfree.trans (.writeResult _ b.vec b.scalar)).trans (.onUnit _ fun _ => .close)

theorem State.unit?_endInterval_register {b : Busy} (hb : x.blocked = none) (hd : ∀ n, b.dst ≠ .o n) :
    (s.endInterval u b).unit? u = some ((({ x with busy := none } : Unit).write b.dst b.vec b.scalar).next b.upd) := by
  rw [State.endInterval_eq hx]
  exact State.unit?_finish_register (by simp) (by omega) hd hb rfl

theorem State.stations_endInterval_register {b : Busy} (hd : ∀ n, b.dst ≠ .o n) : (s.endInterval u b).stations = s.stations := by
  rw [State.endInterval_eq hx, State.finish_rest (.inl hd)]
  rfl

/-! ### Reads that land (R353, R380) -/

/-- A value lands in a register of a unit that waits for nothing. -/
theorem State.unit?_landAnswer_free {id : Nat} {n : SReg} {sg : Bool} {bs : List Byte} (hb : x.blocked = none) :
    (s.landAnswer u id (.s n sg) bs).unit? u =
      some (({ x with loads := x.loads.filter fun e => e.1 != id } : Unit).setS n (extendBytes sg bs)) := by
  have hu : ((s.putUnit u { x with loads := x.loads.filter fun e => e.1 != id }).land u (.s n sg) bs).unit? u =
      some (({ x with loads := x.loads.filter fun e => e.1 != id } : Unit).setS n (extendBytes sg bs)) := by
    simp [State.land]
  have hland : s.landAnswer u id (.s n sg) bs =
      ((s.putUnit u { x with loads := x.loads.filter fun e => e.1 != id }).land u (.s n sg) bs).dropEmission u := by
    simp [State.landAnswer, hx, hb]
  rw [hland, State.dropEmission_of_not_blocked hu hb, hu]

/-- The last value that a unit waits for lands in a register, and the word is done. -/
theorem State.unit?_landAnswer_last {id : Nat} {n : SReg} {sg : Bool} {bs : List Byte} (hb : x.blocked = some (.answer [id])) :
    (s.landAnswer u id (.s n sg) bs).unit? u =
      some (({ x with blocked := none } : Unit).setS n (extendBytes sg bs)).closeBlocked := by
  have hu : (((s.putUnit u { x with blocked := none }).land u (.s n sg) bs).onUnit u Unit.closeBlocked).unit? u =
      some (({ x with blocked := none } : Unit).setS n (extendBytes sg bs)).closeBlocked := by
    simp [State.land]
  have hland : s.landAnswer u id (.s n sg) bs =
      (((s.putUnit u { x with blocked := none }).land u (.s n sg) bs).onUnit u Unit.closeBlocked).dropEmission u := by
    simp [State.landAnswer, hx, hb]
  rw [hland, State.dropEmission_of_not_blocked hu (Unit.blocked_closeBlocked_of_none rfl), hu]

/-- The only read of a unit that waits for nothing else lands in its register (R353, R380). -/
theorem State.unit?_landReads_register {r : OwnRead} {n : SReg} {sg : Bool} (hr : x.reads = [r]) (hl : r.land = .s n sg)
    (hb : x.blocked = none ∨ x.blocked = some (.answer [r.id])) : ∃ y, (s.landReads u [r]).unit? u = some y ∧
      y.sReg n = extendBytes sg r.bytes ∧ (∀ k : SReg, k ≠ n → y.sReg k = x.sReg k) ∧ y.reads = [] ∧ y.blocked = none ∧
      (x.blocked = none → y.loads = x.loads.filter fun e => e.1 != r.id) := by
  have hread : s.landReads u [r] = (s.putUnit u { x with reads := [] }).landAnswer u r.id (.s n sg) r.bytes := by
    simp [State.landReads, State.onUnit_eq_putUnit hx, hr, hl]
  have hu : (s.putUnit u { x with reads := [] }).unit? u = some { x with reads := [] } := by simp
  rw [hread]
  rcases hb with hb | hb
  · refine ⟨_, State.unit?_landAnswer_free hu hb, by simp, fun k hk => ?_, rfl, hb, fun _ => rfl⟩
    exact (Unit.sReg_setS ..).trans (if_neg hk)
  · refine ⟨_, State.unit?_landAnswer_last hu hb, ?_⟩
    rw [Unit.closeBlocked_of_none rfl, Unit.next_eq]
    refine ⟨?_, fun k hk => ?_, rfl, rfl, fun h => by simp [h] at hb⟩
    · exact (Unit.sReg_setS ..).trans (if_pos rfl)
    · exact (Unit.sReg_setS ..).trans (if_neg hk)

/-! ### Gating, WAIT.CYC and INVIX (R20, R31, R32, R447) -/

theorem exec_clockGate : exec (.clockGate u) s = .next (if s.mayGate u x then s.putUnit u { x with gated := true } else s) := by
  show execClockGate u s = _
  simp [execClockGate, hx]

theorem waitCycleCountEnd_waiting {t : Nat} (hb : x.blocked = some (.waitCyc t)) : exec (.waitCycleCountEnd u) s =
    .next (if t ≤ s.clockOf u then s.putUnit u x.unblock else s) := by
  show execWaitCycleCountEnd u s = _
  simp [execWaitCycleCountEnd, hx, hb, State.unblock, State.onUnit_eq_putUnit hx]

theorem invixWaitEnd_waiting (hb : x.blocked = some .invix) : exec (.invixWaitEnd u) s =
    .next (((s.putUnit u { x with blocked := none }).advanceInvix u).onUnit u Unit.closeBlocked) := by
  show execInvixWaitEnd u s = _
  simp [execInvixWaitEnd, hx, hb]

theorem invixWaitEnd_other (hb : x.blocked ≠ some .invix) : exec (.invixWaitEnd u) s = .next s := by
  show execInvixWaitEnd u s = _
  simp [execInvixWaitEnd, hx, hb]

/-- The commit index does not change with what else changes in a unit. -/
theorem State.commitIndex_putUnit {y : Unit} (hy : y.invix = x.invix) (r : Nat) :
    (s.putUnit u y).commitIndex r = s.commitIndex r := by
  have hinvix (w : Nat) : ((s.putUnit u y).unit? w).map (·.invix) = (s.unit? w).map (·.invix) := by
    by_cases hw : u = w
    · subst hw
      simp [hx, hy]
    · simp [hw]
  have hlist (q : Region) : (s.putUnit u y).invixes q = s.invixes q := by simp only [State.invixes, hinvix]
  have hregion : (s.putUnit u y).region? r = s.region? r := rfl
  simp only [State.commitIndex, hregion, hlist]

/-- An INVIX that waits advances once the commit index lets it. -/
theorem State.unit?_invixWait (hb : x.blocked = some .invix) :
    (((s.putUnit u { x with blocked := none }).advanceInvix u).onUnit u Unit.closeBlocked).unit? u =
      some (if 2 ^ 31 ≤ ((x.invix + 1) - s.commitIndex x.region).toNat then x
        else ({ x with blocked := none, invix := x.invix + 1 } : Unit).closeBlocked) := by
  have hcommit : (s.putUnit u { x with blocked := none }).commitIndex x.region = s.commitIndex x.region :=
    State.commitIndex_putUnit (y := { x with blocked := none }) hx rfl _
  simp only [State.advanceInvix, State.unit?_putUnit, if_true, hcommit]
  split
  · have hsame : ({ x with blocked := some .invix } : Unit) = x := by rw [← hb]
    simp [Unit.closeBlocked, hsame, hb]
  · simp

end

end Sys2Proof.Machine
end

section
/-! SUPPORT. The events of tokens on their way and of the platform (R20, R24, R81, R86 to R89, R162, R287, R330). -/
namespace Sys2Proof.Machine

/-! ### Tokens on their way (R20, R24, R162) -/

section
variable {s : State} {i : Nat} {f : Flight}

theorem State.firstOnArc_iff : s.firstOnArc i f = true ↔
    ∀ j g, j < i → s.flight[j]? = some g → ¬ (g.dest.station = f.dest.station ∧ g.dest.entry = f.dest.entry) := by
  simp only [State.firstOnArc, Flight.sameArc, Bool.not_eq_true', List.any_eq_false, Bool.and_eq_true, beq_iff_eq]
  constructor
  · exact fun h j g hj hg => h g (List.mem_iff_getElem?.2 ⟨j, by rw [List.getElem?_take, if_pos hj, hg]⟩)
  · intro h g hg
    obtain ⟨j, hj⟩ := List.mem_iff_getElem?.1 hg
    rw [List.getElem?_take] at hj
    split at hj
    next hlt => exact h j g hlt hj
    next => simp at hj

variable (hf : s.flight[i]? = some f)
include hf

theorem exec_mailboxForward : exec (.mailboxForward i) s = .next
    (if f.mailbox && s.firstOnArc i f then { s with flight := s.flight.set i { f with mailbox := false } } else s) := by
  show execMailboxForward i s = _
  simp [execMailboxForward, hf]

theorem exec_tokenArrival : exec (.tokenArrival i) s = .next (if f.mailbox || !s.firstOnArc i f then s
    else { s with flight := s.flight.eraseIdx i }.onMember (s.arcRegion f.dest * 65536 + f.dest.unit)
      fun x => x.receive f.dest.ch f.tok) := by
  show execTokenArrival i s = _
  simp [execTokenArrival, hf]

end

/-- A member that stands at its place is changed there. -/
theorem State.onMember_resident {s : State} {r u : Nat} {x : Unit} (hu : u < 65536) (hx : s.unit? u = some x) (hr : x.region = r)
    (f : Unit → Unit) : s.onMember (r * 65536 + u) f = s.putUnit u (f x) := by
  have hunit : (r * 65536 + u) % 65536 = u := by omega
  have hregion : (r * 65536 + u) / 65536 = r := by omega
  simp [State.onMember, hunit, hregion, hx, hr]

/-! ### A handle that an ALLOC waited for (R19, R330) -/

theorem State.giveHandle_register {s : State} {u k m : Nat} {x : Unit} {r : SReg} {dests : List Dest} (h : W64)
    (hx : s.unit? u = some x) (hb : x.blocked = some (.alloc k m (some r) dests)) : (s.giveHandle u h).unit? u =
      some (Unit.closeBlocked { ({ x with blocked := none } : Unit).setS r h with turned := s.clockOf u + 1 }) := by
  simp only [State.giveHandle, hx, hb, State.unit?_onUnit_self, State.unit?_putUnit, if_true, Option.map_some]
  rfl

/-! ### The platform (R81, R86 to R89, R287) -/

section
variable {s : State} {stn entry : Nat} {w : Wait}

section
variable (hw : Tab.find (s.station stn).platform entry = some w)
include hw

theorem exec_requestPromotion : exec (.requestPromotion stn entry) s = .next (if w.since + 2 ^ 16 ≤ s.stnNow stn then
    s.onStation stn fun st =>
      { st with platform := Tab.put st.platform entry { w with promos := w.promos + 1, since := s.stnNow stn } } else s) := by
  show execRequestPromotion stn entry s = _
  simp [execRequestPromotion, hw]

theorem exec_platformGrant : exec (.platformGrant stn entry) s =
    .next (if s.stnNow stn < w.start then s else s.platformGrant stn entry w) := by
  show execPlatformGrant stn entry s = _
  simp [execPlatformGrant, hw]

end

theorem State.platformGrant_block {u k m : Nat} (h : w.what = .block u k m) :
    s.platformGrant stn entry w = s.grantBlock stn entry u k m := by
  simp [State.platformGrant, h]

theorem State.platformGrant_slot {e : Nat} {u : Option Nat} {f : Flight} (h : w.what = .slot e u f)
    (hr : s.isResident (s.arcRegion (s.pathAt stn entry)) = true) (hs : s.slotGrant stn entry = true) :
    s.platformGrant stn entry w = s.grantSlot stn entry u f := by
  simp [State.platformGrant, h, hr, hs]

theorem State.platformGrant_slot_waits {e : Nat} {u : Option Nat} {f : Flight} (h : w.what = .slot e u f)
    (hno : s.isResident (s.arcRegion (s.pathAt stn entry)) = false ∨ s.slotGrant stn entry = false) :
    s.platformGrant stn entry w = s := by
  rcases hno with hno | hno <;> simp [State.platformGrant, h, hno]

theorem State.platformGrant_triple {c : Nat} {words : List Lane} (h : w.what = .triple c words)
    (hr : s.isResident (s.arcRegion (s.pathAt stn entry)) = true) : s.platformGrant stn entry w =
      s.grantTriple stn entry words (s.pathAt stn entry) fun t h =>
        (t.putTriple c (s.pathAt stn entry) h words).unblock (coreBase + c) := by
  simp [State.platformGrant, h, hr]

theorem State.platformGrant_asyncTriple {id : Nat} {e : Nat × Triple} (h : w.what = .asyncTriple id)
    (he : s.triples.find? (fun t => t.2.id == id) = some e) (hr : s.isResident (s.arcRegion (s.pathAt stn entry)) = true) :
    s.platformGrant stn entry w =
      s.grantTriple stn entry e.2.words (s.pathAt stn entry) fun t h => t.tripleGranted id h := by
  simp [State.platformGrant, h, he, hr]

/-- What serves an emission loses no token that is on its way. -/
theorem State.sent_emissionServed (u : Nat) (d : Dest) : ∀ f ∈ s.flight, f ∈ (s.emissionServed u d).flight := by
  intro f hf
  unfold State.emissionServed
  split
  next => exact hf
  next x hx =>
    split
    next cur more eoi hb =>
      dsimp only
      split
      · rw [State.onUnit_flight]
        exact (State.emittedBy_emitAll _ u eoi more).sent f hf
      · exact hf
    next => exact hf
    next => exact hf

theorem State.noteGrant_flight (r : Nat) : (s.noteGrant r).flight = s.flight := by
  rw [State.noteGrant, State.onRegion_rest]

/-- A copy whose slot is granted goes on its way (R24, R89). -/
theorem State.grantSlot_arc (f : Flight) : s.grantSlot stn entry none f = { ((s.onStation stn fun st =>
    st.grantSlot (s.stnNow stn) entry).leavePlatform stn entry).noteGrant (s.arcRegion f.dest) with flight := s.flight ++ [f] } := by
  simp only [State.grantSlot, State.noteGrant_flight]
  rfl

theorem State.sent_grantSlot (u : Option Nat) (f : Flight) : ∀ g, g ∈ s.flight ∨ g = f → g ∈ (s.grantSlot stn entry u f).flight := by
  intro g hg
  have hmem : g ∈ (s.grantSlot stn entry none f).flight := by
    rw [State.grantSlot_arc]
    simpa using hg
  cases u with
  | none => exact hmem
  | some u => exact State.sent_emissionServed u f.dest g hmem

/-- A triple takes its block and its slot (R287). -/
theorem State.grantTriple_taken {words : List Lane} {p : Dest} {done : State → W64 → State} {t : State} {h : W64}
    (hh : s.heads stn (s.arcRegion p) entry = true) (hs : s.slotGrant stn entry = true)
    (ht : s.takeTriple (s.stnNow stn) (s.arcRegion p) p words = some (t, h)) :
    s.grantTriple stn entry words p done = done (t.leavePlatform stn entry) h := by
  simp [State.grantTriple, hh, hs, ht]

variable {u k m : Nat} {x : Unit} (hx : s.unit? u = some x)

/-- The state after a block of a pool is handed to a unit whose request stood on the platform. -/
def State.blockGiven (s : State) (stn entry u r : Nat) (st : Station) (b : Block) : State :=
  (((s.setStation stn st).leavePlatform stn entry).noteGrant r).giveHandle u (mkHandle b.gen.toNat stn b.k b.first 0)

include hx

theorem State.grantBlock_floor {st : Station} {b : Block}
    (h : ((s.station stn).settle (s.stnNow stn)).grant x.region (some u) k m = some (st, b)) :
    s.grantBlock stn entry u k m = s.blockGiven stn entry u x.region st b := by
  simp [State.grantBlock, hx, h, State.blockGiven]

theorem State.grantBlock_shared {st : Station} {b : Block}
    (hf : ((s.station stn).settle (s.stnNow stn)).grant x.region (some u) k m = none) (hc : x.cover = false)
    (hh : s.heads stn x.region entry = true)
    (hg : ((s.station stn).settle (s.stnNow stn)).hasGranted (s.stnNow stn) (x.region + 1) = false)
    (h : ((s.station stn).settle (s.stnNow stn)).grant x.region none k m = some (st, b)) :
    s.grantBlock stn entry u k m = s.blockGiven stn entry u x.region (st.markGrant (s.stnNow stn) (x.region + 1)) b := by
  simp [State.grantBlock, hx, hf, hc, hh, hg, h, State.blockGiven]

theorem State.grantBlock_waits (hf : ((s.station stn).settle (s.stnNow stn)).grant x.region (some u) k m = none)
    (h : x.cover = true ∨ s.heads stn x.region entry = false ∨
      ((s.station stn).settle (s.stnNow stn)).hasGranted (s.stnNow stn) (x.region + 1) = true ∨
      ((s.station stn).settle (s.stnNow stn)).grant x.region none k m = none) : s.grantBlock stn entry u k m = s := by
  rcases h with h | h | h | h <;> simp [State.grantBlock, hx, hf, h]

end

end Sys2Proof.Machine
end

section
/-! SUPPORT. The clauses on the events of a unit, of a token on its way and of a platform entry (R18, R20, R24, R31, R32, R86 to R89,
R162, R243, R330, R447). -/
namespace Sys2Proof.Machine

theorem State.landReads_nil (s : State) (u : Nat) : s.landReads u [] = s.onUnit u fun y => y := by
  simp [State.landReads]

section
variable {s : State} {u : Nat} {x : Unit} (hx : s.unit? u = some x)
include hx

/-- At the end of an interval the word ends; an emission that waits in a region that is being drained is withdrawn (R243). -/
theorem issueIntervalEnd_result {b : Busy} (hb : x.busy = some b) (hdue : b.until_ ≤ s.clockOf u) :
    let t := ((s.putUnit u { x with busy := none }).writeResult u b.dst b.vec b.scalar).onUnit u fun y => y.close b.upd
    let due := x.reads.filter fun r => decide (r.until_ ≤ s.clockOf u)
    let emits : Prop := ∃ y e m eoi, t.unit? u = some y ∧ y.blocked = some (.emit e m eoi)
    (s.draining x = false ∨ ¬ emits → exec (.issueIntervalEnd u) s = .next (t.landReads u due)) ∧
    (s.draining x = true → emits → exec (.issueIntervalEnd u) s = .next (((t.withdraw u).onUnit u fun y =>
      { y with blocked := none, blockedUpd := .none }).landReads u due)) := by
  intro t due emits
  have ht : s.endInterval u b = t := by rw [State.endInterval, State.onUnit_eq_putUnit hx]
  have hframe : s.ResultOf t u b.dst b.upd True True := ht ▸ s.resultOf_endInterval b
  obtain ⟨y, hy, -⟩ := hframe.own x hx
  have hdrain : t.draining y = s.draining x := hframe.draining hx hy
  rw [issueIntervalEnd_due hx hb hdue, ht]
  refine ⟨fun h => ?_, fun hd ⟨z, e, m, eoi, hz, hzb⟩ => ?_⟩
  · have hdrop : t.dropEmission u = t := by
      rcases h with h | h
      · exact State.dropEmission_of_not_draining hy (hdrain.trans h)
      · exact State.dropEmission_of_not_emit hy fun e m eoi hb => h ⟨y, e, m, eoi, hy, hb⟩
    rw [hdrop]
  · obtain rfl : y = z := Option.some.inj (hy.symm.trans hz)
    rw [State.dropEmission_waiting hy hzb (hdrain.trans hd)]
    rfl

/-- A result whose interval ends reaches its register, and nothing but its unit changes. -/
theorem issueIntervalEnd_register {b : Busy} (hb : x.busy = some b) (hdue : b.until_ ≤ s.clockOf u) (hr : x.reads = [])
    (hd : s.draining x = false) (hbl : x.blocked = none) (ho : ∀ n, b.dst ≠ .o n) : ∃ t, exec (.issueIntervalEnd u) s = .next t ∧
      t.unit? u = some ((({ x with busy := none } : Unit).write b.dst b.vec b.scalar).next b.upd) ∧
      (∀ w, w ≠ u → t.unit? w = s.unit? w) ∧ t.stations = s.stations ∧ s.SameMemory t := by
  have hframe := s.resultOf_endInterval (u := u) b
  have hu := State.unit?_endInterval_register hx hbl ho
  have hdrop := State.dropEmission_of_not_draining hu ((hframe.draining hx hu).trans hd)
  have hsame : (s.endInterval u b).ResultOf ((s.endInterval u b).onUnit u fun y => y) u b.dst b.upd True True :=
    .onUnit _ fun _ => .of_same rfl rfl rfl rfl (fun _ => rfl) rfl rfl
  refine ⟨_, issueIntervalEnd_due hx hb hdue, ?_⟩
  have hnone : x.reads.filter (fun r => decide (r.until_ ≤ s.clockOf u)) = [] := by rw [hr, List.filter_nil]
  rw [hdrop, hnone, State.landReads_nil]
  refine ⟨(State.unit?_onUnit_self ..).trans (by rw [hu]; rfl), (hframe.trans hsame).others, ?_, (hframe.trans hsame).sameMemory⟩
  rw [State.onUnit_stations, State.stations_endInterval_register hx ho]

omit hx in
/-- A triggered unit that has had nothing to do for 16 cycles, and only that, is gated (R20). -/
theorem State.mayGate_iff : s.mayGate u x = true ↔ isCore u = false ∧ x.mode ≠ .sequenced ∧ x.busy = none ∧ x.blocked = none ∧
    x.pickSlot 0 x.slots = none ∧ ∃ c, x.idleSince = some c ∧ c + 16 ≤ s.clockOf u := by
  cases hi : x.idleSince <;> simp [State.mayGate, hi, Unit.isSeq, and_assoc]

omit hx in
theorem State.not_mayGate (h : x.idleSince = none ∨ (∃ c, x.idleSince = some c ∧ s.clockOf u < c + 16) ∨ x.mode = .sequenced ∨
    x.blocked ≠ none ∨ x.busy ≠ none ∨ x.pickSlot 0 x.slots ≠ none ∨ isCore u = true) : ¬ s.mayGate u x = true := by
  rw [State.mayGate_iff]
  rintro ⟨hu, hm, hbusy, hb, hp, c, hi, hc⟩
  rcases h with h | ⟨c', hi', hc'⟩ | h | h | h | h | h
  · simp [h] at hi
  · obtain rfl : c = c' := Option.some.inj (hi.symm.trans hi')
    omega
  · exact hm h
  · exact h hb
  · exact h hbusy
  · exact h hp
  · simp [h] at hu

end

end Sys2Proof.Machine

namespace Sys2Proof
open Machine

/-- Settles O50: each event's function is followed by the case of its guard. -/
theorem fabricEvents : Obligations.FabricEvents := by
  refine ⟨fun s u x hx => ?_, fun s i f x hf => ?_, fun s stn entry w hw => ?_, fun s u k m x r h hx hb hy => ?_⟩
  · intro due
    refine ⟨issueIntervalEnd_idle hx, fun r n sg hbusy hr hdue hland hb => ?_, fun b hb => ?_, fun c hu hm hbusy hb hp hi hc => ?_,
      fun h => ?_, fun t hb => ?_, fun hb => ?_, invixWaitEnd_other hx⟩
    · obtain ⟨y, hu, hy⟩ := State.unit?_landReads_register (sg := sg) hx hr hland hb
      refine ⟨_, y, issueIntervalEnd_idle hx hbusy, ?_, hy⟩
      simpa [hr, hdue] using hu
    · refine ⟨fun hdue => (issueIntervalEnd_result hx hb hdue).1, fun hdue => (issueIntervalEnd_result hx hb hdue).2,
        fun hdue hr hd hbl ho => issueIntervalEnd_register hx hb hdue hr hd hbl ho, issueIntervalEnd_early hx hb⟩
    · have hgate : s.mayGate u x = true := State.mayGate_iff.2 ⟨hu, by simp [hm], hbusy, hb, hp, c, hi, hc⟩
      rw [exec_clockGate hx, if_pos hgate]
    · rw [exec_clockGate hx, if_neg (State.not_mayGate h)]
    · rw [waitCycleCountEnd_waiting hx hb]
      exact ⟨fun h => by rw [if_pos h]; rfl, fun h => by rw [if_neg h.not_ge]⟩
    · have hu := State.unit?_invixWait hx hb
      rw [invixWaitEnd_waiting hx hb]
      refine ⟨fun h => ⟨_, _, rfl, hu.trans (by rw [if_neg h.not_ge]), ?_, Unit.blocked_closeBlocked_of_none rfl⟩,
        fun h => ⟨_, x, rfl, hu.trans (by rw [if_pos h]), rfl, hb⟩⟩
      rw [Unit.closeBlocked_of_none rfl, Unit.next_eq]
  · intro first
    have hfirst : s.firstOnArc i f = true ↔ first := State.firstOnArc_iff
    rw [exec_mailboxForward hf, exec_tokenArrival hf]
    refine ⟨fun h hm => ?_, fun hm => ?_, fun h hm hx hu hr b hb => ?_, fun h => ?_, fun hm => ?_⟩
    · rw [hfirst.2 h, hm]
      rfl
    · simp [hm]
    · rw [hfirst.2 h, hm]
      rw [Nat.mod_eq_of_lt hu] at hx
      subst hb
      exact congrArg Host.Outcome.next (State.onMember_resident (s := { s with flight := s.flight.eraseIdx i }) hu hx hr _)
    · have hnot : s.firstOnArc i f = false := Bool.eq_false_iff.2 fun h' => h (hfirst.1 h')
      simp [hnot]
    · simp [hm]
  · intro now p r old
    rw [exec_requestPromotion hw, exec_platformGrant hw]
    refine ⟨fun h => by rw [if_pos h], fun h => by rw [if_neg h.not_ge], fun u k m hwhat => ?_, fun h => by rw [if_pos h], fun h => ?_⟩
    · simp [State.waitClass, hwhat, WaitFor.unitOf]
    · rw [if_neg h.not_gt]
      refine ⟨fun u k m x hwhat hx => ?_, fun e u f hwhat => ?_, fun c words t h hwhat hr hh hs ht => ?_,
        fun id e t h hwhat he hr hh hs ht => ?_⟩
      · rw [State.platformGrant_block hwhat]
        refine ⟨fun st b hg => ?_, fun hg => ⟨fun st b hc hh hnot hs => ?_, fun hwait => ?_⟩⟩
        · exact congrArg Host.Outcome.next (State.grantBlock_floor hx hg)
        · exact congrArg Host.Outcome.next (State.grantBlock_shared hx hg hc hh hnot hs)
        · exact congrArg Host.Outcome.next (State.grantBlock_waits hx hg hwait)
      · refine ⟨fun hr hs => ?_, fun hno => by rw [State.platformGrant_slot_waits hwhat hno]⟩
        have hsent := s.sent_grantSlot (stn := stn) (entry := entry) u f
        rw [State.platformGrant_slot hwhat hr hs]
        exact ⟨⟨_, rfl, hsent f (.inr rfl), fun g hg => hsent g (.inl hg)⟩, fun hu => by rw [hu, State.grantSlot_arc]⟩
      · rw [State.platformGrant_triple hwhat hr, State.grantTriple_taken hh hs ht]
      · rw [State.platformGrant_asyncTriple hwhat he hr, State.grantTriple_taken hh hs ht]
  · have hu := State.giveHandle_register h hx hb
    rw [Unit.closeBlocked_of_none rfl, Unit.next_eq] at hu
    exact ⟨_, hu, (Unit.sReg_setS ..).trans (if_pos rfl), rfl, fun n hn => (Unit.sReg_setS ..).trans (if_neg hn), rfl, rfl⟩

end Sys2Proof
end

section
/-! SUPPORT. The codes of a word's fields (R48, R51, R53, R54): a number decodes to a value exactly where it is the value's
code. -/
namespace Sys2Proof

/-! ### Enumerations -/

theorem Special.ofCode_eq_some_iff {n : Nat} {x : Special} : Special.ofCode n = some x ↔ n = x.code := by
  refine ⟨fun h => ?_, fun h => by subst h; cases x <;> rfl⟩
  unfold Special.ofCode at h
  split at h <;> cases h <;> rfl

theorem IntTy.ofCode_eq_some_iff {n : Nat} {x : IntTy} : IntTy.ofCode n = some x ↔ n = x.code := by
  refine ⟨fun h => ?_, fun h => by subst h; cases x <;> rfl⟩
  unfold IntTy.ofCode at h
  split at h <;> cases h <;> rfl

theorem FTy.ofCode_eq_some_iff {n : Nat} {x : FTy} : FTy.ofCode n = some x ↔ n = x.code := by
  refine ⟨fun h => ?_, fun h => by subst h; cases x <;> rfl⟩
  unfold FTy.ofCode at h
  split at h <;> cases h <;> rfl

theorem F8.ofCode_eq_some_iff {n : Nat} {x : F8} : F8.ofCode n = some x ↔ n = x.code := by
  refine ⟨fun h => ?_, fun h => by subst h; cases x <;> rfl⟩
  unfold F8.ofCode at h
  split at h <;> cases h <;> rfl

theorem Rnd.ofCode_eq_some_iff {n : Nat} {x : Rnd} : Rnd.ofCode n = some x ↔ n = x.code := by
  refine ⟨fun h => ?_, fun h => by subst h; cases x <;> rfl⟩
  unfold Rnd.ofCode at h
  split at h <;> cases h <;> rfl

theorem Cond.ofCode_eq_some_iff {n : Nat} {x : Cond} : Cond.ofCode n = some x ↔ n = x.code := by
  refine ⟨fun h => ?_, fun h => by subst h; cases x <;> rfl⟩
  unfold Cond.ofCode at h
  split at h <;> cases h <;> rfl

theorem FCond.ofCode_eq_some_iff {n : Nat} {x : FCond} : FCond.ofCode n = some x ↔ n = x.code := by
  refine ⟨fun h => ?_, fun h => by subst h; cases x <;> rfl⟩
  unfold FCond.ofCode at h
  split at h <;> cases h <;> rfl

theorem Width.ofCode_eq_some_iff {n : Nat} {x : Width} : Width.ofCode n = some x ↔ n = x.code := by
  refine ⟨fun h => ?_, fun h => by subst h; cases x <;> rfl⟩
  unfold Width.ofCode at h
  split at h <;> cases h <;> rfl

theorem Scope.ofCode_eq_some_iff {n : Nat} {x : Scope} : Scope.ofCode n = some x ↔ n = x.code := by
  refine ⟨fun h => ?_, fun h => by subst h; cases x <;> rfl⟩
  unfold Scope.ofCode at h
  split at h <;> cases h <;> rfl

theorem Tag.ofCode_eq_some_iff {n : Nat} {x : Tag} : Tag.ofCode n = some x ↔ n = x.code := by
  refine ⟨fun h => ?_, fun h => by subst h; cases x <;> rfl⟩
  unfold Tag.ofCode at h
  split at h <;> cases h <;> rfl

theorem AtomOp.ofCode_eq_some_iff {n : Nat} {x : AtomOp} : AtomOp.ofCode n = some x ↔ n = x.code := by
  refine ⟨fun h => ?_, fun h => by subst h; cases x <;> rfl⟩
  unfold AtomOp.ofCode at h
  split at h <;> cases h <;> rfl

theorem FAtomOp.ofCode_eq_some_iff {n : Nat} {x : FAtomOp} : FAtomOp.ofCode n = some x ↔ n = x.code := by
  refine ⟨fun h => ?_, fun h => by subst h; cases x <;> rfl⟩
  unfold FAtomOp.ofCode at h
  split at h <;> cases h <;> rfl

theorem RedOp.ofCode_eq_some_iff {n : Nat} {x : RedOp} : RedOp.ofCode n = some x ↔ n = x.code := by
  refine ⟨fun h => ?_, fun h => by subst h; cases x <;> rfl⟩
  unfold RedOp.ofCode at h
  split at h <;> cases h <;> rfl

theorem SigCond.ofCode_eq_some_iff {n : Nat} {x : SigCond} : SigCond.ofCode n = some x ↔ n = x.code := by
  refine ⟨fun h => ?_, fun h => by subst h; cases x <;> rfl⟩
  unfold SigCond.ofCode at h
  split at h <;> cases h <;> rfl

theorem JFmt.ofCode_eq_some_iff {n : Nat} {x : JFmt} : JFmt.ofCode n = some x ↔ n = x.code := by
  refine ⟨fun h => ?_, fun h => by subst h; cases x <;> rfl⟩
  unfold JFmt.ofCode at h
  split at h <;> cases h <;> rfl

theorem Size.ofCode_eq_some_iff {n : Nat} {x : Size} : Size.ofCode n = some x ↔ n = x.code := by
  refine ⟨fun h => ?_, fun h => by subst h; cases x <;> rfl⟩
  unfold Size.ofCode at h
  split at h <;> cases h <;> rfl

theorem SysReg.ofCode_eq_some_iff {n : Nat} {x : SysReg} : SysReg.ofCode n = some x ↔ n = x.code := by
  refine ⟨fun h => ?_, fun h => by subst h; cases x <;> rfl⟩
  unfold SysReg.ofCode at h
  split at h <;> cases h <;> rfl

theorem WaitKind.ofCode_eq_some_iff {n : Nat} {x : WaitKind} : WaitKind.ofCode n = some x ↔ n = x.code := by
  refine ⟨fun h => ?_, fun h => by subst h; cases x <;> rfl⟩
  unfold WaitKind.ofCode at h
  split at h <;> cases h <;> rfl

theorem IntTy.code_lt (x : IntTy) : x.code < 8 := by cases x <;> decide

theorem FTy.code_lt (x : FTy) : x.code < 3 := by cases x <;> decide

theorem Rnd.code_lt (x : Rnd) : x.code < 4 := by cases x <;> decide

theorem Cond.code_lt (x : Cond) : x.code < 8 := by cases x <;> decide

theorem FCond.code_lt (x : FCond) : x.code < 8 := by cases x <;> decide

theorem RedOp.code_lt (x : RedOp) : x.code < 4 := by cases x <;> decide

theorem Scope.code_lt (x : Scope) : x.code < 4 := by cases x <;> decide

theorem Size.code_lt (x : Size) : x.code < 8 := by cases x <;> decide

theorem FAtomOp.code_lt (x : FAtomOp) : x.code < 4 := by cases x <;> decide

theorem Ty.ofCode_eq_some_iff {n : Nat} {t : Ty} : Ty.ofCode n = some t ↔ n = t.code := by
  unfold Ty.ofCode
  cases t with
  | int t =>
    have := t.code_lt
    simp [Ty.code, IntTy.ofCode_eq_some_iff, ite_eq_iff]
    omega
  | f8 t =>
    simp [Ty.code, F8.ofCode_eq_some_iff, ite_eq_iff]
    cases t <;> simp [F8.code] <;> omega
  | fl t =>
    have := t.code_lt
    simp [Ty.code, FTy.ofCode_eq_some_iff, ite_eq_iff]
    omega

/-! ### Operands and destinations (R48, R51) -/

theorem Src.ofCode_eq_some_iff {n : Nat} {a : Src} : Src.ofCode n = some a ↔ n = a.code := by
  unfold Src.ofCode
  cases a with
  | sp x =>
    have := Laws.Special.code_lt x
    simp [Src.code, ite_eq_iff, Special.ofCode_eq_some_iff]
    omega
  | imm i =>
    have := i.isLt
    simp [Src.code, ite_eq_iff, ← BitVec.toNat_inj]
    omega
  | _ =>
    simp [Src.code, ite_eq_iff, Fin.ext_iff]
    omega

theorem Dst.ofCode_eq_some_iff {n : Nat} {d : Dst} : Dst.ofCode n = some d ↔ n = d.code := by
  unfold Dst.ofCode
  cases d <;> simp [Dst.code, ite_eq_iff, Fin.ext_iff] <;> omega

theorem vOf_eq_some_iff {n : Nat} {a : VReg} : vOf n = some a ↔ n = a.val := by
  simp [vOf, Fin.ext_iff]
  omega

theorem sOf_eq_some_iff {n : Nat} {a : SReg} : sOf n = some a ↔ n = sCode a := by
  simp [sOf, sCode, Fin.ext_iff]
  omega

theorem oOf_eq_some_iff {n : Nat} {a : Chan} : oOf n = some a ↔ n = oCode a := by
  simp [oOf, oCode, Fin.ext_iff]
  omega

theorem pOf_eq_some_iff {n : Nat} {a : Fin 8} : pOf n = some a ↔ n = pCode a := by
  simp [pOf, pCode, Fin.ext_iff]
  omega

theorem cOf_eq_some_iff {n : Nat} {a : Chan} : cOf n = some a ↔ n = cCode a := by
  simp [cOf, cCode, Fin.ext_iff]
  omega

/-! ### The function field (R54 to R56) -/

theorem dInt_eq_some_iff {n : Nat} {t : IntTy} {sat : Bool} : dInt n = some (t, sat) ↔ n = eInt t sat := by
  simp [dInt, eInt, IntTy.ofCode_eq_some_iff]
  cases sat <;> simp [bit] <;> omega

theorem dIntN_eq_some_iff {n : Nat} {t : IntTy} : dIntN n = some t ↔ n = eIntN t := by
  simp [dIntN, eIntN, IntTy.ofCode_eq_some_iff]
  omega

theorem dFlt_eq_some_iff {n : Nat} {t : FTy} {r : Rnd} : dFlt n = some (t, r) ↔ n = eFlt t r := by
  have := r.code_lt
  simp [dFlt, eFlt, FTy.ofCode_eq_some_iff, Rnd.ofCode_eq_some_iff, Option.bind_eq_some_iff]
  omega

theorem dFltN_eq_some_iff {n : Nat} {t : FTy} : dFltN n = some t ↔ n = eFltN t := by
  simp [dFltN, eFltN, FTy.ofCode_eq_some_iff]
  omega

theorem dCmp_eq_some_iff {n : Nat} {t : IntTy} {c : Cond} : dCmp n = some (t, c) ↔ n = eCmp t c := by
  have := c.code_lt
  simp [dCmp, eCmp, IntTy.ofCode_eq_some_iff, Cond.ofCode_eq_some_iff, Option.bind_eq_some_iff]
  omega

theorem dFCmp_eq_some_iff {n : Nat} {t : FTy} {c : FCond} : dFCmp n = some (t, c) ↔ n = eFCmp t c := by
  have := c.code_lt
  simp [dFCmp, eFCmp, FTy.ofCode_eq_some_iff, FCond.ofCode_eq_some_iff, Option.bind_eq_some_iff]
  omega

theorem dCvtF_eq_some_iff {n : Nat} {t : Ty} {r : Rnd} : dCvtF n = some (t, r) ↔ n = eCvtF t r := by
  have := r.code_lt
  simp [dCvtF, eCvtF, Ty.ofCode_eq_some_iff, Rnd.ofCode_eq_some_iff, Option.bind_eq_some_iff]
  omega

theorem dCvtB_eq_some_iff {n : Nat} {t : Ty} {sat : Bool} : dCvtB n = some (t, sat) ↔ n = eCvtB t sat := by
  simp [dCvtB, eCvtB, Ty.ofCode_eq_some_iff]
  cases sat <;> simp [bit] <;> omega

theorem dQcvt_eq_some_iff {n : Nat} {t : F8} {r : Rnd} : dQcvt n = some (t, r) ↔ n = eQcvt t r := by
  have := r.code_lt
  simp [dQcvt, eQcvt, F8.ofCode_eq_some_iff, Rnd.ofCode_eq_some_iff, Option.bind_eq_some_iff]
  omega

theorem dUnpk_eq_some_iff {n : Nat} {t : IntTy} {hi : Bool} : dUnpk n = some (t, hi) ↔ n = eUnpk t hi := by
  simp [dUnpk, eUnpk, IntTy.ofCode_eq_some_iff]
  cases hi <;> simp [bit] <;> omega

theorem dWid_eq_some_iff {n : Nat} {w : Width} : dWid n = some w ↔ n = eWid w := by
  simp [dWid, eWid, Width.ofCode_eq_some_iff]
  omega

theorem dExtl_eq_some_iff {n : Nat} {w : Width} {sx : Bool} : dExtl n = some (w, sx) ↔ n = eExtl w sx := by
  simp [dExtl, eExtl, Width.ofCode_eq_some_iff]
  cases sx <;> simp [bit] <;> omega

theorem dRed_eq_some_iff {n : Nat} {t : Ty} {op : RedOp} : dRed n = some (t, op) ↔ n = eRed t op := by
  have := op.code_lt
  simp [dRed, eRed, Ty.ofCode_eq_some_iff, RedOp.ofCode_eq_some_iff, Option.bind_eq_some_iff]
  omega

theorem dRedB_eq_some_iff {n : Nat} {sat : Bool} {r : Rnd} : dRedB n = some (sat, r) ↔ n = eRedB sat r := by
  have := r.code_lt
  simp [dRedB, eRedB, Rnd.ofCode_eq_some_iff]
  cases sat <;> simp [bit] <;> omega

theorem dBit0_eq_some_iff {n : Nat} {b : Bool} : dBit0 n = some b ↔ n = eBit0 b := by
  simp [dBit0, eBit0]
  cases b <;> simp [bit] <;> omega

theorem dTag_eq_some_iff {n : Nat} {t : Tag} : dTag n = some t ↔ n = eTag t := Tag.ofCode_eq_some_iff

theorem dScale_eq_some_iff {n : Nat} {s : Fin 4} : dScale n = some s ↔ n = eScale s := by
  simp [dScale, eScale, Fin.ext_iff]
  omega

theorem dSigC_eq_some_iff {n : Nat} {c : SigCond} : dSigC n = some c ↔ n = eSigC c := SigCond.ofCode_eq_some_iff

theorem dScp_eq_some_iff {n : Nat} {s : Scope} : dScp n = some s ↔ n = eScp s := Scope.ofCode_eq_some_iff

theorem dLdg_eq_some_iff {n : Nat} {s : Size} {sx : Bool} : dLdg n = some (s, sx) ↔ n = eLdg s sx := by
  have := s.code_lt
  simp [dLdg, eLdg, Size.ofCode_eq_some_iff]
  cases sx <;> simp [bit] <;> omega

theorem dSiz_eq_some_iff {n : Nat} {s : Size} : dSiz n = some s ↔ n = eSiz s := Size.ofCode_eq_some_iff

theorem dGath_eq_some_iff {n : Nat} {w : Width} {sx : Bool} {sc : Fin 4} : dGath n = some (w, sx, sc) ↔ n = eGath w sx sc := by
  simp [dGath, eGath, Width.ofCode_eq_some_iff, Fin.ext_iff]
  cases sx <;> simp [bit] <;> omega

theorem dScat_eq_some_iff {n : Nat} {w : Width} {sc : Fin 4} : dScat n = some (w, sc) ↔ n = eScat w sc := by
  simp [dScat, eScat, Width.ofCode_eq_some_iff, Fin.ext_iff]
  omega

theorem dAtom_eq_some_iff {n : Nat} {op : AtomOp} {w : Bool} {s : Scope} : dAtom n = some (op, w, s) ↔ n = eAtom op w s := by
  have := s.code_lt
  simp [dAtom, eAtom, AtomOp.ofCode_eq_some_iff, Scope.ofCode_eq_some_iff, Option.bind_eq_some_iff]
  cases w <;> simp [bit] <;> omega

theorem dCas_eq_some_iff {n : Nat} {w : Bool} {s : Scope} : dCas n = some (w, s) ↔ n = eCas w s := by
  have := s.code_lt
  simp [dCas, eCas, Scope.ofCode_eq_some_iff]
  cases w <;> simp [bit] <;> omega

theorem dFat_eq_some_iff {n : Nat} {t : FTy} {op : FAtomOp} {s : Scope} : dFat n = some (t, op, s) ↔ n = eFat t op s := by
  have := op.code_lt
  have := s.code_lt
  simp [dFat, eFat, FTy.ofCode_eq_some_iff, FAtomOp.ofCode_eq_some_iff, Scope.ofCode_eq_some_iff, Option.bind_eq_some_iff]
  omega

theorem dJFmt_eq_some_iff {n : Nat} {f : JFmt} : dJFmt n = some f ↔ n = eJFmt f := JFmt.ofCode_eq_some_iff

theorem dG_eq_some_iff {n : Nat} {g : Fin 4} : dG n = some g ↔ n = eG g := by
  simp [dG, eG, Fin.ext_iff]
  omega

theorem dSys_eq_some_iff {n : Nat} {r : SysReg} : dSys n = some r ↔ n = eSys r := SysReg.ofCode_eq_some_iff

theorem dWait_eq_some_iff {n : Nat} {k : WaitKind} : dWait n = some k ↔ n = eWait k := WaitKind.ofCode_eq_some_iff

theorem dTrip_eq_some_iff {n : Nat} {wide : Bool} {async : Bool} : dTrip n = some (wide, async) ↔ n = eTrip wide async := by
  simp [dTrip, eTrip]
  cases wide <;> cases async <;> simp [bit] <;> omega

theorem dMbx_eq_some_iff {n : Nat} {m : Fin 8} : dMbx n = some m ↔ n = eMbx m := by
  simp [dMbx, eMbx, Fin.ext_iff]
  omega

theorem dN6_eq_some_iff {n : Nat} (hn : n < 64) {b : BitVec 6} : dN6 n = some b ↔ n = eN6 b := by
  simp [dN6, eN6, ← BitVec.toNat_inj, Nat.mod_eq_of_lt hn]

theorem dN6_eN6 (b : BitVec 6) : dN6 (eN6 b) = some b := (dN6_eq_some_iff b.isLt).2 rfl

end Sys2Proof
end

section
/-! SUPPORT. The body of a word (R47, R57): decoding and encoding OPC, DST, SRCA, SRCB and FN agree. -/
namespace Sys2Proof

/-- OPC, DST, SRCA, SRCB and FN of a word. -/
def Raw.body (r : Raw) : Body := ⟨r.opc, r.dst, r.a, r.b, r.fn⟩

/-- Each field holds a number of its width (R45). -/
structure Raw.InWidth (r : Raw) : Prop where
  pcare : r.pcare < 256
  pval : r.pval < 256
  ten : r.ten < 2
  tch : r.tch < 8
  tag : r.tag < 4
  pupm : r.pupm < 4
  pupi : r.pupi < 8
  opc : r.opc < 256
  dst : r.dst < 128
  a : r.a < 256
  b : r.b < 256
  fn : r.fn < 64

theorem wf_eq_some_iff {i j : Instr} : wf i = some j ↔ i.wf = true ∧ i = j := by
  simp [wf]

/-! ### What decodes is encoded in the word -/

/-- What a decoder of the word `x` gives is well formed and is encoded in the fields of `x`. -/
def Raw.Sound (x : Raw) (o : Option Instr) : Prop := ∀ i, o = some i → i.wf = true ∧ encodeBody i = some x.body

namespace Raw
variable {x : Raw}

theorem sound_none : x.Sound none := fun _ h => nomatch h

theorem sound_bind_iff {α : Type} {o : Option α} {f : α → Option Instr} :
    x.Sound (o >>= f) ↔ ∀ a, o = some a → x.Sound (f a) := by
  cases o <;> simp [Raw.Sound]

theorem sound_ite_iff {c : Prop} [Decidable c] {o : Option Instr} :
    x.Sound (if c then o else none) ↔ (c → x.Sound o) := by
  by_cases hc : c <;> simp [hc, sound_none]

theorem sound_wf {i : Instr} (h : encodeBody i = some x.body) : x.Sound (wf i) := by
  intro j hj
  obtain ⟨hwf, rfl⟩ := wf_eq_some_iff.1 hj
  exact ⟨hwf, h⟩

/-- The body that the fields of a word spell. -/
theorem body_of_fields {o d a b f : Nat} (ho : x.opc = o) (hd : x.dst = d) (ha : x.a = a) (hb : x.b = b) (hf : x.fn = f) :
    some ⟨o, d, a, b, f⟩ = some x.body := by
  subst ho hd ha hb hf
  rfl

/-- The long-immediate form keeps all 22 bits of SRCA, SRCB and FN (R47). -/
theorem fields_of_imm22 (hx : x.InWidth) :
    x.a = x.imm22.toNat / 2 ^ 14 ∧ x.b = x.imm22.toNat / 2 ^ 6 % 256 ∧ x.fn = x.imm22.toNat % 64 := by
  have ha := hx.a
  have hb := hx.b
  have hf := hx.fn
  have himm : x.imm22.toNat = x.a * 2 ^ 14 + x.b * 2 ^ 6 + x.fn := by
    rw [Raw.imm22, BitVec.toNat_ofNat, Nat.mod_eq_of_lt (by omega)]
  omega

theorem imm22_longBody (imm : BitVec 22) (c v t h g m u o d : Nat) :
    (Raw.mk c v t h g m u o d (imm.toNat / 2 ^ 14) (imm.toNat / 2 ^ 6 % 256) (imm.toNat % 64)).imm22 = imm := by
  refine BitVec.eq_of_toNat_eq ?_
  have := imm.isLt
  rw [Raw.imm22, BitVec.toNat_ofNat]
  dsimp only
  omega

end Raw

/-- Each arm of the decoder reads its operands off the fields that it is handed, and checks that the other fields are 0: so each
field is the code that the encoder writes there. -/
theorem decodeBody_sound {x : Raw} (hw : x.InWidth) : x.Sound (decodeBody x) := by
  obtain ⟨ha, hb, hf⟩ := x.fields_of_imm22 hw
  unfold decodeBody
  split
  case h_14 => exact Raw.sound_none
  all_goals
    simp only [decodeInt, decodeInt2, decodeFloat, decodeMove, decodeToken, decodeStore, decodeSignal, decodeGlobal,
      decodeEngine, decodeJunction, decodeQueue, decodeControl, decodeDepot]
    split
  all_goals
    simp only [Raw.sound_bind_iff, Raw.sound_ite_iff, Raw.sound_none, Prod.forall, and_imp, Src.ofCode_eq_some_iff,
      Dst.ofCode_eq_some_iff, vOf_eq_some_iff, sOf_eq_some_iff, oOf_eq_some_iff, pOf_eq_some_iff, cOf_eq_some_iff,
      dInt_eq_some_iff, dIntN_eq_some_iff, dFlt_eq_some_iff, dFltN_eq_some_iff, dCmp_eq_some_iff, dFCmp_eq_some_iff,
      dCvtF_eq_some_iff, dCvtB_eq_some_iff, dQcvt_eq_some_iff, dUnpk_eq_some_iff, dWid_eq_some_iff, dExtl_eq_some_iff,
      dRed_eq_some_iff, dRedB_eq_some_iff, dBit0_eq_some_iff, dTag_eq_some_iff, dScale_eq_some_iff, dSigC_eq_some_iff,
      dScp_eq_some_iff, dLdg_eq_some_iff, dSiz_eq_some_iff, dGath_eq_some_iff, dScat_eq_some_iff, dAtom_eq_some_iff,
      dCas_eq_some_iff, dFat_eq_some_iff, dJFmt_eq_some_iff, dG_eq_some_iff, dSys_eq_some_iff, dWait_eq_some_iff,
      dTrip_eq_some_iff, dMbx_eq_some_iff, dN6_eq_some_iff hw.fn]
  all_goals intros
  all_goals refine Raw.sound_wf ?_
  all_goals exact Raw.body_of_fields (by omega) ‹_› ‹_› ‹_› ‹_›

/-! ### What is encoded decodes -/

/-- An instruction is read back from a word that holds its fields: OPC leads to its arm, and each field is the code of the
operand that the arm reads there. -/
theorem decodeBody_of_encodeBody {x : Raw} {i : Instr} (hi : i.wf = true) (h : encodeBody i = some x.body) :
    decodeBody x = some i := by
  obtain ⟨pcare, pval, ten, tch, tag, pupm, pupi, opc, dst, a, b, fn⟩ := x
  unfold encodeBody at h
  cases i
  all_goals
    dsimp only [Raw.body] at h
    cases h
  all_goals
    simp only [decodeBody, decodeInt, decodeInt2, decodeFloat, decodeMove, decodeToken, decodeStore, decodeSignal,
      decodeGlobal, decodeEngine, decodeJunction, decodeQueue, decodeControl, decodeDepot, Nat.reduceDiv, Nat.reduceMod,
      Option.bind_eq_bind, Option.bind_some, Raw.imm22_longBody, wf, hi, if_true, and_self, Src.ofCode_eq_some_iff.2 rfl,
      Dst.ofCode_eq_some_iff.2 rfl, vOf_eq_some_iff.2 rfl, sOf_eq_some_iff.2 rfl, oOf_eq_some_iff.2 rfl,
      pOf_eq_some_iff.2 rfl, cOf_eq_some_iff.2 rfl, dInt_eq_some_iff.2 rfl, dIntN_eq_some_iff.2 rfl, dFlt_eq_some_iff.2 rfl,
      dFltN_eq_some_iff.2 rfl, dCmp_eq_some_iff.2 rfl, dFCmp_eq_some_iff.2 rfl, dCvtF_eq_some_iff.2 rfl,
      dCvtB_eq_some_iff.2 rfl, dQcvt_eq_some_iff.2 rfl, dUnpk_eq_some_iff.2 rfl, dWid_eq_some_iff.2 rfl,
      dExtl_eq_some_iff.2 rfl, dRed_eq_some_iff.2 rfl, dRedB_eq_some_iff.2 rfl, dBit0_eq_some_iff.2 rfl,
      dTag_eq_some_iff.2 rfl, dScale_eq_some_iff.2 rfl, dSigC_eq_some_iff.2 rfl, dScp_eq_some_iff.2 rfl,
      dLdg_eq_some_iff.2 rfl, dSiz_eq_some_iff.2 rfl, dGath_eq_some_iff.2 rfl, dScat_eq_some_iff.2 rfl,
      dAtom_eq_some_iff.2 rfl, dCas_eq_some_iff.2 rfl, dFat_eq_some_iff.2 rfl, dJFmt_eq_some_iff.2 rfl,
      dG_eq_some_iff.2 rfl, dSys_eq_some_iff.2 rfl, dWait_eq_some_iff.2 rfl, dTrip_eq_some_iff.2 rfl,
      dMbx_eq_some_iff.2 rfl, dN6_eN6]

end Sys2Proof
end

section
/-! SUPPORT. The fields of a word (R45, R46): taking a word apart and putting it together, its guard and its update. -/
namespace Sys2Proof

/-! ### A word and its fields (R45) -/

/-- The lowest `lo + w` bits are a field of `w` bits above the lowest `lo`. -/
theorem mod_two_pow_add (n lo w : Nat) : n % 2 ^ (lo + w) = n / 2 ^ lo % 2 ^ w * 2 ^ lo + n % 2 ^ lo := by
  rw [Nat.pow_add, Nat.mod_mul, Nat.mul_comm, Nat.add_comm]

namespace Raw
variable {r : Raw} {n : Nat}

theorem inWidth_ofNat (n : Nat) : (Raw.ofNat n).InWidth := by
  constructor <;> exact Nat.mod_lt _ (by decide)

theorem toNat_ofNat (hn : n < 2 ^ 64) : (Raw.ofNat n).toNat = n := by
  have peel := mod_two_pow_add n
  have hsum : n % 2 ^ 64 = (Raw.ofNat n).toNat := by
    rw [peel 56 8, peel 48 8, peel 47 1, peel 44 3, peel 42 2, peel 40 2, peel 37 3, peel 29 8, peel 22 7, peel 14 8,
      peel 6 8]
    simp only [← Nat.add_assoc]
    rfl
  rw [← hsum, Nat.mod_eq_of_lt hn]

theorem toNat_lt (h : r.InWidth) : r.toNat < 2 ^ 64 := by
  obtain ⟨hpcare, hpval, hten, htch, htag, hpupm, hpupi, hopc, hdst, ha, hb, hfn⟩ := h
  simp only [Raw.toNat]
  omega

theorem ofNat_toNat (h : r.InWidth) : Raw.ofNat r.toNat = r := by
  obtain ⟨hpcare, hpval, hten, htch, htag, hpupm, hpupi, hopc, hdst, ha, hb, hfn⟩ := h
  simp only [Raw.toNat, Raw.ofNat]
  congr <;> omega

end Raw

/-! ### The update (R46) -/

theorem Upd.ofCode_mk' (g : Guard) (u : Upd) (b : Body) : Upd.ofCode (Raw.mk' g u b).pupm (Raw.mk' g u b).pupi = some u := by
  cases u <;> simp [Raw.mk', Upd.ofCode]

theorem Upd.mk'_of_ofCode {m i : Nat} (hi : i < 8) {u : Upd} (h : Upd.ofCode m i = some u) (g : Guard) (b : Body) :
    (Raw.mk' g u b).pupm = m ∧ (Raw.mk' g u b).pupi = i := by
  unfold Upd.ofCode at h
  split at h
  case h_1 =>
    split at h
    next h0 =>
      cases h
      exact ⟨rfl, h0.symm⟩
    next => cases h
  case h_5 => cases h
  all_goals
    cases h
    exact ⟨rfl, Nat.mod_eq_of_lt hi⟩

theorem Upd.ofCode_eq_none_iff {m i : Nat} (hm : m < 4) : Upd.ofCode m i = Option.none ↔ m = 0 ∧ i ≠ 0 := by
  interval_cases m <;> simp [Upd.ofCode]

/-! ### The guard (R46) -/

theorem Guard.ofRaw_mk' {g : Guard} (hg : g.val &&& ~~~g.care = 0) (u : Upd) (b : Body) :
    Guard.ofRaw (Raw.mk' g u b) = some g := by
  obtain ⟨care, val, test⟩ := g
  cases test with
  | none => simpa [Guard.ofRaw, Raw.mk'] using hg
  | some p =>
    obtain ⟨ch, t⟩ := p
    have ht : Tag.ofCode t.code = some t := Tag.ofCode_eq_some_iff.2 rfl
    simpa [Guard.ofRaw, Raw.mk', ht] using hg

/-- A guard that decodes is masked, and has a tag test or not. -/
theorem Guard.ofRaw_cases {r : Raw} {g : Guard} (h : Guard.ofRaw r = some g) : g.val &&& ~~~g.care = 0 ∧
    ((r.ten = 0 ∧ r.tch = 0 ∧ r.tag = 0 ∧ g = ⟨BitVec.ofNat 8 r.pcare, BitVec.ofNat 8 r.pval, none⟩) ∨
      (r.ten ≠ 0 ∧ ∃ t : Tag, r.tag = t.code ∧
        g = ⟨BitVec.ofNat 8 r.pcare, BitVec.ofNat 8 r.pval, some (Fin.ofNat 8 r.tch, t)⟩)) := by
  unfold Guard.ofRaw at h
  dsimp only at h
  split at h
  next hmask =>
    split at h
    next hten =>
      obtain ⟨⟨htch, htag⟩, hg⟩ := Option.ite_none_right_eq_some.1 h
      cases hg
      exact ⟨hmask, .inl ⟨hten, htch, htag, rfl⟩⟩
    next hten =>
      obtain ⟨t, ht, rfl⟩ := Option.map_eq_some_iff.1 h
      exact ⟨hmask, .inr ⟨hten, t, Tag.ofCode_eq_some_iff.1 ht, rfl⟩⟩
  next => cases h

theorem Guard.mk'_of_ofRaw {r : Raw} (hr : r.InWidth) {g : Guard} (h : Guard.ofRaw r = some g) (u : Upd) (b : Body) :
    Raw.mk' g u b = { r with pupm := (Raw.mk' g u b).pupm, pupi := (Raw.mk' g u b).pupi,
                             opc := b.opc, dst := b.dst, a := b.a, b := b.b, fn := b.fn } := by
  have hcare : (BitVec.ofNat 8 r.pcare).toNat = r.pcare := Nat.mod_eq_of_lt hr.pcare
  have hval : (BitVec.ofNat 8 r.pval).toNat = r.pval := Nat.mod_eq_of_lt hr.pval
  obtain ⟨-, ⟨hten, htch, htag, rfl⟩ | ⟨hten, t, htag, rfl⟩⟩ := Guard.ofRaw_cases h
  · simp [Raw.mk', hcare, hval, hten, htch, htag]
  · have hten1 : r.ten = 1 := Nat.le_antisymm (Nat.le_of_lt_succ hr.ten) (Nat.pos_of_ne_zero hten)
    simp [Raw.mk', hcare, hval, hten1, Nat.mod_eq_of_lt hr.tch, htag]

/-- A word whose guard and update decode is put together again from them and its body. -/
theorem Raw.mk'_body {r : Raw} (hr : r.InWidth) {g : Guard} {u : Upd} (hg : Guard.ofRaw r = some g)
    (hu : Upd.ofCode r.pupm r.pupi = some u) : Raw.mk' g u r.body = r := by
  obtain ⟨hm, hi⟩ := Upd.mk'_of_ofCode hr.pupi hu g r.body
  rw [Guard.mk'_of_ofRaw hr hg, hm, hi]
  rfl

/-! ### Words that are refused (R46, R57) -/

/-- A value under a mask shows a bit that the mask lacks. -/
theorem val_and_not_care_eq_zero_iff {v c : Nat} (hv : v < 256) :
    BitVec.ofNat 8 v &&& ~~~BitVec.ofNat 8 c = 0#8 ↔ ∀ k, v.testBit k = true → c.testBit k = true := by
  constructor
  · intro h k hk
    have hk8 : k < 8 := (Nat.pow_lt_pow_iff_right (by decide)).1 ((Nat.ge_two_pow_of_testBit hk).trans_lt hv)
    have hbit : (BitVec.ofNat 8 v &&& ~~~BitVec.ofNat 8 c).getLsbD k = (0#8).getLsbD k := by rw [h]
    simpa [BitVec.getLsbD_ofNat, hk8, hk, -BitVec.getLsbD_eq_getElem] using hbit
  · intro h
    refine BitVec.eq_of_getLsbD_eq fun k hk => ?_
    simpa [BitVec.getLsbD_ofNat, hk, -BitVec.getLsbD_eq_getElem] using h k

theorem Tag.ofCode_ne_none {n : Nat} (hn : n < 4) : Tag.ofCode n ≠ none := by
  interval_cases n <;> simp [Tag.ofCode]

theorem Guard.ofRaw_eq_none_iff {r : Raw} (hr : r.InWidth) : Guard.ofRaw r = none ↔
    (∃ k, r.pval.testBit k = true ∧ r.pcare.testBit k = false) ∨ (r.ten = 0 ∧ (r.tch ≠ 0 ∨ r.tag ≠ 0)) := by
  have hmask : (∃ k, r.pval.testBit k = true ∧ r.pcare.testBit k = false) ↔
      ¬ BitVec.ofNat 8 r.pval &&& ~~~BitVec.ofNat 8 r.pcare = 0#8 := by
    rw [val_and_not_care_eq_zero_iff hr.pval]
    simp
  rw [hmask]
  by_cases h : BitVec.ofNat 8 r.pval &&& ~~~BitVec.ofNat 8 r.pcare = 0#8
  · by_cases h0 : r.ten = 0
    · simp [Guard.ofRaw, h, h0]
      omega
    · simp [Guard.ofRaw, h, h0, Tag.ofCode_ne_none hr.tag]
  · simp [Guard.ofRaw, h]

theorem opcDefined_iff {n : Nat} : opcDefined n = true ↔ n ≤ 0x15 ∨ (0x20 ≤ n ∧ n ≤ 0x2E) ∨ (0x30 ≤ n ∧ n ≤ 0x3C) ∨
    (0x40 ≤ n ∧ n ≤ 0x4A) ∨ (0x50 ≤ n ∧ n ≤ 0x5B) ∨ (0x60 ≤ n ∧ n ≤ 0x68) ∨ (0x70 ≤ n ∧ n ≤ 0x79) ∨ (0x80 ≤ n ∧ n ≤ 0x88) ∨
    (0x90 ≤ n ∧ n ≤ 0x9D) ∨ (0xA0 ≤ n ∧ n ≤ 0xAD) ∨ (0xB0 ≤ n ∧ n ≤ 0xBC) ∨ (0xC0 ≤ n ∧ n ≤ 0xC9) := by
  unfold opcDefined
  split
  case h_14 =>
    simp only [imp_false] at *
    simp
    omega
  all_goals
    simp
    omega

end Sys2Proof
end

section
/-! SUPPORT. The clauses on encoding (R45 to R60): the round trip, and which words are refused for what. -/
namespace Sys2Proof

namespace Laws

theorem encodeBody_fits (i : Instr) : Encoding.Statement i := by
  cases i with
  | nop => apply Encoding.nop | add => apply Encoding.add | sub => apply Encoding.sub | mul => apply Encoding.mul
  | mulh => apply Encoding.mulh | mad => apply Encoding.mad | div => apply Encoding.div | rem => apply Encoding.rem
  | abs => apply Encoding.abs | min => apply Encoding.min | max => apply Encoding.max | and => apply Encoding.and
  | or => apply Encoding.or | xor => apply Encoding.xor | shl => apply Encoding.shl | shr => apply Encoding.shr
  | sra => apply Encoding.sra | rot => apply Encoding.rot | clz => apply Encoding.clz | popc => apply Encoding.popc
  | sel => apply Encoding.sel | cmp => apply Encoding.cmp | fadd => apply Encoding.fadd | fsub => apply Encoding.fsub
  | fmul => apply Encoding.fmul | fma => apply Encoding.fma | fmin => apply Encoding.fmin | fmax => apply Encoding.fmax
  | fabs => apply Encoding.fabs | fneg => apply Encoding.fneg | fcmp => apply Encoding.fcmp | fdiv => apply Encoding.fdiv
  | fsqrt => apply Encoding.fsqrt | frcp => apply Encoding.frcp | frsq => apply Encoding.frsq | fexp2 => apply Encoding.fexp2
  | flog2 => apply Encoding.flog2 | cvt => apply Encoding.cvt | qcvt => apply Encoding.qcvt | pack => apply Encoding.pack
  | unpk => apply Encoding.unpk | mov => apply Encoding.mov | movi => apply Encoding.movi | movh => apply Encoding.movh
  | shfl => apply Encoding.shfl | bcst => apply Encoding.bcst | rdce => apply Encoding.rdce | scan => apply Encoding.scan
  | extl => apply Encoding.extl | insl => apply Encoding.insl | pset => apply Encoding.pset | pclr => apply Encoding.pclr
  | pld => apply Encoding.pld | pread => apply Encoding.pread | send => apply Encoding.send | drop => apply Encoding.drop
  | fwd => apply Encoding.fwd | mark => apply Encoding.mark | retag => apply Encoding.retag | steer => apply Encoding.steer
  | merge => apply Encoding.merge | alloc => apply Encoding.alloc | alloct => apply Encoding.alloct
  | release => apply Encoding.release | retain => apply Encoding.retain | bsize => apply Encoding.bsize
  | ldb => apply Encoding.ldb | stb => apply Encoding.stb | ldbx => apply Encoding.ldbx | stbx => apply Encoding.stbx
  | ldt => apply Encoding.ldt | stt => apply Encoding.stt | tmap => apply Encoding.tmap | sigset => apply Encoding.sigset
  | sigclr => apply Encoding.sigclr | sigwait => apply Encoding.sigwait | sigtest => apply Encoding.sigtest
  | sigadd => apply Encoding.sigadd | gjoin => apply Encoding.gjoin | gleave => apply Encoding.gleave
  | gbar => apply Encoding.gbar | prio => apply Encoding.prio | ldg => apply Encoding.ldg | stg => apply Encoding.stg
  | gath => apply Encoding.gath | scat => apply Encoding.scat | pref => apply Encoding.pref | order => apply Encoding.order
  | fence => apply Encoding.fence | atom => apply Encoding.atom | cas => apply Encoding.cas | fatom => apply Encoding.fatom
  | strm => apply Encoding.strm | copy => apply Encoding.copy | wptr => apply Encoding.wptr | mcast => apply Encoding.mcast
  | fill => apply Encoding.fill | pin => apply Encoding.pin | unpin => apply Encoding.unpin | clean => apply Encoding.clean
  | invl => apply Encoding.invl | wload => apply Encoding.wload | wswap => apply Encoding.wswap | mma => apply Encoding.mma
  | accrd => apply Encoding.accrd | accwr => apply Encoding.accwr | accclr => apply Encoding.accclr
  | ttload => apply Encoding.ttload | ring => apply Encoding.ring | tinj => apply Encoding.tinj | rstat => apply Encoding.rstat
  | turn => apply Encoding.turn | statc => apply Encoding.statc | coll => apply Encoding.coll | cwait => apply Encoding.cwait
  | enq => apply Encoding.enq | jdec => apply Encoding.jdec | yield => apply Encoding.yield | done => apply Encoding.done
  | pfxm => apply Encoding.pfxm | pfxi => apply Encoding.pfxi | kvapp => apply Encoding.kvapp
  | kvtrunc => apply Encoding.kvtrunc | kvrel => apply Encoding.kvrel | kvpin => apply Encoding.kvpin
  | kvmap => apply Encoding.kvmap | rng => apply Encoding.rng | rngset => apply Encoding.rngset
  | rngget => apply Encoding.rngget | br => apply Encoding.br | bri => apply Encoding.bri | call => apply Encoding.call
  | calli => apply Encoding.calli | ret => apply Encoding.ret | loop => apply Encoding.loop | trap => apply Encoding.trap
  | eret => apply Encoding.eret | sysrd => apply Encoding.sysrd | syswr => apply Encoding.syswr | halt => apply Encoding.halt
  | bkpt => apply Encoding.bkpt | wait => apply Encoding.wait | vld => apply Encoding.vld | vst => apply Encoding.vst
  | vgath => apply Encoding.vgath | kvwalk => apply Encoding.kvwalk | triple => apply Encoding.triple
  | mbxrd => apply Encoding.mbxrd | ptewr => apply Encoding.ptewr | tlbinv => apply Encoding.tlbinv
  | migr => apply Encoding.migr | cntrd => apply Encoding.cntrd
  | _ => exact fun h => Bool.noConfusion h

end Laws

theorem Raw.inWidth_mk' (g : Guard) (u : Upd) {b : Body} (hb : Laws.Fits b) : (Raw.mk' g u b).InWidth := by
  obtain ⟨hopc, hdst, ha, hb, hfn⟩ := hb
  have htest : (Raw.mk' g u b).ten < 2 ∧ (Raw.mk' g u b).tch < 8 ∧ (Raw.mk' g u b).tag < 4 := by
    cases htest : g.test with
    | none => simp [Raw.mk', htest]
    | some p =>
      obtain ⟨ch, t⟩ := p
      have ht : t.code < 4 := by cases t <;> decide
      simpa [Raw.mk', htest] using ht
  have hupd : (Raw.mk' g u b).pupm < 4 ∧ (Raw.mk' g u b).pupi < 8 := by
    cases u <;> simp [Raw.mk']
  have hopc256 : b.opc < 256 := by
    have := opcDefined_iff.1 hopc
    omega
  obtain ⟨hten, htch, htag⟩ := htest
  obtain ⟨hpupm, hpupi⟩ := hupd
  exact ⟨g.care.isLt, g.val.isLt, hten, htch, htag, hpupm, hpupi, hopc256, hdst, ha, hb, hfn⟩

/-- The parts of a well-formed word. -/
theorem IWord.wf_iff {i : IWord} : i.wf = true ↔
    i.guard.val &&& ~~~i.guard.care = 0 ∧ i.instr.wf = true ∧ tagTestOk i.guard i.instr = true ∧
      updOk i.upd i.instr = true := by
  simp [IWord.wf, and_assoc]

/-! ### The cases of the decoder -/

section
variable {w : W64} {r : Raw} (hr : Raw.ofNat w.toNat = r)
include hr

theorem decodeWord_reservedGuard (h : Guard.ofRaw r = none ∨ Upd.ofCode r.pupm r.pupi = none) :
    decodeWord w = .error .reservedGuard := by
  subst hr
  rcases h with h | h
  · simp [decodeWord, h]
  · cases hg : Guard.ofRaw (Raw.ofNat w.toNat) <;> simp [decodeWord, hg, h]

variable {g : Guard} {u : Upd} (hg : Guard.ofRaw r = some g) (hu : Upd.ofCode r.pupm r.pupi = some u)
include hg hu

theorem decodeWord_reservedOpcode (ho : opcDefined r.opc = false) : decodeWord w = .error .reservedOpcode := by
  subst hr
  simp [decodeWord, hg, hu, ho]

theorem decodeWord_no_body (ho : opcDefined r.opc = true) (hb : decodeBody r = none) :
    decodeWord w = .error .reservedField := by
  subst hr
  simp [decodeWord, hg, hu, ho, hb]

theorem decodeWord_body (ho : opcDefined r.opc = true) {i : Instr} (hb : decodeBody r = some i) :
    decodeWord w = if tagTestOk g i && updOk u i then .ok ⟨g, u, i⟩ else .error .reservedField := by
  subst hr
  simp [decodeWord, hg, hu, ho, hb]

end

/-- The parts of the instruction word that a word decodes to. -/
structure IWord.DecodesFrom (i : IWord) (r : Raw) : Prop where
  guard : Guard.ofRaw r = some i.guard
  upd : Upd.ofCode r.pupm r.pupi = some i.upd
  opc : opcDefined r.opc = true
  body : decodeBody r = some i.instr
  test : tagTestOk i.guard i.instr = true
  updOk : updOk i.upd i.instr = true

theorem decodeWord_eq_ok_iff {w : W64} {r : Raw} (hr : Raw.ofNat w.toNat = r) {i : IWord} :
    decodeWord w = .ok i ↔ i.DecodesFrom r := by
  constructor
  · intro h
    cases hg : Guard.ofRaw r with
    | none => simp [decodeWord_reservedGuard hr (.inl hg)] at h
    | some g =>
      cases hu : Upd.ofCode r.pupm r.pupi with
      | none => simp [decodeWord_reservedGuard hr (.inr hu)] at h
      | some u =>
        cases ho : opcDefined r.opc with
        | false => simp [decodeWord_reservedOpcode hr hg hu ho] at h
        | true =>
          cases hb : decodeBody r with
          | none => simp [decodeWord_no_body hr hg hu ho hb] at h
          | some j =>
            simp only [decodeWord_body hr hg hu ho hb, ite_eq_iff, Bool.and_eq_true, Except.ok.injEq, reduceCtorEq,
              and_false, or_false] at h
            obtain ⟨⟨htest, hupd⟩, rfl⟩ := h
            exact ⟨hg, hu, ho, hb, htest, hupd⟩
  · intro h
    rw [decodeWord_body hr h.guard h.upd h.opc h.body, h.test, h.updOk]
    rfl

theorem encode_eq_some_iff {w : W64} {i : IWord} : encode i = some w ↔
    ∃ b, encodeBody i.instr = some b ∧ BitVec.ofNat 64 (Raw.mk' i.guard i.upd b).toNat = w := by
  simp [encode, Option.map_eq_some_iff]

/-- A word decodes to an instruction word exactly where that is well formed and encoded by it. -/
theorem decodeWord_eq_ok_iff_encode {w : W64} {i : IWord} : decodeWord w = .ok i ↔ i.wf = true ∧ encode i = some w := by
  rw [IWord.wf_iff, encode_eq_some_iff]
  constructor
  · intro h
    have hw := Raw.inWidth_ofNat w.toNat
    have hi := (decodeWord_eq_ok_iff rfl).1 h
    obtain ⟨hwf, hb⟩ := decodeBody_sound hw _ hi.body
    refine ⟨⟨(Guard.ofRaw_cases hi.guard).1, hwf, hi.test, hi.updOk⟩, _, hb, ?_⟩
    rw [Raw.mk'_body hw hi.guard hi.upd, Raw.toNat_ofNat w.isLt, BitVec.ofNat_toNat, BitVec.setWidth_eq]
  · rintro ⟨⟨hg, hwf, htest, hupd⟩, b, hb, rfl⟩
    obtain ⟨b', hb', hfits⟩ := Laws.encodeBody_fits i.instr hwf
    obtain rfl : b' = b := Option.some.inj (hb'.symm.trans hb)
    have hw := Raw.inWidth_mk' i.guard i.upd hfits
    have hr : Raw.ofNat (BitVec.ofNat 64 (Raw.mk' i.guard i.upd b').toNat).toNat = Raw.mk' i.guard i.upd b' := by
      rw [BitVec.toNat_ofNat, Nat.mod_eq_of_lt (Raw.toNat_lt hw), Raw.ofNat_toNat hw]
    exact (decodeWord_eq_ok_iff hr).2 ⟨Guard.ofRaw_mk' hg _ _, Upd.ofCode_mk' _ _ _, hfits.1,
      decodeBody_of_encodeBody hwf hb, htest, hupd⟩

/-- Settles O20: a well-formed word has an encoding, and a word decodes to it exactly where it is that encoding. -/
theorem encodingRoundTrips : Obligations.EncodingRoundTrips := by
  refine ⟨fun i rest hi => ?_, fun w i h => decodeWord_eq_ok_iff_encode.1 h⟩
  obtain ⟨-, hwf, -, -⟩ := IWord.wf_iff.1 hi
  obtain ⟨b, hb, -⟩ := Laws.encodeBody_fits i.instr hwf
  have he : encode i = some (BitVec.ofNat 64 (Raw.mk' i.guard i.upd b).toNat) := encode_eq_some_iff.2 ⟨b, hb, rfl⟩
  refine ⟨_, he, ?_⟩
  rw [decode_leBytes_append, decodeWord_eq_ok_iff_encode.2 ⟨hi, he⟩]
  rfl

/-- HALT, RET, ERET and WSWAP are the only instructions of their codes, and carry no update (R358, R372, R413, R449). -/
theorem upd_eq_none_of_updOk {r : Raw} {i : Instr} {u : Upd} (hb : decodeBody r = some i)
    (ho : r.opc = 0xBA ∨ r.opc = 0xB4 ∨ r.opc = 0xB7 ∨ r.opc = 0x91) (hu : updOk u i = true) : u = .none := by
  rcases ho with ho | ho | ho | ho
  all_goals
    simp [decodeBody, decodeControl, decodeJunction, ho, wf_eq_some_iff] at hb
    obtain ⟨-, -, rfl⟩ := hb
    simpa [updOk] using hu

/-- A word of an assigned code whose guard and update are in order decodes or has a reserved field. -/
theorem decodeWord_ok_or_reservedField {w : W64} {r : Raw} (hr : Raw.ofNat w.toNat = r) {g : Guard} {u : Upd}
    (hg : Guard.ofRaw r = some g) (hu : Upd.ofCode r.pupm r.pupi = some u) (ho : opcDefined r.opc = true) :
    (∃ i, decodeWord w = .ok i) ∨ decodeWord w = .error .reservedField := by
  cases hb : decodeBody r with
  | none => exact .inr (decodeWord_no_body hr hg hu ho hb)
  | some i =>
    rw [decodeWord_body hr hg hu ho hb]
    split
    · exact .inl ⟨_, rfl⟩
    · exact .inr rfl

/-- A word that decodes to HALT, RET, ERET or WSWAP has PUPM = 0. -/
theorem IWord.DecodesFrom.pupm_eq_zero {i : IWord} {r : Raw} (h : i.DecodesFrom r) (hw : r.InWidth)
    (ho : r.opc = 0xBA ∨ r.opc = 0xB4 ∨ r.opc = 0xB7 ∨ r.opc = 0x91) : r.pupm = 0 := by
  have hpupm := (Upd.mk'_of_ofCode hw.pupi h.upd i.guard r.body).1
  rw [upd_eq_none_of_updOk h.body ho h.updOk] at hpupm
  exact hpupm.symm

/-- Settles O21: the guard, the update and OPC are looked at in this order, and what is left is refused for a field. -/
theorem reservedEncodingsAreRefused : Obligations.ReservedEncodingsAreRefused := by
  intro w r assigned badGuard
  have hw : r.InWidth := Raw.inWidth_ofNat w.toNat
  have hbad : badGuard ↔ Guard.ofRaw r = none ∨ Upd.ofCode r.pupm r.pupi = none := by
    rw [Guard.ofRaw_eq_none_iff hw, Upd.ofCode_eq_none_iff hw.pupm, or_assoc]
  have hgood (h : ¬ badGuard) : (∃ g, Guard.ofRaw r = some g) ∧ ∃ u, Upd.ofCode r.pupm r.pupi = some u := by
    simpa only [hbad, not_or, Option.ne_none_iff_exists'] using h
  have hassigned : assigned ↔ opcDefined r.opc = true := opcDefined_iff.symm
  refine ⟨fun hok ho hm => ?_, fun h => decodeWord_reservedGuard rfl (hbad.1 h), fun hok ho => ?_, fun hok ho => ?_⟩
  all_goals obtain ⟨⟨g, hg⟩, u, hu⟩ := hgood hok
  · have hopc : opcDefined r.opc = true := by rcases ho with ho | ho | ho | ho <;> rw [ho] <;> rfl
    rcases decodeWord_ok_or_reservedField rfl hg hu hopc with ⟨i, hi⟩ | h
    · exact absurd (((decodeWord_eq_ok_iff rfl).1 hi).pupm_eq_zero hw ho) hm
    · exact h
  · exact decodeWord_reservedOpcode rfl hg hu (Bool.eq_false_iff.2 fun h => ho (hassigned.2 h))
  · exact decodeWord_ok_or_reservedField rfl hg hu (hassigned.1 ho)

/-- Settles O19: the decoder is run on each word. -/
theorem wordsOfTheSpecification : Obligations.WordsOfTheSpecification := by
  unfold Obligations.WordsOfTheSpecification
  decide

end Sys2Proof
end

section
/-! SUPPORT. The readiness of a word (R15, R27, R59, R353, R453): what the shared frame answers before an instruction's body, and
that every instruction but STEER and MERGE is a run of it over its own operands. -/
namespace Sys2Proof.Machine

/-! ### What the frame answers before the body -/

section
variable {i : Instr} {av : Avail} {srcs ready : List Src} {outs : List Chan} {dsts : List Dst}
  {defer : Bool} {body : Body} {s : State} {x : Unit} (hu : s.unit? s.cur.unit = some x) (hc : s.cur.cap = none) (ha : s.available s.cur.unit x av = true)
  (hb : x.bound (srcs ++ ready) outs = true)
include hu hc ha hb

/-- A word whose channels do not all hold a token waits (R15, R27). -/
theorem runWith_empty (ht : x.hasTokens ready = false) : runWith i av srcs ready outs dsts defer body s = .next s := by
  simp [runWith, hu, hc, ha, hb, ht]

/-- A word of sequenced code that names a register whose load is outstanding waits (R353). -/
theorem runWith_hazard (ht : x.hasTokens ready = true) (hq : x.isSeq = true) (hz : x.hazard srcs dsts = true) :
    runWith i av srcs ready outs dsts defer body s = .next s := by
  simp [runWith, hu, hc, ha, hb, ht, hq, hz]

end

theorem Unit.hasTokens_congr {x : Unit} {l m : List Src} (h : chansOf l = chansOf m) : x.hasTokens l = x.hasTokens m := by
  rw [Unit.hasTokens, h, Unit.hasTokens]

theorem Unit.bound_congr {x : Unit} {l m : List Src} {outs : List Chan} (h : chansOf l = chansOf m) :
    x.bound l outs = x.bound m outs := by
  rw [Unit.bound, h, Unit.bound]

theorem Unit.bound_append {x : Unit} {l m : List Src} {outs : List Chan} (h : chansOf l ⊆ chansOf m) :
    x.bound (l ++ m) outs = x.bound m outs := by
  refine Bool.eq_iff_iff.2 ⟨fun hb => Unit.bound_mono hb fun ch k hk => ⟨k, List.mem_append_right l hk⟩, fun hb => ?_⟩
  refine Unit.bound_mono hb fun ch k hk => ?_
  rcases List.mem_append.1 hk with hl | hm
  · obtain ⟨k', hk'⟩ := chansOf_mem hl
    exact mem_chansOf (h hk')
  · exact ⟨k, hm⟩

/-! ### The instructions that run in the frame -/

theorem chansOf_cons_congr (a : Src) {l m : List Src} (h : chansOf l = chansOf m) : chansOf (a :: l) = chansOf (a :: m) := by
  cases a <;> simp [chansOf, h]

theorem chansOf_scalar_cons (n : SReg) (l : List Src) : chansOf (.s n :: l) = chansOf l := rfl

/-- `o` is a run of instruction `i` in the shared frame: over what it reads, the channels that it takes tokens of, the channels
that it emits to and what it writes. -/
def RunsInFrame (i : Instr) (a : Avail) (s : State) (o : Host.Outcome State Fault Refusal) : Prop :=
  ∃ ready defer body, o = runWith i a i.reads ready i.outs i.writes defer body s ∧ chansOf ready = chansOf i.srcs ∧
    chansOf i.reads ⊆ chansOf i.srcs ∧ ∀ x : Unit, x.operandsReady i = x.hasTokens i.srcs

namespace RunsInFrame

theorem of_runUnit {i : Instr} {a : Avail} {s : State} {srcs : List Src} {dsts : List Dst} {body : Body} (hr : i.reads = srcs)
    (hw : i.writes = dsts) (ho : i.outs = outsOf dsts) (hk : ∀ x : Unit, x.operandsReady i = x.hasTokens i.srcs)
    (hs : chansOf srcs = chansOf i.srcs) : RunsInFrame i a s (runUnit i a srcs dsts body s) := by
  subst hr hw
  exact ⟨_, _, _, by rw [ho, runUnit], hs, hs ▸ List.Subset.refl _, hk⟩

section
variable {i : Instr} {s : State} {w cyc : Nat} {imm : BitVec 7 → Nat} {d : Dst} {a b : Src}

theorem of_laneOp1 {f : Nat → Nat} (hr : i.reads = [a]) (hw : i.writes = [d]) (ho : i.outs = outsOf [d])
    (hk : ∀ x : Unit, x.operandsReady i = x.hasTokens i.srcs) (hs : i.srcs = [a]) :
    RunsInFrame i avTSD s (laneOp1 i w imm cyc f d a s) :=
  of_runUnit hr hw ho hk (by rw [hs])

theorem of_laneOp2 {f : Nat → Nat → Nat} (hr : i.reads = [a, b]) (hw : i.writes = [d]) (ho : i.outs = outsOf [d])
    (hk : ∀ x : Unit, x.operandsReady i = x.hasTokens i.srcs) (hs : i.srcs = [a, b]) :
    RunsInFrame i avTSD s (laneOp2 i w imm cyc f d a b s) :=
  of_runUnit hr hw ho hk (by rw [hs])

theorem of_laneOp3 {f : Nat → Nat → Nat → Nat} (hr : i.reads = [a, b]) (hw : i.writes = [d]) (ho : i.outs = outsOf [d])
    (hk : ∀ x : Unit, x.operandsReady i = x.hasTokens i.srcs) (hs : i.srcs = [a, b]) :
    RunsInFrame i avTSD s (laneOp3 i w imm cyc f d a b s) :=
  of_runUnit hr hw ho hk (by rw [hs])

end
end RunsInFrame

/-- Every instruction of a word but STEER and MERGE runs in the shared frame. -/
theorem exec_runsInFrame {i : Instr} {a : Avail} (ha : i.avail = some a) (s : State) :
    (∃ o c slc, i = .steer o c slc) ∨ (∃ o ca cb, i = .merge o ca cb) ∨ RunsInFrame i a s (exec i s) := by
  unfold exec
  cases i <;> cases ha
  case steer.refl => exact .inl ⟨_, _, _, rfl⟩
  case merge.refl => exact .inr (.inl ⟨_, _, _, rfl⟩)
  all_goals refine .inr (.inr ?_)
  case drop.refl => exact ⟨_, _, _, rfl, rfl, List.nil_subset _, fun _ => rfl⟩
  case sigtest.refl c d h v => exact ⟨_, _, _, execSigtest_eq c d h v s, rfl, List.Subset.refl _, fun _ => rfl⟩
  case abs.refl | clz.refl | popc.refl | fabs.refl | fneg.refl | fsqrt.refl | frcp.refl | frsq.refl | fexp2.refl | flog2.refl =>
    exact RunsInFrame.of_laneOp1 rfl rfl rfl (fun _ => rfl) rfl
  case mad.refl | sel.refl | fma.refl => exact RunsInFrame.of_laneOp3 rfl rfl rfl (fun _ => rfl) rfl
  case add.refl | sub.refl | mul.refl | mulh.refl | div.refl | rem.refl | min.refl | max.refl | and.refl | or.refl | xor.refl |
      shl.refl | shr.refl | sra.refl | rot.refl | fadd.refl | fsub.refl | fmul.refl | fmin.refl | fmax.refl | fcmp.refl |
      fdiv.refl => exact RunsInFrame.of_laneOp2 rfl rfl rfl (fun _ => rfl) rfl
  all_goals refine RunsInFrame.of_runUnit ?_ ?_ ?_ (fun _ => ?_) ?_
  case insl.refl.refine_5 => exact chansOf_cons_congr _ (chansOf_cons_congr _ rfl)
  case ldbx.refl.refine_5 | stbx.refl.refine_5 | gath.refl.refine_5 | scat.refl.refine_5 | cas.refl.refine_5 =>
    exact chansOf_cons_congr _ rfl
  case ldt.refl.refine_5 | stt.refl.refine_5 | tmap.refl.refine_5 | fill.refl.refine_5 =>
    exact (chansOf_scalar_cons _ _).trans (chansOf_cons_congr _ rfl)
  case triple.refl.refine_5 wide _ _ _ => cases wide <;> rfl
  all_goals rfl

/-! ### The clauses, for the frame, STEER and MERGE -/

/-- What `o`, an execution of instruction `i`, comes to where the word is not ready. -/
structure NotReady (s : State) (x : Unit) (i : Instr) (a : Avail) (o : Host.Outcome State Fault Refusal) : Prop where
  unavailable : s.available s.cur.unit x a = false → o = .next (s.raise s.cur.unit s.cur.slot (illegal 1))
  unbound : s.available s.cur.unit x a = true → x.bound i.srcs i.outs = false →
    o = .next (s.raise s.cur.unit s.cur.slot (illegal 1))
  empty : s.available s.cur.unit x a = true → x.bound i.srcs i.outs = true → x.operandsReady i = false → o = .next s
  hazard : s.available s.cur.unit x a = true → x.bound i.srcs i.outs = true → x.operandsReady i = true → x.isSeq = true →
    x.hazard i.reads i.writes = true → o = .next s

/-- What is available to triggered units alone is not available to a sequenced one (R58). -/
theorem State.isSeq_of_available_avT {s : State} {u : Nat} {x : Unit} (h : s.available u x avT = true) : x.isSeq = false := by
  cases hq : x.isSeq <;> cases hd : isCore u <;> simp [State.available, hq, hd, avT] at h ⊢

theorem Unit.bound_eq_and (x : Unit) (srcs : List Src) (outs : List Chan) :
    x.bound srcs outs = (x.bound srcs [] && x.bound [] outs) := by
  simp [Unit.bound, chansOf, Bool.and_comm]

theorem steerReads_subset {x : Unit} {c slc : Src} : steerReads x c slc ⊆ [c, slc] := by
  unfold steerReads
  split <;> simp

section
variable {s : State} {x : Unit} (hu : s.unit? s.cur.unit = some x) (hc : s.cur.cap = none)
include hu hc

theorem RunsInFrame.notReady {i : Instr} {a : Avail} {o : Host.Outcome State Fault Refusal} (h : RunsInFrame i a s o) :
    NotReady s x i a o := by
  obtain ⟨ready, defer, body, rfl, hready, hreads, hk⟩ := h
  have hbound : x.bound (i.reads ++ ready) i.outs = x.bound i.srcs i.outs := by
    rw [Unit.bound_append (hready ▸ hreads), Unit.bound_congr hready]
  have htokens : x.hasTokens ready = x.operandsReady i := by rw [hk, Unit.hasTokens_congr hready]
  constructor
  · exact fun ha => runWith_unavailable hu (.inl ha)
  · exact fun _ hb => runWith_unavailable hu (.inr (hbound.trans hb))
  · exact fun ha hb ht => runWith_empty hu hc ha (hbound.trans hb) (htokens.trans ht)
  · exact fun ha hb ht hq hz => runWith_hazard hu hc ha (hbound.trans hb) (htokens.trans ht) hq hz

/-- STEER leaves its selector unread at an EOI, but names its channel all the same (R429). -/
theorem notReady_steer (o : Chan) (c slc : Src) : NotReady s x (.steer o c slc) avT (exec (.steer o c slc) s) := by
  have hexec : exec (.steer o c slc) s = if !x.bound [c, slc] [] then .next (s.raise s.cur.unit s.cur.slot (illegal 1))
      else runWith (.steer o c slc) avT (steerReads x c slc) (steerReads x c slc) (steerPaths o) [] false (steerBody o c) s := by
    show execSteer o c slc s = _
    simp only [execSteer, hu]
  have hsplit := x.bound_eq_and [c, slc] (steerPaths o)
  cases hin : x.bound [c, slc] [] with
  | false =>
    have hraise : exec (.steer o c slc) s = .next (s.raise s.cur.unit s.cur.slot (illegal 1)) := by rw [hexec, hin]; rfl
    have hnot : x.bound [c, slc] (steerPaths o) = false := by rw [hsplit, hin, Bool.false_and]
    exact ⟨fun _ => hraise, fun _ _ => hraise, fun _ hb => absurd (hnot.symm.trans hb) Bool.false_ne_true,
      fun _ hb => absurd (hnot.symm.trans hb) Bool.false_ne_true⟩
  | true =>
    have hreads : x.bound (steerReads x c slc ++ steerReads x c slc) [] = true := by
      refine Unit.bound_mono hin fun ch k hk => ⟨k, ?_⟩
      exact steerReads_subset (by simpa using hk)
    have hbound : x.bound (steerReads x c slc ++ steerReads x c slc) (steerPaths o) = x.bound [c, slc] (steerPaths o) := by
      rw [Unit.bound_eq_and, hreads, hsplit, hin]
    rw [hexec, hin, Bool.not_true, if_neg Bool.false_ne_true]
    exact ⟨fun ha => runWith_unavailable hu (.inl ha), fun _ hb => runWith_unavailable hu (.inr (hbound.trans hb)),
      fun ha hb ht => runWith_empty hu hc ha (hbound.trans hb) ht,
      fun ha _ _ hq => absurd (hq.symm.trans (State.isSeq_of_available_avT ha)) Bool.noConfusion⟩

omit hc in
/-- MERGE waits for what R41 lets it take. -/
theorem notReady_merge (o ca cb : Chan) : NotReady s x (.merge o ca cb) avT (exec (.merge o ca cb) s) := by
  have hexec : exec (.merge o ca cb) s =
      if !x.bound (Instr.merge o ca cb).srcs [] then .next (s.raise s.cur.unit s.cur.slot (illegal 1))
      else if !x.mergeReady (mergeIns ca cb) && s.available s.cur.unit x avT && x.bound [] [o] then .next s
      else runWith (.merge o ca cb) avT [] [] [o] [] false (mergeBody o ca cb) s := by
    show execMerge o ca cb s = _
    simp only [execMerge, hu]
    rfl
  have hsplit : x.bound (Instr.merge o ca cb).srcs (Instr.merge o ca cb).outs =
      (x.bound (Instr.merge o ca cb).srcs [] && x.bound [] [o]) := x.bound_eq_and _ _
  constructor
  · intro ha
    rw [hexec, ha, Bool.and_false, Bool.false_and, if_neg Bool.false_ne_true, runWith_unavailable hu (.inl ha), ite_self]
  · intro ha hb
    rw [hsplit] at hb
    rw [hexec]
    cases hin : x.bound (Instr.merge o ca cb).srcs [] with
    | false => rfl
    | true =>
      have hout : x.bound ([] ++ []) [o] = false := by simpa [hin] using hb
      rw [runWith_unavailable hu (.inr hout), show x.bound [] [o] = false from hout, Bool.and_false]
      rfl
  · intro ha hb ht
    have hready : x.mergeReady (mergeIns ca cb) = false := ht
    simp only [hsplit, Bool.and_eq_true] at hb
    simp [hexec, hb, ha, hready]
  · exact fun ha _ _ hq => absurd (hq.symm.trans (State.isSeq_of_available_avT ha)) Bool.noConfusion

end

end Sys2Proof.Machine

namespace Sys2Proof
open Machine

/-- Settles O18: the frame answers before the body, and STEER and MERGE look at their channels as the frame does. -/
theorem readinessOfAWord : Obligations.ReadinessOfAWord := by
  intro s x i a hu ha hc
  have h : NotReady s x i a (exec i s) := by
    rcases exec_runsInFrame ha s with ⟨o, c, slc, rfl⟩ | ⟨o, ca, cb, rfl⟩ | h
    · obtain rfl : avT = a := Option.some.inj ha
      exact notReady_steer hu hc o c slc
    · obtain rfl : avT = a := Option.some.inj ha
      exact notReady_merge hu o ca cb
    · exact h.notReady hu hc
  exact ⟨h.unavailable, h.unbound, h.empty, h.hazard⟩

end Sys2Proof
end

section
/-! SUPPORT. Loads from the scratchpad (R95 to R97, R353, R380, R381): what a read of a block comes to, here and from another
station, and the ways in which LDB and LDBX end. -/
namespace Sys2Proof.Machine

/-! ### A read under way (R353) -/

/-- A read of a firing whose value is to land is under way. -/
theorem State.Fires.fired_awaitLand {s : State} {x y : Unit} {i j : Instr} (h : s.Fires i x) (l : Land) (r : State × Nat) :
    s.fired y j (awaitLand s.cur.unit x.isSeq l r) = s.loadUnderWay r x l := by
  unfold awaitLand State.loadUnderWay
  split
  · rfl
  · exact h.fired_block _

/-! ### A read of a block, here or sent (R95, R96, R380) -/

section
variable (t : State) (u : Nat) (x : Unit) (h : W64) (b : Block)

@[simp] theorem State.noteOor_scratch (os : List Nat) : (t.noteOor u h b os).scratch = t.scratch :=
  (congrArg State.scratch (t.noteOor_rest u h b os) :)

/-- An out-of-range access changes only SY.OOR of the unit that makes it. -/
theorem State.lmNow_noteOor (os : List Nat) : (t.noteOor u h b os).lmNow u x = t.lmNow u x := by
  unfold State.noteOor
  split
  · cases hu : t.unit? u <;> simp [State.lmNow, hu, Unit.noteOor]
  · rfl

theorem State.blockBytes_noteOor (os : List Nat) (stn : Nat) (c : Block) (o n : Nat) :
    (t.noteOor u h b os).blockBytes stn c o n = t.blockBytes stn c o n := by
  simp [State.blockBytes, State.blockByte]

variable {t u x h b} {d : Dst} {offs : List Nat} {n : Nat} {seen : List Nat}

theorem readBlock_here (hown : hStn h = stnOf u) : readBlock u x t d h b offs n seen =
    awaitLand u x.isSeq (x.landOf (t.lmNow u x) d) ((t.noteOor u h b seen).readHere u (x.landOf (t.lmNow u x) d)
      (offs.flatMap fun o => t.blockBytes (stnOf u) b o n)) := by
  simp only [readBlock, hown, if_true, State.lmNow_noteOor, State.blockBytes_noteOor]

theorem readBlock_sent (hfar : hStn h ≠ stnOf u) : readBlock u x t d h b offs n seen =
    awaitLand u x.isSeq (x.landOf (t.lmNow u x) d) ((t.noteOor u h b seen).send u
      (.blockRead h offs n (x.landOf (t.lmNow u x) d))) := by
  simp only [readBlock, hfar, if_false, State.lmNow_noteOor]

end

/-- A load of a block by a firing: from the own station its bytes land two cycles later, from another one it is sent. -/
theorem State.Fires.fired_readBlock {s t : State} {x y : Unit} {i j : Instr} {d : Dst} {h : W64} {b : Block} {offs : List Nat}
    {n : Nat} {seen : List Nat} (hf : s.Fires i x) :
    (hStn h = stnOf s.cur.unit → s.fired y j (readBlock s.cur.unit x t d h b offs n seen) =
      s.loadHere (t.noteOor s.cur.unit h b seen) x (x.landOf (t.lmNow s.cur.unit x) d)
        (offs.flatMap fun o => t.blockBytes (stnOf s.cur.unit) b o n)) ∧
    (hStn h ≠ stnOf s.cur.unit → s.fired y j (readBlock s.cur.unit x t d h b offs n seen) =
      s.loadSent (t.noteOor s.cur.unit h b seen) x (x.landOf (t.lmNow s.cur.unit x) d)
        (.blockRead h offs n (x.landOf (t.lmNow s.cur.unit x) d))) := by
  refine ⟨fun hown => ?_, fun hfar => ?_⟩
  · rw [readBlock_here hown, hf.fired_awaitLand]
    rfl
  · rw [readBlock_sent hfar, hf.fired_awaitLand]
    rfl

/-- The byte of a block, by its address in the scratchpads. -/
theorem State.blockByte_taken (s : State) (l : List Src) (stn : Nat) (b : Block) (o : Nat) :
    (s.taken l).blockByte stn b o =
      if o < 32 * 2 ^ b.k then Memory.read s.scratch (stn * 2 ^ 22 + 32 * b.first + o) else 0 := by
  rw [State.blockByte, State.taken_scratch, Block.bytes, blockAddr]

/-! ### LDB and LDBX -/

section
variable {u : Nat} {t : State} {x : Unit} {d : Dst} {hv : W64} {b : Block}

theorem loadBlock_stale (hn : isSignalHandle hv = false) (hb : ∀ b, t.resolveBlock x.ctx hv ≠ .ok b) :
    loadBlock u x t d hv = .trap (stale hv) := by
  simp [loadBlock, hn, State.resolveBlock_stale hb]

theorem loadBlock_misaligned (hn : isSignalHandle hv = false) (hb : t.resolveBlock x.ctx hv = .ok b)
    (ha : hOff hv % (if isVDst d then 4 else 8) ≠ 0) : loadBlock u x t d hv = .trap (misaligned 0) := by
  cases d <;> simp_all [loadBlock, isVDst]

theorem loadBlock_aligned (hn : isSignalHandle hv = false) (hb : t.resolveBlock x.ctx hv = .ok b)
    (ha : hOff hv % (if isVDst d then 4 else 8) = 0) : loadBlock u x t d hv =
      readBlock u x t d hv b [hOff hv] (if isVDst d then x.lanes * 4 else 8)
        ((List.range (if isVDst d then x.lanes * 4 else 8)).map fun k => hOff hv + k) := by
  cases d <;> simp_all [loadBlock, isVDst]

theorem loadBlock_staleSignal (hy : isSignalHandle hv = true) (hs : t.signalOk x.part hv = false) :
    loadBlock u x t d hv = .trap (stale hv) := by
  simp [loadBlock, hy, hs]

theorem loadBlock_signalRegister (hy : isSignalHandle hv = true) (hs : t.signalOk x.part hv = true) (hd : isVDst d = true) :
    loadBlock u x t d hv = .trap (illegal 2) := by
  cases d <;> simp_all [loadBlock, isVDst]

/-- A signal handle gives the signal to a destination that is no V register (R97). -/
theorem loadBlock_signal (hy : isSignalHandle hv = true) (hs : t.signalOk x.part hv = true) (hd : isVDst d = false) :
    loadBlock u x t d hv = awaitLand u x.isSeq (x.landOf 0 d)
      (if hStn hv = stnOf u then t.readHere u (x.landOf 0 d) (bytesOf 8 (t.signal (hSignal hv)).toNat)
       else t.send u (.blockRead hv [0] 8 (x.landOf 0 d))) := by
  cases d <;> simp_all [loadBlock, isVDst]

end

/-- What LDBX does with the block that its handle names. -/
def indexedLoad (u : Nat) (x : Unit) (t : State) (sc : Fin 4) (vd : VReg) (h : W64) (vi : VReg) (b : Block) : Res :=
  if (liveLanes x (t.lmNow u x)).any fun j => idxOff x h sc vi j % 4 != 0 then .trap (misaligned 0)
  else readBlock u x t (.v vd) h b ((List.range x.lanes).map (idxOff x h sc vi)) 4
    ((liveLanes x (t.lmNow u x)).flatMap fun j => (List.range 4).map fun k => idxOff x h sc vi j + k)

theorem any_liveLanes {x : Unit} {lm : BitVec 128} {p : Nat → Bool} :
    (liveLanes x lm).any p = true ↔ ∃ j, (j < x.lanes ∧ lm.getLsbD j = true) ∧ p j = true := by
  simp [liveLanes, and_assoc]

section
variable {s : State} {x : Unit} {d : Dst} {h : Src} {sc : Fin 4} {vd vi : VReg}

theorem State.Fires.exec_ldb (hf : s.Fires (.ldb d h) x) :
    exec (.ldb d h) s = .next (s.fired x (.ldb d h) (loadBlock s.cur.unit x (s.taken [h]) d (s.opVal x h))) :=
  (hf.answers (execLdb d h) rfl rfl rfl rfl rfl rfl rfl rfl :)

theorem State.Fires.exec_ldbx (hf : s.Fires (.ldbx sc vd h vi) x) :
    exec (.ldbx sc vd h vi) s = .next (s.fired x (.ldbx sc vd h vi) (match (s.taken [h]).needBlock x.ctx (s.opVal x h) with
      | .error t => .trap t
      | .ok b => indexedLoad s.cur.unit x (s.taken [h]) sc vd (s.opVal x h) vi b)) := by
  refine (hf.answers (execLdbx sc vd h vi) rfl rfl rfl rfl rfl (by cases h <;> rfl) rfl rfl).trans ?_
  rfl

end
end Sys2Proof.Machine

namespace Sys2Proof
open Machine

/-- Settles O13: a load reads its block here, or sends for it, once the handle and the offsets are sound. -/
theorem scratchpadLoads : Obligations.ScratchpadLoads := by
  intro s x d vd vi h sc u hv t own byte loads
  have loadsOf {i : Instr} {d : Dst} {b : Block} {offs : List Nat} {n : Nat} {seen : List Nat} (hf : s.Fires i x)
      (he : exec i s = .next (s.fired x i (readBlock u x t d hv b offs n seen))) : loads i d b offs n seen := by
    obtain ⟨hhere, hsent⟩ := hf.fired_readBlock (y := x) (j := i) (t := t) (d := d) (h := hv) (b := b) (offs := offs) (n := n)
      (seen := seen)
    refine ⟨fun hown => ?_, fun hfar => he.trans (by rw [hsent hfar])⟩
    rw [he, hhere hown]
    simp only [State.blockBytes, State.blockByte_taken, t, u, byte]
  refine ⟨fun hf => ⟨fun hn b hb => ⟨fun ha => ?ldb, fun ha => ?misaligned⟩, fun hn hb => ?stale, fun hy hs => ?staleSignal,
      fun hy hs => ⟨fun hd => ?lanes, fun hd hown => ?signal, fun hd hfar => ?signalSent⟩⟩,
    fun hf => ⟨fun hy => ?signalX, fun hn hb => ?staleX, fun hn b hb => ⟨fun ha => ?misalignedX, fun ha => ?ldbx⟩⟩⟩
  case ldb => exact loadsOf hf (hf.exec_ldb.trans (by rw [loadBlock_aligned hn hb ha]))
  case misaligned => exact hf.exec_ldb.trans (by rw [loadBlock_misaligned hn hb ha, hf.fired_trap])
  case stale => exact hf.exec_ldb.trans (by rw [loadBlock_stale hn hb, hf.fired_trap])
  case staleSignal => exact hf.exec_ldb.trans (by rw [loadBlock_staleSignal hy hs, hf.fired_trap])
  case lanes => exact hf.exec_ldb.trans (by rw [loadBlock_signalRegister hy hs hd, hf.fired_trap])
  case signal =>
    refine hf.exec_ldb.trans ?_
    rw [loadBlock_signal hy hs hd, if_pos hown, hf.fired_awaitLand]
    have hsig : (s.taken [h]).signal (hSignal hv) = s.signal (hSignal hv) := by simp [State.signal]
    rw [hsig]
    rfl
  case signalSent =>
    refine hf.exec_ldb.trans ?_
    rw [loadBlock_signal hy hs hd, if_neg hfar, hf.fired_awaitLand]
    rfl
  case signalX =>
    rw [hf.exec_ldbx, State.needBlock, if_pos hy]
    exact congrArg _ (hf.fired_trap _)
  case staleX =>
    rw [hf.exec_ldbx, State.needBlock, if_neg (ne_true_of_eq_false hn), State.resolveBlock_stale hb]
    exact congrArg _ (hf.fired_trap _)
  case misalignedX =>
    obtain ⟨j, hj, hoff⟩ := ha
    have hany : ((liveLanes x (t.lmNow u x)).any fun j => idxOff x hv sc vi j % 4 != 0) = true :=
      any_liveLanes.2 ⟨j, hj, bne_iff_ne.2 hoff⟩
    rw [hf.exec_ldbx, State.needBlock, if_neg (ne_true_of_eq_false hn), hb]
    exact congrArg _ ((congrArg (s.fired x _) (if_pos hany)).trans (hf.fired_trap _))
  case ldbx =>
    have hany : ¬ ((liveLanes x (t.lmNow u x)).any fun j => idxOff x hv sc vi j % 4 != 0) = true := by
      rw [any_liveLanes]
      exact fun ⟨j, hj, hoff⟩ => bne_iff_ne.1 hoff (ha j hj)
    refine loadsOf hf ?_
    rw [hf.exec_ldbx, State.needBlock, if_neg (ne_true_of_eq_false hn), hb]
    exact congrArg (Host.Outcome.next ∘ s.fired x _) (if_neg hany)

end Sys2Proof
end

section
/-! SUPPORT. Tensor maps (R77, R290, R383, R428, R440): the handle of a row, and what TMAP, LDT and STT do with it. -/
namespace Sys2Proof.Machine

/-! ### A handle with another offset (R75) -/

section
variable (h : W64) {off : Nat} (ho : off < 65536)
include ho

theorem toNat_withOff : (withOff h off).toNat = h.toNat - h.toNat % 2 ^ 16 + off := by
  have hlt := h.isLt
  simp only [withOff, w64, hOff, fld, Nat.shiftRight_zero, BitVec.toNat_ofNat]
  omega

theorem withOff_eq : withOff h off = w64 (h.toNat - h.toNat % 2 ^ 16 + off) := by
  have hmod : off % 2 ^ 16 = off := Nat.mod_eq_of_lt ho
  rw [withOff, hOff, fld, Nat.shiftRight_zero, hmod]

theorem hOff_withOff : hOff (withOff h off) = off := by
  rw [hOff, fld, toNat_withOff h ho, Nat.shiftRight_zero]
  omega

/-- The fields of a handle above its offset stay. -/
theorem fld_withOff {lo : Nat} (hlo : 16 ≤ lo) (n : Nat) : fld (withOff h off).toNat lo n = fld h.toNat lo n := by
  obtain ⟨k, rfl⟩ := Nat.exists_eq_add_of_le hlo
  have hshift : (withOff h off).toNat >>> 16 = h.toNat >>> 16 := by
    rw [toNat_withOff h ho]
    simp only [Nat.shiftRight_eq_div_pow]
    omega
  rw [fld, fld, Nat.shiftRight_add, Nat.shiftRight_add, hshift]

theorem hStn_withOff : hStn (withOff h off) = hStn h := fld_withOff h ho (by omega) _

theorem isSignalHandle_withOff : isSignalHandle (withOff h off) = isSignalHandle h := by
  rw [isSignalHandle, hSize, fld_withOff h ho (by omega), ← hSize, ← isSignalHandle]

end

/-! ### The handle of a row (R290) -/

/-- The offset of a row: ROWB bytes after the one before it, the row number taken modulo ROWS. -/
def mapOff (h geo idx : W64) : Nat :=
  h.toNat % 2 ^ 16 + idx.toNat % (geo.toNat / 2 ^ 16 % 2 ^ 16) * (geo.toNat % 2 ^ 16)

/-- A sound tensor map, and a row whose offset a handle can state. -/
structure MapSound (h geo idx : W64) : Prop where
  high : geo.toNat < 2 ^ 32
  rows : geo.toNat / 2 ^ 16 % 2 ^ 16 ≠ 0
  rowb : geo.toNat % 2 ^ 16 ≠ 0
  aligned : geo.toNat % 2 ^ 16 % 4 = 0
  off : mapOff h geo idx < 65536

section
variable {h geo idx : W64}

/-- What makes a handle of a row, in the order of the checks. -/
theorem tmapHandle_eq : tmapHandle h geo idx =
    if geo.toNat / 2 ^ 32 % 2 ^ 32 ≠ 0 ∨ geo.toNat / 2 ^ 16 % 2 ^ 16 = 0 ∨ geo.toNat % 2 ^ 16 = 0 ∨ geo.toNat % 2 ^ 16 % 4 ≠ 0 then
      .error (illegal 2)
    else if 65536 ≤ mapOff h geo idx then .error (illegal 2) else .ok (withOff h (mapOff h geo idx)) := by
  have hfld (x lo : Nat) : fld x lo 16 = x / 2 ^ lo % 2 ^ 16 := by rw [fld, Nat.shiftRight_eq_div_pow]
  have hhigh : fld geo.toNat 32 32 = geo.toNat / 2 ^ 32 % 2 ^ 32 := by rw [fld, Nat.shiftRight_eq_div_pow]
  simp only [tmapHandle, hOff, hfld, hhigh, pow_zero, Nat.div_one, mapOff, Bool.or_eq_true, bne_iff_ne, decide_eq_true_eq,
    or_assoc]
  exact if_congr Iff.rfl rfl rfl

theorem tmapHandle_sound (hs : MapSound h geo idx) : tmapHandle h geo idx = .ok (withOff h (mapOff h geo idx)) := by
  obtain ⟨hgeo, hrows, hrowb, hal, hoff⟩ := hs
  have hhigh : geo.toNat / 2 ^ 32 % 2 ^ 32 = 0 := by rw [Nat.div_eq_of_lt hgeo, Nat.zero_mod]
  rw [tmapHandle_eq, if_neg (by tauto), if_neg hoff.not_ge]

theorem tmapHandle_unsound (hs : ¬ MapSound h geo idx) : tmapHandle h geo idx = .error (illegal 2) := by
  have hhigh : geo.toNat / 2 ^ 32 % 2 ^ 32 = 0 ↔ geo.toNat < 2 ^ 32 := by
    have hlt := geo.isLt
    omega
  rw [tmapHandle_eq]
  split
  next => rfl
  next hno =>
    refine if_pos (not_lt.1 fun hoff => hs ?_)
    simp only [not_or, not_not, hhigh] at hno
    obtain ⟨hgeo, hrows, hrowb, hal⟩ := hno
    exact ⟨hgeo, hrows, hrowb, hal, hoff⟩

theorem tmapBlock_refused (hs : ¬ MapSound h geo idx ∨ isSignalHandle h = true) : tmapBlock h geo idx = .error (illegal 2) := by
  by_cases hsound : MapSound h geo idx
  · have hy := hs.resolve_left (not_not.2 hsound)
    rw [tmapBlock, tmapHandle_sound hsound]
    exact if_pos ((isSignalHandle_withOff h hsound.off).trans hy)
  · rw [tmapBlock, tmapHandle_unsound hsound]

theorem tmapBlock_sound (hs : MapSound h geo idx) (hn : isSignalHandle h = false) :
    tmapBlock h geo idx = .ok (withOff h (mapOff h geo idx)) := by
  rw [tmapBlock, tmapHandle_sound hs]
  exact if_neg (ne_true_of_eq_false ((isSignalHandle_withOff h hs.off).trans hn))

end

/-! ### The bytes of a stored lane vector (R42) -/

/-- Of stored bytes at distinct offsets each one inside the block is found there. -/
theorem State.read_blockPut_mem (t : State) (stn : Nat) (b : Block) {bs : List (Nat × Byte)} (hn : (bs.map (·.1)).Nodup) {o : Nat}
    {v : Byte} (hm : (o, v) ∈ bs) (ho : o < b.bytes) :
    Memory.read (t.blockPut stn b bs).scratch (blockAddr stn b o) = v := by
  obtain ⟨p, q, rfl⟩ := List.append_of_mem hm
  refine t.read_blockPut_last stn b ho fun e he heq => ?_
  rw [List.map_append, List.map_cons] at hn
  exact (List.nodup_cons.1 (List.nodup_append.1 hn).2.1).1 (List.mem_map.2 ⟨e, he, heq⟩)

/-- The bytes of different lanes stand at different offsets. -/
theorem nodup_laneOffsets (l : List Nat) (hl : l.Nodup) (off : Nat) (f : Nat → Lane) :
    ((l.flatMap fun j => laneBytes (off + 4 * j) (f j)).map (·.1)).Nodup := by
  rw [List.map_flatMap]
  simp only [laneBytes, List.map_map]
  refine List.nodup_flatMap.2 ⟨fun j _ => ?_, hl.imp fun hjk e he hf => ?_⟩
  · exact (List.nodup_range).map fun a b hab => by simpa using hab
  · simp only [Function.comp_def, List.mem_map, List.mem_range] at he hf
    obtain ⟨a, ha, rfl⟩ := he
    obtain ⟨c, hc, heq⟩ := hf
    omega

theorem mem_laneBytes {l : List Nat} {off j k : Nat} {f : Nat → Lane} (hj : j ∈ l) (hk : k < 4) :
    (off + 4 * j + k, BitVec.ofNat 8 ((f j).toNat >>> (8 * k))) ∈ l.flatMap fun j => laneBytes (off + 4 * j) (f j) :=
  List.mem_flatMap.2 ⟨j, hj, List.mem_map.2 ⟨k, List.mem_range.2 hk, rfl⟩⟩

/-! ### The instructions -/

section
variable {s : State} {x : Unit} {d : Dst} {vd vs : VReg} {sn : SReg} {idx : Src}

theorem State.Fires.exec_tmap (hf : s.Fires (.tmap d sn idx) x) :
    exec (.tmap d sn idx) s = .next (s.fired x (.tmap d sn idx)
      (match tmapHandle (x.sReg sn) (x.sReg (pairOf sn)) (s.opVal x idx) with
      | .error t => .trap t
      | .ok h => .write (s.taken [idx]) d 0 h 1)) := by
  refine (hf.answers (execTmap d sn idx) rfl rfl rfl rfl rfl (by cases idx <;> rfl) rfl rfl).trans ?_
  rfl

theorem State.Fires.exec_ldt (hf : s.Fires (.ldt vd sn idx) x) :
    exec (.ldt vd sn idx) s = .next (s.fired x (.ldt vd sn idx)
      (match tmapBlock (x.sReg sn) (x.sReg (pairOf sn)) (s.opVal x idx) with
      | .error t => .trap t
      | .ok h => loadBlock s.cur.unit x (s.taken [idx]) (.v vd) h)) := by
  refine (hf.answers (execLdt vd sn idx) rfl rfl rfl rfl rfl (by cases idx <;> rfl) rfl rfl).trans ?_
  rfl

theorem State.Fires.exec_stt (hf : s.Fires (.stt vs sn idx) x) :
    exec (.stt vs sn idx) s = .next (s.fired x (.stt vs sn idx)
      (match tmapBlock (x.sReg sn) (x.sReg (pairOf sn)) (s.opVal x idx) with
      | .error t => .trap t
      | .ok h => storeBlock s.cur.unit x (s.taken [idx]) h (.v vs) 0)) := by
  refine (hf.answers (execStt vs sn idx) rfl rfl rfl rfl rfl (by cases idx <;> rfl) rfl rfl).trans ?_
  rfl

end
end Sys2Proof.Machine

namespace Sys2Proof
open Machine

/-- Settles O15: through a sound map the row's handle is written, loaded through or stored through. -/
theorem tensorMapRows : Obligations.TensorMapRows := by
  intro s x d vd vs sn idx u hv geo rowb rows off rv sound t own lanes bs seen land
  have hsound : sound ↔ MapSound hv geo (s.opVal x idx) :=
    ⟨fun ⟨a, b, c, d, e⟩ => ⟨a, b, c, d, e⟩, fun ⟨a, b, c, d, e⟩ => ⟨a, b, c, d, e⟩⟩
  have hrow (hs : sound) : withOff hv (mapOff hv geo (s.opVal x idx)) = rv := withOff_eq hv (hsound.1 hs).off
  have hoff (hs : sound) : hOff rv = off := hrow hs ▸ hOff_withOff hv (hsound.1 hs).off
  have hstn (hs : sound) : hStn rv = hStn hv := hrow hs ▸ hStn_withOff hv (hsound.1 hs).off
  have hblock (hs : sound) (hn : isSignalHandle hv = false) : isSignalHandle rv = false :=
    hrow hs ▸ (isSignalHandle_withOff hv (hsound.1 hs).off).trans hn
  have hok (hs : sound) (hn : isSignalHandle hv = false) : tmapBlock hv geo (s.opVal x idx) = .ok rv :=
    hrow hs ▸ tmapBlock_sound (hsound.1 hs) hn
  have hldt (hf : s.Fires (.ldt vd sn idx) x) (hs : sound) (hn : isSignalHandle hv = false) :
      exec (.ldt vd sn idx) s = .next (s.fired x (.ldt vd sn idx) (loadBlock u x t (.v vd) rv)) := by
    rw [hf.exec_ldt, hok hs hn]
  have hstt (hf : s.Fires (.stt vs sn idx) x) (hs : sound) (hn : isSignalHandle hv = false) :
      exec (.stt vs sn idx) s = .next (s.fired x (.stt vs sn idx) (storeBlock u x t rv (.v vs) 0)) := by
    rw [hf.exec_stt, hok hs hn]
  have hstore {b : Block} (hs : sound) (hn : isSignalHandle hv = false) (hb : t.resolveBlock x.ctx rv = .ok b) (ha : off % 4 = 0) :
      storeBlock u x t rv (.v vs) 0 = writeBlock u t rv b bs := by
    rw [storeBlock_register (hblock hs hn) hb (by rwa [hoff hs]), hoff hs]
    rfl
  refine ⟨fun hf => ⟨fun hs => ?tmap, fun hs => ?tmapBad⟩,
    fun hf => ⟨fun hs => ?ldtBad, fun hs hn => ⟨fun hb => ?ldtStale, fun b hb => ⟨fun ha => ?ldtOff, fun ha hown => ?ldtHere,
      fun ha hfar => ?ldtSent⟩⟩⟩,
    fun hf => ⟨fun hs => ?sttBad, fun hs hn => ⟨fun hb => ?sttStale, fun b hb => ⟨fun ha => ?sttOff, fun ha hown => ?sttHere,
      fun ha hfar => ?sttSent⟩⟩⟩⟩
  case tmap =>
    rw [hf.exec_tmap, tmapHandle_sound (hsound.1 hs), hrow hs]
    rfl
  case tmapBad =>
    rw [hf.exec_tmap, tmapHandle_unsound (mt hsound.2 hs)]
    exact congrArg _ (hf.fired_trap _)
  case ldtBad =>
    rw [hf.exec_ldt, tmapBlock_refused (hs.imp_left (mt hsound.2))]
    exact congrArg _ (hf.fired_trap _)
  case ldtStale => rw [hldt hf hs hn, loadBlock_stale (hblock hs hn) hb, hf.fired_trap]
  case ldtOff => rw [hldt hf hs hn, loadBlock_misaligned (hblock hs hn) hb (by rwa [hoff hs]), hf.fired_trap]
  case ldtHere =>
    rw [hldt hf hs hn, loadBlock_aligned (hblock hs hn) hb (by rwa [hoff hs]), hf.fired_readBlock.1 ((hstn hs).trans hown), hoff hs]
    simp only [isVDst, if_true, List.flatMap_singleton]
    rfl
  case ldtSent =>
    rw [hldt hf hs hn, loadBlock_aligned (hblock hs hn) hb (by rwa [hoff hs]), hf.fired_readBlock.2 ((hstn hs).trans_ne hfar),
      hoff hs]
    rfl
  case sttBad =>
    rw [hf.exec_stt, tmapBlock_refused (hs.imp_left (mt hsound.2))]
    exact congrArg _ (hf.fired_trap _)
  case sttStale => rw [hstt hf hs hn, storeBlock_stale (hblock hs hn) hb, hf.fired_trap]
  case sttOff =>
    rw [hstt hf hs hn, storeBlock_misaligned (src := .v vs) (hblock hs hn) hb (by rwa [hoff hs]), hf.fired_trap]
  case sttHere =>
    refine ⟨_, ?_, rfl, fun j k hj hl hk hlt => ?_⟩
    · rw [hstt hf hs hn, hstore hs hn hb ha, writeBlock_here ((hstn hs).trans hown), State.fired_done]
    · rw [State.doneWith, (s.readBy_taken [idx]).store_scratch]
      exact s.read_blockPut_mem (stnOf u) b (nodup_laneOffsets _ (List.nodup_range.filter _) off _)
        (mem_laneBytes (List.mem_filter.2 ⟨List.mem_range.2 hj, hl⟩) hk) hlt
  case sttSent => rw [hstt hf hs hn, hstore hs hn hb ha, writeBlock_sent ((hstn hs).trans_ne hfar), State.fired_done]

end Sys2Proof
end

section
/-! SUPPORT. The return-address store (R235, R339, R413): what a push and a pop come to, with the slots that they spill to and
refill from. -/
namespace Sys2Proof.Machine

theorem toNat_w64_of_lt {v : Nat} (h : v < 2 ^ 64) : (w64 v).toNat = v :=
  (BitVec.toNat_ofNat ..).trans (Nat.mod_eq_of_lt h)

section
variable {t r : State} {u : Nat} {x : Unit} {a o : Nat} {e : Trap}

/-! ### The spill slot -/

theorem State.spillBlock_signal (h : isSignalHandle x.sys.rspill = true) : t.spillBlock x = .error (illegal 2) := if_pos h

theorem State.spillBlock_stale (h : isSignalHandle x.sys.rspill = false) (hb : ∀ b, t.resolveBlock x.ctx x.sys.rspill ≠ .ok b) :
    t.spillBlock x = .error (stale x.sys.rspill) := by
  rw [State.spillBlock, State.needBlock, if_neg (ne_true_of_eq_false h), State.resolveBlock_stale hb]

theorem State.spillBlock_ok {b : Block} (h : isSignalHandle x.sys.rspill = false)
    (hb : t.resolveBlock x.ctx x.sys.rspill = .ok b) : t.spillBlock x = .ok b := by
  rw [State.spillBlock, State.needBlock, if_neg (ne_true_of_eq_false h), hb]

theorem State.spillStore_core {v : Nat} (hu : isCore u = true) : t.spillStore u x o v =
    .ok ((t.noteLocal u ((wordBytes 8 o (w64 v)).map (·.1))).localPut (coreOf u) (wordBytes 8 o (w64 v))) := if_pos hu

theorem State.spillStore_error {v : Nat} (hu : isCore u = false) (hb : t.spillBlock x = .error e) :
    t.spillStore u x o v = .error e := by
  simp [State.spillStore, hu, hb]

theorem State.spillStore_block {v : Nat} {b : Block} (hu : isCore u = false) (hb : t.spillBlock x = .ok b) :
    t.spillStore u x o v = .ok ((t.noteOor u x.sys.rspill b ((wordBytes 8 o (w64 v)).map (·.1))).blockPut (hStn x.sys.rspill) b
      (wordBytes 8 o (w64 v))) := by
  simp [State.spillStore, hu, hb]

theorem State.spillLoad_core (hu : isCore u = true) : t.spillLoad u x o =
    .ok (t.noteLocal u ((List.range 8).map (o + ·)), ofBytes (t.localBytes (coreOf u) o 8)) := if_pos hu

theorem State.spillLoad_error (hu : isCore u = false) (hb : t.spillBlock x = .error e) : t.spillLoad u x o = .error e := by
  simp [State.spillLoad, hu, hb]

theorem State.spillLoad_block {b : Block} (hu : isCore u = false) (hb : t.spillBlock x = .ok b) : t.spillLoad u x o =
    .ok (t.noteOor u x.sys.rspill b ((List.range 8).map (o + ·)), t.blockNat (hStn x.sys.rspill) b o 8) := by
  simp [State.spillLoad, hu, hb]

/-! ### A push and a pop -/

theorem State.pushReturn_room (h : x.rstack.length < 16) :
    t.pushReturn u x a = .ok (t.onUnit u fun y => { y with rstack := BitVec.ofNat 15 a :: y.rstack }) := if_pos h

theorem State.pushReturn_limit (h : 16 ≤ x.rstack.length) (hl : spillLimit u x < spillOff u x + 8) :
    t.pushReturn u x a = .error (stackLimit x) := by
  rw [State.pushReturn, if_neg h.not_gt, if_pos hl]

section
variable (h : 16 ≤ x.rstack.length) (hl : spillOff u x + 8 ≤ spillLimit u x)
include h hl

theorem State.pushReturn_error (hs : t.spillStore u x (spillOff u x) (x.rstack.getLastD 0).toNat = .error e) :
    t.pushReturn u x a = .error e := by
  rw [State.pushReturn, if_neg h.not_gt, if_neg hl.not_gt, hs]

/-- With 16 entries held the oldest goes to the spill slot (R235). -/
theorem State.pushReturn_spills (hs : t.spillStore u x (spillOff u x) (x.rstack.getLastD 0).toNat = .ok r) :
    t.pushReturn u x a = .ok (r.onUnit u fun y => { y with
      rstack := BitVec.ofNat 15 a :: y.rstack.dropLast
      sys := { y.sys with
        rspill := withSpillOff u y.sys.rspill (spillOff u x + 8), spilled := y.sys.spilled + 1 } }) := by
  rw [State.pushReturn, if_neg h.not_gt, if_neg hl.not_gt, hs]

end

theorem State.popReturn_held {b : BitVec 15} {rest : List (BitVec 15)} (h : x.rstack = b :: rest) :
    t.popReturn u x = .ok (t.onUnit u fun y => { y with rstack := rest }, b.toNat) := by
  rw [State.popReturn, h]

theorem State.popReturn_empty (h : x.rstack = []) (hs : x.sys.spilled = 0) : t.popReturn u x = .error (trapOf .retEmpty) := by
  rw [State.popReturn, h]
  exact if_pos hs

/-- The offset of the slot that was spilled last. -/
def spillBack (u : Nat) (x : Unit) : Nat :=
  (spillOff u x + (if isCore u then 2 ^ 20 else 2 ^ 16) - 8) % (if isCore u then 2 ^ 20 else 2 ^ 16)

section
variable (h : x.rstack = []) (hs : x.sys.spilled ≠ 0)
include h hs

theorem State.popReturn_error (hl : t.spillLoad u x (spillBack u x) = .error e) : t.popReturn u x = .error e := by
  rw [State.popReturn, h]
  dsimp only
  rw [if_neg hs, ← spillBack, hl]

/-- With none held a spilled address comes back (R235). -/
theorem State.popReturn_refills {v : Nat} (hl : t.spillLoad u x (spillBack u x) = .ok (r, v)) :
    t.popReturn u x = .ok (r.onUnit u fun y => { y with
      sys := { y.sys with rspill := withSpillOff u y.sys.rspill (spillBack u x), spilled := y.sys.spilled - 1 } }, v % 2 ^ 15) := by
  rw [State.popReturn, h]
  dsimp only
  rw [if_neg hs, ← spillBack, hl]

end

/-! ### CALL, CALLI and RET -/

theorem callTo_pushed {pc : Nat} (h : t.pushReturn u x (x.pc + 1) = .ok r) : callTo u x t (some pc) = .jump r pc := by
  simp [callTo, h]

theorem callTo_refused {pc : Nat} (h : t.pushReturn u x (x.pc + 1) = .error e) : callTo u x t (some pc) = .trap e := by
  simp [callTo, h]

/-- What RET does with what it pops. -/
def returnTo (u : Nat) (p : Except Trap (State × Nat)) : Res :=
  match p with
  | .error t => .trap t
  | .ok (s, a) => goto s (absTarget u (w64 a))

/-- The address popped is a program counter's, and its target is looked at like any other (R27). -/
theorem returnTo_ok {v : Nat} (hv : v < 2 ^ 15) :
    (v < storeSize u → returnTo u (.ok (t, v)) = .jump t v) ∧
    (storeSize u ≤ v → returnTo u (.ok (t, v)) = .trap (illegal 4)) := by
  have hword : (w64 v).toNat = v := toNat_w64_of_lt (hv.trans (by omega))
  refine ⟨fun h => ?_, fun h => ?_⟩
  · rw [returnTo, absTarget_inside (by rwa [hword]), hword]
    rfl
  · rw [returnTo, absTarget_outside (by rwa [hword])]
    rfl

end

section
variable {s : State} {x : Unit} {imm : BitVec 22} {a : Src}

theorem State.Fires.exec_call (h : s.Fires (.call imm) x) :
    exec (.call imm) s = .next (s.fired x (.call imm) (callTo s.cur.unit x (s.taken []) (relTarget s.cur.unit x.pc imm))) :=
  (h.answers (execCall imm) rfl rfl rfl rfl rfl rfl rfl rfl :)

theorem State.Fires.exec_calli (h : s.Fires (.calli a) x) :
    exec (.calli a) s = .next (s.fired x (.calli a) (callTo s.cur.unit x (s.taken [a]) (absTarget s.cur.unit (s.opVal x a)))) :=
  (h.answers (execCalli a) rfl rfl rfl rfl rfl rfl rfl rfl :)

theorem State.Fires.exec_ret (h : s.Fires .ret x) :
    exec .ret s = .next (s.fired x .ret (returnTo s.cur.unit ((s.taken []).popReturn s.cur.unit x))) :=
  (h.answers execRet rfl rfl rfl rfl rfl rfl rfl rfl :)

end
end Sys2Proof.Machine

namespace Sys2Proof
open Machine

/-- Settles O29: the target first, then the push; a pop, then its target. -/
theorem callsAndReturns : Obligations.CallsAndReturns := by
  intro s x imm a u rel inside ret off size back spill noBlock bytes calls refills t slots
  have hbytes : wordBytes 8 off (w64 (x.rstack.getLastD 0).toNat) = bytes := by
    rw [wordBytes, toNat_w64_of_lt ((BitVec.isLt _).trans (by omega))]
  have hback : spillBack u x = back := rfl
  have callsOf {i : Instr} {t : State} {pc : Nat} (hf : s.Fires i x)
      (he : exec i s = .next (s.fired x i (callTo u x t (some pc)))) : calls i t pc := by
    have pushed {r : State} (hp : t.pushReturn u x (x.pc + 1) = .ok r) : exec i s = .next (s.jumpTo r pc) := by
      rw [he, callTo_pushed hp, State.fired_jump]
    have refused {e : Trap} (hp : t.pushReturn u x (x.pc + 1) = .error e) : exec i s = .next (s.raised e) := by
      rw [he, callTo_refused hp, hf.fired_trap]
    refine ⟨fun h => pushed (State.pushReturn_room h), fun h hl => refused (State.pushReturn_limit h hl), fun h hl => ?_⟩
    refine ⟨fun hu => pushed (State.pushReturn_spills h hl ?_),
      fun hu hy => refused (State.pushReturn_error h hl (State.spillStore_error hu (State.spillBlock_signal hy))),
      fun hu ⟨hn, hb⟩ => refused (State.pushReturn_error h hl (State.spillStore_error hu (State.spillBlock_stale hn hb))),
      fun hu hn b hb => pushed (State.pushReturn_spills h hl ?_)⟩
    · rw [State.spillStore_core hu, hbytes]
    · rw [State.spillStore_block hu (State.spillBlock_ok hn hb), hbytes]
  have refillsOf {r : State} {v : Nat} (hf : s.Fires .ret x) (h : x.rstack = []) (hs : x.sys.spilled ≠ 0)
      (hl : t.spillLoad u x back = .ok (r, v)) : refills r v := by
    obtain ⟨hin, hout⟩ := returnTo_ok (t := r.onUnit u fun y => { y with
      sys := { y.sys with rspill := withSpillOff u y.sys.rspill back, spilled := y.sys.spilled - 1 } }) (u := u)
      (v := v % 2 ^ 15) (Nat.mod_lt _ (by omega))
    have he := hf.exec_ret
    rw [State.popReturn_refills h hs hl, hback] at he
    exact ⟨fun hv => he.trans (by rw [hin hv, State.fired_jump]), fun hv => he.trans (by rw [hout hv, hf.fired_trap])⟩
  have refused {e : Trap} (hf : s.Fires .ret x) (hp : t.popReturn u x = .error e) : exec .ret s = .next (s.raised e) := by
    rw [hf.exec_ret, hp]
    exact congrArg _ (hf.fired_trap e)
  refine ⟨fun hf hout => ?callOut, fun hf hin => callsOf hf (by rw [hf.exec_call, relTarget_inside hin]), fun hf hout => ?calliOut,
    fun hf hin => callsOf hf (by rw [hf.exec_calli, absTarget_inside hin]), fun hf b rest hx => ?held,
    fun hf hx hs => refused hf (State.popReturn_empty hx hs), fun hf hx hs => ⟨fun hu => refillsOf hf hx hs (State.spillLoad_core hu),
      fun hu hy => refused hf (State.popReturn_error hx hs (State.spillLoad_error hu (State.spillBlock_signal hy))),
      fun hu ⟨hn, hb⟩ => refused hf (State.popReturn_error hx hs (State.spillLoad_error hu (State.spillBlock_stale hn hb))),
      fun hu hn b hb => refillsOf hf hx hs (State.spillLoad_block hu (State.spillBlock_ok hn hb))⟩⟩
  case callOut =>
    rw [hf.exec_call, relTarget_outside hout]
    exact congrArg _ (hf.fired_trap _)
  case calliOut =>
    rw [hf.exec_calli, absTarget_outside hout]
    exact congrArg _ (hf.fired_trap _)
  case held =>
    obtain ⟨hin, hout⟩ := returnTo_ok (t := t.onUnit u fun y => { y with rstack := rest }) (u := u) b.isLt
    have he := hf.exec_ret
    rw [State.popReturn_held hx] at he
    exact ⟨fun hv => he.trans (by rw [hin hv, State.fired_jump]), fun hv => he.trans (by rw [hout hv, hf.fired_trap])⟩

end Sys2Proof
end

section
/-! SUPPORT. What a write at the homes leaves unchanged (R149 to R159, R297), and so what the posting of a record and the
reporting of a fault leave (R227, R247 to R249). -/
namespace Sys2Proof.Machine

/-! ### Changes of the homes -/

/-- `t` comes from `s` by what home slices do: memories, lines, replicas and their invalidations, the ports of peers, and the
counters for fresh numbers may differ. -/
def State.HomeStep (s t : State) : Prop := t = { s with
  dram := t.dram, host := t.host, peer := t.peer, lines := t.lines, replicas := t.replicas, presence := t.presence
  invals := t.invals, mainPorts := t.mainPorts, ids := t.ids, free := t.free }

namespace State.HomeStep
variable {s t r : State}

theorem refl (s : State) : s.HomeStep s := rfl

theorem trans (h : s.HomeStep t) (g : t.HomeStep r) : s.HomeStep r := by
  unfold State.HomeStep at *
  rw [g, h]

/-- A run of such changes is one. -/
theorem foldl {α : Type} (f : State → α → State) (hf : ∀ (s : State) a, s.HomeStep (f s a)) (l : List α) (s : State) :
    s.HomeStep (l.foldl f s) := by
  induction l generalizing s with
  | nil => exact .refl s
  | cons a l ih => exact (hf s a).trans (ih _)

theorem ite {p : Prop} [Decidable p] (ht : s.HomeStep t) (hr : s.HomeStep r) : s.HomeStep (if p then t else r) := by
  split
  · exact ht
  · exact hr

end State.HomeStep

section
variable (s : State)

theorem State.homeStep_rawWrite (k : Kind) (bs : List (Nat × Byte)) : s.HomeStep (s.rawWrite k bs) := by
  cases k <;> rfl

theorem State.homeStep_putLine (key : Nat) (x : Line) : s.HomeStep (s.putLine key x) := rfl

theorem State.homeStep_writeBack (key : Nat) : s.HomeStep (s.writeBack key) := by
  unfold State.writeBack
  split
  · exact .refl s
  · exact (s.homeStep_rawWrite _ _).trans (State.homeStep_putLine _ _ _)

theorem State.homeStep_evict (key : Nat) : s.HomeStep (s.evict key) := (s.homeStep_writeBack key).trans rfl

theorem State.homeStep_pickFree {α : Type} {l : List α} {t : State} {a : α} (h : s.pickFree l = some (t, a)) : s.HomeStep t := by
  match l, h with
  | [_], h =>
    obtain ⟨rfl, -⟩ := Prod.mk.inj (Option.some.inj h)
    rfl
  | _ :: _ :: _, h =>
    obtain ⟨rfl, -⟩ := Prod.mk.inj (Option.some.inj h)
    rfl

theorem State.homeStep_vacate (o : Occupant) : s.HomeStep (s.vacate o) := by
  cases o with
  | line key x => exact s.homeStep_evict key
  | replica r => rfl

theorem State.homeStep_takeWay {set way : Nat} {ws : List Nat} {t : State} (h : s.takeWay set ws = some (t, way)) :
    s.HomeStep t := by
  unfold State.takeWay at h
  dsimp only at h
  split at h
  next r hr =>
    obtain rfl : r = (t, way) := Option.some.inj h
    exact s.homeStep_pickFree hr
  next =>
    split at h
    next t' o hp =>
      obtain ⟨rfl, -⟩ := Prod.mk.inj (Option.some.inj h)
      exact (s.homeStep_pickFree hp).trans (State.homeStep_vacate _ o)
    next => cases h

theorem State.homeStep_makeWay (set : Nat) : s.HomeStep (s.makeWay set).1 := by
  unfold State.makeWay
  cases h : s.takeWay set (List.range 16) with
  | none => exact .refl s
  | some r => exact s.homeStep_takeWay h

theorem State.homeStep_makeZeroTag (set : Nat) : s.HomeStep (s.makeZeroTag set) := by
  unfold State.makeZeroTag
  refine .ite (.refl s) ?_
  split
  · exact .refl s
  · exact s.homeStep_evict _

theorem State.homeStep_settle (key : Nat) (x : Line) (dirty : BitVec 4) : s.HomeStep (s.settle key x dirty) := by
  refine .ite ?_ (s.homeStep_putLine key x)
  exact (State.HomeStep.trans (t := s.dropLine key) rfl (State.homeStep_makeZeroTag _ _)).trans (State.homeStep_putLine _ _ _)

theorem State.homeStep_sendFlit (port ty cid elem : Nat) (v : Lane) : s.HomeStep (s.sendFlit port ty cid elem v) :=
  .ite (.refl s) rfl

theorem State.homeStep_peerWrite (l : Loc) (raw : List (Nat × Byte)) : s.HomeStep (s.peerWrite l raw) :=
  .ite (.refl s) ((s.homeStep_sendFlit _ _ _ _ _).trans (State.homeStep_rawWrite _ _ _))

/-! ### A write at its home, part by part (R154, R156, R159) -/

/-- The state in which a write to a line meets the line: its use is stamped, and the invalidations of a device line are sent
(R158). -/
def State.writeSent (l : Loc) (ws : List Nat) : State :=
  if l.kind == .device then s.stamp.2.invalidate (floorTo l.addr 128 / 128) ws else s.stamp.2

/-- The bytes of a write to a line, by their addresses. -/
def lineCells (l : Loc) (bs : List (Nat × Byte)) : List (Nat × Byte) := bs.map fun b => (floorTo l.addr 128 + b.1, b.2)

/-- A write to a line that is not in the L2. -/
def State.writeAbsent (l : Loc) (cmode : Nat) (depot : Bool) (bs : List (Nat × Byte)) (use district : Nat) : State :=
  if depot then s
  else if cmode == 2 || s.setPinned (setOfLine district l) then s.rawWrite l.kind (lineCells l bs)
  else (s.makeWay (setOfLine district l)).1.putLine (lineKey l.kind district l.addr)
    ({ (newLine l district (s.makeWay (setOfLine district l)).2 use (cmode == 1) depot).write bs with
      excl := writtenExcl l.kind none }.awaitWay bs)

/-- A line as a write finds it, with its use stamped and its page known. -/
def Line.met (x : Line) (k : Kind) (use : Nat) (depot : Bool) : Line :=
  { x with use := use, depot := x.depot || depot, excl := writtenExcl k x.excl }

/-- A write to a line of the L2, which it meets as `x`. -/
def State.writeLine (l : Loc) (depot : Bool) (bs : List (Nat × Byte)) (district : Nat) (x : Line) : State :=
  let key := lineKey l.kind district l.addr
  let set := setOfLine district l
  match x.kind with
  | .zero =>
    if bs.all (fun b => b.2 == 0) then s.putLine key { x with dirty := if l.kind == .host then 0xF else x.dirty }
    else if s.setPinned set then
      (s.dropLine key).rawWrite l.kind ((List.range 128).map (fun o => (floorTo l.addr 128 + o, (0 : Byte))) ++ lineCells l bs)
    else (s.makeWay set).1.putLine key (({ x.toData with way := (s.makeWay set).2, dirty := 0xF }.write bs).awaitWay bs)
  | .filling =>
    if x.way == bypassWay then s.rawWrite l.kind (lineCells l bs)
    else s.putLine key (if depot then { x.write bs with dirty := x.dirty } else x.write bs)
  | .present =>
    if x.way == bypassWay then (s.evict key).rawWrite l.kind (lineCells l bs)
    else s.settle key (if depot then { x.write bs with dirty := x.dirty } else x.write bs) 0xF

section
variable {s} {p : Nat} {l : Loc} {cmode : Nat} {depot : Bool} {bs : List (Nat × Byte)} {ws : List Nat}

theorem State.homeWrite_keyless (h : s.keyless p l = true) : s.homeWrite p l cmode depot bs ws = s := if_pos h

theorem State.homeWrite_peer (h : s.keyless p l = false) (hk : l.kind = .peer) :
    s.homeWrite p l cmode depot bs ws = (s.writeSent l ws).peerWrite l (lineCells l bs) := by
  obtain ⟨k, a⟩ := l
  subst hk
  unfold State.homeWrite
  dsimp only
  rw [if_neg (ne_true_of_eq_false h)]
  rfl

/-- A write to stack or host memory: past the caches for a DEPOT page, and into the line where the L2 holds it. -/
theorem State.homeWrite_line (h : s.keyless p l = false) (hk : l.kind ≠ .peer) : s.homeWrite p l cmode depot bs ws =
    let t := if depot then (s.writeSent l ws).rawWrite l.kind (lineCells l bs) else s.writeSent l ws
    match t.line? (s.keyOf p l) with
    | none => t.writeAbsent l cmode depot bs s.ids (s.homeDistrict p l)
    | some x => t.writeLine l depot bs (s.homeDistrict p l) (x.met l.kind s.ids depot) := by
  obtain ⟨k, a⟩ := l
  cases k with
  | peer => exact absurd rfl hk
  | device | host =>
    unfold State.homeWrite
    dsimp only
    rw [if_neg (ne_true_of_eq_false h)]
    rfl

end

theorem State.homeStep_writeSent (l : Loc) (ws : List Nat) : s.HomeStep (s.writeSent l ws) := .ite rfl rfl

theorem State.homeStep_writeAbsent (l : Loc) (cmode : Nat) (depot : Bool) (bs : List (Nat × Byte)) (use district : Nat) :
    s.HomeStep (s.writeAbsent l cmode depot bs use district) :=
  .ite (.refl s) (.ite (s.homeStep_rawWrite _ _) ((s.homeStep_makeWay _).trans (State.homeStep_putLine _ _ _)))

theorem State.homeStep_writeLine (l : Loc) (depot : Bool) (bs : List (Nat × Byte)) (district : Nat) (x : Line) :
    s.HomeStep (s.writeLine l depot bs district x) := by
  unfold State.writeLine
  dsimp only
  split
  next =>
    refine .ite (s.homeStep_putLine _ _) (.ite ?_ ((s.homeStep_makeWay _).trans (State.homeStep_putLine _ _ _)))
    exact State.HomeStep.trans (t := s.dropLine _) rfl (State.homeStep_rawWrite _ _ _)
  next => exact .ite (s.homeStep_rawWrite _ _) (s.homeStep_putLine _ _)
  next => exact .ite ((s.homeStep_evict _).trans (State.homeStep_rawWrite _ _ _)) (s.homeStep_settle _ _ _)

theorem State.homeStep_homeWrite (p : Nat) (l : Loc) (cmode : Nat) (depot : Bool) (bs : List (Nat × Byte)) (ws : List Nat) :
    s.HomeStep (s.homeWrite p l cmode depot bs ws) := by
  by_cases hless : s.keyless p l = true
  · rw [State.homeWrite_keyless hless]
    exact .refl s
  have hkeyed := Bool.eq_false_iff.2 hless
  by_cases hk : l.kind = .peer
  · rw [State.homeWrite_peer hkeyed hk]
    exact (s.homeStep_writeSent l ws).trans (State.homeStep_peerWrite _ _ _)
  · rw [State.homeWrite_line hkeyed hk]
    dsimp only
    refine (State.HomeStep.ite (p := depot = true) ((s.homeStep_writeSent l ws).trans (State.homeStep_rawWrite _ l.kind
      (lineCells l bs))) (s.homeStep_writeSent l ws)).trans ?_
    generalize (if depot then (s.writeSent l ws).rawWrite l.kind (lineCells l bs) else s.writeSent l ws) = t
    split
    · exact State.homeStep_writeAbsent _ _ _ _ _ _ _
    · exact State.homeStep_writeLine _ _ _ _ _ _

theorem State.homeStep_homeStore (p : Nat) (k : Kind) (a : Nat) (bs : List Byte) (cmode : Nat) (depot : Bool) (ws : List Nat) :
    s.HomeStep (s.homeStore p k a bs cmode depot ws) :=
  .foldl _ (fun s _ => .ite (.refl s) (s.homeStep_homeWrite _ _ _ _ _ _)) _ s

theorem State.homeStep_ackLine (n : Nat) : s.HomeStep (s.ackLine n) := rfl

/-- A write to the stacks that is performed at once (R180, R181). -/
theorem State.homeStep_homeSync_device (p a : Nat) (bs : List Byte) (cmode : Nat) (depot : Bool) :
    s.HomeStep (s.homeSync p .device a bs cmode depot) :=
  (s.homeStep_homeStore p .device a bs cmode depot []).trans (.foldl _ (fun s i => s.homeStep_ackLine (a / 128 + i)) _ _)

end

end Sys2Proof.Machine
end

section
/-! SUPPORT. Allocations and consumer counts (R76 to R82, R330, R338, R412): what an allocation grants or queues, what a count
operation comes to at its station, and what a fault reported for a unit leaves of the stations. -/
namespace Sys2Proof.Machine

/-! ### The report of a fault changes no station (R227, R247 to R249) -/

section
variable (s : State)

theorem State.HomeStep.stations {s t : State} (h : s.HomeStep t) : t.stations = s.stations := by
  unfold State.HomeStep at h
  rw [h]

theorem State.stations_setPart (p : Nat) (x : Partition) : (s.setPart p x).stations = s.stations := rfl

theorem State.stations_writeErr (e : ErrRec) (n : Nat) : (s.writeErr e n).stations = s.stations := by
  unfold State.writeErr
  dsimp only
  split
  · rfl
  · split
    · rfl
    · rw [State.stations_setPart]
      exact (s.homeStep_homeSync_device _ _ _ _ _).stations

theorem State.stations_postNoting (e : ErrRec) (n k : Nat) : (s.postNoting e n k).stations = s.stations := by
  refine (State.stations_writeErr _ _ _).trans ?_
  split <;> rfl

theorem State.stations_stopRegion (r : Nat) : (s.stopRegion r).stations = s.stations := by
  unfold State.stopRegion
  cases s.region? r with
  | none => rfl
  | some x =>
    dsimp only
    split
    · split <;> rfl
    · rfl

theorem State.stations_countDrain (x : Unit) : (s.countDrain x).stations = s.stations := by
  unfold State.countDrain
  split <;> rfl

/-- A stop changes no station but where a fatal fault removes the context. -/
theorem State.stations_stopWith (kind : Option Nat) (u : Nat) (x : Unit) (t : Trap) (slot epc : Nat) :
    (s.stopWith kind u x t slot epc false).stations = s.stations := by
  unfold State.stopWith
  split
  · exact s.stations_countDrain x
  · refine (State.stations_postNoting _ _ _ _).trans ?_
    split
    · rfl
    · exact State.stations_stopRegion _ _

/-- An asynchronous fault whose outcome is not Fatal changes no station. -/
theorem State.stations_raiseBy (kind : Option Nat) (u : Nat) (t : Trap) (h : t.code.outcome ≠ .fatal) :
    (s.raiseBy kind u t).stations = s.stations := by
  unfold State.raiseBy
  cases s.unit? u with
  | none => rfl
  | some x =>
    rw [beq_false_of_ne h]
    exact s.stations_stopWith _ _ _ _ _ _

end

/-! ### Blocks granted, released and retained (R76, R79 to R82) -/

section
variable (st : Station) (b c : Block)

theorem sameBlock_iff : sameBlock c b = true ↔ c.first = b.first ∧ c.k = b.k := by
  simp [sameBlock]

theorem Station.grant_some {r : Nat} {owner : Option Nat} {k n : Nat} {st' : Station} (h : st.grant r owner k n = some (st', b)) :
    b.gen = st.gen ∧ b.count = n ∧ b.k = k ∧ st'.gen = st.gen ∧ st'.blocks = b :: st.blocks := by
  unfold Station.grant at h
  split at h
  · obtain ⟨rfl, rfl⟩ := Prod.mk.inj (Option.some.inj h)
    exact ⟨rfl, rfl, rfl, rfl, rfl⟩
  · cases h

theorem Station.release_one (cyc : Nat) (h : b.count = 1) : st.release cyc b = st.free cyc b := by
  simp [Station.release, h]

theorem Station.release_many (cyc : Nat) (h : 2 ≤ b.count) (h' : b.count < 65535) : st.release cyc b =
    { st with blocks := st.blocks.map fun c => if sameBlock c b then { c with count := c.count - 1 } else c } := by
  rw [Station.release, if_pos h', if_neg (by omega)]

theorem Station.release_saturated (cyc : Nat) (h : 65535 ≤ b.count) : st.release cyc b = st := if_neg (by omega)

/-- A freed block is no longer among those of its station. -/
theorem Station.not_sameBlock_of_mem_free (cyc : Nat) (c : Block) (h : c ∈ (st.free cyc b).blocks) :
    ¬ (c.first = b.first ∧ c.k = b.k) := by
  simp only [Station.free, List.mem_filter, Bool.not_eq_true', ← Bool.not_eq_true] at h
  exact fun hc => h.2 ((sameBlock_iff b c).2 hc)

/-- Every other block stays. -/
theorem Station.mem_free (cyc : Nat) (c : Block) (h : c ∈ st.blocks) (hc : ¬ (c.first = b.first ∧ c.k = b.k)) :
    c ∈ (st.free cyc b).blocks := by
  simpa only [Station.free, List.mem_filter, Bool.not_eq_true', ← Bool.not_eq_true, sameBlock_iff] using ⟨h, hc⟩

end

/-! ### ALLOC and ALLOCT (R78, R79, R330) -/

section
variable (t : State) (u k n : Nat)

/-- An allocation that waits stands on the platform of its station. -/
theorem State.platform_queueAlloc : ∃ w, Tab.find ((t.queueAlloc u k n).station (stnOf u)).platform (elemOf u) = some w ∧
    w.what = .block u k n ∧ w.promos = 0 := by
  simp [State.queueAlloc, Station.enqueue]

theorem State.unit?_noteWait (r v : Nat) : (t.noteWait r).unit? v = t.unit? v := by
  rcases t.noteWait_eq_or r with h | h <;> rw [h]
  exact t.unit?_onRegion _ _ v

theorem State.unit?_queueAlloc (v : Nat) : (t.queueAlloc u k n).unit? v = t.unit? v := t.unit?_noteWait _ v

end

/-- What an allocation comes to that its unit can await, or (`strict`) cannot. -/
def allocRes (u : Nat) (x : Unit) (t : State) (d : Dst) (k n : Nat) (dests : List Dest) : Bool → Res
  | false => match t.tryAlloc u x k n false with
    | some (t, h) => .write t d 0 h 2
    | none => .block (t.queueAlloc u k n) (.alloc k n (dstS d) dests)
  | true => match t.tryAlloc u x k n true with
    | some (t, h) => .write t d 0 h 2
    | none => .write t d 0 0 2

/-! ### RELEASE, RETAIN and BSIZE (R80, R81, R338, R412) -/

section
variable {u : Nat} {x : Unit} {t : State} {h : W64} {req : Req} {f : Station → Block → Station} {b : Block}

theorem countOp_signal (hs : isSignalHandle h = true) : countOp u x t h req f = .trap (illegal 2) := if_pos hs

theorem countOp_far (hn : isSignalHandle h = false) (hfar : hStn h ≠ stnOf u) :
    countOp u x t h req f = .done (t.send u req).1 := by
  simp [countOp, hn, hfar]

theorem countOp_stale (hn : isSignalHandle h = false) (hown : hStn h = stnOf u) (hb : ∀ b, t.resolveBlock x.ctx h ≠ .ok b) :
    countOp u x t h req f = .trap (stale h) := by
  simp [countOp, hn, hown, State.resolveBlock_stale hb]

theorem countOp_own (hn : isSignalHandle h = false) (hown : hStn h = stnOf u) (hb : t.resolveBlock x.ctx h = .ok b) :
    countOp u x t h req f = .done (if t.usesBlock u h || t.mesh.any (fun p => p.unit == u && p.req.counts h) then (t.send u req).1
      else t.onStation (stnOf u) fun st => f st b) := by
  simp only [countOp, hn, hown, hb, Bool.false_eq_true, if_false, if_true]
  split <;> rfl

end

/-- BSIZE with its word known: written where the handle is of the own station, else the unit awaits the answer. -/
def sizeAnswer (u : Nat) (x : Unit) (t : State) (d : Dst) (h w : W64) : Res :=
  if hStn h = stnOf u then .write t d 0 w 2
  else .block (t.send u (.bsize h (x.landOf 0 d))).1 (.answer [(t.send u (.bsize h (x.landOf 0 d))).2])

section
variable {s : State} {x : Unit} {d : Dst} {h k n m : Src}

theorem State.Fires.exec_release (hf : s.Fires (.release h) x) : exec (.release h) s = .next (s.fired x (.release h)
    (countOp s.cur.unit x (s.taken [h]) (s.opVal x h) (.release (s.opVal x h))
      fun st b => st.release ((s.taken [h]).stnNow (stnOf s.cur.unit)) b)) :=
  (hf.answers (execRelease h) rfl rfl rfl rfl rfl rfl rfl rfl :)

theorem State.Fires.exec_retain (hf : s.Fires (.retain h m) x) : exec (.retain h m) s = .next (s.fired x (.retain h m)
    (countOp s.cur.unit x (s.taken [h, m]) (s.opVal x h) (.retain (s.opVal x h) ((s.opVal x m).toNat % 2 ^ 16))
      fun st b => st.retain b ((s.opVal x m).toNat % 2 ^ 16))) :=
  (hf.answers (execRetain h m) rfl rfl rfl rfl rfl rfl rfl rfl :)

theorem State.Fires.exec_bsize (hf : s.Fires (.bsize d h) x) : exec (.bsize d h) s = .next (s.fired x (.bsize d h)
    (if isSignalHandle (s.opVal x h) then
       (if (s.taken [h]).signalOk x.part (s.opVal x h) then sizeAnswer s.cur.unit x (s.taken [h]) d (s.opVal x h) bsizeSignal
        else .trap (stale (s.opVal x h)))
     else match (s.taken [h]).resolveBlock x.ctx (s.opVal x h) with
       | .error t => .trap t
       | .ok b => sizeAnswer s.cur.unit x (s.taken [h]) d (s.opVal x h) (bsizeWord b))) :=
  (hf.answers (execBsize d h) rfl rfl rfl rfl rfl rfl rfl rfl :)

/-- What ALLOC comes to is what a patient allocation comes to. -/
theorem State.Fires.exec_alloc (hf : s.Fires (.alloc d k n) x) : ∃ dests, exec (.alloc d k n) s = .next (s.fired x (.alloc d k n)
    (if 11 < (s.opVal x k).toNat || (s.opVal x n).toNat % 2 ^ 16 = 0 then .trap (illegal 2)
     else allocRes s.cur.unit x (s.taken [k, n]) d (s.opVal x k).toNat ((s.opVal x n).toNat % 2 ^ 16) dests false)) :=
  ⟨_, (hf.answers (execAlloc d k n) rfl rfl rfl rfl rfl rfl rfl rfl :)⟩

theorem State.Fires.exec_alloct (hf : s.Fires (.alloct d k n) x) : exec (.alloct d k n) s = .next (s.fired x (.alloct d k n)
    (if 11 < (s.opVal x k).toNat || (s.opVal x n).toNat % 2 ^ 16 = 0 then .trap (illegal 2)
     else allocRes s.cur.unit x (s.taken [k, n]) d (s.opVal x k).toNat ((s.opVal x n).toNat % 2 ^ 16) [] true)) :=
  (hf.answers (execAlloct d k n) rfl rfl rfl rfl rfl rfl rfl rfl :)

/-- ALLOC with a class and a count that are allowed: granted, or awaited on the platform. -/
theorem State.Fires.exec_alloc_good (hf : s.Fires (.alloc d k n) x) (hk : (s.opVal x k).toNat ≤ 11)
    (hn : (s.opVal x n).toNat % 2 ^ 16 ≠ 0) :
    (∀ s' w, (s.taken [k, n]).tryAlloc s.cur.unit x (s.opVal x k).toNat ((s.opVal x n).toNat % 2 ^ 16) false = some (s', w) →
      exec (.alloc d k n) s = .next (s'.finish s.cur.unit s.cur.upd d 0 w 2)) ∧
    ((s.taken [k, n]).tryAlloc s.cur.unit x (s.opVal x k).toNat ((s.opVal x n).toNat % 2 ^ 16) false = none → ∃ t,
      exec (.alloc d k n) s = .next t ∧ (∃ y dests, t.unit? s.cur.unit = some y ∧
        y.blocked = some (.alloc (s.opVal x k).toNat ((s.opVal x n).toNat % 2 ^ 16) (dstS d) dests)) ∧
      ∃ w, Tab.find (t.station (stnOf s.cur.unit)).platform (elemOf s.cur.unit) = some w ∧
        w.what = .block s.cur.unit (s.opVal x k).toNat ((s.opVal x n).toNat % 2 ^ 16) ∧ w.promos = 0) := by
  obtain ⟨dests, he⟩ := hf.exec_alloc
  rw [if_neg (by simp; omega)] at he
  refine ⟨fun s' w hw => ?_, fun hw => ⟨_, he, ⟨?_, ?_⟩⟩⟩
  · rw [he, allocRes, hw]
    rfl
  · obtain ⟨z, hz⟩ := Option.isSome_iff_exists.1 ((s.readBy_taken [k, n]).isSome_unit? hf.unit)
    refine ⟨_, dests, ?_, Unit.blocked_block z _ s.cur.upd false⟩
    rw [allocRes, hw, hf.fired_block]
    simp [State.unit?_queueAlloc, hz]
  · rw [allocRes, hw, hf.fired_block]
    rw [State.station, State.onUnit_stations]
    exact State.platform_queueAlloc _ _ _ _

/-- ALLOCT with a class and a count that are allowed: granted, or the value 0. -/
theorem State.Fires.exec_alloct_good (hf : s.Fires (.alloct d k n) x) (hk : (s.opVal x k).toNat ≤ 11)
    (hn : (s.opVal x n).toNat % 2 ^ 16 ≠ 0) :
    (∀ s' w, (s.taken [k, n]).tryAlloc s.cur.unit x (s.opVal x k).toNat ((s.opVal x n).toNat % 2 ^ 16) true = some (s', w) →
      exec (.alloct d k n) s = .next (s'.finish s.cur.unit s.cur.upd d 0 w 2)) ∧
    ((s.taken [k, n]).tryAlloc s.cur.unit x (s.opVal x k).toNat ((s.opVal x n).toNat % 2 ^ 16) true = none →
      exec (.alloct d k n) s = .next ((s.taken [k, n]).finish s.cur.unit s.cur.upd d 0 0 2)) := by
  rw [hf.exec_alloct, if_neg (by simp; omega)]
  refine ⟨fun s' w hw => ?_, fun hw => ?_⟩ <;> rw [allocRes, hw] <;> rfl

/-- An answer to BSIZE, from the own station and from another one. -/
theorem State.Fires.fired_sizeAnswer {t : State} {i j : Instr} {y : Unit} {hv w : W64} (hf : s.Fires i x) :
    (hStn hv = stnOf s.cur.unit → s.fired y j (sizeAnswer s.cur.unit x t d hv w) = t.finish s.cur.unit s.cur.upd d 0 w 2) ∧
    (hStn hv ≠ stnOf s.cur.unit → s.fired y j (sizeAnswer s.cur.unit x t d hv w) =
      s.blockedOn (t.send s.cur.unit (.bsize hv (x.landOf 0 d))).1 (.answer [(t.send s.cur.unit (.bsize hv (x.landOf 0 d))).2])) := by
  refine ⟨fun hown => ?_, fun hfar => ?_⟩
  · rw [sizeAnswer, if_pos hown, State.fired_write]
  · rw [sizeAnswer, if_neg hfar, hf.fired_block]
    rfl

end

/-! ### Count operations that arrive (R80, R226, R230) -/

/-- A RELEASE or RETAIN that arrives with a handle that does not resolve. -/
theorem State.servePacket_staleCount {r : State} {p : Packet} {y : Unit} {g : W64} (hq : p.req = .release g ∨ ∃ k, p.req = .retain g k)
    (hy : r.unit? p.unit = some y) (hb : ∀ b, r.resolveBlock y.ctx g ≠ .ok b) :
    r.servePacket p = (r.answer p.id []).raiseAsync p.unit ⟨.staleHandle, 1, g⟩ := by
  rcases hq with hq | ⟨k, hq⟩ <;> simp [State.servePacket, hy, hq, State.resolveBlock_stale hb, stale]

end Sys2Proof.Machine
namespace Sys2Proof
open Machine

/-- Settles O12: an allocation is granted, waits or gives 0; a count operation acts here, is sent, or faults; and a stale one
that arrives reports itself and changes no station. -/
theorem allocationsAndCounts : Obligations.AllocationsAndCounts := by
  refine ⟨?instructions, ?stations, ?counts⟩
  case instructions =>
    intro s x d k n u kk nn
    refine ⟨fun hf hk hn => ?_, fun hf hk hn => ?_, fun hbad => ⟨fun hf => ?_, fun hf => ?_⟩⟩
    · exact hf.exec_alloc_good hk hn
    · exact hf.exec_alloct_good hk hn
    · obtain ⟨dests, he⟩ := hf.exec_alloc
      rw [he, if_pos (Bool.or_eq_true_iff.2 (hbad.imp decide_eq_true decide_eq_true)), hf.fired_trap]
      rfl
    · rw [hf.exec_alloct, if_pos (Bool.or_eq_true_iff.2 (hbad.imp decide_eq_true decide_eq_true)), hf.fired_trap]
      rfl
  case stations =>
    intro st b m cyc same
    refine ⟨fun r owner k n st' b' h => st.grant_some b' h, fun h h' => ?_, fun h => ?_, st.release_saturated b cyc, rfl⟩
    · rw [st.release_many b cyc h h']
      exact ⟨rfl, rfl⟩
    · rw [st.release_one b cyc h]
      exact ⟨st.not_sameBlock_of_mem_free b cyc, st.mem_free b cyc, rfl, rfl, rfl⟩
  case counts =>
    intro s x d h m u hv mm own counts
    have countsOf {i : Instr} {t : State} {req : Req} {f : Station → Block → Station}
        (he : s.Fires i x → exec i s = .next (s.fired x i (countOp u x t hv req f))) : counts i t req f := by
      refine fun hf => ⟨fun hs => ?_, fun hn hfar => ?_, fun hn hown => ⟨fun hb => ?_, fun b hb => ?_⟩⟩
      · rw [he hf, countOp_signal hs, hf.fired_trap]
      · rw [he hf, countOp_far hn hfar, State.fired_done]
      · rw [he hf, countOp_stale hn hown hb, hf.fired_trap]
      · rw [he hf, countOp_own hn hown hb, State.fired_done]
    refine ⟨?arrival, countsOf fun hf => hf.exec_release, countsOf fun hf => hf.exec_retain, ?bsize⟩
    case arrival =>
      intro r i p y g hp hst hreq hback hy hb
      refine ⟨_, ?_, State.servePacket_staleCount hreq hy hb, fun n => ?_⟩
      · simp [exec, execMeshRequestArrival, hp, hst, hback]
      · rw [State.servePacket_staleCount hreq hy hb, State.raiseAsync, State.station, State.stations_raiseBy _ _ _ _ (by simp [Code.outcome])]
        rfl
    case bsize =>
      intro hf t asked answers
      have answersOf {w : W64} (he : exec (.bsize d h) s = .next (s.fired x (.bsize d h) (sizeAnswer u x t d hv w))) : answers w :=
        ⟨fun hown => he.trans (congrArg _ (hf.fired_sizeAnswer.1 hown)), fun hfar => he.trans (congrArg _ (hf.fired_sizeAnswer.2 hfar))⟩
      refine ⟨fun hs ho => answersOf ?_, fun hs ho => ?_, fun hn b hb => answersOf ?_, fun hn hb => ?_⟩
      · rw [hf.exec_bsize, if_pos hs, if_pos ho]
        rfl
      · rw [hf.exec_bsize, if_pos hs, if_neg (ne_true_of_eq_false ho), hf.fired_trap]
      · rw [hf.exec_bsize, if_neg (ne_true_of_eq_false hn), hb]
        rfl
      · rw [hf.exec_bsize, if_neg (ne_true_of_eq_false hn), State.resolveBlock_stale hb]
        exact congrArg _ (hf.fired_trap _)

end Sys2Proof
end

section
/-! SUPPORT. How a firing ends, fresh or carried on, by what its body comes to (R17, R19, R28, R228, R229). -/
namespace Sys2Proof.Machine

/-- How a firing of instruction `i` by unit `x` on the values `a` and `b` ends, whether it is fresh or is carried on: `run` is
the state in which it leaves the machine, `finish` and `wait` are what it comes to where it is done and where it blocks. -/
structure State.Ends (s : State) (x : Unit) (i : Instr) (a b : W64) (run : Res → State) (finish : State → State)
    (wait : State → Blocked → State) : Prop where
  done : ∀ t, run (.done t) = finish t
  block : ∀ t bl, run (.block t bl) = wait t bl
  trap : ∀ e, run (.trap e) = s.trapped e
  portFault : ∀ t n e, run (.portFault t n e) = s.portRaised x i t a b n e
  again : ∀ t n, (t.unit? s.cur.unit).isSome = true → (run (.wait t n)).CarriesOn s.cur.unit i n
  hold : ∀ t n h, (t.unit? s.cur.unit).isSome = true → (run (.hold t n h)).WithheldAt s.cur.unit i n h

section
variable {s t : State} {x : Unit} {i : Instr} {c : Captured}

theorem State.Fires.trapped (h : s.Fires i x) (e : Trap) : s.trapped e = s.raised e := by
  simp [State.trapped, State.curTaken, h.fresh, State.returnTaken, State.giveTaken, State.raised]

/-- A unit that is carried on is there, whatever the firing did to the rest of it. -/
theorem State.find_carryOn {s₀ : State} {u : Nat} {f : Firing} {q : Bool} {bl : Blocked} (ht : (t.unit? u).isSome = true) :
    ∃ y, (t.carryOn s₀ u f q bl).unit? u = some y ∧ y.blocked = some bl := by
  obtain ⟨z, hz⟩ := Option.isSome_iff_exists.1 ht
  unfold State.carryOn
  cases q
  · cases f.cap <;> simp [hz, Unit.blocked_block]
  · cases h0 : s₀.unit? u <;> simp [State.giveBack, h0, hz, Unit.blocked_block]

theorem State.Fires.ends (h : s.Fires i x) : s.Ends x i (s.opVal x (i.reads.getD 0 (.sp .zero)))
    (s.opVal x (i.reads.getD 1 (.sp .zero))) (s.fired x i) s.doneWith s.blockedOn where
  done _ := rfl
  block t bl := h.fired_block bl
  trap e := (h.fired_trap e).trans (h.trapped e).symm
  portFault t n e := by
    unfold State.fired State.portRaised State.commit
    simp only [h.unit]
    cases x.isSeq <;> simp [State.carryOn, h.fresh]
  again t n ht := h.fired_wait ht n
  hold t n hd ht := by
    obtain ⟨y, hy, hb⟩ := State.find_carryOn (s₀ := s) (f := s.cur) (q := x.isSeq) (bl := .again i ⟨s.opVal x (i.reads.getD 0 (.sp .zero)),
      s.opVal x (i.reads.getD 1 (.sp .zero)), n, some hd, s.cur.words, s.cur.slot, s.takenBy t s.cur.unit s.cur, false⟩) ht
    refine ⟨y, _, ?_, hb, rfl, rfl⟩
    simpa only [State.fired, State.commit, h.unit] using hy

theorem State.Carried.unit_lift (h : s.Carried i x c) : (s.lift s.cur.unit).unit? s.cur.unit = some { x with blocked := none } := by
  simp [State.lift, h.unit]

theorem State.Carried.ends (h : s.Carried i x c) :
    s.Ends x i c.a c.b (s.wentOn x i c) (s.carriedTo x) (s.carriedBlock x) := by
  have hseq : Unit.isSeq { x with blocked := none } = x.isSeq := rfl
  refine ⟨fun t => rfl, fun t bl => ?_, fun e => ?_, fun t n e => ?_, fun t n ht => ?_, fun t n hd ht => ?_⟩
  · simp only [State.wentOn, State.commit, h.unit_lift, hseq, h.cap, State.carriedBlock, Option.isSome_some, Bool.true_and]
    cases x.isSeq <;> rfl
  · simp [State.wentOn, State.commit, h.unit_lift, hseq, h.cap, State.trapped, State.curSeq, State.curTaken, h.unit]
  · simp only [State.wentOn, State.commit, h.unit_lift, hseq, h.cap, State.portRaised]
    cases x.isSeq
    · simp [State.carryOn, State.takenBy, h.cap, Firing.words]
    · simp [State.giveBack, h.unit, State.lift, State.station]
  · obtain ⟨y, hy, hb⟩ := State.find_carryOn (s₀ := s.lift s.cur.unit) (f := { s.cur with upd := x.blockedUpd, test := none }) (q := x.isSeq)
      (bl := .again i ⟨c.a, c.b, n, none, Firing.words { s.cur with upd := x.blockedUpd, test := none }, s.cur.slot,
        (s.lift s.cur.unit).takenBy t s.cur.unit { s.cur with upd := x.blockedUpd, test := none }, false⟩) ht
    refine ⟨y, _, ?_, hb, rfl, rfl⟩
    simpa only [State.wentOn, State.commit, h.unit_lift, hseq] using hy
  · obtain ⟨y, hy, hb⟩ := State.find_carryOn (s₀ := s.lift s.cur.unit) (f := { s.cur with upd := x.blockedUpd, test := none }) (q := x.isSeq)
      (bl := .again i ⟨c.a, c.b, n, some hd, Firing.words { s.cur with upd := x.blockedUpd, test := none }, s.cur.slot,
        (s.lift s.cur.unit).takenBy t s.cur.unit { s.cur with upd := x.blockedUpd, test := none }, false⟩) ht
    refine ⟨y, _, ?_, hb, rfl, rfl⟩
    simpa only [State.wentOn, State.commit, h.unit_lift, hseq] using hy

/-- The unit stands where its firing goes on. -/
theorem State.Carried.isSome_resumed (h : s.Carried i x c) (srcs : List Src) :
    ((s.resumed x srcs).unit? s.cur.unit).isSome = true := by
  unfold State.resumed
  split
  · exact (State.readBy_consume _ _ _ _).isSome_unit? h.unit_lift
  · simp [h.unit_lift]

end
end Sys2Proof.Machine
end

section
/-! SUPPORT. The junction instructions (R120 to R127, R327, R393 to R395, R448): what a checked instruction comes to at its
junction, the order of those that wait for a run, and what the head of the junction's queue does. -/
namespace Sys2Proof.Machine

/-! ### A junction instruction (R123, R394) -/

/-- What a junction instruction comes to: the fault that its check finds, or its way to the junction, of WLOAD, WSWAP and MMA
(`gated`) past a run of the line. -/
def junctionRes (u : Nat) (t : State) (check : Option Trap) (gated : Bool) (op : JOp) : Res :=
  match check with
  | some e => .trap e
  | none => if gated then submitGated u t op else submit u t op

/-- An MMA's control word is well formed: nothing but SLOT, N and ROW0, and its rows are rows of the tile (R393). -/
def MmaSound (c : W64) : Prop :=
  c.toNat = c.toNat / 2 ^ 16 % 8 * 2 ^ 16 + c.toNat / 2 ^ 8 % 2 ^ 8 * 2 ^ 8 + c.toNat % 2 ^ 7 ∧ 1 ≤ c.toNat / 2 ^ 8 % 2 ^ 8 ∧
    c.toNat % 2 ^ 7 + c.toNat / 2 ^ 8 % 2 ^ 8 ≤ 128

theorem mmaCtl_eq_some_iff {c : W64} {r : Nat × Nat × Nat} : mmaCtl c = some r ↔
    MmaSound c ∧ r = (c.toNat / 2 ^ 16 % 8, c.toNat / 2 ^ 8 % 2 ^ 8, c.toNat % 2 ^ 7) := by
  have hc := c.isLt
  unfold mmaCtl MmaSound
  simp only [fld, Option.ite_none_left_eq_some, Option.some.injEq, Bool.or_eq_true, bne_iff_ne, Nat.shiftRight_eq_div_pow, pow_zero,
    Nat.div_one, decide_eq_true_eq]
  constructor
  · rintro ⟨hbad, rfl⟩
    exact ⟨by omega, rfl⟩
  · rintro ⟨hs, rfl⟩
    exact ⟨by omega, rfl⟩

theorem mmaCtl_sound {c : W64} (h : MmaSound c) :
    mmaCtl c = some (c.toNat / 2 ^ 16 % 8, c.toNat / 2 ^ 8 % 2 ^ 8, c.toNat % 2 ^ 7) := mmaCtl_eq_some_iff.2 ⟨h, rfl⟩

theorem mmaCtl_unsound {c : W64} (h : ¬ MmaSound c) : mmaCtl c = none :=
  Option.eq_none_iff_forall_ne_some.2 fun _ hr => h (mmaCtl_eq_some_iff.1 hr).1

section
variable {t : State} {u : Nat} {x : Unit} {a c : W64}

theorem State.mmaCheck_signal (hs : isSignalHandle a = true) : t.mmaCheck u x a c = some (illegal 2) := by
  simp [State.mmaCheck, State.junctionBlock, hs]

theorem State.mmaCheck_stale (hn : isSignalHandle a = false) (hb : ∀ b, t.resolveBlock x.ctx a ≠ .ok b) :
    t.mmaCheck u x a c = some (stale a) := by
  simp [State.mmaCheck, hn, State.resolveBlock_stale hb, Except.map]

theorem State.mmaCheck_sound {b : Block} (hn : isSignalHandle a = false) (hb : t.resolveBlock x.ctx a = .ok b) (hc : MmaSound c) :
    t.mmaCheck u x a c = t.junctionBlock u x a := by
  simp [State.mmaCheck, hn, hb, Except.map, mmaCtl_sound hc]

theorem State.mmaCheck_unsound {b : Block} (hn : isSignalHandle a = false) (hb : t.resolveBlock x.ctx a = .ok b) (hc : ¬ MmaSound c) :
    t.mmaCheck u x a c = some (illegal 2) := by
  simp [State.mmaCheck, hn, hb, Except.map, mmaCtl_unsound hc]

/-- Past its check, an MMA's control word is well formed. -/
theorem State.mmaSound_of_check (h : t.mmaCheck u x a c = none) : MmaSound c := by
  by_contra hc
  unfold State.mmaCheck at h
  rw [mmaCtl_unsound hc] at h
  split at h <;> cases h

theorem State.junctionBlock_signal (hs : isSignalHandle a = true) : t.junctionBlock u x a = some (illegal 2) := if_pos hs

theorem State.junctionBlock_stale (hn : isSignalHandle a = false) (hb : ∀ b, t.resolveBlock x.ctx a ≠ .ok b) :
    t.junctionBlock u x a = some (stale a) := by
  simp [State.junctionBlock, hn, State.resolveBlock_stale hb]

/-- A block that resolves is of the own station, and its offset a multiple of 32 (R394). -/
theorem State.junctionBlock_ok {b : Block} (hn : isSignalHandle a = false) (hb : t.resolveBlock x.ctx a = .ok b) :
    (hStn a ≠ stnOf u → t.junctionBlock u x a = some (illegal 2)) ∧
    (hStn a = stnOf u → hOff a % 32 ≠ 0 → t.junctionBlock u x a = some (misaligned 0)) ∧
    (hStn a = stnOf u → hOff a % 32 = 0 → t.junctionBlock u x a = none) := by
  refine ⟨fun hs => ?_, fun hs ho => ?_, fun hs ho => ?_⟩
  · simp [State.junctionBlock, hn, hb, hs]
  · simp [State.junctionBlock, hn, hb, hs, ho]
  · simp [State.junctionBlock, hn, hb, hs, ho]

end

section
variable (fmt : JFmt) (h v : Src) (s : State)

theorem execWload_eq : execWload fmt h v s = runUnit (.wload fmt h v) avTS [h, v] [] (fun u x t a c _ =>
    junctionRes u t (t.junctionBlock u x a) true (.wload a fmt (c.setWidth 32))) s := rfl

theorem execWswap_eq : execWswap s = runUnit .wswap avTS [] [] (fun u _ t _ _ _ => junctionRes u t none true .wswap) s := rfl

theorem execMma_eq : execMma fmt h v s = runUnit (.mma fmt h v) avTS [h, v] [] (fun u x t a c _ =>
    junctionRes u t (t.mmaCheck u x a c) true (.mma a fmt (c.toNat / 2 ^ 16 % 8) (c.toNat / 2 ^ 8 % 2 ^ 8) (c.toNat % 2 ^ 7))) s := by
  unfold execMma
  congr
  funext u x t a c _
  cases hc : t.mmaCheck u x a c with
  | some e => rfl
  | none =>
    rw [mmaCtl_sound (State.mmaSound_of_check hc)]
    rfl

/-- The check of an accumulator instruction: its slot, then its block (R395, R448). -/
def State.slotCheck (t : State) (u : Nat) (x : Unit) (a c : W64) : Option Trap :=
  if 7 < c.toNat then some (illegal 2) else t.junctionBlock u x a

theorem execAccrd_eq : execAccrd h v s = runUnit (.accrd h v) avTS [h, v] [] (fun u x t a c _ =>
    junctionRes u t (t.slotCheck u x a c) false (.accrd a c.toNat)) s := by
  unfold execAccrd
  congr
  funext u x t a c _
  unfold State.slotCheck
  split <;> rfl

theorem execAccwr_eq : execAccwr v h s = runUnit (.accwr v h) avTS [v, h] [] (fun u x t c a _ =>
    junctionRes u t (t.slotCheck u x a c) false (.accwr a c.toNat)) s := by
  unfold execAccwr
  congr
  funext u x t c a _
  unfold State.slotCheck
  split <;> rfl

end

/-- An instruction takes its place among those that wait for the end of a run: behind those of elements up to its own. -/
theorem insertAwait_split (u : Nat) (op : JOp) (l : List (Nat × JOp)) : ∃ pre post, l = pre ++ post ∧ (∀ e ∈ pre, e.1 ≤ u) ∧
    (∀ e, post.head? = some e → u < e.1) ∧ insertAwait (u, op) l = pre ++ (u, op) :: post := by
  induction l with
  | nil => exact ⟨[], [], rfl, by simp, by simp, rfl⟩
  | cons f l ih =>
    by_cases hf : u < f.1
    · exact ⟨[], f :: l, rfl, by simp, by simpa using hf, by simp [insertAwait, hf]⟩
    · obtain ⟨pre, post, rfl, hpre, hpost, hins⟩ := ih
      refine ⟨f :: pre, post, rfl, ?_, hpost, by simp [insertAwait, hf, hins]⟩
      exact List.forall_mem_cons.2 ⟨Nat.le_of_not_lt hf, hpre⟩

section
variable {s t : State} {x : Unit} {i : Instr} {a b : W64} {run : Res → State} {finish : State → State}
  {wait : State → Blocked → State} {check : Option Trap} {gated : Bool} {op : JOp}

/-- How a firing of a junction instruction ends. -/
theorem State.Ends.junctionRes (he : s.Ends x i a b run finish wait) (hrun : exec i s = .next (run (junctionRes s.cur.unit t check gated op))) :
    (∀ e, check = some e → exec i s = .next (s.trapped e)) ∧
    (check = none → (gated && t.lineRuns (stnOf s.cur.unit)) = true → ∃ pre post,
      (t.junction (stnOf s.cur.unit)).awaiting = pre ++ post ∧ (∀ e ∈ pre, e.1 ≤ s.cur.unit) ∧
      (∀ e, post.head? = some e → s.cur.unit < e.1) ∧ exec i s = .next (wait
        (t.onJunction (stnOf s.cur.unit) fun j => { j with awaiting := pre ++ (s.cur.unit, op) :: post }) .junction)) ∧
    (check = none → (gated && t.lineRuns (stnOf s.cur.unit)) = false →
      (((t.toJunction s.cur.unit op).junction (stnOf s.cur.unit)).holds s.cur.unit = false →
        exec i s = .next (finish (t.toJunction s.cur.unit op))) ∧
      (((t.toJunction s.cur.unit op).junction (stnOf s.cur.unit)).holds s.cur.unit = true →
        exec i s = .next (wait (t.toJunction s.cur.unit op) .junction))) := by
  refine ⟨fun e hc => ?_, fun hc hr => ?_, fun hc hr => ?_⟩
  · rw [hrun, hc]
    exact congrArg _ (he.trap e)
  · obtain ⟨pre, post, hl, hpre, hpost, hins⟩ := insertAwait_split s.cur.unit op (t.junction (stnOf s.cur.unit)).awaiting
    obtain ⟨rfl, hline⟩ := Bool.and_eq_true_iff.1 hr
    refine ⟨pre, post, hl, hpre, hpost, ?_⟩
    rw [hrun, hc, Machine.junctionRes, if_pos rfl, submitGated, if_pos hline, he.block, State.onJunction, hins]
    rfl
  · have hsub : Machine.junctionRes s.cur.unit t check gated op = submit s.cur.unit t op := by
      rw [hc, Machine.junctionRes]
      split
      next hg => rw [submitGated, if_neg (by simpa [hg] using hr)]
      next => rfl
    rw [hrun, hsub, submit]
    refine ⟨fun hh => ?_, fun hh => ?_⟩
    · rw [if_neg (ne_true_of_eq_false hh), he.done]
    · rw [if_pos hh, he.block]

end

/-! ### What reaches the junction (R123, R126, R127) -/

section
variable {s : State} {u : Nat} {op : JOp}

/-- In a cycle in which a vector has entered, what reaches the junction is only queued. -/
theorem State.toJunction_entered (h : (s.junction (stnOf u)).enteredAt (s.stnNow (stnOf u)) = true) :
    s.toJunction u op = s.onJunction (stnOf u) fun j => { j with queue := j.queue ++ [(u, op)] } := by
  refine if_pos ?_
  simp only [State.onJunction, State.junction_setJunction, if_true]
  exact h

/-- Else it is performed in order, as far as it can be. -/
theorem State.toJunction_alone (hq : (s.junction (stnOf u)).queue = [])
    (h : (s.junction (stnOf u)).enteredAt (s.stnNow (stnOf u)) = false) :
    s.toJunction u op = (s.setJunction (stnOf u) { s.junction (stnOf u) with queue := [(u, op)] }).pumpJunction (stnOf u) 2 := by
  have hj : (s.onJunction (stnOf u) fun j => { j with queue := j.queue ++ [(u, op)] }) =
      s.setJunction (stnOf u) { s.junction (stnOf u) with queue := [(u, op)] } := by simp [State.onJunction, hq]
  unfold State.toJunction State.pump
  rw [hj]
  simp only [State.junction_setJunction, if_true]
  exact if_neg (ne_true_of_eq_false h)

theorem State.pumpJunction_empty {n : Nat} (h : (s.junction n).queue = []) (fuel : Nat) : s.pumpJunction n fuel = s := by
  cases fuel with
  | zero => rfl
  | succ fuel => simp [State.pumpJunction, h]

/-- A WLOAD that finds nothing ahead and the inactive bank ready begins to fill it. -/
theorem State.junction_toJunction_wload {j : Junction} (hj : s.junction (stnOf u) = j) (hq : j.queue = [])
    (hr : s.lineRuns (stnOf u) = false) (he : j.enteredAt (s.stnNow (stnOf u)) = false) {a : W64} {fmt : JFmt} {scale : Lane}
    (hl : j.load = none) (hb : (j.bank (1 - j.active)).st = .ready) :
    (s.toJunction u (.wload a fmt scale)).junction (stnOf u) =
      { Junction.startLoad { j with queue := [(u, .wload a fmt scale)] } (some u) (.wload a fmt scale) fmt scale with
        queue := [] } := by
  subst hj
  have hcan : Junction.canLoad { s.junction (stnOf u) with queue := [(u, .wload a fmt scale)] } = true := by
    exact Bool.and_eq_true_iff.2 ⟨Option.isNone_iff_eq_none.2 hl, beq_iff_eq.2 hb⟩
  have hline (k : Junction) : (s.setJunction (stnOf u) k).lineRuns (stnOf u) = false := hr
  rw [State.toJunction_alone hq he, State.pumpJunction]
  simp only [State.junction_setJunction, if_true, hcan, hline, Bool.not_false, Bool.and_self]
  rw [State.pumpJunction_empty (by simp), State.junction_setJunction, if_pos rfl]

/-- A WSWAP that finds nothing ahead and the inactive bank not loading makes it the active one. -/
theorem State.junction_toJunction_wswap {j : Junction} (hj : s.junction (stnOf u) = j) (hq : j.queue = [])
    (hr : s.lineRuns (stnOf u) = false) (he : j.enteredAt (s.stnNow (stnOf u)) = false)
    (hb : (j.bank (1 - j.active)).st ≠ .loading) :
    (s.toJunction u .wswap).junction (stnOf u) = { Junction.swap { j with queue := [(u, .wswap)] } with queue := [] } := by
  subst hj
  have hidle : (Junction.bank { s.junction (stnOf u) with queue := [(u, .wswap)] }
      (Junction.idle { s.junction (stnOf u) with queue := [(u, .wswap)] })).st ≠ .loading := hb
  have hline (k : Junction) : (s.setJunction (stnOf u) k).lineRuns (stnOf u) = false := hr
  have hun (t : State) : (t.unblockJunction u).junction (stnOf u) = t.junction (stnOf u) := by
    unfold State.unblockJunction
    split
    · split
      · rw [State.unblock, State.junction, State.onUnit_rest]
        rfl
      · rfl
    · rfl
  rw [State.toJunction_alone hq he, State.pumpJunction]
  simp only [State.junction_setJunction, if_true, bne_iff_ne.2 hidle, hline, Bool.not_false, Bool.and_self]
  rw [State.pumpJunction_empty (by simp [hun]), hun, State.junction_setJunction, if_pos rfl]

end

section
variable (j : Junction) {m n : Nat}

theorem Junction.bank_setBank (b : Bank) (hm : m ≤ 1) (hn : n ≤ 1) : (j.setBank n b).bank m = if m = n then b else j.bank m := by
  obtain rfl | rfl : n = 0 ∨ n = 1 := by omega
  · obtain rfl | rfl : m = 0 ∨ m = 1 := by omega
    · rfl
    · rfl
  · obtain rfl | rfl : m = 0 ∨ m = 1 := by omega
    · rfl
    · rfl

/-- The banks as WSWAP leaves them (R126). -/
theorem Junction.bank_swap (h : j.active ≤ 1) :
    j.swap.bank (1 - j.active) = { j.bank (1 - j.active) with st := .ready } ∧
    j.swap.bank j.active = { j.bank j.active with st := if j.inFlight j.active then .draining else .ready } := by
  have hne : 1 - j.active ≠ j.active := by omega
  have hi : 1 - j.active ≤ 1 := by omega
  let o : Bank := { j.bank j.active with st := if j.inFlight j.active then .draining else .ready }
  have hswap (m : Nat) : j.swap.bank m =
      ((j.setBank j.active o).setBank (1 - j.active) { (j.setBank j.active o).bank (1 - j.active) with st := .ready }).bank m := rfl
  rw [hswap, hswap, Junction.bank_setBank _ _ hi hi, Junction.bank_setBank _ _ h hi, if_pos rfl, if_neg hne.symm,
    Junction.bank_setBank _ _ hi h, if_neg hne, Junction.bank_setBank _ _ h h, if_pos rfl]
  exact ⟨rfl, rfl⟩

/-- The banks as the beginning of a fill leaves them (R126). -/
theorem Junction.bank_startLoad (h : j.active ≤ 1) (u : Option Nat) (op : JOp) (fmt : JFmt) (scale : Lane) :
    (j.startLoad u op fmt scale).bank (1 - j.active) =
      { j.bank (1 - j.active) with fmt := fmt, scale := scale, st := .loading } ∧
    (j.startLoad u op fmt scale).bank j.active = j.bank j.active := by
  have hne : j.active ≠ 1 - j.active := by omega
  have hi : 1 - j.active ≤ 1 := by omega
  have hbank (m : Nat) : (j.startLoad u op fmt scale).bank m =
      (j.setBank (1 - j.active) { j.bank (1 - j.active) with fmt := fmt, scale := scale, st := .loading }).bank m := rfl
  rw [hbank, hbank, Junction.bank_setBank _ _ hi hi, Junction.bank_setBank _ _ h hi, if_pos rfl, if_neg hne]
  exact ⟨rfl, rfl⟩

theorem Junction.setBank_rest (b : Bank) : j.setBank n b = { j with bank0 := (j.setBank n b).bank0, bank1 := (j.setBank n b).bank1 } := by
  unfold Junction.setBank
  split <;> rfl

end

end Sys2Proof.Machine

namespace Sys2Proof
open Machine

/-- Settles O40: a checked instruction waits for a run's end or reaches its junction, where the head of the queue acts on the
banks. -/
theorem junctionInstructions : Obligations.JunctionInstructions := by
  intro s x fmt h v u form noBlock slotOf count row0 sound slotted
  have formOf {i : Instr} {srcs : List Src} {check : Nat → Machine.Unit → State → W64 → W64 → Option Trap} {line : Bool}
      {op : W64 → W64 → JOp}
      (hm : exec i s = runUnit i avTS srcs [] (fun u x t a c _ => junctionRes u t (check u x t a c) line (op a c)) s) (hav : i.avail = some avTS) (hr : i.reads = srcs) (hs : i.srcs = srcs) (hw : i.writes = []) (ho : i.outs = [])
      (hk : x.operandsReady i = x.hasTokens i.srcs) :
      form i srcs (srcs.getD 0 (.sp .zero)) (srcs.getD 1 (.sp .zero)) (check u x) line op := by
    subst hs
    refine ⟨fun hf => ?_, fun c hc => ?_⟩
    · have he := hf.ends
      rw [hr] at he
      exact he.junctionRes (hf.answers (exec i) rfl hm hav hr hw rfl ho hk)
    · exact hc.ends.junctionRes (hc.answers (exec i) rfl hm hav rfl ho)
  refine ⟨formOf (i := .wload fmt h v) (check := fun u x t a _ => t.junctionBlock u x a)
      (op := fun a c => .wload a fmt (c.setWidth 32)) (execWload_eq fmt h v s) rfl rfl rfl rfl rfl rfl,
    formOf (i := .wswap) (check := fun _ _ _ _ _ => none) (op := fun _ _ => .wswap) (execWswap_eq s) rfl rfl rfl rfl rfl rfl,
    formOf (i := .mma fmt h v) (check := fun u x t a c => t.mmaCheck u x a c)
      (op := fun a c => .mma a fmt (slotOf c) (count c) (row0 c)) (execMma_eq fmt h v s) rfl rfl rfl rfl rfl rfl,
    formOf (i := .accrd h v) (check := fun u x t a c => t.slotCheck u x a c) (op := fun a c => .accrd a c.toNat)
      (execAccrd_eq h v s) rfl rfl rfl rfl rfl rfl,
    formOf (i := .accwr v h) (check := fun u x t c a => t.slotCheck u x a c) (op := fun c a => .accwr a c.toNat)
      (execAccwr_eq h v s) rfl rfl rfl rfl rfl rfl,
    ?clear, ?checks, fun _ => State.toJunction_entered, ?performed⟩
  case clear =>
    intro hf n
    have he := hf.answers (execAccclr v) rfl rfl rfl rfl rfl rfl rfl rfl
    refine ⟨fun hn => ?_, fun hn => ?_⟩
    · rw [he]
      exact congrArg _ (congrArg (s.fired x _) (if_neg (Nat.not_lt.2 hn)))
    · rw [he]
      exact congrArg _ ((congrArg (s.fired x _) (if_pos hn)).trans (hf.fired_trap _))
  case checks =>
    intro t a c
    refine ⟨fun hs => ⟨State.junctionBlock_signal hs, State.mmaCheck_signal hs⟩,
      fun hn hb => ⟨State.junctionBlock_stale hn hb, State.mmaCheck_stale hn hb⟩, fun hn hb => ?_⟩
    obtain ⟨b, hb⟩ := not_forall_not.1 hb
    obtain ⟨hfar, hoff, hgood⟩ := State.junctionBlock_ok (u := u) hn hb
    exact ⟨hfar, hoff, hgood, State.mmaCheck_sound hn hb, State.mmaCheck_unsound hn hb⟩
  case performed =>
    intro j hj hq hactive hline hent
    refine ⟨fun a scale k hk hl hb => ?_, fun k hk hb => ?_⟩
    · obtain rfl := hk.trans (State.junction_toJunction_wload hj hq hline hent hl hb)
      obtain ⟨hnew, hold⟩ := Junction.bank_startLoad { j with queue := [(u, .wload a fmt scale)] } hactive (some u)
        (.wload a fmt scale) fmt scale
      refine ⟨rfl, rfl, ?_, hnew, hold⟩
      rw [Junction.startLoad, Junction.setBank_rest]
    · obtain rfl := hk.trans (State.junction_toJunction_wswap hj hq hline hent hb)
      obtain ⟨hnew, hold⟩ := Junction.bank_swap { j with queue := [(u, .wswap)] } hactive
      refine ⟨rfl, rfl, (congrArg Bank.data hnew :), (congrArg Bank.st hnew :), (congrArg Bank.st hold :), ?_⟩
      rw [Junction.swap, Junction.setBank_rest, Junction.setBank_rest]

end Sys2Proof
end

section
/-! SUPPORT. What reads at the homes and translations at a memory port leave unchanged (R153 to R158, R163, R192, R199). -/
namespace Sys2Proof.Machine

/-! ### Reads and fills at the homes (R153, R154, R157, R163) -/

section
variable (s : State)

theorem State.homeStep_freeBytes (n : Nat) : s.HomeStep (s.freeBytes n).2 := rfl

theorem State.homeStep_stamp : s.HomeStep s.stamp.2 := rfl

theorem State.homeStep_wayOf (set : Nat) (x : Line) : s.HomeStep (s.wayOf set x).1 := by
  unfold State.wayOf
  split
  · exact .refl s
  · exact s.homeStep_makeWay set

theorem State.homeStep_openFill (p : Nat) (l : Loc) (cmode : Nat) (depot : Bool) : s.HomeStep (s.openFill p l cmode depot) := by
  unfold State.openFill
  dsimp only
  split
  · refine .trans ?_ (State.homeStep_putLine _ _ _)
    split
    · rfl
    · exact s.homeStep_stamp.trans (State.homeStep_wayOf _ _ _)
  · refine .trans ?_ (State.homeStep_putLine _ _ _)
    split
    · rfl
    · exact s.homeStep_stamp.trans (State.homeStep_makeWay _ _)

/-- A use of a line stamped. -/
theorem State.homeStep_stampLine (key : Nat) (x : Line) : s.HomeStep (s.stamp.2.putLine key x) := rfl

theorem State.homeStep_homeRead (p : Nat) (l : Loc) (n cmode : Nat) (depot : Bool) : s.HomeStep (s.homeRead p l n cmode depot).1 := by
  unfold State.homeRead
  dsimp only
  split
  · split
    · exact s.homeStep_freeBytes n
    · exact s.homeStep_sendFlit _ _ _ _ _
  · split
    · exact s.homeStep_freeBytes n
    · split
      · split
        · exact .refl s
        · exact s.homeStep_openFill _ _ _ _
      · split
        · exact s.homeStep_stampLine _ _
        · exact .refl s
        · split
          · exact s.homeStep_stampLine _ _
          · exact s.homeStep_openFill _ _ _ _

theorem State.homeStep_noteRead (u : Nat) (l : Loc) : s.HomeStep (s.noteRead u l) := rfl

theorem State.homeStep_installReplica (p d : Nat) (l : Loc) : s.HomeStep (s.installReplica p d l) := by
  unfold State.installReplica
  dsimp only
  split
  · exact .refl s
  · split
    · exact .refl s
    next t way h => exact (s.homeStep_takeWay h).trans rfl

theorem State.homeStep_readFor (u d p : Nat) (l : Loc) (n : Nat) (page : PageBits) : s.HomeStep (s.readFor u d p l n page).1 := by
  have hread := s.homeStep_homeRead p l n page.cmode page.depot
  unfold State.readFor
  dsimp only
  split
  · exact .refl s
  · split
    next t key h => rwa [h] at hread
    next t bs h =>
      rw [h] at hread
      exact (hread.trans (t.homeStep_noteRead u l)).trans (.ite (State.homeStep_installReplica _ _ _ _) (.refl _))

theorem State.homeStep_join (key who : Nat) : s.HomeStep (s.join key who) := by
  unfold State.join
  split
  · exact .ite (s.homeStep_putLine _ _) (.refl s)
  · exact .refl s

theorem State.homeStep_engineRead (who d p : Nat) (l : Loc) (n : Nat) (page : PageBits) :
    s.HomeStep (s.engineRead who d p l n page).1 := by
  have hread := s.homeStep_readFor who d p l n page
  unfold State.engineRead
  split
  · exact (s.homeStep_noteRead who l).trans (.ite (State.homeStep_installReplica _ _ _ _) (.refl _))
  · split
    next t key h =>
      rw [h] at hread
      exact hread.trans (t.homeStep_join _ _)
    next => exact hread

theorem State.homeStep_gather (who d p : Nat) (ls : List (Loc × PageBits)) : s.HomeStep (s.gather who d p ls).1 := by
  induction ls generalizing s with
  | nil => exact .refl s
  | cons l ls ih =>
    have hread := s.homeStep_engineRead who d p l.1 128 l.2
    have hrest := hread.trans (ih (s.engineRead who d p l.1 128 l.2).1)
    unfold State.gather
    generalize s.engineRead who d p l.1 128 l.2 = e at hrest
    obtain ⟨t, r⟩ := e
    dsimp only at hrest ⊢
    generalize t.gather who d p ls = g at hrest
    obtain ⟨t', rest⟩ := g
    cases rest with
    | none => exact hrest
    | some rest => cases r <;> exact hrest

end

theorem State.HomeStep.units {s t : State} (h : s.HomeStep t) : t.units = s.units := by
  unfold State.HomeStep at h
  rw [h]

theorem State.HomeStep.unit? {s t : State} (h : s.HomeStep t) (u : Nat) : t.unit? u = s.unit? u :=
  congrArg (Tab.find · u) h.units

/-! ### Translations (R192, R199) -/

section
variable (s : State)

theorem State.units_translateAt (ctx part stn p va : Nat) (w : Want) : (s.translateAt ctx part stn p va w).1.units = s.units := by
  unfold State.translateAt
  dsimp only
  split
  · rfl
  · split
    · rfl
    · split
      · rfl
      · rfl
      · split
        · rfl
        · split <;> rfl

theorem State.units_countAccess (part ctx stn va lines : Nat) : (s.countAccess part ctx stn va lines).units = s.units := by
  unfold State.countAccess
  dsimp only
  split
  · rfl
  · exact (apply_ite State.units _ _ _).trans (ite_self _)

theorem State.units_countLines (ctx part stn p va lines : Nat) (pte : W64) (log2 : Nat) :
    (s.countLines ctx part stn p va lines pte log2).units = s.units := by
  unfold State.countLines
  split
  · exact s.units_countAccess _ _ _ _ _
  · rfl

/-- The state in which an engine's read stands. -/
def EngineRead.state : EngineRead → State
  | .ok s _ | .fault s _ | .invalid s _ _ | .wb s _ => s

theorem State.units_engineRun (ctx part stn p a n : Nat) : (s.engineRun ctx part stn p a n).1.state.units = s.units := by
  induction n generalizing s a with
  | zero => rfl
  | succ n ih =>
    have htr := s.units_translateAt ctx part stn p a wantRead
    unfold State.engineRun
    split
    next t e h => rwa [h] at htr
    next t level h => rwa [h] at htr
    next t h => rwa [h] at htr
    next t loc page pte log2 h =>
      rw [h] at htr
      have hrest := (ih t (a + 128)).trans htr
      split
      next r ls cs hr => rwa [hr] at hrest
      next => exact hrest

theorem State.units_engineLines (ctx part stn p count a n : Nat) : (s.engineLines ctx part stn p count a n).state.units = s.units := by
  have hrun := s.units_engineRun ctx part stn p a n
  unfold State.engineLines
  split
  next r ls cs h =>
    rw [h] at hrun
    refine Eq.trans ?_ hrun
    show (cs.foldl _ r).units = r.units
    clear h hrun
    induction cs generalizing r with
    | nil => rfl
    | cons c cs ih => exact (ih _).trans (r.units_countLines _ _ _ _ _ _ _ _)
  next r cs _ h => rwa [h] at hrun

theorem State.units_postFault (part : Nat) (w : W64) (va : Nat) : (s.postFault part w va).units = s.units := by
  unfold State.postFault
  dsimp only
  split <;> rfl

theorem State.units_withhold (u : Nat) (x : Unit) (va level access : Nat) (wb : Bool) :
    (s.withhold u x va level access wb).1.units = s.units := by
  cases wb
  · exact s.units_postFault _ _ _
  · rfl

end
end Sys2Proof.Machine
end

section
/-! SUPPORT. The instructions of the loop lines: TTLOAD, RING, TINJ and RSTAT (R129 to R132, R142, R144, R415, R417, R437). -/
namespace Sys2Proof.Machine

/-! ### What TTLOAD, RING and TINJ come to -/

/-- TTLOAD in region `r` with its block at hand (R131, R168). -/
def tableRes (u : Nat) (t : State) (a : W64) (r : Region) (b : Block) : Res :=
  if t.lineRuns (stnOf u) || !t.blockQuiet u a then .wait t 0
  else match t.readTable r (stnOf u) a b with
    | none => .trap (illegal 2)
    | some tt => .done (t.onJunction (stnOf u) fun j => { j with table := some tt, entries := [] })

/-- What an instruction comes to that only a unit of a LINE region has (R417). -/
def lineRes (x : Unit) (t : State) (res : Region → Res) : Res :=
  match t.region? x.region with
  | none => .trap (illegal 1)
  | some r => if !r.line then .trap (illegal 1) else res r

/-- The line as RING leaves it (R129). -/
def LoopLine.ringed (l : LoopLine) (arm : W64) : LoopLine :=
  { l with armed := true, running := true, stopping := false, arm := arm, tiles := [], inject := [], seen := [], injected := 0, retired := 0 }

/-- The state as RING leaves it (R129). -/
def State.rung (t : State) (stn : Nat) (r : Region) (a : W64) : State :=
  (r.stations.foldl (fun t n => t.onJunction n Junction.armed) t).setLoopLine (lineOf stn)
    (((r.stations.foldl (fun t n => t.onJunction n Junction.armed) t).loopLine (lineOf stn)).ringed a)

/-- RING in a LINE region. -/
def ringRes (u : Nat) (t : State) (a : W64) (r : Region) : Res :=
  if ringBad a.toNat then .trap (illegal 2)
  else if t.lineRuns (stnOf u) then .wait t 0
  else .done (t.rung (stnOf u) r a)

/-- The tile that TINJ injects, with the bytes that it has read. -/
def tileOf (u : Nat) (a c : W64) (bs : List Byte) : Tile :=
  ⟨c.getLsbD 31, fld c.toNat 0 12, a.toNat, lane32 (c.toNat >>> 32), fld c.toNat 12 12, 0, stnOf u % 8, u, sparse bs⟩

/-- A tile accepted for injection at the ring position of unit `u`'s station. -/
def State.inject (t : State) (u : Nat) (tile : Tile) : State :=
  (t.takeDelivered u (stnOf u)).setLoopLine (lineOf (stnOf u)) { t.loopLine (lineOf (stnOf u)) with
    seen := (t.loopLine (lineOf (stnOf u))).seen ++ [(tile.down, tile.num, tile.home, tile.scale, u)]
    inject := (t.loopLine (lineOf (stnOf u))).inject ++ [(stnOf u % 8, tile)] }

/-- TINJ with its tile's lines translated (R130). -/
def injectRes (u : Nat) (x : Unit) (a c : W64) (phase : Nat) : EngineRead → Res
  | .fault t e => .portFault t phase e
  | .invalid t va level => .hold (t.withhold u x va level 3 false).1 phase (t.withhold u x va level 3 false).2
  | .wb t va => .hold (t.withhold u x va 0 3 true).1 phase (t.withhold u x va 0 3 true).2
  | .ok t ls =>
    match t.gather u (districtOfUnit u) x.part ls with
    | (t, none) => .wait t 1
    | (t, some bs) => .block (t.inject u (tileOf u a c bs)) (.inject a.toNat c)

section
variable {h v : Src} {d : Dst} {s : State}

theorem execTtload_eq : execTtload h s = runUnit (.ttload h) avTS [h] [] (fun u x t a _ _ =>
    lineRes x t fun r => match t.needBlock x.ctx a with
      | .error e => .trap e
      | .ok b => tableRes u t a r b) s := by
  refine congrArg (fun body => runUnit (.ttload h) avTS [h] [] body s) ?_
  funext u x t a _ _
  unfold lineRes
  cases t.region? x.region with
  | none => rfl
  | some r =>
    dsimp only
    split
    · rfl
    · cases t.needBlock x.ctx a with
      | error e => rfl
      | ok b =>
        dsimp only
        unfold tableRes
        split
        · rfl
        · cases t.readTable r (stnOf u) a b <;> rfl

theorem execRing_eq : execRing h s = runUnit (.ring h) avTS [h] [] (fun u x t a _ _ => lineRes x t (ringRes u t a)) s := rfl

/-- TINJ is not to be taken: the line is not armed for the tile, or its descriptor is malformed (R130, R437). -/
def LoopLine.refuses (l : LoopLine) (c : W64) : Bool :=
  !l.armed || fld l.arm.toNat 0 13 ≤ l.seen.length || l.seen.any (fun e => e.1 == c.getLsbD 31 && e.2.1 == fld c.toNat 0 12)
    || fld c.toNat 12 12 = 0 || fld c.toNat 24 7 != 0

theorem execTinj_eq : execTinj h v s = runUnit (.tinj h v) avTS [h, v] [] (fun u x t a c phase =>
    if !t.inLine x then .trap (illegal 1)
    else if a.toNat % 256 != 0 then .trap (misaligned a)
    else if (t.loopLine (lineOf (stnOf u))).refuses c then .trap (illegal 2)
    else injectRes u x a c phase (t.engineLines x.ctx x.part (stnOf u) (portOf u) (b2n (phase = 0)) a.toNat
      (128 * jBytes (armFmt (t.loopLine (lineOf (stnOf u))).arm (c.getLsbD 31))))) s := rfl

end

/-! ### How they end -/

section
variable {s t : State} {x : Unit} {i : Instr} {a b : W64} {run : Res → State} {finish : State → State}
  {wait : State → Blocked → State}

/-- An instruction for LINE regions, in one and outside. -/
theorem State.Ends.lineRes (he : s.Ends x i a b run finish wait) {res : Region → Res}
    (hrun : exec i s = .next (run (lineRes x t res))) :
    ((¬ ∃ r, t.region? x.region = some r ∧ r.line = true) → exec i s = .next (s.trapped (illegal 1))) ∧
    ∀ r, t.region? x.region = some r → r.line = true → exec i s = .next (run (res r)) := by
  unfold Machine.lineRes at hrun
  refine ⟨fun hno => ?_, fun r hr hl => ?_⟩
  · rw [hrun, ← he.trap]
    cases hr : t.region? x.region with
    | none => rfl
    | some r =>
      have hl : r.line = false := Bool.eq_false_iff.2 fun hl => hno ⟨r, hr, hl⟩
      simp [hl]
  · rw [hrun, hr]
    simp [hl]

theorem State.junction_onJunction (t : State) (m n : Nat) (f : Junction → Junction) :
    (t.onJunction m f).junction n = if n = m then f (t.junction m) else t.junction n := by
  simp [State.onJunction]

/-- A junction of the region is one that RING has armed. -/
theorem State.junction_rung (l : List Nat) (t : State) {n : Nat} (hn : n ∈ l ∨ ∃ j : Junction, t.junction n = j.armed) :
    ∃ j : Junction, (l.foldl (fun t n => t.onJunction n Junction.armed) t).junction n = j.armed := by
  induction l generalizing t with
  | nil => exact hn.resolve_left (List.not_mem_nil)
  | cons m l ih =>
    refine ih (t.onJunction m Junction.armed) ?_
    rw [State.junction_onJunction]
    by_cases hm : n = m
    · exact .inr ⟨_, if_pos hm⟩
    · rw [if_neg hm]
      exact hn.imp_left fun h => (List.mem_cons.1 h).resolve_left hm

/-- RING leaves every junction its timetable. -/
theorem State.table_rung (l : List Nat) (t : State) (n : Nat) :
    ((l.foldl (fun t n => t.onJunction n Junction.armed) t).junction n).table = (t.junction n).table := by
  induction l generalizing t with
  | nil => rfl
  | cons m l ih =>
    refine (ih _).trans ?_
    rw [State.junction_onJunction]
    split
    next h => rw [h]; rfl
    next => rfl

theorem State.loopLine_rung (l : List Nat) (t : State) (key : Nat) :
    (l.foldl (fun t n => t.onJunction n Junction.armed) t).loopLine key = t.loopLine key := by
  induction l generalizing t with
  | nil => rfl
  | cons n l ih => exact ih _

variable (he : s.Ends x i a b run finish wait)
include he

/-- How TTLOAD ends in a LINE region (R131, R168). -/
theorem State.Ends.tableRes {r : Region} {blk : Block} (ht : (t.unit? s.cur.unit).isSome = true)
    (hrun : exec i s = .next (run (tableRes s.cur.unit t a r blk))) :
    (t.lineRuns (stnOf s.cur.unit) = true ∨ t.blockQuiet s.cur.unit a = false →
      ∃ t', exec i s = .next t' ∧ t'.CarriesOn s.cur.unit i 0) ∧
    (t.lineRuns (stnOf s.cur.unit) = false → t.blockQuiet s.cur.unit a = true →
      t.readTable r (stnOf s.cur.unit) a blk = none → exec i s = .next (s.trapped (illegal 2))) ∧
    (∀ tt, t.lineRuns (stnOf s.cur.unit) = false → t.blockQuiet s.cur.unit a = true →
      t.readTable r (stnOf s.cur.unit) a blk = some tt → exec i s = .next
        (finish (t.onJunction (stnOf s.cur.unit) fun j => { j with table := some tt, entries := [] }))) := by
  unfold Machine.tableRes at hrun
  refine ⟨fun h => ⟨_, hrun, ?_⟩, fun hl hq hr => ?_, fun tt hl hq hr => ?_⟩
  · rw [if_pos (by simpa using h)]
    exact he.again t 0 ht
  · rw [hrun, if_neg (by simp [hl, hq]), hr]
    exact congrArg _ (he.trap _)
  · rw [hrun, if_neg (by simp [hl, hq]), hr]
    exact congrArg _ (he.done _)

/-- How RING ends in a LINE region (R129). -/
theorem State.Ends.ringRes {r : Region} (ht : (t.unit? s.cur.unit).isSome = true)
    (hrun : exec i s = .next (run (ringRes s.cur.unit t a r))) :
    (ringBad a.toNat = true → exec i s = .next (s.trapped (illegal 2))) ∧
    (ringBad a.toNat = false → t.lineRuns (stnOf s.cur.unit) = true → ∃ t', exec i s = .next t' ∧ t'.CarriesOn s.cur.unit i 0) ∧
    (ringBad a.toNat = false → t.lineRuns (stnOf s.cur.unit) = false →
      exec i s = .next (finish (t.rung (stnOf s.cur.unit) r a))) := by
  unfold Machine.ringRes at hrun
  refine ⟨fun h => ?_, fun h hl => ⟨_, hrun, ?_⟩, fun h hl => ?_⟩
  · rw [hrun, if_pos h, he.trap]
  · rw [if_neg (ne_true_of_eq_false h), if_pos hl]
    exact he.again t 0 ht
  · rw [hrun, if_neg (ne_true_of_eq_false h), if_neg (ne_true_of_eq_false hl), he.done]

/-- How TINJ ends, by what its tile's translation comes to (R130, R194). -/
theorem State.Ends.injectRes {phase : Nat} {reads : EngineRead} (ht : (reads.state.unit? s.cur.unit).isSome = true)
    (hrun : exec i s = .next (run (injectRes s.cur.unit x a b phase reads))) :
    (∀ r e, reads = .fault r e → exec i s = .next (s.portRaised x i r a b phase e)) ∧
    (∀ r va, (∃ level, reads = .invalid r va level) ∨ reads = .wb r va →
      ∃ t' hd, exec i s = .next t' ∧ t'.WithheldAt s.cur.unit i phase hd ∧ hd.va = va) ∧
    (∀ r ls, reads = .ok r ls →
      (∀ r', r.gather s.cur.unit (districtOfUnit s.cur.unit) x.part ls = (r', none) →
        ∃ t', exec i s = .next t' ∧ t'.CarriesOn s.cur.unit i 1) ∧
      (∀ r' bs, r.gather s.cur.unit (districtOfUnit s.cur.unit) x.part ls = (r', some bs) →
        exec i s = .next (wait (r'.inject s.cur.unit (tileOf s.cur.unit a b bs)) (.inject a.toNat b)))) := by
  have unitOf {r : State} (hr : r.units = reads.state.units) : (r.unit? s.cur.unit).isSome = true := by
    rwa [State.unit?, hr]
  refine ⟨fun r e hr => ?_, fun r va hr => ?_, fun r ls hr => ⟨fun r' hg => ?_, fun r' bs hg => ?_⟩⟩
  · rw [hrun, hr]
    exact congrArg _ (he.portFault r phase e)
  · rcases hr with ⟨level, rfl⟩ | rfl
    · exact ⟨_, _, hrun, he.hold _ _ _ (unitOf (r.units_withhold _ _ _ _ _ _)), rfl⟩
    · exact ⟨_, _, hrun, he.hold _ _ _ (unitOf (r.units_withhold _ _ _ _ _ _)), rfl⟩
  · subst hr
    have hgather := r.homeStep_gather s.cur.unit (districtOfUnit s.cur.unit) x.part ls
    rw [hg] at hgather
    refine ⟨_, hrun, ?_⟩
    rw [Machine.injectRes, hg]
    exact he.again r' 1 (unitOf hgather.units)
  · subst hr
    rw [hrun, Machine.injectRes, hg]
    exact congrArg _ (he.block _ _)

end

/-! ### The words of the line (R129, R130, R437) -/

theorem tileOf_eq (u : Nat) (a c : W64) (bs : List Byte) : tileOf u a c bs =
    ⟨c.getLsbD 31, c.toNat % 2 ^ 12, a.toNat, c.extractLsb' 32 32, c.toNat / 2 ^ 12 % 2 ^ 12, 0, stnOf u % 8, u, sparse bs⟩ := by
  unfold tileOf fld
  rw [Nat.shiftRight_zero, Nat.shiftRight_eq_div_pow _ 12]
  rfl

/-- A tile is refused but where the line is armed for it and its descriptor is well formed. -/
theorem LoopLine.refuses_iff (l : LoopLine) (c : W64) : l.refuses c = true ↔
    ¬ (l.armed = true ∧ l.seen.length < l.arm.toNat % 2 ^ 13 ∧ (∀ e ∈ l.seen, ¬ (e.1 = c.getLsbD 31 ∧ e.2.1 = c.toNat % 2 ^ 12)) ∧
      c.toNat / 2 ^ 12 % 2 ^ 12 ≠ 0 ∧ c.toNat / 2 ^ 24 % 2 ^ 7 = 0) := by
  unfold LoopLine.refuses fld
  simp only [Nat.shiftRight_eq_div_pow, Bool.or_eq_true, Bool.not_eq_true', decide_eq_true_eq, List.any_eq_true,
    Bool.and_eq_true, beq_iff_eq, bne_iff_ne]
  grind

section
variable {x : Unit}

theorem State.rung_line (t : State) (stn : Nat) (r : Region) (a : W64) :
    (t.rung stn r a).loopLine (stn / 8) = (t.loopLine (stn / 8)).ringed a := by
  rw [State.rung, State.loopLine_rung]
  exact (Tab.get_set _ _ _ _ _).trans (if_pos rfl)

/-- RSTAT (R142). -/
def statusRes (u : Nat) (x : Unit) (t : State) (d : Dst) (n : W64) : Res :=
  if 1 < n.toNat || (n = 1 && !t.inLine x) then .trap (illegal 2)
  else if n = 0 then .write t d 0 (junctionStatus (t.junction (stnOf u))) 1
  else .write t d 0 (lineStatus (t.loopLine (lineOf (stnOf u)))) 1

section
variable {u : Nat} {t : State} {d : Dst} {n : W64}

theorem statusRes_junction : statusRes u x t d 0 = .write t d 0 (junctionStatus (t.junction (stnOf u))) 1 := by
  simp [statusRes]

theorem statusRes_line (hl : t.inLine x = true) :
    statusRes u x t d 1 = .write t d 0 (lineStatus (t.loopLine (lineOf (stnOf u)))) 1 := by
  simp [statusRes, hl]

theorem statusRes_noLine (hl : t.inLine x = false) : statusRes u x t d 1 = .trap (illegal 2) := by
  simp [statusRes, hl]

theorem statusRes_above (hn : 1 < n.toNat) : statusRes u x t d n = .trap (illegal 2) := by
  simp [statusRes, hn]

end

end
end Sys2Proof.Machine

namespace Sys2Proof
open Machine

/-- Settles O41: outside a LINE region the instructions of the line fault; in one they wait for the run's end, act on the
junctions and the line, or read and inject a tile. -/
theorem trainInstructions : Obligations.TrainInstructions := by
  intro s x h v d u key later traps line ti ri ji ttload ring tinj
  have ttloadOf {t : State} {a b : W64} {run : Res → State} {finish : State → State} {wait : State → Blocked → State}
      (he : s.Ends x ti a b run finish wait) (ht : (t.unit? u).isSome = true)
      (hrun : exec ti s = .next (run (lineRes x t fun r => match t.needBlock x.ctx a with
        | .error e => .trap e
        | .ok b => tableRes u t a r b))) : ttload t a finish := by
    obtain ⟨hout, hin⟩ := he.lineRes hrun
    refine ⟨hout, fun r hr hl => ⟨fun e hb => ?_, fun b hb => he.tableRes ht ?_⟩⟩
    · rw [hin r hr hl, hb]
      exact congrArg _ (he.trap e)
    · rw [hin r hr hl, hb]
  have ringOf {t : State} {a b : W64} {run : Res → State} {finish : State → State} {wait : State → Blocked → State}
      (he : s.Ends x ri a b run finish wait) (ht : (t.unit? u).isSome = true)
      (hrun : exec ri s = .next (run (lineRes x t (ringRes u t a)))) : ring t a finish := by
    obtain ⟨hout, hin⟩ := he.lineRes hrun
    refine ⟨hout, fun r hr hl => ?_⟩
    obtain ⟨hbad, hwait, hdone⟩ := he.ringRes ht (hin r hr hl)
    refine ⟨hbad, hwait, fun hgood hline => ⟨_, hdone hgood hline, t.rung_line _ r a, fun n hn => ?_⟩⟩
    obtain ⟨j, hj⟩ := State.junction_rung r.stations t (.inl hn)
    have htab : j.table = (t.junction n).table := (congrArg Junction.table hj).symm.trans (State.table_rung r.stations t n)
    rw [← htab, show (t.rung (stnOf u) r a).junction n = j.armed from hj]
    exact ⟨rfl, rfl, rfl, rfl, rfl, rfl⟩
  have tinjOf {t : State} {a b : W64} {phase : Nat} {run : Res → State} {finish : State → State} {wait : State → Blocked → State}
      (he : s.Ends x ji a b run finish wait) (ht : (t.unit? u).isSome = true)
      (hrun : exec ji s = .next (run (if !t.inLine x then .trap (illegal 1)
        else if a.toNat % 256 != 0 then .trap (misaligned a)
        else if (t.loopLine (lineOf (stnOf u))).refuses b then .trap (illegal 2)
        else injectRes u x a b phase (t.engineLines x.ctx x.part (stnOf u) (portOf u) (b2n (phase = 0)) a.toNat
          (128 * jBytes (armFmt (t.loopLine (lineOf (stnOf u))).arm (b.getLsbD 31))))))) : tinj t a b phase wait := by
    have hsound := LoopLine.refuses_iff (t.loopLine (lineOf (stnOf u))) b
    refine ⟨fun hl => ?_, fun hl ha => ?_, fun hl ha hs => ?_, fun hl ha hs => ?_⟩
    · exact hrun.trans (by rw [if_pos (by simp [hl]), he.trap])
    · exact hrun.trans (by rw [if_neg (by simp [hl]), if_pos (bne_iff_ne.2 ha), he.trap])
    · exact hrun.trans (by rw [if_neg (by simp [hl]), if_neg (by simp [ha]), if_pos (hsound.2 hs), he.trap])
    · rw [if_neg (by simp [hl]), if_neg (by simp [ha]), if_neg (fun hr => hsound.1 hr hs)] at hrun
      obtain ⟨hfault, hheld, hok⟩ := he.injectRes (by rwa [State.unit?, State.units_engineLines]) hrun
      have hcount : b2n (decide (phase = 0)) = if phase = 0 then 1 else 0 := by simp [b2n]
      rw [hcount] at hfault hheld hok
      refine ⟨hfault, hheld, fun r ls hr => ?_⟩
      obtain ⟨hwait, htile⟩ := hok r ls hr
      refine ⟨hwait, fun r' bs hg => ?_⟩
      rw [htile r' bs hg, tileOf_eq]
      rfl
  refine ⟨fun hf => ?_, fun c hc => ?_, fun hf => ?_, fun c hc => ?_, fun hf => ?_, fun c hc => ?_, fun hf => ?_⟩
  · exact ttloadOf hf.ends ((s.readBy_taken [h]).isSome_unit? hf.unit)
      (hf.answers (exec ti) rfl (execTtload_eq (h := h)) rfl rfl rfl rfl rfl rfl)
  · exact ttloadOf hc.ends (hc.isSome_resumed [h]) (hc.answers (exec ti) rfl (execTtload_eq (h := h)) rfl rfl rfl)
  · exact ringOf hf.ends ((s.readBy_taken [h]).isSome_unit? hf.unit)
      (hf.answers (exec ri) rfl (execRing_eq (h := h)) rfl rfl rfl rfl rfl rfl)
  · exact ringOf hc.ends (hc.isSome_resumed [h]) (hc.answers (exec ri) rfl (execRing_eq (h := h)) rfl rfl rfl)
  · exact tinjOf hf.ends ((s.readBy_taken [h, v]).isSome_unit? hf.unit)
      (hf.answers (exec ji) rfl (execTinj_eq (h := h) (v := v)) rfl rfl rfl rfl rfl rfl)
  · exact tinjOf hc.ends (hc.isSome_resumed [h, v]) (hc.answers (exec ji) rfl (execTinj_eq (h := h) (v := v)) rfl rfl rfl)
  · intro t n
    have he : exec (.rstat d v) s = .next (s.fired x (.rstat d v) (statusRes u x t d n)) :=
      (hf.answers (execRstat d v) rfl rfl rfl rfl rfl rfl rfl rfl :)
    refine ⟨fun hn => ?_, fun hn hl => ?_, fun hn hl => ?_, fun hn => ?_⟩
    · rw [he, hn, statusRes_junction]
      rfl
    · rw [he, hn, statusRes_line hl]
      rfl
    · exact he.trans (by rw [hn, statusRes_noLine hl, hf.ends.trap])
    · exact he.trans (by rw [statusRes_above hn, hf.ends.trap])

end Sys2Proof
end

section
/-! SUPPORT. The events of the copy, multicast and stream engines, by the result of the access that each makes (R99, R347 to R349,
R389, R390, R434, R435). -/
namespace Sys2Proof.Machine

section
variable {s : State} {stn ch : Nat} {c : CopyChan} {x : Unit}

/-! ### The event of a copy (R99, R181, R349) -/

/-- What the write of a copy's event leaves, by its result. -/
def State.copyWritten (stn ch : Nat) (c : CopyChan) (bs : List Byte) : SideRes PUnit → State
  | .wait t => t.setChan stn ch { c with buf := bs, asked := true }
  | .hold t h => t.setChan stn ch { c with buf := bs, asked := false, hold := some h }
  | .fault t e => (t.setChan stn ch { c with busy := false }).raiseBy (some 3) c.unit e
  | .ok t _ => t.copyWrote stn ch c

/-- What the read of a copy's event leaves, by its result. -/
def State.copyRead (stn ch : Nat) (c : CopyChan) (x : Unit) : SideRes (List Byte) → State
  | .wait t => t.setChan stn ch { c with asked := true }
  | .hold t h => t.setChan stn ch { c with hold := some h }
  | .fault t e => (t.setChan stn ch { c with busy := false }).raiseBy (some 3) c.unit e
  | .ok t bs => State.copyWritten stn ch c bs (t.writeSide c.unit x (copyAgent stn ch) (c.asked && !c.buf.isEmpty)
      (copyDstGlobal c.desc) (copyDst c.desc) c.ptr bs)

theorem State.copyStep_reads (h : c.buf = []) : s.copyStep stn ch c x = State.copyRead stn ch c x
    (s.readSide c.unit x (copyAgent stn ch) c.asked (copySrcGlobal c.desc) (copySrc c.desc) c.ptr 32) := by
  unfold State.copyStep
  rw [if_pos (List.isEmpty_iff.2 h)]
  rfl

/-- The bytes of the event are in hand. -/
theorem State.copyStep_inHand (h : c.buf ≠ []) : s.copyStep stn ch c x = State.copyRead stn ch c x (.ok s c.buf) := by
  unfold State.copyStep
  rw [if_neg (fun he => h (List.isEmpty_iff.1 he))]
  rfl

variable (hc : (s.station stn).copy ch = c)
include hc

theorem State.exec_copyEvent_wrote (hx : s.unit? c.unit = some x) (hw : c.wrote = true) :
    exec (.copyEvent stn ch) s = .next (s.copyWrote stn ch c) := by
  simp [exec, execCopyEvent, hc, hx, hw]

theorem State.exec_copyEvent_step (hx : s.unit? c.unit = some x) (hw : c.wrote = false) (hb : c.busy = true) (hh : c.hold = none)
    (hp : c.ptr < copyLen c.desc) (hm : s.mayRepeat (copyAgent stn ch) = true) :
    exec (.copyEvent stn ch) s = .next ((s.repeated (copyAgent stn ch)).copyStep stn ch c x) := by
  simp [exec, execCopyEvent, hc, hx, hw, hb, hh, hp, hm]

/-! ### The end of a copy and of a multicast (R99, R348, R390) -/

theorem State.exec_copyComplete_done (hb : c.busy = true) (hp : copyLen c.desc ≤ c.ptr)
    (hi : s.noInvals (copyAgent stn ch) .package = true) (hm : s.mayTurn stn rankCopy = true)
    (hf : s.completionFree c.unit (wordAt c.desc 3) = true) : exec (.copyComplete stn ch) s =
      .next (((s.noteTurn stn rankCopy).setChan stn ch { c with busy := false }).completion c.unit (wordAt c.desc 3) (copyLen c.desc)) := by
  simp [exec, execCopyComplete, hc, hb, hp, hi, hf, hm]

theorem State.exec_copyComplete_waits (h : c.busy = false ∨ c.ptr < copyLen c.desc ∨ s.noInvals (copyAgent stn ch) .package = false ∨
    s.completionFree c.unit (wordAt c.desc 3) = false) : exec (.copyComplete stn ch) s = .next s := by
  rcases h with h | h | h | h <;> simp [exec, execCopyComplete, hc, h]

end

section
variable {s : State} {i : Nat} {m : Mcast} (hm : Tab.find s.mcasts i = some m)
include hm

theorem State.exec_mcastComplete_sending (hst : m.st = .sending) : exec (.mcastComplete i) s = .next s := by
  simp [exec, execMcastComplete, hm, hst]

variable (hst : m.st ≠ .sending) (hw : ∀ p ∈ s.mesh, ∀ l a b, p.req ≠ .mcast i l a b)
include hst hw

/-- A multicast whose lines are all delivered, or that has met a fault, ends. -/
theorem State.exec_mcastComplete_ends : exec (.mcastComplete i) s = .next
    (match m.stale with
    | some h => State.raiseBy { s with mcasts := Tab.del s.mcasts i } (some 3) m.unit (engineStale h)
    | none =>
      if m.st == .broken then { s with mcasts := Tab.del s.mcasts i }
      else if s.completionFree m.unit (wordAt m.words 3) && s.mayTurn (stnOf m.unit) rankCopy then
        (State.noteTurn { s with mcasts := Tab.del s.mcasts i } (stnOf m.unit) rankCopy).completion m.unit (wordAt m.words 3) (mcastLen m.words)
      else s) := by
  simp only [exec, execMcastComplete, hm]
  refine congrArg _ ((if_neg fun hbusy => ?_).trans ?_)
  · rcases Bool.or_eq_true_iff.1 hbusy with hany | hsend
    · obtain ⟨p, hp, hq⟩ := List.any_eq_true.1 hany
      split at hq
      next mc l a b hreq => exact hw p hp l a b (hreq.trans (by rw [beq_iff_eq.1 hq]))
      next => cases hq
    · exact hst (beq_iff_eq.1 hsend)
  · cases m.stale <;> rfl

end

/-! ### The rows of a stream (R433 to R435) -/

/-- What the read of a stream's source event leaves, by its result; `more` says whether further events follow in the row. -/
def State.streamRead (u : Nat) (x : Unit) (st : Stream) (more : Bool) : SideRes (List Byte) → State
  | .wait t => t.setStream u { st with asked := true }
  | .hold t h => t.setStream u { st with hold := some h, asked := false }
  | .fault t e => if e.code = .staleHandle then t.endStream u e.addr else t.faultStream u x st e
  | .ok t bs => if more then t.setStream u { st with got := st.got ++ bs, asked := false } else t.finishRow u x st (st.got ++ bs)

section
variable {s : State} {u : Nat} {x : Unit} {st : Stream}

theorem State.strmRow_full (h : eventsLeft (rowEvents st.desc st.row) st.got.length = []) :
    s.strmRow u x st = s.finishRow u x st st.got := by
  rw [State.strmRow, h]

theorem State.strmRow_event {e : Nat × Nat} {es : List (Nat × Nat)}
    (h : eventsLeft (rowEvents st.desc st.row) st.got.length = e :: es) : s.strmRow u x st = State.streamRead u x st (!es.isEmpty)
      (s.readSide u x u st.asked (strmSrcGlobal st.desc) (st.desc.getD 0 0) e.1 e.2) := by
  rw [State.strmRow, h]
  cases es <;> rfl

variable (hx : s.unit? u = some x) (hb : x.blocked = some (.stream st)) (hp : st.pend = none) (hh : st.hold = none)
include hx hb hp hh

theorem State.exec_strmRow_ended (h : strmRows st.desc ≤ st.row) :
    exec (.strmRow u) s = .next (s.putUnit u { x.next x.blockedUpd with blocked := none, blockedUpd := .none }) := by
  simp only [exec, execStrmRow, hx, hb, hp, hh, Option.isSome_none, Bool.or_self, Bool.false_eq_true, if_false, h, if_true]
  rw [State.unblock, State.onUnit_eq_putUnit hx]
  rfl

theorem State.exec_strmRow_row (h : st.row < strmRows st.desc) (hr : s.streamRuns u x = true) (hm : s.mayRepeat u = true)
    (hs : st.row < strmDRows st.desc ∨ s.rowReleased st.dests
      (withOff st.blk (hOff st.blk + strmRowB st.desc * (st.row % strmDRows st.desc))) = true) :
    exec (.strmRow u) s = .next ((s.repeated u).strmRow u x st) := by
  have hslot : (decide (strmDRows st.desc ≤ st.row) && !s.rowReleased st.dests
      (withOff st.blk (hOff st.blk + strmRowB st.desc * (st.row % strmDRows st.desc)))) = false := by
    rcases hs with hs | hs
    · rw [decide_eq_false (Nat.not_le.2 hs), Bool.false_and]
    · rw [hs, Bool.not_true, Bool.and_false]
  simp only [exec, execStrmRow, hx, hb, hp, hh, Option.isSome_none, Bool.or_self, Bool.false_eq_true, if_false, Nat.not_le.2 h, hr, hm,
    Bool.not_true, hslot]

end

end Sys2Proof.Machine

namespace Sys2Proof
open Machine

/-- Settles O52: each engine event by the result of the access that it makes. -/
theorem engineEvents : Obligations.EngineEvents := by
  intro s stn ch i u c x m who w3 wrote
  have hwrote (t : State) : t.copyWrote stn ch c = wrote t := (apply_ite (t.setChan stn ch) _ _ _).symm
  refine ⟨fun hc hx hw => (State.exec_copyEvent_wrote hc hx hw).trans (by rw [hwrote]), ?event, ?complete, fun hc h => State.exec_copyComplete_waits hc h, ?mcast,
    fun hm hst => State.exec_mcastComplete_sending hm hst, ?stream⟩
  case event =>
    intro hc hx hw hb hh hp hm reads writes done
    have he := State.exec_copyEvent_step hc hx hw hb hh hp hm
    have doneOf {t : State} {asked : Bool} {bs : List Byte} (ha : (c.asked && !c.buf.isEmpty) = asked)
        (hr : exec (.copyEvent stn ch) s = .next (State.copyRead stn ch c x (.ok t bs))) : done t asked bs := by
      subst ha
      have hwrites : exec (.copyEvent stn ch) s =
          .next (State.copyWritten stn ch c bs (writes t (c.asked && !c.buf.isEmpty) bs)) := hr
      refine ⟨fun t' h => ?_, fun t' hd h => ?_, fun t' h => ?_, fun t' e h => ?_⟩
      · rw [hwrites, h, State.copyWritten, hwrote]
      all_goals
        rw [hwrites, h]
        rfl
    refine ⟨fun hbuf => ?_, fun hbuf => doneOf ?_ (by rw [he, State.copyStep_inHand hbuf])⟩
    · rw [State.copyStep_reads hbuf] at he
      change exec (.copyEvent stn ch) s = .next (State.copyRead stn ch c x reads) at he
      refine ⟨fun t bs h => doneOf ?_ (by rw [he, h]), fun t hd h => ?_, fun t h => ?_, fun t e h => ?_⟩
      · simp [hbuf]
      all_goals
        rw [he, h]
        rfl
    · simp [hbuf]
  case complete =>
    intro hc hb hp hi hm hf t
    have he := State.exec_copyComplete_done hc hb hp hi hm hf
    refine ⟨he, fun htok => ?_⟩
    rw [he, State.completion, if_neg (ne_true_of_eq_false htok)]
    rfl
  case mcast =>
    intro hm hst hw gone
    have he := State.exec_mcastComplete_ends hm hst hw
    refine ⟨fun hbroken hs => ?_, fun h hs => ?_, fun hsent hs hf ht => ?_⟩
    · rw [he, hs, hbroken]
      rfl
    · rw [he, hs]
    · rw [he, hs, hsent, hf, ht]
      rfl
  case stream =>
    intro hx st hb hp hh goes
    refine ⟨State.exec_strmRow_ended hx hb hp hh, fun hrow hr hm hs => ?_⟩
    have he := State.exec_strmRow_row hx hb hp hh hrow hr hm hs
    refine ⟨fun hfull => he.trans (by rw [State.strmRow_full hfull]), ?_⟩
    intro e es hev reads
    rw [State.strmRow_event hev] at he
    change exec (.strmRow u) s = .next (State.streamRead u x st (!es.isEmpty) reads) at he
    refine ⟨fun t bs h => ?_, fun t hd h => ?_, fun t h => ?_, fun t f h hstale => ?_, fun t f h hport => ⟨fun hq => ?_, fun hq => ?_⟩⟩
    · refine he.trans ?_
      rw [h]
      cases es <;> rfl
    · exact he.trans (by rw [h]; rfl)
    · exact he.trans (by rw [h]; rfl)
    · exact he.trans (by rw [h, State.streamRead, if_pos hstale]; rfl)
    · exact he.trans (by rw [h, State.streamRead, if_neg hport, State.faultStream, if_pos hq])
    · exact he.trans (by rw [h, State.streamRead, if_neg hport, State.faultStream, if_neg (ne_true_of_eq_false hq)])

end Sys2Proof
end

section
/-! SUPPORT. The bytes of a line as its home holds them after a write and after a fill (R154, R156, R159). -/
namespace Sys2Proof.Machine

/-! ### The bytes of a line (R154) -/

/-- The line holds byte `b` at offset `o`, whatever is below it. -/
def Line.Gives (x : Line) (o : Nat) (b : Byte) : Prop := ∀ below, x.byteAt o below = b

section
variable {x : Line} {o : Nat} {b : Byte}

theorem Line.byteAt_zero (h : x.kind = .zero) (below : Byte) : x.byteAt o below = 0 := by
  simp [Line.byteAt, h]

theorem Line.byteAt_valid (h : x.kind ≠ .zero) (hv : x.validAt o = true) (below : Byte) : x.byteAt o below = Tab.get x.data o 0 := by
  unfold Line.byteAt
  split
  next hk => exact absurd hk h
  next => rw [if_pos hv]

theorem Line.byteAt_invalid (h : x.kind ≠ .zero) (hv : x.validAt o = false) (below : Byte) : x.byteAt o below = below := by
  unfold Line.byteAt
  split
  next hk => exact absurd hk h
  next => rw [if_neg (ne_true_of_eq_false hv)]

theorem Line.gives_of_valid (h : x.kind ≠ .zero) (hv : x.validAt o = true) (hb : Tab.get x.data o 0 = b) : x.Gives o b :=
  fun below => (x.byteAt_valid h hv below).trans hb

/-- A sector that a byte touches and that is not wholly valid shows as a partial write. -/
theorem valid_of_not_partly : ∀ (v : BitVec 4) (k : Fin 4), ((0 ||| BitVec.ofNat 4 (2 ^ k.val)) &&& ~~~v != 0) = false →
    v.getLsbD k.val = true := by decide

theorem Line.kind_write (bs : List (Nat × Byte)) : (x.write bs).kind ≠ .zero := by
  unfold Line.write
  dsimp only
  split <;> simp

/-- A byte just written into a line is valid there. -/
theorem Line.validAt_write (ho : o < 128) (b : Byte) : (x.write [(o, b)]).validAt o = true := by
  unfold Line.validAt
  by_cases hm : (x.write [(o, b)]).mask = putMask x.mask [o]
  · rw [hm]
    simp [putMask, Tab.get]
  · refine Bool.or_eq_true_iff.2 (.inl (valid_of_not_partly _ ⟨o / 32, by omega⟩ ?_))
    by_contra hp
    exact hm (if_pos (Bool.or_eq_true_iff.2 (.inr (eq_true_of_ne_false hp))))

theorem Line.data_write (b : Byte) : Tab.get (x.write [(o, b)]).data o 0 = b := by
  simp [Line.write, putBytes, Tab.get]

theorem Line.gives_write (ho : o < 128) : (x.write [(o, b)]).Gives o b :=
  Line.gives_of_valid (Line.kind_write _) (Line.validAt_write ho b) (Line.data_write b)

/-- A line that waits for a way holds the bytes that it was given. -/
theorem Line.gives_awaitWay (hk : x.kind ≠ .zero) (hv : x.validAt o = true) (hb : Tab.get x.data o 0 = b) :
    (x.awaitWay [(o, b)]).Gives o b := by
  unfold Line.awaitWay
  split
  · refine Line.gives_of_valid (by simp) ?_ hb
    simp [Line.validAt, putMask, Tab.get]
  · exact Line.gives_of_valid hk hv hb

theorem Line.gives_zero (x : Line) (d : BitVec 4) (o : Nat) : (x.toZero d).Gives o 0 := Line.byteAt_zero rfl

theorem Line.data_of_allZero (h : x.allZero = true) (ho : o < 128) : x.validAt o = true ∧ Tab.get x.data o 0 = 0 := by
  unfold Line.allZero at h
  obtain ⟨hv, hd⟩ := Bool.and_eq_true_iff.1 h
  refine ⟨?_, beq_iff_eq.1 (List.all_eq_true.1 hd o (List.mem_range.2 ho))⟩
  have hall : ∀ k : Fin 4, (0xF#4).getLsbD k.val = true := by decide
  rw [Line.validAt, beq_iff_eq.1 hv, hall ⟨o / 32, by omega⟩, Bool.true_or]

end

/-! ### Homes and keys under changes of the homes (R150, R151) -/

section
variable {s t : State} (h : s.HomeStep t) (p : Nat) (l : Loc)
include h

theorem State.HomeStep.partitions : t.partitions = s.partitions := by
  unfold State.HomeStep at h
  rw [h]

theorem State.HomeStep.homeDistrict : t.homeDistrict p l = s.homeDistrict p l := by
  simp only [State.homeDistrict, State.districts, State.part, h.partitions]

theorem State.HomeStep.keyOf : t.keyOf p l = s.keyOf p l := by
  rw [State.keyOf, h.homeDistrict, State.keyOf]

end

section
variable {s : State} {p : Nat} {k : Kind} {a o : Nat} {b : Byte}

/-- The bytes of a line have one home. -/
theorem State.keyOf_add (ha : a % 128 = 0) (ho : o < 128) : s.keyOf p ⟨k, a + o⟩ = s.keyOf p ⟨k, a⟩ := by
  have hline : (a + o) / 128 = a / 128 := by omega
  have hdistrict : s.homeDistrict p ⟨k, a + o⟩ = s.homeDistrict p ⟨k, a⟩ := by
    have hstack : (a + o) / 137438953472 = a / 137438953472 := by omega
    have hpage : (a + o) / 4096 = a / 4096 := by omega
    cases k <;> simp [State.homeDistrict, stackOf, fld, Nat.shiftRight_eq_div_pow, hstack, hpage]
  simp only [State.keyOf, lineKey, hdistrict, hline]

theorem State.homeByte_line {x : Line} (ha : a % 128 = 0) (ho : o < 128) (hx : s.line? (s.keyOf p ⟨k, a⟩) = some x) :
    s.homeByte p ⟨k, a + o⟩ = x.byteAt o (Memory.read (s.memOf k) (a + o)) := by
  have hmod : (a + o) % 128 = o := by omega
  simp only [State.homeByte, State.keyOf_add ha ho, hx, hmod]

theorem State.homeByte_below (ha : a % 128 = 0) (ho : o < 128) (hx : s.line? (s.keyOf p ⟨k, a⟩) = none) :
    s.homeByte p ⟨k, a + o⟩ = Memory.read (s.memOf k) (a + o) := by
  simp only [State.homeByte, State.keyOf_add ha ho, hx]

theorem State.line?_rawWrite (s : State) (k : Kind) (bs : List (Nat × Byte)) (key : Nat) : (s.rawWrite k bs).line? key = s.line? key := by
  cases k <;> rfl

theorem State.memOf_rawWrite (s : State) (k : Kind) (bs : List (Nat × Byte)) : (s.rawWrite k bs).memOf k = Memory.writes (s.memOf k) bs := by
  cases k <;> rfl

theorem State.line?_putLine (s : State) (key : Nat) (x : Line) : (s.putLine key x).line? key = some x := Tab.find_put_self _ _ _

theorem State.line?_dropLine (s : State) (key : Nat) : (s.dropLine key).line? key = none := by
  simp [State.line?, State.dropLine, Tab.find_del]

theorem State.line?_evict (s : State) (key : Nat) : (s.evict key).line? key = none := State.line?_dropLine _ _

/-- Settling a line leaves it, or makes it Zero where all its bytes are. -/
theorem State.line?_settle (s : State) (key : Nat) (x : Line) (d : BitVec 4) : (s.settle key x d).line? key = some x ∨
    (x.kind = .present ∧ x.allZero = true ∧ (s.settle key x d).line? key = some (x.toZero d)) := by
  unfold State.settle
  dsimp only
  split
  next hz =>
    simp only [Bool.and_eq_true, beq_iff_eq] at hz
    obtain ⟨⟨⟨hk, ha⟩, -⟩, -⟩ := hz
    exact .inr ⟨hk, ha, State.line?_putLine _ _ _⟩
  next => exact .inl (State.line?_putLine _ _ _)

/-- The last of the bytes written at once is what memory then holds. -/
theorem Memory.read_writes_last (m : Memory) (l : List (Nat × Byte)) (a : Nat) (b : Byte) :
    Memory.read (Memory.writes m (l ++ [(a, b)])) a = b := by
  rw [Memory.writes_append]
  exact Memory.read_write_self _ _ _

end

/-! ### A byte written at its home (R153, R154, R156, R159) -/

section
variable {t : State} {p : Nat} {l : Loc} {cmode : Nat} {depot : Bool} {o : Nat} {b : Byte} (ha : l.addr % 128 = 0) (ho : o < 128)
include ha

theorem lineCells_single : lineCells l [(o, b)] = [(l.addr + o, b)] := by
  have hfloor : floorTo l.addr 128 = l.addr := by simp [floorTo, ha]
  simp [lineCells, hfloor]

include ho

/-- With no line, the byte is what memory below holds. -/
theorem State.homeByte_of_memory {r : State} (h : t.HomeStep r) (hl : r.line? (t.keyOf p l) = none)
    (hm : Memory.read (r.memOf l.kind) (l.addr + o) = b) : r.homeByte p ⟨l.kind, l.addr + o⟩ = b := by
  rw [← h.keyOf] at hl
  exact (State.homeByte_below ha ho hl).trans hm

theorem State.homeByte_of_gives {r : State} {x : Line} (h : t.HomeStep r) (hl : r.line? (t.keyOf p l) = some x) (hx : x.Gives o b) :
    r.homeByte p ⟨l.kind, l.addr + o⟩ = b := by
  rw [← h.keyOf] at hl
  exact (State.homeByte_line ha ho hl).trans (hx _)

/-- A byte written past the caches. -/
theorem State.homeByte_rawWrite {r : State} (cells : List (Nat × Byte)) (h : t.HomeStep r) (hl : r.line? (t.keyOf p l) = none) :
    (r.rawWrite l.kind (cells ++ lineCells l [(o, b)])).homeByte p ⟨l.kind, l.addr + o⟩ = b := by
  refine State.homeByte_of_memory ha ho (h.trans (r.homeStep_rawWrite _ _)) ?_ ?_
  · rwa [State.line?_rawWrite]
  · rw [State.memOf_rawWrite, lineCells_single ha]
    exact Memory.read_writes_last _ _ _ _

theorem State.homeByte_writeAbsent (use : Nat) (hl : t.line? (t.keyOf p l) = none)
    (hd : depot = true → Memory.read (t.memOf l.kind) (l.addr + o) = b) :
    (t.writeAbsent l cmode depot [(o, b)] use (t.homeDistrict p l)).homeByte p ⟨l.kind, l.addr + o⟩ = b := by
  unfold State.writeAbsent
  split
  next h => exact State.homeByte_of_memory ha ho (.refl t) hl (hd h)
  · split
    · exact State.homeByte_rawWrite ha ho [] (.refl t) hl
    · refine State.homeByte_of_gives ha ho ((t.homeStep_makeWay _).trans (State.homeStep_putLine _ _ _)) (State.line?_putLine _ _ _) ?_
      exact Line.gives_awaitWay (Line.kind_write (x := newLine _ _ _ _ _ _) _) (Line.validAt_write ho b) (Line.data_write b)

/-- A write to a line that the L2 holds, the byte being below where the line is a bypass (R156). -/
theorem State.homeByte_writeLine {x : Line} (use : Nat) (hl : t.line? (t.keyOf p l) = some x)
    (hb : x.way ≠ bypassWay ∨ x.validAt o = false) :
    (t.writeLine l depot [(o, b)] (t.homeDistrict p l) (x.met l.kind use depot)).homeByte p ⟨l.kind, l.addr + o⟩ = b := by
  have hwritten (y : Line) (d : BitVec 4) : Line.Gives (if depot then { y.write [(o, b)] with dirty := d } else y.write [(o, b)]) o b := by
    split
    · exact Line.gives_write (x := y) ho
    · exact Line.gives_write ho
  unfold State.writeLine
  dsimp only
  split
  next hk =>
    split
    next hall =>
      obtain rfl : b = 0 := by simpa using hall
      exact State.homeByte_of_gives ha ho (State.homeStep_putLine _ _ _) (State.line?_putLine _ _ _) (Line.byteAt_zero hk)
    next =>
      split
      · exact State.homeByte_rawWrite ha ho _ rfl (State.line?_dropLine _ _)
      · refine State.homeByte_of_gives ha ho ((t.homeStep_makeWay _).trans (State.homeStep_putLine _ _ _)) (State.line?_putLine _ _ _) ?_
        exact Line.gives_awaitWay (Line.kind_write _) (Line.validAt_write ho b) (Line.data_write b)
  next hk =>
    split
    next hway =>
      have hway : x.way = bypassWay := beq_iff_eq.1 hway
      have hkind : x.kind ≠ .zero := fun h => by cases hk.symm.trans h
      have hraw : (t.rawWrite l.kind (lineCells l [(o, b)])).homeByte p ⟨l.kind, l.addr + o⟩ =
          x.byteAt o (Memory.read ((t.rawWrite l.kind (lineCells l [(o, b)])).memOf l.kind) (l.addr + o)) := by
        refine State.homeByte_line ha ho ?_
        rw [(t.homeStep_rawWrite _ _).keyOf, State.line?_rawWrite]
        exact hl
      rw [hraw, x.byteAt_invalid hkind (hb.resolve_left fun h => h hway), State.memOf_rawWrite, lineCells_single ha]
      exact Memory.read_write_self _ _ _
    next => exact State.homeByte_of_gives ha ho (State.homeStep_putLine _ _ _) (State.line?_putLine _ _ _) (hwritten _ _)
  next hk =>
    split
    · exact State.homeByte_rawWrite ha ho [] (t.homeStep_evict _) (State.line?_evict _ _)
    next =>
      generalize hy : (if depot then { (x.met l.kind use depot).write [(o, b)] with dirty := (x.met l.kind use depot).dirty }
        else (x.met l.kind use depot).write [(o, b)]) = y
      have hgives : y.Gives o b := hy ▸ hwritten _ _
      rcases t.line?_settle (lineKey l.kind (t.homeDistrict p l) l.addr) y 0xF with h | ⟨hp, hall, h⟩
      · exact State.homeByte_of_gives ha ho (t.homeStep_settle _ _ _) h hgives
      · obtain ⟨hv, hz⟩ := Line.data_of_allZero hall ho
        obtain rfl : b = 0 := (hgives 0).symm.trans ((y.byteAt_valid (by simp [hp]) hv 0).trans hz)
        exact State.homeByte_of_gives ha ho (t.homeStep_settle _ _ _) h (Line.gives_zero _ _ _)

end

section
variable {s : State} {p : Nat} {l : Loc} {cmode : Nat} {depot : Bool} {o : Nat} {b : Byte} {ws : List Nat}

/-- The state in which a write to stack or host memory meets the L2. -/
def State.writeMeets (s : State) (l : Loc) (depot : Bool) (bs : List (Nat × Byte)) (ws : List Nat) : State :=
  if depot then (s.writeSent l ws).rawWrite l.kind (lineCells l bs) else s.writeSent l ws

theorem State.homeStep_writeMeets (bs : List (Nat × Byte)) : s.HomeStep (s.writeMeets l depot bs ws) :=
  .ite ((s.homeStep_writeSent l ws).trans (State.homeStep_rawWrite _ _ _)) (s.homeStep_writeSent l ws)

theorem State.line?_writeSent (key : Nat) : (s.writeSent l ws).line? key = s.line? key := by
  unfold State.writeSent
  split <;> rfl

theorem State.memOf_writeSent (k : Kind) : (s.writeSent l ws).memOf k = s.memOf k := by
  unfold State.writeSent
  cases k <;> split <;> rfl

theorem State.line?_writeMeets (bs : List (Nat × Byte)) (key : Nat) : (s.writeMeets l depot bs ws).line? key = s.line? key := by
  unfold State.writeMeets
  split
  · rw [State.line?_rawWrite, State.line?_writeSent]
  · exact State.line?_writeSent key

/-- A byte written at its home is what the home then returns. -/
theorem State.homeByte_homeWrite (hp : l.kind ≠ .peer) (ha : l.addr % 128 = 0) (ho : o < 128) (hk : s.keyless p l = false)
    (hx : ∀ x, s.line? (s.keyOf p l) = some x → x.way ≠ bypassWay ∨ x.validAt o = false) :
    (s.homeWrite p l cmode depot [(o, b)] ws).homeByte p ⟨l.kind, l.addr + o⟩ = b := by
  have hstep : s.HomeStep (s.writeMeets l depot [(o, b)] ws) := State.homeStep_writeMeets _
  have hkey := hstep.keyOf p l
  rw [State.homeWrite_line hk hp]
  change State.homeByte (match (s.writeMeets l depot [(o, b)] ws).line? (s.keyOf p l) with
    | none => (s.writeMeets l depot [(o, b)] ws).writeAbsent l cmode depot [(o, b)] s.ids (s.homeDistrict p l)
    | some x => (s.writeMeets l depot [(o, b)] ws).writeLine l depot [(o, b)] (s.homeDistrict p l) (x.met l.kind s.ids depot)) p _ = b
  rw [← hstep.homeDistrict]
  cases hl : s.line? (s.keyOf p l) with
  | none =>
    rw [State.line?_writeMeets, hl]
    refine State.homeByte_writeAbsent ha ho _ (by rw [hkey, State.line?_writeMeets, hl]) fun hd => ?_
    rw [State.writeMeets, if_pos hd, State.memOf_rawWrite, lineCells_single ha]
    exact Memory.read_write_self _ _ _
  | some x =>
    rw [State.line?_writeMeets, hl]
    exact State.homeByte_writeLine ha ho _ (by rw [hkey, State.line?_writeMeets, hl]) (hx x hl)

theorem State.memOf_rawWrite_of_ne {k k' : Kind} (h : k' ≠ k) (bs : List (Nat × Byte)) : (s.rawWrite k bs).memOf k' = s.memOf k' := by
  cases k <;> cases k' <;> simp_all [State.rawWrite, State.setMem, State.memOf]

/-- A write past the caches of a line that is not in the L2 leaves every other byte. -/
theorem State.homeByte_rawWrite_other (ha : l.addr % 128 = 0) {q : Nat} {m : Loc} (hm : ¬ (m.kind = l.kind ∧ m.addr = l.addr + o)) :
    (s.rawWrite l.kind (lineCells l [(o, b)])).homeByte q m = s.homeByte q m := by
  have hmem : Memory.read ((s.rawWrite l.kind (lineCells l [(o, b)])).memOf m.kind) m.addr = Memory.read (s.memOf m.kind) m.addr := by
    by_cases hk : m.kind = l.kind
    · rw [hk, State.memOf_rawWrite, lineCells_single ha]
      exact Memory.read_write_of_ne _ _ fun h => hm ⟨hk, h⟩
    · rw [State.memOf_rawWrite_of_ne hk]
  simp only [State.homeByte, (s.homeStep_rawWrite _ _).keyOf, State.line?_rawWrite, hmem]

theorem State.homeByte_writeSent {q : Nat} {m : Loc} : (s.writeSent l ws).homeByte q m = s.homeByte q m := by
  simp only [State.homeByte, (s.homeStep_writeSent l ws).keyOf, State.line?_writeSent, State.memOf_writeSent]

/-- A write to an uncached page with no line changes no other byte. -/
theorem State.homeByte_homeWrite_other (hp : l.kind ≠ .peer) (ha : l.addr % 128 = 0) (hl : s.line? (s.keyOf p l) = none) {q : Nat} {m : Loc}
    (hm : ¬ (m.kind = l.kind ∧ m.addr = l.addr + o)) : (s.homeWrite p l 2 depot [(o, b)] ws).homeByte q m = s.homeByte q m := by
  cases hk : s.keyless p l with
  | true => rw [State.homeWrite_keyless hk]
  | false =>
    rw [State.homeWrite_line hk hp]
    cases depot with
    | true =>
      have hline : ((s.writeSent l ws).rawWrite l.kind (lineCells l [(o, b)])).line? (s.keyOf p l) = none := by
        rw [State.line?_rawWrite, State.line?_writeSent, hl]
      dsimp only
      rw [if_pos rfl, hline]
      exact (State.homeByte_rawWrite_other ha hm).trans State.homeByte_writeSent
    | false =>
      have hline : (s.writeSent l ws).line? (s.keyOf p l) = none := by rw [State.line?_writeSent, hl]
      dsimp only
      rw [if_neg Bool.false_ne_true, hline]
      exact (State.homeByte_rawWrite_other ha hm).trans State.homeByte_writeSent

end

/-! ### A line whose fill returns (R154) -/

/-- The line is Present with all its sectors, and its bytes are those of `f`. -/
def Line.Full (x : Line) (f : Nat → Byte) : Prop :=
  x.kind = .present ∧ x.valid = 0xF#4 ∧ ∀ o, o < 128 → Tab.get x.data o 0 = f o

theorem putBytes_map_range (f : Nat → Byte) (n : Nat) {o : Nat} (ho : o < n) :
    Tab.get (putBytes [] ((List.range n).map fun o => (o, f o))) o 0 = f o := by
  induction n with
  | zero => omega
  | succ n ih =>
    have hlast : putBytes [] ((List.range (n + 1)).map fun o => (o, f o)) =
        Tab.put (putBytes [] ((List.range n).map fun o => (o, f o))) n (f n) := by
      simp [List.range_succ, putBytes]
    rw [hlast, Tab.get, Tab.find_put]
    split
    next h => rw [h]; rfl
    next h => exact ih (by omega)

theorem Line.Full.gives {x : Line} {f : Nat → Byte} (h : x.Full f) {o : Nat} (ho : o < 128) : x.Gives o (f o) := by
  obtain ⟨hk, hv, hd⟩ := h
  refine Line.gives_of_valid (by simp [hk]) ?_ (hd o ho)
  have hall : ∀ k : Fin 4, (0xF#4).getLsbD k.val = true := by decide
  rw [Line.validAt, hv, hall ⟨o / 32, by omega⟩, Bool.true_or]

/-- The line that a fill leaves, before it is settled: each byte is the written one, or the one below. -/
theorem State.fillDone_cases {s : State} {key : Nat} {x : Line} (hx : s.line? key = some x) (hk : x.kind = .filling) :
    ∃ (t : State) (y : Line), y.Full (fun o => x.byteAt o (Memory.read (s.memOf x.loc.kind) (x.loc.addr + o))) ∧
      (s.fillDone key = t.settle key y 0 ∨ s.fillDone key = t.putLine key y) := by
  have hdata (o : Nat) (ho : o < 128) := putBytes_map_range (fun o => x.byteAt o (Memory.read (s.memOf x.loc.kind) (x.loc.addr + o))) 128 ho
  unfold State.fillDone
  rw [hx]
  dsimp only
  rw [if_neg (by simp [hk])]
  split
  next t way _ =>
    split
    · refine ⟨t, _, ?_, .inl rfl⟩
      refine ⟨rfl, rfl, ?_⟩
      dsimp only
      exact hdata
    · refine ⟨t, _, ?_, .inr rfl⟩
      refine ⟨rfl, rfl, ?_⟩
      dsimp only
      exact hdata
  next =>
    refine ⟨s, _, ?_, .inr rfl⟩
    refine ⟨rfl, rfl, ?_⟩
    dsimp only
    exact hdata

/-- After a fill the line no longer waits, and holds its bytes. -/
theorem State.line?_fillDone {s : State} {key : Nat} {x : Line} (hx : s.line? key = some x) (hk : x.kind = .filling) :
    ∃ m, (s.fillDone key).line? key = some m ∧ m.kind ≠ .filling ∧
      ∀ o, o < 128 → m.Gives o (x.byteAt o (Memory.read (s.memOf x.loc.kind) (x.loc.addr + o))) := by
  obtain ⟨t, y, hy, hfill⟩ := State.fillDone_cases hx hk
  rcases hfill with h | h <;> rw [h]
  · rcases t.line?_settle key y 0 with hl | ⟨hp, hall, hl⟩
    · exact ⟨y, hl, by simp [hy.1], fun o ho => hy.gives ho⟩
    · refine ⟨y.toZero 0, hl, by simp [Line.toZero], fun o ho => ?_⟩
      obtain ⟨hv, hz⟩ := Line.data_of_allZero hall ho
      rw [← hy.gives ho 0, y.byteAt_valid (by simp [hp]) hv, hz]
      exact Line.gives_zero _ _ _
  · exact ⟨y, State.line?_putLine _ _ _, by simp [hy.1], fun o ho => hy.gives ho⟩

end Sys2Proof.Machine
end

section
/-! SUPPORT. The events of the mesh and of the homes (R161, R163, R168, R173, R174, R177, R178, R202, R297): what a packet that
arrives comes to, which held event a port performs and how, and what a snoop leaves of a line. -/
namespace Sys2Proof.Machine

/-! ### Packets that arrive (R161, R168) -/

section
variable {s : State} {i : Nat} {p : Packet} (hp : s.mesh[i]? = some p) (hst : p.st = .request)
include hp hst

theorem State.exec_arrival_waits (hh : s.heldBack i p = true) :
    exec (.meshRequestArrival i) s = .next (s.urge fun h => h.leadsPacket p) := by
  simp [exec, execMeshRequestArrival, hp, hst, hh]

theorem State.exec_arrival_served (hh : s.heldBack i p = false) : exec (.meshRequestArrival i) s = .next (s.servePacket p) := by
  simp [exec, execMeshRequestArrival, hp, hst, hh]

end

section
variable {s : State} {id u p : Nat} {rmw : Option Rmw} {l : Land} {e : Event} {es : List Event} {got : List Byte}

theorem State.serveAccess_waits (hw : s.peerWaits e.loc = true) : s.serveAccess id u p rmw l (e :: es) got = s := if_pos hw

variable (hu : isCore u = false) (hw : s.peerWaits e.loc = false)
include hu hw

theorem State.serveAccess_done {t : State} {r : List Byte} (hd : s.performEvent u [u] p e rmw = .done t r) :
    s.serveAccess id u p rmw l (e :: es) got = if es.isEmpty then t.answer id (got ++ r)
      else t.setPacket id fun q => { q with st := .request, req := .access es rmw l, got := got ++ r } := by
  simp [State.serveAccess, hu, hw, hd]

theorem State.serveAccess_fills {t : State} {k : Nat} (hd : s.performEvent u [u] p e rmw = .wait t k) :
    s.serveAccess id u p rmw l (e :: es) got =
      (if e.writes rmw then t else t.join k id).setPacket id fun q => { q with st := .atFill k } := by
  simp [State.serveAccess, hu, hw, hd]

end

/-! ### Invocations made unrevocable (R174, R179, R333) -/

section
variable {s : State} {leads : Held → Bool}

/-- Held events of a state that lead and are not performable. -/
def State.urged (s : State) (leads : Held → Bool) : List Held :=
  s.stations.flatMap fun n => n.2.ports.flatMap fun p => p.2.held.filter fun g => leads g && !s.performable g

theorem State.mem_urged {g : Held} : g ∈ s.urged leads ↔
    ∃ n ∈ s.stations, ∃ p ∈ n.2.ports, g ∈ p.2.held ∧ leads g = true ∧ s.performable g = false := by
  simp [State.urged]

theorem State.urge_eq : s.urge leads = (s.urged leads).foldl (fun s g => s.makeUnrevocable g.region g.invoc) s := rfl

theorem State.urge_none (h : ∀ g ∈ s.urged leads, False) : s.urge leads = s := by
  rw [State.urge_eq, List.eq_nil_iff_forall_not_mem.2 h]
  rfl

theorem State.makeUnrevocable_rest (s : State) (r : Nat) (i : BitVec 32) :
    s.makeUnrevocable r i = { s with regions := (s.makeUnrevocable r i).regions } := s.onRegion_rest r _

theorem State.foldl_makeUnrevocable_rest (l : List Held) (s : State) :
    l.foldl (fun s g => s.makeUnrevocable g.region g.invoc) s =
      { s with regions := (l.foldl (fun s g => s.makeUnrevocable g.region g.invoc) s).regions } := by
  induction l generalizing s with
  | nil => rfl
  | cons g l ih =>
    have hrest := s.makeUnrevocable_rest g.region g.invoc
    rw [List.foldl_cons, ih]
    rw [hrest]

theorem serialLater_self (i : BitVec 32) : serialLater i i = false := by simp [serialLater]

theorem Region.unrevocable_unrev (x : Region) (i : BitVec 32) : Region.unrevocable { x with unrev := some i } i = true := by
  simp [Region.unrevocable, serialLater_self]

theorem State.unrevocable_makeUnrevocable (s : State) (r : Nat) (i : BitVec 32) : (s.makeUnrevocable r i).unrevocable r i = true := by
  unfold State.makeUnrevocable State.onRegion
  cases hr : s.region? r with
  | none => simp [State.unrevocable, hr]
  | some x =>
    by_cases hx : x.unrevocable i = true
    · simp [State.unrevocable, hx]
    · simp [State.unrevocable, hx, Region.unrevocable_unrev]

/-- Where all that are urged are of one invocation, it ends unrevocable. -/
theorem State.unrevocable_foldl {r : Nat} {i : BitVec 32} (l : List Held) (s : State) (hl : ∀ g ∈ l, g.region = r ∧ g.invoc = i)
    (h : l ≠ [] ∨ s.unrevocable r i = true) : (l.foldl (fun s g => s.makeUnrevocable g.region g.invoc) s).unrevocable r i = true := by
  induction l generalizing s with
  | nil => exact h.resolve_left fun h => h rfl
  | cons g l ih =>
    obtain ⟨rfl, rfl⟩ := hl g (by simp)
    exact ih _ (fun g hg => hl g (by simp [hg])) (.inr (s.unrevocable_makeUnrevocable _ _))

/-- An urged event is performable, where all that are urged are of one region and invocation. -/
theorem State.performable_urge {g : Held} (hg : g ∈ s.urged leads)
    (hall : ∀ k ∈ s.urged leads, k.region = g.region ∧ k.invoc = g.invoc) : (s.urge leads).performable g = true := by
  rw [State.performable, State.urge_eq, State.unrevocable_foldl _ _ hall (.inl (List.ne_nil_of_mem hg)), Bool.or_true, Bool.true_or]

end

/-! ### The held event that a port performs (R173, R178, R204) -/

theorem firstHeld_none {l : List Held} (h : firstHeld l = none) : l = [] := by
  cases l with
  | nil => rfl
  | cons g l =>
    unfold firstHeld at h
    split at h
    · split at h <;> cases h
    · cases h

/-- The first accepted is one of the list, and none was accepted before it. -/
theorem firstHeld_some {l : List Held} {h : Held} (hh : firstHeld l = some h) : h ∈ l ∧ ∀ k ∈ l, h.order ≤ k.order := by
  induction l generalizing h with
  | nil => cases hh
  | cons g l ih =>
    unfold firstHeld at hh
    split at hh
    next k hk =>
      obtain ⟨hmem, hle⟩ := ih hk
      split at hh
      next hlt =>
        obtain rfl := Option.some.inj hh
        exact ⟨List.mem_cons_of_mem _ hmem, List.forall_mem_cons.2 ⟨Nat.le_of_lt hlt, hle⟩⟩
      next hge =>
        obtain rfl := Option.some.inj hh
        exact ⟨List.mem_cons_self, List.forall_mem_cons.2 ⟨Nat.le_refl _, fun m hm => (Nat.le_of_not_lt hge).trans (hle m hm)⟩⟩
    next hnone =>
      obtain rfl := Option.some.inj hh
      simp [firstHeld_none hnone]

theorem Held.before_iff (g k : Held) : g.before k = true ↔
    serialLater k.invoc g.invoc = true ∨ (k.invoc = g.invoc ∧ g.order < k.order) := by
  simp [Held.before]

section
variable {s : State} {stn port : Nat} {h : Held}

/-- The events among which a port's next one is the first accepted: performable, and none of the region goes before. -/
theorem State.mem_nextHeld {k : Held} :
    k ∈ (((s.station stn).port port).held.filter s.performable).filter (fun h =>
      !(((s.station stn).port port).held.filter s.performable).any fun g => g.region == h.region && g.before h) ↔
    k ∈ ((s.station stn).port port).held ∧ s.performable k = true ∧ ∀ g ∈ ((s.station stn).port port).held, s.performable g = true →
      ¬ (g.region = k.region ∧ (serialLater k.invoc g.invoc = true ∨ (k.invoc = g.invoc ∧ g.order < k.order))) := by
  simp only [List.mem_filter, Bool.not_eq_true', List.any_eq_false, Bool.and_eq_true, beq_iff_eq, Held.before_iff, and_imp, and_assoc]

theorem State.nextHeld_some (hh : s.nextHeld stn port = some h) :
    (h ∈ ((s.station stn).port port).held ∧ s.performable h = true ∧ ∀ g ∈ ((s.station stn).port port).held, s.performable g = true →
      ¬ (g.region = h.region ∧ (serialLater h.invoc g.invoc = true ∨ (h.invoc = g.invoc ∧ g.order < h.order)))) ∧
    ∀ k ∈ ((s.station stn).port port).held, s.performable k = true → (∀ g ∈ ((s.station stn).port port).held, s.performable g = true →
      ¬ (g.region = k.region ∧ (serialLater k.invoc g.invoc = true ∨ (k.invoc = g.invoc ∧ g.order < k.order)))) → h.order ≤ k.order := by
  obtain ⟨hmem, hle⟩ := firstHeld_some hh
  exact ⟨State.mem_nextHeld.1 hmem, fun k hk hp hb => hle k (State.mem_nextHeld.2 ⟨hk, hp, hb⟩)⟩

theorem State.exec_held_none (hh : s.nextHeld stn port = none) : exec (.heldEventPerform stn port) s = .next s := by
  simp [exec, execHeldEventPerform, hh]

variable (hh : s.nextHeld stn port = some h)
include hh

theorem State.exec_held_waits (hw : h.withheld.isSome = true ∨ s.packetAhead h = true ∨ s.mayRepeat (heldAgent h.order) = false) :
    exec (.heldEventPerform stn port) s = .next s := by
  simp only [exec, execHeldEventPerform, hh]
  exact congrArg _ (if_pos (by simpa [or_assoc] using hw))

variable (hw : h.withheld = none) (hp : s.packetAhead h = false) (hm : s.mayRepeat (heldAgent h.order) = true)
include hw hp hm

theorem State.exec_held_ahead (ha : s.heldAhead h = true) : exec (.heldEventPerform stn port) s =
    .next (if h.due || s.unrevocable h.region h.invoc then s.urge fun g => g.region == h.region && g.order != h.order && g.leads h
      else s) := by
  simp [exec, execHeldEventPerform, hh, hw, hp, hm, ha]

theorem State.exec_held_performs (ha : s.heldAhead h = false) : exec (.heldEventPerform stn port) s =
    .next ((s.repeated (heldAgent h.order)).performHeldEvent stn port h) := by
  simp [exec, execHeldEventPerform, hh, hw, hp, hm, ha]

end

section
variable {s t : State} {stn port : Nat} {h : Held} {r : Region} (hr : s.region? h.region = some r)
include hr

theorem State.performHeldEvent_fault {e : Trap} (hf : s.translate r.ctx r.part stn port h.ev.va 0 h.want = (t, .fault e)) :
    s.performHeldEvent stn port h = (t.setHeld stn port h none).raiseBy (some 2) h.unit e := by
  simp only [State.performHeldEvent, hr, Option.getD_some, hf]

theorem State.performHeldEvent_wb (hf : s.translate r.ctx r.part stn port h.ev.va 0 h.want = (t, .wb)) :
    s.performHeldEvent stn port h = t.withholdHeld stn port r h 0 true := by
  simp only [State.performHeldEvent, hr, Option.getD_some, hf]

theorem State.performHeldEvent_invalid {n : Nat} (hf : s.translate r.ctx r.part stn port h.ev.va 0 h.want = (t, .invalid n)) :
    s.performHeldEvent stn port h = t.withholdHeld stn port r h n false := by
  simp only [State.performHeldEvent, hr, Option.getD_some, hf]

variable {loc : Loc} {page : PageBits} {e : W64} {f : Nat}
  (hf : s.translate r.ctx r.part stn port h.ev.va 0 h.want = (t, .ok loc page e f))
include hf

theorem State.performHeldEvent_done {t' : State} {bs : List Byte}
    (hd : t.performEvent h.unit (h.unit :: r.units) r.part { h.ev with loc := loc, page := page } h.rmw = .done t' bs) :
    s.performHeldEvent stn port h =
      (if loc.kind = .device then t'.notePast (loc.addr / 128) h.fenced else t').setHeld stn port h none := by
  simp only [State.performHeldEvent, hr, Option.getD_some, hf, hd, beq_iff_eq]

theorem State.performHeldEvent_waits {t' : State} {k : Nat}
    (hd : t.performEvent h.unit (h.unit :: r.units) r.part { h.ev with loc := loc, page := page } h.rmw = .wait t' k) :
    s.performHeldEvent stn port h = t' := by
  simp only [State.performHeldEvent, hr, Option.getD_some, hf, hd]

end

/-! ### Answers that arrive (R353, R389) -/

section
variable {s : State} {i id u : Nat} {x : Unit} {p : Packet} {bs : List Byte}

/-- A packet that is the only one of its number is found by it. -/
theorem State.find_packet (hp : s.mesh[i]? = some p) (hid : ∀ j q, s.mesh[j]? = some q → q.id = p.id → j = i) :
    s.mesh.find? (fun q => q.id == p.id) = some p := by
  cases hf : s.mesh.find? fun q => q.id == p.id with
  | none =>
    have hno := List.find?_eq_none.1 hf p (List.mem_of_getElem? hp)
    simp at hno
  | some q =>
    obtain ⟨j, hj⟩ := List.getElem?_of_mem (List.mem_of_find?_eq_some hf)
    obtain rfl := hid j q hj (by simpa using List.find?_some hf)
    exact hj.symm.trans hp

/-- The answer to an access lands. -/
theorem State.exec_response (hp : s.mesh[i]? = some p) (hid : ∀ j q, s.mesh[j]? = some q → q.id = p.id → j = i) {evs : List Event}
    {rmw : Option Rmw} {l : Land} (hst : p.st = .response bs) (hreq : p.req = .access evs rmw l) (hd : p.deliv = 0) :
    exec (.meshResponseArrival i) s =
      .next (State.landAnswer { s with mesh := s.mesh.filter fun q => q.id != p.id } p.unit p.id l bs) := by
  have hfind := State.find_packet hp hid
  simp only [exec, execMeshResponseArrival, hp, State.nextStation, hreq, State.arriving, hd, if_true, List.foldl_cons, List.foldl_nil,
    State.landPacket, hfind, hst, Req.land]

/-- A value that lands in a register leaves the mesh. -/
theorem State.mesh_landAnswer_register {n : SReg} {sg : Bool} (hx : s.unit? u = some x)
    (hb : x.blocked = none ∨ x.blocked = some (.answer [id])) : (s.landAnswer u id (.s n sg) bs).mesh = s.mesh := by
  rcases hb with hb | hb
  · have hland : s.landAnswer u id (.s n sg) bs =
        ((s.putUnit u { x with loads := x.loads.filter fun e => e.1 != id }).land u (.s n sg) bs).dropEmission u := by
      simp [State.landAnswer, hx, hb]
    have hu : ((s.putUnit u { x with loads := x.loads.filter fun e => e.1 != id }).land u (.s n sg) bs).unit? u =
        some (({ x with loads := x.loads.filter fun e => e.1 != id } : Unit).setS n (extendBytes sg bs)) := by
      simp [State.land]
    rw [hland, State.dropEmission_of_not_blocked hu hb, State.land, State.onUnit_rest]
    rfl
  · have hland : s.landAnswer u id (.s n sg) bs =
        (((s.putUnit u { x with blocked := none }).land u (.s n sg) bs).onUnit u Unit.closeBlocked).dropEmission u := by
      simp [State.landAnswer, hx, hb]
    have hu : (((s.putUnit u { x with blocked := none }).land u (.s n sg) bs).onUnit u Unit.closeBlocked).unit? u =
        some (({ x with blocked := none } : Unit).setS n (extendBytes sg bs)).closeBlocked := by
      simp [State.land]
    rw [hland, State.dropEmission_of_not_blocked hu (Unit.blocked_closeBlocked_of_none rfl), State.onUnit_rest, State.land,
      State.onUnit_rest]
    rfl

end

/-! ### Fills and snoops (R154, R163, R297) -/

section
variable {s : State} {key : Nat} {l : Line} (hl : s.line? key = some l)
include hl

theorem State.line?_writeBack : (s.writeBack key).line? key = some { l with dirty := 0 } := by
  simp only [State.writeBack, hl, State.line?_putLine]

theorem State.mem_writeBack : (s.writeBack key).memOf l.loc.kind = Memory.writes (s.memOf l.loc.kind) l.dirtyBytes := by
  simp only [State.writeBack, hl]
  exact State.memOf_rawWrite _ _ _

theorem State.hostFill_eq : s.hostFill key = (l.kind == .filling && l.loc.kind == .host) := by
  simp only [State.hostFill, hl]

theorem State.exec_fillReturn_device (hd : l.loc.kind = .device) : exec (.fillReturn key) s = .next (s.fillReturn key) := by
  simp [exec, execFillReturn, State.hostFill_eq hl, hd]

theorem State.exec_fillReturn_host (hk : l.kind = .filling) (hh : l.loc.kind = .host) : exec (.fillReturn key) s = .next s := by
  simp [exec, execFillReturn, State.hostFill_eq hl, hk, hh]

theorem State.exec_hostCacheResponse (g : HostGrant) (hk : l.kind = .filling) (hh : l.loc.kind = .host) :
    exec (.hostCacheResponse key g) s = .next ((s.putLine key { l with excl := some g }).fillReturn key) := by
  simp [exec, execHostCacheResponse, hl, State.hostFill_eq hl, hk, hh]

omit hl in
theorem State.homeStep_fillDone (s : State) (key : Nat) : s.HomeStep (s.fillDone key) := by
  unfold State.fillDone
  split
  · exact .refl s
  next x _ =>
    dsimp only
    split
    · exact .refl s
    · split
      next t way ht =>
        have hstep : s.HomeStep t := by
          split at ht
          · exact s.homeStep_takeWay ht
          · obtain ⟨rfl, -⟩ := Prod.mk.inj (Option.some.inj ht)
            exact .refl s
        exact hstep.trans (.ite (t.homeStep_settle _ _ _) (t.homeStep_putLine _ _))
      next => exact s.homeStep_putLine _ _

omit hl in
theorem State.HomeStep.mesh {s t : State} (h : s.HomeStep t) : t.mesh = s.mesh := by
  unfold State.HomeStep at h
  rw [h]

/-- A fill that nobody waits for. -/
theorem State.fillReturn_alone (hj : l.joined = []) (hm : ∀ p ∈ s.mesh, p.st ≠ .atFill key) :
    s.fillReturn key = (s.fillDone key).stamp.2.endBypass key := by
  have hmesh : (s.fillDone key).stamp.2.mesh = s.mesh := (s.homeStep_fillDone key).mesh
  have hno : ((s.fillDone key).stamp.2.mesh.filter fun p => p.st == .atFill key) = [] := by
    rw [hmesh]
    exact List.filter_eq_nil_iff.2 fun p hp => by simpa using hm p hp
  unfold State.fillReturn
  simp only [hl, hj, List.foldl_nil, hno, List.map_nil]

end

section
variable {s : State} {part line : Nat} {l : Line} (hl : s.line? (s.keyOf part ⟨.host, 128 * line⟩) = some l)
include hl

theorem State.exec_snoop_filling (hk : l.kind = .filling) (k : Snoop) : exec (.hostSnoop part line k) s = .next s := by
  simp [exec, execHostSnoop, State.snoop, hl, hk]

variable (hk : l.kind ≠ .filling)
include hk

theorem State.exec_snoop_cur : exec (.hostSnoop part line .cur) s = .next s := by
  simp [exec, execHostSnoop, State.snoop, hl, hk]

/-- A snoop that reads leaves the line clean and shared. -/
theorem State.exec_snoop_data : exec (.hostSnoop part line .data) s =
    .next ((s.writeBack (s.keyOf part ⟨.host, 128 * line⟩)).putLine (s.keyOf part ⟨.host, 128 * line⟩)
      { l with dirty := 0, excl := some .shared }) := by
  have hkey := (s.homeStep_writeBack (s.keyOf part ⟨.host, 128 * line⟩)).keyOf part ⟨.host, 128 * line⟩
  simp [exec, execHostSnoop, State.snoop, hl, hk, hkey, State.line?_writeBack hl]

theorem State.exec_snoop_inv : exec (.hostSnoop part line .inv) s = .next
    (if l.pins = [] then s.evict (s.keyOf part ⟨.host, 128 * line⟩)
     else (s.writeBack (s.keyOf part ⟨.host, 128 * line⟩)).putLine (s.keyOf part ⟨.host, 128 * line⟩)
      { l with kind := .present, dirty := 0, valid := 0, data := [], mask := [], excl := none }) := by
  simp [exec, execHostSnoop, State.snoop, State.cleanLine, hl, hk]

end

end Sys2Proof.Machine

namespace Sys2Proof
open Machine

/-- Settles O51: requests are served at their homes, held events performed in order, and a byte written at its home is what the
home then returns. -/
theorem homeEvents : Obligations.HomeEvents := by
  refine ⟨?requests, ?held, ?bytes, ?fill⟩
  case requests =>
    intro s i id u ctx x req got bs behind hx pkt served at_
    refine ⟨fun hp hh => ?_, fun hp hh => ?_, fun hp hid evs rmw n sx hreq => ⟨fun hb hbusy => ?_, fun hb => ?_⟩⟩
    · have he := State.exec_arrival_waits hp rfl hh
      refine ⟨he, fun hno => ?_⟩
      rw [State.urge_none] at he
      · exact he
      · intro g hg
        obtain ⟨n, hn, p, hp, hheld, hlead, -⟩ := State.mem_urged.1 hg
        exact absurd hlead (by simp [hno n hn p hp g hheld])
    · have he := State.exec_arrival_served hp rfl hh
      have hserve {t : State} (ht : s.servePacket (pkt .request) = t) : served t := he.trans (by rw [ht])
      refine ⟨fun n v hq => hserve ?_, fun n v hq => hserve ?_, fun n c v l hq => hserve ?_, fun h offs n l hq hn => hserve ?_,
        fun h cells hq hn => hserve ?_, fun h b hb => ⟨fun hq => hserve ?_, fun m hq => hserve ?_, fun l hq hn => hserve ?_⟩,
        fun h hq hb => ⟨hserve (State.servePacket_staleCount hq hx hb), fun n => ?_⟩,
        fun e es rmw l t r hq hu hw hd => ⟨fun hes => hserve ?_, fun hes => hserve ?_⟩,
        fun e es rmw l t k hq hu hw hd => hserve ?_, fun e es rmw l hq hw => hserve ?_, fun mc n l pg t r hq hr => hserve ?_⟩
      · simp only [State.servePacket, hx, pkt, hq, at_]
      · simp only [State.servePacket, hx, pkt, hq, at_]
      · simp only [State.servePacket, hx, pkt, hq, at_, b2n]
      · simp only [State.servePacket, hx, pkt, hq, hn, Bool.false_eq_true, if_false, State.serveBlockRead]
      · simp only [State.servePacket, hx, pkt, hq, hn, Bool.false_eq_true, if_false, State.serveBlockWrite]
      · simp only [State.servePacket, hx, pkt, hq, hb]
      · simp only [State.servePacket, hx, pkt, hq, hb]
      · simp only [State.servePacket, hx, pkt, hq, hn, hb, Bool.false_eq_true, if_false]
      · rw [State.station, State.raiseAsync, State.stations_raiseBy _ _ _ _ (by simp [Code.outcome])]
        rfl
      · simp only [State.servePacket, hx, pkt, hq, State.serveAccess_done hu hw hd, hes, List.isEmpty_nil, if_true]
      · simp only [State.servePacket, hx, pkt, hq, State.serveAccess_done hu hw hd, List.isEmpty_iff, hes, if_false]
      · simp only [State.servePacket, hx, pkt, hq, State.serveAccess_fills hu hw hd]
      · simp only [State.servePacket, hx, pkt, hq, State.serveAccess_waits hw]
      · simp only [State.servePacket, hx, pkt, hq, hr]
    · have he := State.exec_response hp hid rfl hreq rfl
      have hgone : State.unit? { s with mesh := s.mesh.filter fun q => q.id != id } u = some x := hx
      refine ⟨_, _, he, State.mesh_landAnswer_register hgone (.inr hb), State.unit?_landAnswer_last hgone hb, ?_, ?_⟩
      · rw [Unit.closeBlocked_of_none rfl, Unit.next_eq]
        exact (Unit.sReg_setS ..).trans (if_pos rfl)
      · exact Unit.blocked_closeBlocked_of_none rfl
    · have he := State.exec_response hp hid rfl hreq rfl
      have hgone : State.unit? { s with mesh := s.mesh.filter fun q => q.id != id } u = some x := hx
      exact ⟨_, _, he, State.mesh_landAnswer_register hgone (.inl hb), State.unit?_landAnswer_free hgone hb, by simp, rfl, rfl⟩
  case held =>
    intro s stn port key i part line h r g held head me found performs withheld before led
    refine ⟨fun hn => ?order, fun hh hw => State.exec_held_waits hh.1 hw, fun hh hw hp hm ha => ⟨fun hd hu => ?still, fun hd => ?urges⟩,
      State.exec_held_none, fun hh hw hp ha hm => ?performed, fun v hv => ?ack, fun l hl hk => ?fillReturns, fun l hl hhost => ?snoops⟩
    case order =>
      obtain ⟨⟨hmem, hp, hb⟩, hle⟩ := State.nextHeld_some hn
      exact ⟨hmem, hp, hb, hle⟩
    case still =>
      exact (State.exec_held_ahead hh.1 hw hp hm ha).trans (by rw [hd, hu]; rfl)
    case urges =>
      obtain ⟨hnext, hr⟩ := hh
      refine ⟨?_, State.foldl_makeUnrevocable_rest _ _, fun n hn p hp g hg hled hperf hall => ?_⟩
      · exact (State.exec_held_ahead hnext hw hp hm ha).trans (by rw [if_pos (by simpa using hd)])
      · have hregion {k : Held} (hk : led k = true) : k.region = h.region := by
          simp only [led, Bool.and_eq_true, beq_iff_eq] at hk
          exact hk.1.1
        refine State.performable_urge (State.mem_urged.2 ⟨n, hn, p, hp, hg, hled, hperf⟩) fun k hk => ?_
        obtain ⟨n', hn', p', hp', hk', hled', hperf'⟩ := State.mem_urged.1 hk
        exact ⟨(hregion hled').trans (hregion hled).symm, hall n' hn' p' hp' k hk' hled' hperf'⟩
    case performed =>
      obtain ⟨hnext, hr⟩ := hh
      have he := State.exec_held_performs hnext hw hp hm ha
      have hrep : (s.repeated me).region? h.region = some r := hr
      refine ⟨fun t loc pg e f hf => ⟨fun t' bs hd => ?_, fun t' k hd => ?_⟩, fun t hf => ?_, fun t e hf => ?_, fun t n hf => ?_⟩
      · exact he.trans (by rw [State.performHeldEvent_done hrep hf hd])
      · exact he.trans (by rw [State.performHeldEvent_waits hrep hf hd])
      · exact he.trans (by rw [State.performHeldEvent_wb hrep hf]; rfl)
      · exact he.trans (by rw [State.performHeldEvent_fault hrep hf])
      · exact he.trans (by rw [State.performHeldEvent_invalid hrep hf]; rfl)
    case ack => simp [exec, execInvalidationAck, hv]
    case fillReturns =>
      refine ⟨fun hd => ⟨State.exec_fillReturn_device hl hd, fun hj hm => ?_⟩,
        fun hh => ⟨State.exec_fillReturn_host hl hk hh, State.exec_hostCacheResponse hl g hk hh⟩⟩
      rw [State.exec_fillReturn_device hl hd, State.fillReturn_alone hl hj hm]
    case snoops =>
      refine ⟨State.exec_snoop_filling hl, fun hk => ⟨State.exec_snoop_cur hl hk,
        ⟨_, State.exec_snoop_data hl hk, State.line?_putLine _ _ _⟩, fun hp => ⟨?_, State.line?_evict _ _⟩, fun hp => ?_⟩⟩
      · rw [State.exec_snoop_inv hl hk, if_pos hp]
      · refine ⟨_, (State.exec_snoop_inv hl hk).trans (by rw [if_neg hp]), ?_, State.line?_putLine _ _ _⟩
        have hmem := State.mem_writeBack hl
        rw [hhost] at hmem
        exact hmem
  case bytes =>
    intro s p l cmode o depot b ws hp ha ho
    refine ⟨fun hk hx => State.homeByte_homeWrite hp ha ho hk hx, fun hk q m => by rw [State.homeWrite_keyless hk], fun hl hc q m hm => ?_⟩
    subst hc
    exact State.homeByte_homeWrite_other hp ha hl hm
  case fill =>
    intro s key l hl hk
    obtain ⟨m, hm, hkind, hbytes⟩ := State.line?_fillDone hl hk
    exact ⟨m, hm, hkind, fun o b ho => hbytes o ho b⟩

end Sys2Proof
end

section
/-! SUPPORT. The arithmetic of a junction (R112, R113): the exact sum of a chunk's products, the accumulation of one chunk after the
other, and the elements that a vector contributes to. -/
namespace Sys2Proof.Machine

/-! ### The exact sum of a chunk (R112) -/

theorem gridInt_mul_zpow (n : Bool) (m : Nat) {e g : Int} (h : g ≤ e) :
    (gridInt n m e g : ℚ) * 2 ^ g = (if n then -1 else 1) * m * 2 ^ e := by
  have hpow : (2 : ℚ) ^ (e - g).toNat * 2 ^ g = 2 ^ e := by
    rw [← zpow_natCast, Int.toNat_of_nonneg (by omega), ← zpow_add₀ (by norm_num)]
    congr 1
    omega
  have habs : ((m * 2 ^ (e - g).toNat : Nat) : ℚ) * 2 ^ g = m * 2 ^ e := by
    push_cast
    rw [mul_assoc, hpow]
  unfold gridInt
  cases n
  · simpa using habs
  · have := congrArg Neg.neg habs
    simpa [neg_mul] using this

theorem minExp_le (ps : List FVal) (g : Int) : minExp ps g ≤ g ∧ ∀ n m e, .fin n m e ∈ ps → minExp ps g ≤ e := by
  induction ps generalizing g with
  | nil => simp [minExp]
  | cons p ps ih =>
    cases p with
    | nan => simpa [minExp] using ih g
    | inf n => simpa [minExp] using ih g
    | fin n m e =>
      obtain ⟨hle, hmem⟩ := ih (min e g)
      refine ⟨hle.trans (min_le_right _ _), fun n' m' e' h => ?_⟩
      rcases List.mem_cons.1 h with h | h
      · obtain ⟨rfl, rfl, rfl⟩ := FVal.fin.inj h
        exact hle.trans (min_le_left _ _)
      · exact hmem _ _ _ h

/-- The sum on a grid that reaches below every exponent is the sum of the values. -/
theorem sumFin_mul_zpow (ps : List FVal) (g : Int) (hfin : ∀ p ∈ ps, ∃ n m e, p = .fin n m e) (hg : ∀ n m e, .fin n m e ∈ ps → g ≤ e) :
    (sumFin ps g : ℚ) * 2 ^ g = (ps.map fun p => p.rat.getD 0).sum := by
  induction ps with
  | nil => simp [sumFin]
  | cons p ps ih =>
    obtain ⟨n, m, e, rfl⟩ := hfin p (by simp)
    have hrest := ih (fun p hp => hfin p (by simp [hp])) fun n m e h => hg n m e (by simp [h])
    have hhead := gridInt_mul_zpow n m (hg n m e (by simp))
    rw [List.map_cons, List.sum_cons, ← hrest, sumFin, Int.cast_add, add_mul, hhead]
    rfl

section
variable {ps : List FVal}

theorem chunkSum_nan (h : .nan ∈ ps ∨ (.inf true ∈ ps ∧ .inf false ∈ ps)) : chunkSum ps = .nan := by
  refine if_pos ?_
  rcases h with h | ⟨ht, hf⟩
  · exact Bool.or_eq_true_iff.2 (.inl (List.any_eq_true.2 ⟨_, h, rfl⟩))
  · exact Bool.or_eq_true_iff.2 (.inr (Bool.and_eq_true_iff.2 ⟨List.any_eq_true.2 ⟨_, hf, by simp⟩, List.any_eq_true.2 ⟨_, ht, by simp⟩⟩))

theorem any_isNan (h : .nan ∉ ps) : ps.any FVal.isNan = false := by
  refine List.any_eq_false.2 fun p hp hn => h ?_
  rwa [← (FVal.isNan_iff p).1 hn]

theorem any_inf (g : Bool) : (ps.any fun p => p == .inf g) = true ↔ .inf g ∈ ps := by simp

theorem any_inf_false {g : Bool} (h : .inf g ∉ ps) : (ps.any fun p => p == .inf g) = false :=
  Bool.eq_false_iff.2 fun hh => h ((any_inf g).1 hh)

theorem chunkSum_inf {g : Bool} (hn : .nan ∉ ps) (hi : .inf g ∈ ps) (ho : .inf (!g) ∉ ps) : chunkSum ps = .inf g := by
  cases g with
  | false =>
    have hneg : .inf true ∉ ps := ho
    simp [chunkSum, any_isNan hn, hi, hneg]
  | true =>
    have hpos : .inf false ∉ ps := ho
    simp [chunkSum, any_isNan hn, hi, hpos]

/-- The sum of finite products is exact; an exact zero is -0 only where every product is. -/
theorem chunkSum_fin (hfin : ∀ p ∈ ps, ∃ g m e, p = .fin g m e) : ∃ g m e y, chunkSum ps = .fin g m e ∧ (chunkSum ps).rat = some y ∧
    y = (ps.map fun p => p.rat.getD 0).sum ∧ (y = 0 → (g = true ↔ ∀ p ∈ ps, ∃ e, p = .fin true 0 e)) := by
  have hno (q : FVal) (hq : ∀ g m e, q ≠ .fin g m e) : q ∉ ps := fun h => by
    obtain ⟨g, m, e, rfl⟩ := hfin q h
    exact hq g m e rfl
  have hsum := sumFin_mul_zpow ps (minExp ps 0) hfin (minExp_le ps 0).2
  have hchunk : chunkSum ps = if sumFin ps (minExp ps 0) = 0
      then .fin (ps.all fun p => match p with | .fin n m _ => n && m == 0 | _ => false) 0 0
      else .fin (decide (sumFin ps (minExp ps 0) < 0)) (sumFin ps (minExp ps 0)).natAbs (minExp ps 0) := by
    unfold chunkSum
    rw [any_isNan (hno .nan (by simp)), any_inf_false (hno (.inf true) (by simp)), any_inf_false (hno (.inf false) (by simp))]
    rfl
  generalize sumFin ps (minExp ps 0) = x at hsum hchunk
  generalize minExp ps 0 = g at hsum hchunk
  by_cases hx : x = 0
  · rw [if_pos hx] at hchunk
    refine ⟨_, _, _, _, hchunk, by rw [hchunk]; rfl, ?_, fun _ => ?_⟩
    · rw [← hsum, hx]
      simp
    · rw [List.all_eq_true]
      refine forall₂_congr fun p hp => ?_
      obtain ⟨n, m, e, rfl⟩ := hfin p hp
      simp
  · rw [if_neg hx] at hchunk
    have hval : ((if decide (x < 0) = true then -1 else 1 : ℚ) * (x.natAbs : ℚ)) = x := by
      rcases lt_or_ge x 0 with hneg | hpos
      · simp [hneg, Nat.cast_natAbs, abs_of_neg hneg]
      · simp [not_lt.2 hpos, Nat.cast_natAbs, abs_of_nonneg hpos]
    refine ⟨_, _, _, _, hchunk, by rw [hchunk]; rfl, ?_, fun hy => ?_⟩
    · rw [hval, hsum]
    · rw [hval] at hy
      exact absurd hy (mul_ne_zero (Int.cast_ne_zero.2 hx) (zpow_ne_zero _ two_ne_zero))

end

/-! ### What a vector adds to an element (R112, R394) -/

theorem foldl_add_eq (f : Nat → Int) (ks : List Nat) (x : Int) : ks.foldl (fun n k => n + f k) x = x + (ks.map f).sum := by
  induction ks generalizing x with
  | nil => simp
  | cons k ks ih => rw [List.foldl_cons, ih, List.map_cons, List.sum_cons, add_assoc]

theorem jMode_eq_int8_iff (f : JFmt) : jMode f = .int8 ↔ f = .i8 := by cases f <;> simp [jMode]

theorem jMode_eq_fp8_iff (f : JFmt) : jMode f = .fp8 ↔ f = .e4m3 ∨ f = .e5m2 := by cases f <;> simp [jMode]

section
variable {w : Wavefront} {b : Bank} (c : Nat) (acc : Lane)

theorem accAfter_int8 (hb : b.fmt = .i8) (hw : w.fmt = .i8) : accAfter w b c acc =
    acc + BitVec.ofInt 32 (((List.range 128).map fun k => asInt 8 (w.value k) * asInt 8 (b.value k c)).sum) := by
  unfold accAfter
  rw [hb]
  refine (if_pos hw).trans ?_
  rw [foldl_add_eq, zero_add]

theorem accAfter_int8_other (hb : b.fmt = .i8) (hw : w.fmt ≠ .i8) : accAfter w b c acc = acc := by
  unfold accAfter
  rw [hb]
  exact if_neg hw

/-- With a tile of floating point, one chunk follows the other; formats of another mode give a NaN. -/
theorem accAfter_float (hb : b.fmt ≠ .i8) : accAfter w b c acc = if jMode w.fmt = jMode b.fmt
    then BitVec.ofNat 32 ((List.range (128 / (jMode b.fmt).chunk)).foldl (chunkStep w b c) acc.toNat)
    else BitVec.ofNat 32 Fmt.fp32.nan := by
  have hmode : jMode b.fmt ≠ .int8 := fun h => hb ((jMode_eq_int8_iff _).1 h)
  unfold accAfter
  cases hm : jMode b.fmt with
  | int8 => exact absurd hm hmode
  | fp8 => rfl
  | fp16 => rfl
  | bf16 => rfl

end

/-- The products of chunk `t`. -/
def chunkProducts (w : Wavefront) (b : Bank) (c t : Nat) : List FVal :=
  (List.range (jMode b.fmt).chunk).map fun i => ((jFormat w.fmt).decode (w.value ((jMode b.fmt).chunk * t + i))).mul
    ((jFormat b.fmt).decode (b.value ((jMode b.fmt).chunk * t + i) c))

/-- The accumulator's pattern after `t` chunks. -/
def accAt (w : Wavefront) (b : Bank) (c x t : Nat) : Nat := (List.range t).foldl (chunkStep w b c) x

section
variable (w : Wavefront) {b : Bank} (c x t : Nat)

theorem accAt_succ : accAt w b c x (t + 1) = chunkStep w b c (accAt w b c x t) t := by
  simp [accAt, List.range_succ]

theorem chunk_scaled (h : b.fmt = .e4m3 ∨ b.fmt = .e5m2) : (jMode b.fmt).chunk = 128 := by
  rw [(jMode_eq_fp8_iff _).2 h]
  rfl

theorem chunk_unscaled (hb : b.fmt ≠ .i8) (h : ¬ (b.fmt = .e4m3 ∨ b.fmt = .e5m2)) : (jMode b.fmt).chunk = 32 := by
  cases hf : b.fmt with
  | i8 => exact absurd hf hb
  | e4m3 => exact absurd (.inl hf) h
  | e5m2 => exact absurd (.inr hf) h
  | fp16 => rfl
  | bf16 => rfl

theorem chunkStep_scaled (h : b.fmt = .e4m3 ∨ b.fmt = .e5m2) : chunkStep w b c x t =
    rne32 (FVal.add .rne (Fmt.fp32.decode x) (Fmt.fp32.decode (rne32 ((Fmt.fp32.decode (rne32 (chunkSum (chunkProducts w b c t)))).mul
      (Fmt.fp32.decode (rne32 ((Fmt.fp32.decode w.scale.toNat).mul (Fmt.fp32.decode b.scale.toNat)))))))) := by
  have hm := (jMode_eq_fp8_iff _).2 h
  unfold chunkStep chunkProducts
  rw [hm]

theorem chunkStep_unscaled (h : ¬ (b.fmt = .e4m3 ∨ b.fmt = .e5m2)) : chunkStep w b c x t =
    rne32 (FVal.add .rne (Fmt.fp32.decode x) (Fmt.fp32.decode (rne32 (chunkSum (chunkProducts w b c t))))) := by
  have hm : jMode b.fmt ≠ .fp8 := fun hm => h ((jMode_eq_fp8_iff _).1 hm)
  unfold chunkStep chunkProducts
  cases hj : jMode b.fmt with
  | fp8 => exact absurd hj hm
  | fp16 => rfl
  | bf16 => rfl
  | int8 => rfl

end

/-! ### The elements that a vector reaches (R113) -/

/-- Setting distinct keys one after the other, each from its own value before. -/
theorem Tab.get_foldl_set [DecidableEq α] (d : α) (f : Nat → α → α) (base n : Nat) (t : Tab α) (e : Nat) :
    Tab.get ((List.range n).foldl (fun t j => Tab.set d t (base + j) (f j (Tab.get t (base + j) d))) t) e d =
      if base ≤ e ∧ e < base + n then f (e - base) (Tab.get t e d) else Tab.get t e d := by
  induction n with
  | zero =>
    rw [if_neg (by omega)]
    rfl
  | succ n ih =>
    rw [List.range_succ, List.foldl_append, List.foldl_cons, List.foldl_nil, Tab.get_set]
    by_cases he : e = base + n
    · rw [if_pos he, if_pos (by omega), ← he, ih, if_neg (by omega)]
      congr 1
      omega
    · rw [if_neg he, ih]
      exact if_congr (by omega) rfl rfl

theorem Junction.contribute_get (j : Junction) (w : Wavefront) (e : Nat) : Tab.get (j.contribute w).acc e 0 =
    if w.slot * 16384 + 128 * w.row ≤ e ∧ e < w.slot * 16384 + 128 * w.row + 128
    then accAfter w (j.bank w.bank) (e - (w.slot * 16384 + 128 * w.row)) (Tab.get j.acc e 0) else Tab.get j.acc e 0 := by
  unfold Junction.contribute
  dsimp only
  generalize 128 = n
  exact Tab.get_foldl_set 0 (accAfter w (j.bank w.bank)) _ n j.acc e

end Sys2Proof.Machine
end

section
/-! SUPPORT. The events of the junctions and the loop lines (R123 to R144): how a vector enters and is applied, how fills and
transfers end, what the end of a run sends to the junctions, and how tiles move. -/
namespace Sys2Proof.Machine

/-! ### A vector enters (R123, R395) -/

/-- What enters at a junction once the instructions of the cycle are performed. -/
def State.vectorEntry (s : State) (n : Nat) : State :=
  match (s.junction n).mma, (if s.lineRuns n then [] else (s.junction n).queue) with
  | some (u, op, k), _ => s.enterMma n u op k
  | none, (u, .mma h fmt slot cnt row0) :: rest =>
    if (s.junction n).slotShut slot then s
    else (s.setJunction n { s.junction n with mma := some (u, .mma h fmt slot cnt row0, 0), queue := rest }).enterMma n u
      (.mma h fmt slot cnt row0) 0
  | none, _ =>
    match streamingTask (s.junction n).tasks with
    | some t => s.enterTask n (armFmt (s.loopLine (lineOf n)).arm false) t
    | none => s

/-- Vector `k` of an MMA has entered at a junction that stood as `j`: with the last one the MMA completes. -/
def State.mmaEntered (t : State) (n u : Nat) (j : Junction) (h : W64) (fmt : JFmt) (slot cnt row0 k : Nat) : State :=
  if k + 1 < cnt then ((t.noteOor u h (handleSpan h) (mmaPlaces h fmt cnt k)).setJunction n
    { j with waves := j.waves ++ [t.mmaVector n h fmt slot cnt row0 k]
             mma := some (u, .mma h fmt slot cnt row0, k + 1) }).pump n
  else (((t.noteOor u h (handleSpan h) (mmaPlaces h fmt cnt k)).setJunction n
    { j with waves := j.waves ++ [t.mmaVector n h fmt slot cnt row0 k]
             mma := none }).unblockJunction u).pump n

section
variable {s t : State} {n u k slot cnt row0 : Nat} {h : W64} {fmt : JFmt}

theorem execWavefrontEntry_eq : exec (.wavefrontEntry n) s = .next ((s.pump n).vectorEntry n) := rfl

theorem State.vectorEntry_entering {op : JOp} (hm : (t.junction n).mma = some (u, op, k)) : t.vectorEntry n = t.enterMma n u op k := by
  simp only [State.vectorEntry, hm]

theorem State.vectorEntry_head {q : List (Nat × JOp)} (hm : (t.junction n).mma = none)
    (hq : (t.junction n).queue = (u, .mma h fmt slot cnt row0) :: q) (hr : t.lineRuns n = false) :
    t.vectorEntry n = if (t.junction n).slotShut slot then t
      else (t.setJunction n { t.junction n with mma := some (u, .mma h fmt slot cnt row0, 0), queue := q }).enterMma n u
        (.mma h fmt slot cnt row0) 0 := by
  simp only [State.vectorEntry, hm, hq, hr, Bool.false_eq_true, if_false]

/-- Where no MMA is to enter, the next row of the first streaming task does. -/
theorem State.vectorEntry_task (hm : (t.junction n).mma = none)
    (hq : (¬ ∃ v h f sl ct r0 rest, (t.junction n).queue = (v, JOp.mma h f sl ct r0) :: rest) ∨ t.lineRuns n = true) :
    t.vectorEntry n = match streamingTask (t.junction n).tasks with
      | some k => t.enterTask n (armFmt (t.loopLine (lineOf n)).arm false) k
      | none => t := by
  have hhead (v : Nat) (h : W64) (f : JFmt) (sl ct r0 : Nat) (rest : List (Nat × JOp)) :
      (if t.lineRuns n then [] else (t.junction n).queue) ≠ (v, .mma h f sl ct r0) :: rest := by
    intro hh
    rcases hq with hq | hq
    · split at hh
      · cases hh
      · exact hq ⟨_, _, _, _, _, _, _, hh⟩
    · rw [if_pos hq] at hh
      cases hh
  unfold State.vectorEntry
  rw [hm]
  split
  next heq => cases heq
  next heq => exact absurd heq (hhead _ _ _ _ _ _ _)
  next => rfl

theorem State.enterMma_shut (hs : (t.junction n).slotShut slot = true) : t.enterMma n u (.mma h fmt slot cnt row0) k = t := if_pos hs

theorem State.enterMma_open {j : Junction} (hj : t.junction n = j) (hs : j.slotShut slot = false) :
    t.enterMma n u (.mma h fmt slot cnt row0) k = t.mmaEntered n u j h fmt slot cnt row0 k := by
  subst hj
  exact if_neg (Bool.eq_false_iff.1 hs)

theorem State.enterTask_open {x : Task} {data : Memory} {sc : Lane} (ha : x.a = some (data, sc))
    (hs : (t.junction n).slotShut ((t.junction n).entrySlot x.entry) = false) : t.enterTask n fmt x = t.setJunction n
      { (t.junction n).onTask x.entry (fun t => { t with next := t.next + 1 }) with
        waves := (t.junction n).waves ++ [⟨(t.junction n).active, (t.junction n).entrySlot x.entry, x.next, fmt, sc,
          Memory.bytes data (128 * jBytes fmt * x.next) (128 * jBytes fmt), t.stnNow n, some x.entry⟩] } := by
  unfold State.enterTask
  simp only [ha]
  rw [if_neg (by simp [hs])]
  rfl

end

/-! ### A vector is applied (R125, R136) -/

section
variable {s : State} {n : Nat} {w : Wavefront} {rest : List Wavefront}

theorem execWavefrontApply_early (hw : (s.junction n).waves = w :: rest) (he : s.stnNow n < w.entered + 264) :
    exec (.wavefrontApply n) s = .next s := by
  simp only [exec, execWavefrontApply, hw, he, if_true]

/-- The junction once its first vector is applied. -/
def Junction.applied (j : Junction) (w : Wavefront) (rest : List Wavefront) : Junction :=
  Junction.drained { j.contribute w with waves := rest } w.bank

theorem execWavefrontApply_applies (hw : (s.junction n).waves = w :: rest) (he : w.entered + 264 ≤ s.stnNow n) :
    exec (.wavefrontApply n) s = .next (match (if w.row = 127 then w.task else none) with
      | some e => ((s.setJunction n (((s.junction n).applied w rest).taskDone e)).pump n).finishLine (lineOf n)
      | none => (s.setJunction n ((s.junction n).applied w rest)).pump n) := by
  simp only [exec, execWavefrontApply, hw, Nat.not_lt.2 he, if_false]
  rfl

end

/-! ### Fills and transfers (R126, R293, R328) -/

section
variable {s : State} {n u : Nat} {j : Junction}

theorem execBankFillComplete_eq : exec (.bankFillComplete n) s = .next (s.fillComplete n) := rfl

theorem State.fillComplete_wload {h : W64} {fmt : JFmt} {sc : Lane} (hl : (s.junction n).load = some (some u, .wload h fmt sc)) :
    s.fillComplete n = (((s.noteOor u h (handleSpan h) ((List.range (16384 * jBytes fmt)).map (hOff h + ·))).setJunction n
      ((s.junction n).filled (sparse (s.blockBytes n (handleSpan h) (hOff h) (16384 * jBytes fmt))))).unblockJunction u).pump n := by
  simp only [State.fillComplete, hl]

theorem State.fillComplete_task {lop : JOp} {t : Task} {data : Memory} {sc : Lane} (hj : s.junction n = j)
    (hl : j.load = some (none, lop)) (ht : loadingTask j.tasks = some t) (hb : t.b = some (data, sc)) :
    s.fillComplete n = if rowsEntering j.tasks || j.mma.isSome then s else (s.setJunction n
      (((j.filled data).swap).onTask t.entry fun t => { t with stage := .streaming })).pump n := by
  subst hj
  simp only [State.fillComplete, hl, ht, hb]

/-- A transfer waits while a vector of its slot is in flight. -/
theorem execAccumulatorTransferDone_waits {op : JOp} (hj : s.junction n = j) (hx : j.xfer = some (u, op))
    (hw : ∃ v ∈ j.waves, op.accSlot = some v.slot) : exec (.accumulatorTransferDone n) s = .next s := by
  subst hj
  have hany : ((s.junction n).waves.any fun w => op.accSlot == some w.slot) = true := by simpa using hw
  simp [exec, execAccumulatorTransferDone, hx, hany]

/-- A transfer is performed; the unit of an ACCCLR does not wait for it. -/
theorem execAccumulatorTransferDone_performs {op : JOp} (hj : s.junction n = j) (hx : j.xfer = some (u, op))
    (hw : ∀ v ∈ j.waves, op.accSlot ≠ some v.slot) : exec (.accumulatorTransferDone n) s =
      .next ((match op with
        | .accclr _ => (s.transfer n u op).onJunction n fun k => { k with xfer := none }
        | _ => ((s.transfer n u op).onJunction n fun k => { k with xfer := none }).unblockJunction u).pump n) := by
  subst hj
  have hany : ((s.junction n).waves.any fun w => op.accSlot == some w.slot) = false := by simpa using hw
  simp only [exec, execAccumulatorTransferDone, hx, hany]
  rfl

theorem State.transfer_accrd (h : W64) (slot : Nat) : s.transfer n u (.accrd h slot) =
    (s.noteOor u h (handleSpan h) ((List.range 65536).map (hOff h + ·))).blockPut n (handleSpan h)
      ((List.range 65536).map fun i => (hOff h + i, ((s.junction n).slotBytes slot).getD i 0)) := by
  simp only [State.transfer]

theorem State.transfer_accwr (h : W64) (slot : Nat) : s.transfer n u (.accwr h slot) =
    (s.noteOor u h (handleSpan h) ((List.range 65536).map (hOff h + ·))).setJunction n { s.junction n with
      acc := (List.range 16384).foldl (fun (t : Tab Lane) i =>
        Tab.set 0 t (slot * 16384 + i) (BitVec.ofNat 32 (ofBytes ((List.range 4).map fun b =>
          (s.blockBytes n (handleSpan h) (hOff h) 65536).getD (4 * i + b) 0)))) (s.junction n).acc } := by
  simp only [State.transfer, lane32]

theorem State.pump_empty (h : (s.junction n).queue = []) : s.pump n = s := by
  unfold State.pump
  split
  · rfl
  · exact State.pumpJunction_empty h _

/-- A slot is cleared: its elements are 0, and every other one keeps its value. -/
theorem execAccumulatorTransferDone_accclr {slot : Nat} (hj : s.junction n = j) (hx : j.xfer = some (u, .accclr slot))
    (hw : ∀ v ∈ j.waves, v.slot ≠ slot) (hq : j.queue = []) : exec (.accumulatorTransferDone n) s = .next ((s.setJunction n
      { j with acc := Tab.delRange j.acc (slot * 16384) (slot * 16384 + 16384) }).onJunction n fun k => { k with xfer := none }) := by
  rw [execAccumulatorTransferDone_performs hj hx fun v hv h => hw v hv (Option.some.inj h).symm]
  subst hj
  congr 1
  refine State.pump_empty ?_
  rw [State.junction_onJunction, if_pos rfl]
  change ((s.setJunction n _).junction n).queue = []
  rw [State.junction_setJunction, if_pos rfl]
  exact hq

theorem Tab.get_delRange {α : Type} (t : Tab α) (lo hi e : Nat) (d : α) :
    Tab.get (Tab.delRange t lo hi) e d = if lo ≤ e ∧ e < hi then d else Tab.get t e d := by
  rw [Tab.get, Tab.find_delRange]
  split <;> rfl

end

/-! ### The end of a run (R127, R144) -/

theorem Junction.awaiting_setBank (j : Junction) (n : Nat) (b : Bank) : (j.setBank n b).awaiting = j.awaiting := by
  rw [Junction.setBank_rest]

theorem Junction.awaiting_swap (j : Junction) : j.swap.awaiting = j.awaiting := by
  simp [Junction.swap, Junction.awaiting_setBank]

/-- The state goes on with no loop line changed, and no junction's list of those that wait for a run. -/
def State.KeepsAwaiting (s t : State) : Prop := t.loopLines = s.loopLines ∧ ∀ m, (t.junction m).awaiting = (s.junction m).awaiting

theorem State.KeepsAwaiting.refl (s : State) : s.KeepsAwaiting s := ⟨rfl, fun _ => rfl⟩

theorem State.KeepsAwaiting.trans {s t v : State} (h : s.KeepsAwaiting t) (h' : t.KeepsAwaiting v) : s.KeepsAwaiting v :=
  ⟨h'.1.trans h.1, fun m => (h'.2 m).trans (h.2 m)⟩

theorem State.keepsAwaiting_setJunction (s : State) (n : Nat) {j : Junction} (hj : j.awaiting = (s.junction n).awaiting) :
    s.KeepsAwaiting (s.setJunction n j) := by
  refine ⟨rfl, fun m => ?_⟩
  rw [State.junction_setJunction]
  split
  next h => rw [hj, h]
  next => rfl

theorem State.keepsAwaiting_unblockJunction (s : State) (u : Nat) : s.KeepsAwaiting (s.unblockJunction u) := by
  unfold State.unblockJunction
  split
  · split
    · exact ⟨State.onUnit_loopLines _ _ _, fun m => congrArg Junction.awaiting (congrArg (Tab.get · m _) (State.onUnit_junctions _ _ _))⟩
    · exact .refl s
  · exact .refl s

theorem State.keepsAwaiting_pumpJunction (s : State) (n fuel : Nat) : s.KeepsAwaiting (s.pumpJunction n fuel) := by
  induction fuel generalizing s with
  | zero => exact .refl s
  | succ fuel ih =>
    have hon {t : State} (h : s.KeepsAwaiting t) : s.KeepsAwaiting (t.pumpJunction n fuel) := h.trans (ih t)
    unfold State.pumpJunction
    dsimp only
    split
    next => exact .refl s
    next u op rest _ =>
      cases op with
      | wload h fmt scale =>
        dsimp only
        split
        · exact hon (s.keepsAwaiting_setJunction n (Junction.awaiting_setBank _ _ _))
        · exact .refl s
      | wswap =>
        dsimp only
        split
        · refine hon (.trans ?_ (State.keepsAwaiting_unblockJunction _ u))
          exact s.keepsAwaiting_setJunction n (Junction.awaiting_swap _)
        · exact .refl s
      | mma h fmt slot cnt row0 => exact .refl s
      | accrd h slot | accwr h slot | accclr slot =>
        dsimp only
        split
        · exact hon (s.keepsAwaiting_setJunction n rfl)
        · exact .refl s

theorem State.keepsAwaiting_pump (s : State) (n : Nat) : s.KeepsAwaiting (s.pump n) := by
  unfold State.pump
  split
  · exact .refl s
  · exact s.keepsAwaiting_pumpJunction n _

theorem State.loopLines_endAwait (s : State) (n : Nat) : (s.endAwait n).loopLines = s.loopLines := (State.keepsAwaiting_pump _ n).1

theorem State.awaiting_endAwait (s : State) (n m : Nat) :
    ((s.endAwait n).junction m).awaiting = if m = n then [] else (s.junction m).awaiting := by
  refine ((State.keepsAwaiting_pump _ n).2 m).trans ?_
  rw [State.junction_onJunction]
  split <;> rfl

/-- What waited at junctions for the end of a run goes to them. -/
theorem State.foldl_endAwait (ns : List Nat) (s : State) : (ns.foldl (fun s n => s.endAwait n) s).loopLines = s.loopLines ∧
    ∀ m, m ∈ ns ∨ (s.junction m).awaiting = [] → ((ns.foldl (fun s n => s.endAwait n) s).junction m).awaiting = [] := by
  induction ns generalizing s with
  | nil => exact ⟨rfl, fun m h => h.resolve_left (by simp)⟩
  | cons n ns ih =>
    obtain ⟨hline, hawait⟩ := ih (s.endAwait n)
    refine ⟨hline.trans (s.loopLines_endAwait n), fun m h => hawait m ?_⟩
    rw [State.awaiting_endAwait]
    by_cases hm : m = n
    · exact .inr (if_pos hm)
    · rw [if_neg hm]
      exact h.imp_left fun h => (List.mem_cons.1 h).resolve_left hm

theorem State.loopLine_setLoopLine (s : State) (key : Nat) (l : LoopLine) : (s.setLoopLine key l).loopLine key = l := by
  refine (Tab.get_set _ _ _ _ _).trans ?_
  exact if_pos rfl

theorem State.endRun_ends {s : State} {key : Nat} (hr : (s.loopLine key).running = true) (ha : (s.loopLine key).armed = false)
    (hs : ∀ m ∈ s.lineStations key, (s.junction m).signalled = true) :
    ((s.endRun key).loopLine key).running = false ∧ ∀ i, i < 8 → ((s.endRun key).junction (key * 8 + i)).awaiting = [] := by
  have hall : (s.lineStations key).all (fun n => (s.junction n).signalled) = true := List.all_eq_true.2 hs
  have hend : s.endRun key = ((List.range 8).map (fun i => key * 8 + i)).foldl (fun s n => s.endAwait n)
      (s.setLoopLine key { s.loopLine key with running := false }) := by
    simp only [State.endRun, hr, ha, hall]
    rfl
  obtain ⟨hline, hawait⟩ := State.foldl_endAwait ((List.range 8).map fun i => key * 8 + i)
    (s.setLoopLine key { s.loopLine key with running := false })
  rw [hend]
  refine ⟨?_, fun i hi => hawait _ (.inl (List.mem_map.2 ⟨i, List.mem_range.2 hi, rfl⟩))⟩
  rw [State.loopLine, hline, ← State.loopLine, State.loopLine_setLoopLine]

/-! ### The beat (R128, R144) -/

section
variable {s : State} {die row : Nat} {l : LoopLine}

/-- A line that no region claims, or that does not run, has no beat. -/
theorem execLineBeat_idle (hl : s.loopLine (die * 8 + row) = l) (h : l.claim = none ∨ (∃ r, l.claim = some r) ∧ l.running = false) :
    exec (.lineBeat die row) s = .next s := by
  subst hl
  rcases h with hc | ⟨⟨r, hc⟩, hr⟩
  · simp only [exec, execLineBeat, hc]
  · simp only [exec, execLineBeat, hc, hr]
    rfl

theorem execLineBeat_stops {r : Nat} (hl : s.loopLine (die * 8 + row) = l) (hc : l.claim = some r) (hr : l.running = true)
    (hs : l.stopping = true) :
    exec (.lineBeat die row) s = .next (s.stopLine (die * 8 + row) (s.lineStations (die * 8 + row))) := by
  subst hl
  simp only [exec, execLineBeat, hc, hr, hs]
  rfl

theorem execLineBeat_runs {r : Nat} (hl : s.loopLine (die * 8 + row) = l) (hc : l.claim = some r) (hr : l.running = true)
    (hs : l.stopping = false) : exec (.lineBeat die row) s = .next (if l.armed
      then (s.beat (die * 8 + row) r (s.lineStations (die * 8 + row))).finishLine (die * 8 + row) else s.finishLine (die * 8 + row)) := by
  subst hl
  simp only [exec, execLineBeat, hc, hr, hs]
  rfl

end

/-! ### Tasks and recovery (R135, R140) -/

section
variable {s : State} {n : Nat} {t : Task}

theorem Junction.bank_setBank_same (j : Junction) (n : Nat) (b : Bank) : (j.setBank n b).bank n = b := by
  unfold Junction.bank Junction.setBank
  by_cases h : n = 0
  · simp [h]
  · simp [h]

theorem Junction.bank_idle_startLoad (j : Junction) (u : Option Nat) (op : JOp) (fmt : JFmt) (scale : Lane) :
    ((j.startLoad u op fmt scale).bank (j.startLoad u op fmt scale).idle).st = .loading := by
  have hidle : (j.startLoad u op fmt scale).idle = j.idle := by
    rw [Junction.startLoad, Junction.setBank_rest]
    rfl
  rw [hidle]
  exact congrArg Bank.st (j.bank_setBank_same j.idle _)

theorem execLineTaskStart_eq (ht : nextTask (s.junction n).tasks = some t) (hc : (s.junction n).canLoad = true) :
    ∃ op fmt sc, exec (.lineTaskStart n) s = .next (s.setJunction n
      (((s.junction n).startLoad none op fmt sc).onTask t.entry fun t => { t with stage := .loading })) := by
  cases hb : t.b with
  | none =>
    refine ⟨.wload 0 (armFmt (s.loopLine (lineOf n)).arm true) 0, armFmt (s.loopLine (lineOf n)).arm true, 0, ?_⟩
    simp only [exec, execLineTaskStart, ht, hc, hb, if_true]
  | some b =>
    refine ⟨.wload 0 (armFmt (s.loopLine (lineOf n)).arm true) b.2, armFmt (s.loopLine (lineOf n)).arm true, b.2, ?_⟩
    simp only [exec, execLineTaskStart, ht, hc, hb, if_true]

theorem execLineTaskStart_starts (ht : nextTask (s.junction n).tasks = some t) (hc : (s.junction n).canLoad = true) :
    ∃ j, exec (.lineTaskStart n) s = .next (s.setJunction n j) ∧ (j.bank j.idle).st = .loading ∧ j.active = (s.junction n).active ∧
      j.acc = (s.junction n).acc ∧ ∀ k ∈ j.tasks, k.entry = t.entry → k.stage = .loading := by
  obtain ⟨op, fmt, sc, hrun⟩ := execLineTaskStart_eq ht hc
  refine ⟨_, hrun, (s.junction n).bank_idle_startLoad none op fmt sc, ?_, ?_, fun k hk he => ?_⟩
  · rw [Junction.onTask, Junction.startLoad, Junction.setBank_rest]
  · rw [Junction.onTask, Junction.startLoad, Junction.setBank_rest]
  · obtain ⟨k', _, rfl⟩ := List.mem_map.1 hk
    dsimp only at he ⊢
    split
    next => rfl
    next hne =>
      rw [if_neg hne] at he
      exact absurd he hne

end

section
variable {s : State} {n r : Nat} {l : LoopLine} {x : Region}

theorem execLineTaskStart_none (h : nextTask (s.junction n).tasks = none ∨ (s.junction n).canLoad = false) :
    exec (.lineTaskStart n) s = .next s := by
  unfold exec execLineTaskStart
  dsimp only
  rcases h with h | h
  · rw [h]
  · split
    · exact congrArg _ (if_neg (Bool.eq_false_iff.1 h))
    · rfl

/-- On a line that runs, a recovery fetch begins or goes on. -/
theorem execRecoveryFetch_runs (hl : s.loopLine (n / 8) = l) (hc : l.claim = some r) (hx : s.region? r = some x) (hr : l.running = true)
    (hs : l.stopping = false) : exec (.recoveryFetch n) s = .next (match fetchingTask (s.junction n).tasks with
      | some t => if t.hold.isSome || !s.mayRepeat (junctionAgent n) then s
        else (s.repeated (junctionAgent n)).fetchBoth n r t.entry x l
      | none => match s.recoverable n l with
        | some e => s.setJunction n { s.junction n with
            entries := Tab.put (s.junction n).entries e .running
            tasks := (s.junction n).tasks ++ [⟨e, true, none, none, .fetching, 0, none, []⟩] }
        | none => s) := by
  have hl' : s.loopLine (lineOf n) = l := hl
  simp only [exec, execRecoveryFetch, hl', hc, Option.bind_some, hx, Option.map_some, hr, hs]
  rfl

theorem execRecoveryFetch_idle (hl : s.loopLine (n / 8) = l) (h : l.claim = none ∨ l.running = false ∨ l.stopping = true) :
    exec (.recoveryFetch n) s = .next s := by
  have hl' : s.loopLine (lineOf n) = l := hl
  unfold exec execRecoveryFetch
  dsimp only
  rw [hl']
  split
  · rfl
  next r' x' heq =>
    refine congrArg _ (if_pos ?_)
    rcases h with h | h | h
    · simp [h] at heq
    · simp [h]
    · simp [h]

end

/-! ### Tiles that move (R128, R138) -/

theorem moveTile_eq (p : Nat) (t : Tile) : moveTile (p, t) = (if t.down then (p + 7) % 8 else (p + 1) % 8,
    { t with laps := t.laps + if (if t.down then (p + 7) % 8 else (p + 1) % 8) = t.start then 1 else 0 }) := by
  unfold moveTile
  simp only [apply_ite (· % 8), b2n, beq_iff_eq]

/-- A tile that has made the line's laps past its injection position is withdrawn; every other one stays on the line. -/
theorem LoopLine.advance_moved {l : LoopLine} {t q : Nat × Tile} (ht : t ∈ l.tiles) (hq : moveTile t = q) :
    (q.1 = q.2.start ∧ q.2.laps = l.arm.toNat / 2 ^ 16 % 2 ^ 8 → q.2 ∈ l.advance.2) ∧
    (¬ (q.1 = q.2.start ∧ q.2.laps = l.arm.toNat / 2 ^ 16 % 2 ^ 8) → q ∈ l.advance.1.tiles) := by
  have hmem : q ∈ l.tiles.map moveTile := List.mem_map.2 ⟨t, ht, hq⟩
  have hout : (q.1 == q.2.start && q.2.laps == fld l.arm.toNat 16 8) = true ↔
      q.1 = q.2.start ∧ q.2.laps = l.arm.toNat / 2 ^ 16 % 2 ^ 8 := by
    simp [fld, Nat.shiftRight_eq_div_pow]
  refine ⟨fun h => List.mem_map.2 ⟨q, List.mem_filter.2 ⟨hmem, hout.2 h⟩, rfl⟩, fun h => List.mem_filter.2 ⟨hmem, ?_⟩⟩
  rw [Bool.not_eq_true']
  exact Bool.eq_false_iff.2 (h ∘ hout.1)

end Sys2Proof.Machine

namespace Sys2Proof
open Machine

/-- Settles O53: the events of a junction go through what stands in its arrays, a vector changes the elements of its row alone and by
sums that are exact within a chunk, and a beat moves every tile by one position. -/
theorem junctionEvents : Obligations.JunctionEvents := by
  unfold Obligations.JunctionEvents
  refine ⟨?_, ?_, ?_, ?_⟩
  · intro s n u k slot cnt row0 h fmt w rest q j hj op came c heads enters
    refine ⟨?_, ?_, ?_, ?_, ?_, ?_, ?_, ?_, ?_, ?_, ?_⟩
    · intro hm hs
      rw [execWavefrontEntry_eq]
      exact congrArg _ ((State.vectorEntry_entering hm).trans (State.enterMma_open rfl hs))
    · intro hm hs
      rw [execWavefrontEntry_eq]
      exact congrArg _ ((State.vectorEntry_entering hm).trans (State.enterMma_shut hs))
    · intro hm hq hr
      have hhead := State.vectorEntry_head hm hq hr
      refine ⟨?_, ?_⟩
      · intro hs j' hj'
        subst hj'
        rw [execWavefrontEntry_eq]
        refine congrArg _ (hhead.trans ((if_neg (Bool.eq_false_iff.1 hs)).trans (State.enterMma_open ?_ ?_)))
        · rw [State.junction_setJunction, if_pos rfl]
        · exact hs
      · intro hs
        rw [execWavefrontEntry_eq]
        exact congrArg _ (hhead.trans (if_pos hs))
    · intro hm hq
      have htask := State.vectorEntry_task hm hq
      refine ⟨?_, ?_⟩
      · intro ht
        rw [ht] at htask
        rw [execWavefrontEntry_eq]
        exact congrArg _ htask
      · intro t data sc f ht ha hf hs
        subst hf
        rw [ht] at htask
        rw [execWavefrontEntry_eq]
        exact congrArg _ (htask.trans (State.enterTask_open ha hs))
    · intro hw he j'
      subst hj
      have happly := execWavefrontApply_applies hw he
      refine ⟨?_, ?_⟩
      · intro ht
        have hnone : (if w.row = 127 then w.task else none) = none := by
          rcases ht with ht | ht
          · rw [ht, ite_self]
          · exact if_neg ht
        rw [hnone] at happly
        exact happly
      · intro e ht hrow
        rw [if_pos hrow, ht] at happly
        exact happly
    · intro hw he
      subst hj
      exact execWavefrontApply_early hw he
    · intro sc hl
      subst hj
      rw [execBankFillComplete_eq, State.fillComplete_wload hl]
    · intro lop t data sc hl ht hb
      have hfill := State.fillComplete_task hj hl ht hb
      rw [execBankFillComplete_eq, hfill]
      refine ⟨?_, ?_⟩
      · intro hwait
        exact congrArg _ (if_pos (by simpa [Option.isSome_iff_ne_none] using hwait))
      · intro hrows hmma
        exact congrArg _ (if_neg (by simp [hrows, hmma]))
    · intro xop hx hw
      exact execAccumulatorTransferDone_waits hj hx hw
    · intro places hp hw
      rw [hp]
      intro noted ends
      refine ⟨?_, ?_⟩
      · intro hx
        have hdone := execAccumulatorTransferDone_performs hj hx fun v hv hs => hw v hv (Option.some.inj hs).symm
        subst hj
        dsimp only at hdone
        rw [State.transfer_accrd] at hdone
        exact hdone
      · intro hx
        have hdone := execAccumulatorTransferDone_performs hj hx fun v hv hs => hw v hv (Option.some.inj hs).symm
        subst hj
        dsimp only at hdone
        rw [State.transfer_accwr] at hdone
        exact hdone
    · intro hx hw hq
      refine ⟨_, execAccumulatorTransferDone_accclr hj hx hw hq, ?_⟩
      rw [State.junction_onJunction, if_pos rfl, State.junction_setJunction, if_pos rfl]
      refine ⟨?_, ?_, rfl⟩
      · intro e hlo hhi
        rw [Tab.get_delRange, if_pos ⟨hlo, hhi⟩]
      · intro e he
        rw [Tab.get_delRange, if_neg (by omega)]
  · intro j w acc c
    refine ⟨?_, ?_, ?_, ?_, ?_, ?_⟩
    · intro hb hw b hbank
      subst hbank
      exact accAfter_int8 c acc hb hw
    · intro hb hw
      exact accAfter_int8_other c acc hb hw
    · intro hb hw
      rw [accAfter_float c acc hb, if_neg hw]
    · intro hb hw b hbank scaled val rounded
      subst hbank
      refine ⟨_, fun t => chunkSum (chunkProducts w (j.bank w.bank) c t), accAt w (j.bank w.bank) c acc.toNat, chunk_scaled,
        chunk_unscaled hb, rfl, (accAfter_float c acc hb).trans (if_pos hw), ?_⟩
      intro t _ ps
      refine ⟨chunkSum_nan, ?_, chunkSum_fin, ?_, ?_⟩
      · intro g hn hi ho
        exact chunkSum_inf hn hi ho
      · intro hs
        exact (accAt_succ w c acc.toNat t).trans (chunkStep_scaled w c _ t hs)
      · intro hs
        exact (accAt_succ w c acc.toNat t).trans (chunkStep_unscaled w c _ t hs)
    · intro k hk
      refine (Junction.contribute_get j w _).trans ((if_pos (by omega)).trans ?_)
      rw [Nat.add_sub_cancel_left]
    · intro e he
      exact (Junction.contribute_get j w e).trans (if_neg (by omega))
  · intro s die row n r x t l key
    refine ⟨?_, ?_, ?_, ?_, ?_, ?_, ?_, ?_, ?_, ?_, ?_⟩
    · intro hl hc hr
      exact execLineBeat_idle hl (.inr ⟨⟨r, hc⟩, hr⟩)
    · intro hl hc
      exact execLineBeat_idle hl (.inl hc)
    · intro hl hc hr hs
      exact execLineBeat_stops hl hc hr hs
    · intro hl hc hr hs ha
      exact (execLineBeat_runs hl hc hr hs).trans (congrArg _ (if_pos ha))
    · intro hl hc hr hs ha
      exact (execLineBeat_runs hl hc hr hs).trans (congrArg _ (if_neg (Bool.eq_false_iff.1 ha)))
    · intro m
      rfl
    · intro hl hr ha hs
      subst hl
      exact State.endRun_ends hr ha hs
    · intro ht hc
      exact execLineTaskStart_starts ht hc
    · intro h
      exact execLineTaskStart_none h
    · intro hl hc hx hr hs
      refine ⟨?_, ?_, ?_⟩
      · intro e hf he
        rw [execRecoveryFetch_runs hl hc hx hr hs, hf]
        dsimp only
        rw [he]
      · intro hf hh hm
        rw [execRecoveryFetch_runs hl hc hx hr hs, hf]
        exact congrArg _ (if_neg (by simp [hh, hm]))
      · intro hf hh
        rw [execRecoveryFetch_runs hl hc hx hr hs, hf]
        exact congrArg _ (if_pos (by simp [Option.isSome_iff_ne_none, hh]))
    · intro hl h
      exact execRecoveryFetch_idle hl h
  · intro l p t ht _ q laps
    exact LoopLine.advance_moved ht (moveTile_eq p t)

end Sys2Proof
end

section
/-! SUPPORT. Reductions and scans (R114, R115): the blocks that a scan combines at one position, and RDCE and SCAN. -/
namespace Sys2Proof.Machine

/-! ### The blocks that a position's number cuts (R115) -/

section
variable (op : Nat → Nat → Nat) (xs : List Nat) (m : Nat)

/-- The reduction of the aligned block of 2^`b` values that bit `b` of `m` cuts. -/
def blockAt (b : Nat) : Nat := treeReduce op b ((xs.drop (m / 2 ^ (b + 1) * 2 ^ (b + 1))).take (2 ^ b))

/-- The reductions of the blocks that bits `k` to 0 of `m` cut, largest block first. -/
def blocksFrom (k : Nat) : List Nat := (((List.range (k + 1)).reverse.filter fun b => m.testBit b).map (blockAt op xs m))

/-- Values combined from left to right, behind a first one where there is one. -/
def combineFrom : Option Nat → List Nat → Nat
  | some y, l => l.foldl op y
  | none, [] => 0
  | none, y :: l => l.foldl op y

theorem combineFrom_cons (acc : Option Nat) (y : Nat) (l : List Nat) :
    combineFrom op acc (y :: l) = combineFrom op (some (match acc with | some z => op z y | none => y)) l := by
  cases acc <;> rfl

theorem blocksFrom_zero : blocksFrom op xs m 0 = if m.testBit 0 then [blockAt op xs m 0] else [] := by
  rw [blocksFrom, show (List.range (0 + 1)).reverse = [0] from rfl, List.filter_cons]
  split <;> rfl

theorem blocksFrom_succ (k : Nat) : blocksFrom op xs m (k + 1) =
    if m.testBit (k + 1) then blockAt op xs m (k + 1) :: blocksFrom op xs m k else blocksFrom op xs m k := by
  rw [blocksFrom, List.range_succ, List.reverse_concat, List.filter_cons]
  split <;> rfl

/-- The values before the block of bit `k`: those of the blocks that the bits above it cut. -/
theorem values_before_eq (k : Nat) :
    m / 2 ^ k * 2 ^ k = m / 2 ^ (k + 1) * 2 ^ (k + 1) + if m.testBit k then 2 ^ k else 0 := by
  have hhalf : m / 2 ^ (k + 1) = m / 2 ^ k / 2 := by rw [pow_succ, Nat.div_div_eq_div_mul]
  have hbit : m.testBit k = decide (m / 2 ^ k % 2 = 1) := Nat.testBit_eq_decide_div_mod_eq
  rw [hhalf, hbit, pow_succ]
  generalize m / 2 ^ k = q
  rcases Nat.mod_two_eq_zero_or_one q with h | h
  · have hq : q = q / 2 * 2 := by omega
    simp only [h, zero_ne_one, decide_false, Bool.false_eq_true, if_false, add_zero]
    calc q * 2 ^ k = q / 2 * 2 * 2 ^ k := by rw [← hq]
      _ = q / 2 * (2 ^ k * 2) := by ring
  · have hq : q = q / 2 * 2 + 1 := by omega
    simp only [h, decide_true, if_true]
    calc q * 2 ^ k = (q / 2 * 2 + 1) * 2 ^ k := by rw [← hq]
      _ = q / 2 * (2 ^ k * 2) + 2 ^ k := by ring

/-- A scan combines what it has with the blocks that the bits still to come cut. -/
theorem scanBlocks_eq (k : Nat) (acc : Option Nat) :
    scanBlocks op xs m k (m / 2 ^ (k + 1) * 2 ^ (k + 1)) acc = combineFrom op acc (blocksFrom op xs m k) := by
  induction k generalizing acc with
  | zero =>
    have hblk : xs.getD (m / 2 ^ (0 + 1) * 2 ^ (0 + 1)) 0 = blockAt op xs m 0 := by
      simp [blockAt, treeReduce, List.getD, List.head?_take, List.head?_drop, List.headD_eq_head?_getD]
    rw [scanBlocks, blocksFrom_zero, hblk]
    split
    · cases acc <;> rfl
    · cases acc <;> rfl
  | succ k ih =>
    have hbase := values_before_eq m (k + 1)
    rw [scanBlocks, blocksFrom_succ]
    split
    next h =>
      rw [if_pos h] at hbase
      rw [combineFrom_cons, ← hbase, ih]
      rfl
    next h =>
      rw [if_neg h, add_zero] at hbase
      rw [← hbase, ih]

variable {m}

/-- Position `m - 1` of a scan of 2^`k` values. -/
theorem scanBlocks_start {k : Nat} (hm : m < 2 ^ (k + 1)) :
    scanBlocks op xs m k 0 none = combineFrom op none (blocksFrom op xs m k) := by
  have h := scanBlocks_eq op xs m k none
  rwa [Nat.div_eq_of_lt hm, Nat.zero_mul] at h

/-- Bits above those of `m` cut no block. -/
theorem blocksFrom_above {n k : Nat} (hm : m < 2 ^ (n + 1)) (hk : n ≤ k) : blocksFrom op xs m k = blocksFrom op xs m n := by
  induction k, hk using Nat.le_induction with
  | base => rfl
  | succ k hk ih =>
    have hbit : m.testBit (k + 1) = false := Nat.testBit_lt_two_pow (hm.trans_le (Nat.pow_le_pow_right (by omega) (by omega)))
    rw [blocksFrom_succ, hbit, ih]
    rfl

theorem scanBlocks_of_lt {n k : Nat} (hm : m < 2 ^ (n + 1)) (hk : n ≤ k) :
    scanBlocks op xs m k 0 none = combineFrom op none (blocksFrom op xs m n) := by
  rw [scanBlocks_start op xs (hm.trans_le (Nat.pow_le_pow_right (by omega) (by omega))), blocksFrom_above op xs hm hk]

theorem blocksFrom_two_pow (k : Nat) (hxs : xs.length = 2 ^ k) : blocksFrom op xs (2 ^ k) k = [treeReduce op k xs] := by
  have hnone : (List.range k).reverse.filter (fun b => (2 ^ k).testBit b) = [] := by
    simp only [List.filter_eq_nil_iff, List.mem_reverse, List.mem_range, Nat.testBit_two_pow, decide_eq_true_eq]
    omega
  have hzero : 2 ^ k / 2 ^ (k + 1) = 0 := Nat.div_eq_of_lt (Nat.pow_lt_pow_right (by omega) (by omega))
  rw [blocksFrom, List.range_succ, List.reverse_concat, List.filter_cons_of_pos Nat.testBit_two_pow_self, hnone]
  rw [List.map_singleton, blockAt, hzero, Nat.zero_mul, List.drop_zero, List.take_of_length_le hxs.le]

/-- The position of the whole vector is the reduction (R115). -/
theorem scanBlocks_whole (k : Nat) (hxs : xs.length = 2 ^ k) : scanBlocks op xs (2 ^ k) k 0 none = treeReduce op k xs := by
  rw [scanBlocks_start op xs (Nat.pow_lt_pow_right (by omega) (by omega)), blocksFrom_two_pow op xs k hxs]
  rfl

variable {xs}

theorem take_drop_eq_map {α : Type} {l : List α} (dflt : α) (lo n : Nat) (h : lo + n ≤ l.length) :
    (l.drop lo).take n = (List.range n).map fun j => l.getD (lo + j) dflt := by
  refine List.ext_getElem (by simp; omega) fun j hj _ => ?_
  have hlt : lo + j < l.length := by
    rw [List.length_take] at hj
    omega
  simp [List.getD, hlt]

theorem scanBlocks_three {k : Nat} (hk : 2 ≤ k) (hxs : xs.length = 2 ^ k) :
    scanBlocks op xs 3 k 0 none = op (op (xs.getD 0 0) (xs.getD 1 0)) (xs.getD 2 0) := by
  have hlen : 2 ^ 2 ≤ xs.length := hxs ▸ Nat.pow_le_pow_right (by omega) hk
  rw [scanBlocks_of_lt op xs (n := 1) (by norm_num) (by omega), blocksFrom,
    show ((List.range (1 + 1)).reverse.filter fun b => (3 : Nat).testBit b) = [1, 0] by decide]
  simp only [List.map_cons, List.map_nil, blockAt]
  rw [take_drop_eq_map 0 _ _ (by omega), take_drop_eq_map 0 _ _ (by omega)]
  rfl

theorem scanBlocks_seven {k : Nat} (hk : 3 ≤ k) (hxs : xs.length = 2 ^ k) :
    scanBlocks op xs 7 k 0 none = op (op (op (op (xs.getD 0 0) (xs.getD 1 0)) (op (xs.getD 2 0) (xs.getD 3 0)))
      (op (xs.getD 4 0) (xs.getD 5 0))) (xs.getD 6 0) := by
  have hlen : 2 ^ 3 ≤ xs.length := hxs ▸ Nat.pow_le_pow_right (by omega) hk
  rw [scanBlocks_of_lt op xs (n := 2) (by norm_num) (by omega), blocksFrom,
    show ((List.range (2 + 1)).reverse.filter fun b => (7 : Nat).testBit b) = [2, 1, 0] by decide]
  simp only [List.map_cons, List.map_nil, blockAt]
  rw [take_drop_eq_map 0 _ _ (by omega), take_drop_eq_map 0 _ _ (by omega), take_drop_eq_map 0 _ _ (by omega)]
  rfl

end

/-! ### RDCE and SCAN (R114, R410, R419) -/

section
variable {s : State} {x : Unit} {ty : Ty} {op : RedOp} {sat : Bool} {rnd : Rnd} {d : Dst} {vd va : VReg}

theorem State.Fires.rdce_result (hf : s.Fires (.rdce ty op sat rnd d va) x) :
    LaneResult s x (.rdce ty op sat rnd d va) (tyWidth ty) 4 d fun _ r =>
      r = treeReduce (redApply ty op sat rnd) (x.count (tyWidth ty)).log2 (valuesOf x va (tyWidth ty)) % 2 ^ tyWidth ty :=
  ⟨_, hf.answers (execRdce ty op sat rnd d va) rfl rfl rfl rfl rfl rfl rfl rfl,
    fun _ hv => ⟨valAt_lt _ _ _, valAt_vecMk _ _ hv⟩⟩

theorem State.Fires.scan_result (hf : s.Fires (.scan ty op sat rnd vd va) x) :
    ∃ vec sc, exec (.scan ty op sat rnd vd va) s = .next ((s.taken []).finish s.cur.unit s.cur.upd (.v vd) vec sc 4) ∧
      ∀ v, v < x.count (tyWidth ty) → valAt (tyWidth ty) vec v = scanBlocks (redApply ty op sat rnd)
        (valuesOf x va (tyWidth ty)) (v + 1) (x.count (tyWidth ty)).log2 0 none % 2 ^ tyWidth ty :=
  ⟨_, _, hf.answers (execScan ty op sat rnd vd va) rfl rfl rfl rfl rfl rfl rfl rfl, fun _ hv => valAt_vecMk _ _ hv⟩

end

end Sys2Proof.Machine

namespace Sys2Proof
open Machine

/-- Settles O6: a scan's accumulator is the combination of the blocks cut so far, and one with a single bit is the tree. -/
theorem reductionsAndScans : Obligations.ReductionsAndScans := by
  refine ⟨?instructions, ?blocks⟩
  case instructions =>
    intro s x ty op sat rnd d vd va w f
    exact ⟨fun hf => hf.rdce_result, fun hf => hf.scan_result⟩
  intro op k i xs hxs hi
  refine ⟨fun first rest hblocks => ?_, scanBlocks_whole op xs k hxs, fun hk => scanBlocks_three op hk hxs,
    fun hk => scanBlocks_seven op hk hxs⟩
  have hm : i + 1 < 2 ^ (k + 1) := by rw [pow_succ]; omega
  rw [scanBlocks_start op xs hm, show blocksFrom op xs (i + 1) k = first :: rest from hblocks]
  rfl

end Sys2Proof
end

section
/-! SUPPORT. The generators (R118, R119, R291, R292, R416): the block of a counter and a key, a generator's image, and RNG, RNGSET
and RNGGET. -/
namespace Sys2Proof.Machine

/-! ### The block (R118) -/

/-- `n` + 1 rounds: one, and `n` times the next key and a round. -/
theorem Philox.rounds_succ (n : Nat) (p : Philox) :
    Philox.rounds (n + 1) p = Nat.repeat (fun q : Philox => q.bump.mix) n p.mix := by
  have hshift (m : Nat) (q : Philox) : Nat.repeat (fun q : Philox => q.bump.mix) m q.bump.mix =
      Nat.repeat (fun q : Philox => q.bump.mix) (m + 1) q := by
    induction m with
    | zero => rfl
    | succ m ih => exact congrArg (fun r : Philox => r.bump.mix) ih
  induction n generalizing p with
  | zero => rfl
  | succ n ih => rw [Philox.rounds, ih, hshift]

theorem fld_eq (x lo n : Nat) : fld x lo n = x / 2 ^ lo % 2 ^ n := by rw [fld, Nat.shiftRight_eq_div_pow]

theorem Philox.mix_eq (p : Philox) : p.mix = { p with
    c0 := (0xCD9E8D57 * p.c2 / 2 ^ 32 % 2 ^ 32) ^^^ p.c1 ^^^ p.k0
    c1 := 0xCD9E8D57 * p.c2 % 2 ^ 32
    c2 := (0xD2511F53 * p.c0 / 2 ^ 32 % 2 ^ 32) ^^^ p.c3 ^^^ p.k1
    c3 := 0xD2511F53 * p.c0 % 2 ^ 32 } := by
  simp only [Philox.mix, fld_eq, pow_zero, Nat.div_one]

/-- The counter and the key as the first round finds them. -/
def Philox.start (c k : Nat) : Philox :=
  ⟨c % 2 ^ 32, c / 2 ^ 32 % 2 ^ 32, c / 2 ^ 64 % 2 ^ 32, c / 2 ^ 96, k % 2 ^ 32, k / 2 ^ 32⟩

theorem Philox.fields_eq_start {c k : Nat} (hc : c < 2 ^ 128) (hk : k < 2 ^ 64) :
    (⟨fld c 0 32, fld c 32 32, fld c 64 32, fld c 96 32, fld k 0 32, fld k 32 32⟩ : Philox) = .start c k := by
  have htop : c / 2 ^ 96 % 2 ^ 32 = c / 2 ^ 96 := Nat.mod_eq_of_lt (by omega)
  have hkey : k / 2 ^ 32 % 2 ^ 32 = k / 2 ^ 32 := Nat.mod_eq_of_lt (by omega)
  simp only [fld_eq, pow_zero, Nat.div_one, htop, hkey, Philox.start]

theorem philox_eq {c k : Nat} (hc : c < 2 ^ 128) (hk : k < 2 ^ 64) {p : Philox}
    (hp : p = Nat.repeat (fun q : Philox => q.bump.mix) 9 (Philox.start c k).mix) :
    philox c k = p.c0 + 2 ^ 32 * (p.c1 + 2 ^ 32 * (p.c2 + 2 ^ 32 * p.c3)) := by
  rw [philox, Philox.fields_eq_start hc hk, Philox.rounds_succ, ← hp]
  ring

/-! ### The generators of a record's units (R118) -/

theorem foldl_gens {α : Type} {f : Unit → α → Unit} (hf : ∀ x a, (f x a).gens = x.gens) (l : List α) (x : Unit) :
    (l.foldl f x).gens = x.gens := by
  induction l generalizing x with
  | nil => rfl
  | cons a l ih => rw [List.foldl_cons, ih, hf]

theorem initData_gens (st : Station) (n : Nat) (sd : StnDecl) (first : Nat) (x : Unit) (i : DataInit) :
    (initData st n sd first x i).gens = x.gens := by
  cases i with
  | v r ls => exact foldl_gens (by intros; rfl) _ _
  | s _ _ | sBlock _ _ | p _ _ | lm _ => rfl

theorem startUnit_gens (st : Station) (r ctx part cls : Nat) (line : Nat × Nat) (n first : Nat) (sd : StnDecl) (e : ElemDecl)
    (ds : List (NewArc × Dest)) (rec : List W64) : (startUnit st r ctx part cls line n first sd e ds rec).gens = [] :=
   (foldl_gens (initData_gens st n sd first) _ _).trans ((foldl_gens (by intros; rfl) _ _).trans rfl)

/-! ### A generator's image (R292) -/

theorem getD_bytesOf (n x i : Nat) : (bytesOf n x).getD i 0 = if i < n then BitVec.ofNat 8 (x >>> (8 * i)) else 0 := by
  unfold bytesOf
  split
  next h => simp [List.getD, h]
  next h => simp [List.getD, h]

theorem length_bytesOf (n x : Nat) : (bytesOf n x).length = n := by simp [bytesOf]

/-- The byte at position `i` of the number that the counter, the key above it and zeros make. -/
theorem Gen.image_getD (g : Gen) {i : Nat} (hi : i < 32) :
    g.image.getD i 0 = BitVec.ofNat 8 ((g.counter.toNat + 2 ^ 128 * g.key.toNat) / 2 ^ (8 * i)) := by
  have hbit (m : Nat) : (g.counter.toNat + 2 ^ 128 * g.key.toNat).testBit m =
      if m < 128 then g.counter.toNat.testBit m else g.key.toNat.testBit (m - 128) := by
    rw [Nat.add_comm]
    exact Nat.testBit_two_pow_mul_add _ g.counter.isLt _
  have hkey (m : Nat) (hm : 64 ≤ m) : g.key.toNat.testBit m = false :=
    Nat.testBit_lt_two_pow (g.key.isLt.trans_le (Nat.pow_le_pow_right (by omega) hm))
  have hzero : (bytesOf 8 0).getD (i - 24) 0 = 0 := by
    rw [getD_bytesOf]
    simp
  rw [← Nat.shiftRight_eq_div_pow]
  refine BitVec.eq_of_getLsbD_eq fun j hj => ?_
  rw [BitVec.getLsbD_ofNat, Nat.testBit_shiftRight, hbit, Gen.image]
  by_cases hc : i < 16
  · rw [List.append_assoc, List.getD_append _ _ _ _ (by rwa [length_bytesOf]), getD_bytesOf, if_pos hc, if_pos (by omega),
      BitVec.getLsbD_ofNat, Nat.testBit_shiftRight]
  rw [if_neg (by omega : ¬ 8 * i + j < 128), List.append_assoc, List.getD_append_right _ _ _ _ (by rw [length_bytesOf]; omega),
    length_bytesOf]
  by_cases hk : i < 24
  · rw [List.getD_append _ _ _ _ (by rw [length_bytesOf]; omega), getD_bytesOf, if_pos (by omega), BitVec.getLsbD_ofNat,
      Nat.testBit_shiftRight, show 8 * (i - 16) + j = 8 * i + j - 128 by omega]
  · rw [List.getD_append_right _ _ _ _ (by rw [length_bytesOf]; omega), length_bytesOf,
      show i - 16 - 8 = i - 24 by omega, hzero, hkey _ (by omega)]
    simp

/-- The number that `n` bytes of an image make, from byte `lo` on. -/
def bytesAt (bs : List Byte) (lo n : Nat) : Nat := ofBytes ((List.range n).map fun i => bs.getD (lo + i) 0)

/-- A generator set from the 32 bytes of an image (R292). -/
theorem setFromImage_eq (u : Nat) (g : Fin 4) (t : State) {bs : List Byte} (hbs : bs.length = 32) :
    setFromImage u g t bs = if bytesAt bs 24 8 ≠ 0 then .trap (illegal 2)
      else .write (t.onUnit u fun y => y.setGen g ⟨BitVec.ofNat 128 (bytesAt bs 0 16), BitVec.ofNat 64 (bytesAt bs 16 8)⟩)
        .discard 0 0 2 := by
  have hcounter : bs.take 16 = (List.range 16).map fun i => bs.getD (0 + i) 0 := take_drop_eq_map 0 0 16 (by omega)
  have hkey : (bs.drop 16).take 8 = (List.range 8).map fun i => bs.getD (16 + i) 0 := take_drop_eq_map 0 16 8 (by omega)
  have hzeros : bs.drop 24 = (List.range 8).map fun i => bs.getD (24 + i) 0 := by
    rw [← take_drop_eq_map 0 24 8 (by omega), List.take_of_length_le (by simp [hbs])]
  rw [setFromImage, hcounter, hkey, hzeros]
  exact if_congr bne_iff_ne rfl rfl

/-! ### The image's place (R292) -/

section
variable {t : State} {x : Unit} {h : W64} {b : Block}

theorem State.imageBlock_unresolved {e : Trap} (hb : t.needBlock x.ctx h = .error e) : t.imageBlock x h = .error e := by
  rw [State.imageBlock, hb]

theorem State.imageBlock_misaligned (hb : t.needBlock x.ctx h = .ok b) (ha : hOff h % 32 ≠ 0) :
    t.imageBlock x h = .error (misaligned 0) := by
  rw [State.imageBlock, hb]
  exact if_pos (bne_iff_ne.2 ha)

theorem State.imageBlock_aligned (hb : t.needBlock x.ctx h = .ok b) (ha : hOff h % 32 = 0) : t.imageBlock x h = .ok b := by
  rw [State.imageBlock, hb]
  exact if_neg (by simp [ha])

end

/-- What an instruction does with an image at offset `v` of the local SRAM of a depot core. -/
def localImage (v : W64) (act : Res) : Res := if v.toNat % 32 != 0 then .trap (misaligned 0) else act

/-- What an instruction does with an image in a block. -/
def blockImage (t : State) (x : Unit) (v : W64) (act : Block → Res) : Res :=
  match t.imageBlock x v with
  | .error e => .trap e
  | .ok b => act b

/-- RNGSET on the state from which its tokens are taken. -/
def rngsetRes (u : Nat) (x : Unit) (t : State) (g : Fin 4) (v : W64) : Res :=
  if isCore u then localImage v
    (setFromImage u g (t.noteLocal u ((List.range 32).map (v.toNat + ·))) (t.localBytes (coreOf u) v.toNat 32))
  else blockImage t x v fun b => setFromImage u g ((t.settleBlock u v).noteOor u v b ((List.range 32).map (hOff v + ·)))
    ((t.settleBlock u v).blockBytes (hStn v) b (hOff v) 32)

/-- The bytes that RNGGET writes, each at its offset from `o`. -/
def Gen.cells (g : Gen) (o : Nat) : List (Nat × Byte) := (List.range 32).map fun i => (o + i, g.image.getD i 0)

/-- RNGGET on the state from which its tokens are taken. -/
def rnggetRes (u : Nat) (x : Unit) (t : State) (g : Gen) (v : W64) : Res :=
  if isCore u then localImage v (.write ((t.noteLocal u ((List.range 32).map (v.toNat + ·))).localPut (coreOf u) (g.cells v.toNat))
    .discard 0 0 2)
  else blockImage t x v fun b =>
    let noted := t.noteOor u v b ((g.cells (hOff v)).map (·.1))
    if hStn v = stnOf u then .write (noted.blockPut (stnOf u) b (g.cells (hOff v))) .discard 0 0 2
    else .write (noted.send u (.blockWrite v (g.cells (hOff v)))).1 .discard 0 0 2

theorem Gen.cells_offsets (g : Gen) (o : Nat) : (g.cells o).map (·.1) = (List.range 32).map fun i => o + i := by
  simp [Gen.cells]

theorem Gen.cells_eq (g : Gen) (o : Nat) : g.cells o = (List.range 32).map fun i =>
    (o + i, BitVec.ofNat 8 ((g.counter.toNat + 2 ^ 128 * g.key.toNat) / 2 ^ (8 * i))) :=
  List.map_congr_left fun i hi => by rw [g.image_getD (List.mem_range.1 hi)]

/-! ### The instructions -/

/-- A value of a draw fits its lane. -/
theorem Gen.lane_eq (g : Gen) (j : Nat) :
    g.lane j = philox ((g.counter.toNat + j / 4) % 2 ^ 128) g.key.toNat / 2 ^ (32 * (j % 4)) % 2 ^ 32 := by
  rw [Gen.lane, fld_eq]

theorem Gen.lane_zero (g : Gen) : g.lane 0 = philox g.counter.toNat g.key.toNat % 2 ^ 32 := by
  rw [Gen.lane_eq, Nat.zero_div, add_zero, Nat.mod_eq_of_lt g.counter.isLt, Nat.zero_mod, Nat.mul_zero, pow_zero, Nat.div_one]

section
variable {s : State} {x : Unit} {g : Fin 4} {d : Dst} {img : Src}

theorem State.Fires.rng_result (hf : s.Fires (.rng g d) x) : ∃ vec sc,
    exec (.rng g d) s = .next (((s.taken []).onUnit s.cur.unit fun y => y.setGen g
      { y.gen g with counter := (y.gen g).counter + BitVec.ofNat 128 ((y.lanes + 3) / 4) }).finish s.cur.unit s.cur.upd
        d vec sc 4) ∧
    (∀ j, j < x.lanes → valAt 32 vec j =
      philox (((x.gen g).counter.toNat + j / 4) % 2 ^ 128) (x.gen g).key.toNat / 2 ^ (32 * (j % 4)) % 2 ^ 32) ∧
    sc.toNat = philox (x.gen g).counter.toNat (x.gen g).key.toNat % 2 ^ 32 := by
  refine ⟨_, _, hf.answers (execRng g d) rfl rfl rfl rfl rfl rfl rfl rfl, fun j hj => ?_, ?_⟩
  · rw [valAt_vecMk _ _ hj, Gen.lane_eq, Nat.mod_mod]
  · rw [Gen.lane_zero, w64, BitVec.toNat_ofNat]
    omega

theorem State.Fires.exec_rngset (hf : s.Fires (.rngset g img) x) : exec (.rngset g img) s =
    .next (s.fired x (.rngset g img) (rngsetRes s.cur.unit x (s.taken [img]) g (s.opVal x img))) :=
  hf.answers (execRngset g img) rfl rfl rfl rfl rfl rfl rfl rfl

theorem State.Fires.exec_rngget (hf : s.Fires (.rngget g img) x) : exec (.rngget g img) s =
    .next (s.fired x (.rngget g img) (rnggetRes s.cur.unit x (s.taken [img]) (x.gen g) (s.opVal x img))) :=
  hf.answers (execRngget g img) rfl rfl rfl rfl rfl rfl rfl rfl

/-- How RNGSET ends whose image is where it may be. -/
theorem State.Fires.fired_setFromImage {i j : Instr} {y : Unit} (hf : s.Fires i x) (t : State) {bs : List Byte}
    (hbs : bs.length = 32) :
    (bytesAt bs 24 8 ≠ 0 → s.fired y j (setFromImage s.cur.unit g t bs) = s.raised (illegal 2)) ∧
    (bytesAt bs 24 8 = 0 → s.fired y j (setFromImage s.cur.unit g t bs) = (t.onUnit s.cur.unit fun y => y.setGen g
      ⟨BitVec.ofNat 128 (bytesAt bs 0 16), BitVec.ofNat 64 (bytesAt bs 16 8)⟩).finish s.cur.unit s.cur.upd .discard 0 0 2) := by
  rw [setFromImage_eq _ _ _ hbs]
  refine ⟨fun h => ?_, fun h => ?_⟩
  · rw [if_pos h, hf.fired_trap]
  · rw [if_neg (not_not.2 h), State.fired_write]

end

section
variable {u : Nat} {x : Unit} {t : State} {v : W64} {g : Fin 4} {gen : Gen} {b : Block}

theorem localImage_misaligned (hv : v.toNat % 32 ≠ 0) (act : Res) : localImage v act = .trap (misaligned 0) :=
  if_pos (bne_iff_ne.2 hv)

theorem localImage_aligned (hv : v.toNat % 32 = 0) (act : Res) : localImage v act = act := if_neg (by simp [hv])

theorem blockImage_trap {e : Trap} (h : t.imageBlock x v = .error e) (act : Block → Res) : blockImage t x v act = .trap e := by
  rw [blockImage, h]

theorem blockImage_ok (h : t.imageBlock x v = .ok b) (act : Block → Res) : blockImage t x v act = act b := by
  rw [blockImage, h]

/-- Both instructions trap where the image is at no multiple of 32 bytes, or its handle does not resolve. -/
theorem rngset_rngget_trap {e : Trap}
    (h : (isCore u = true ∧ v.toNat % 32 ≠ 0 ∧ e = misaligned 0) ∨ (isCore u = false ∧ t.imageBlock x v = .error e)) :
    rngsetRes u x t g v = .trap e ∧ rnggetRes u x t gen v = .trap e := by
  obtain ⟨hu, hv, rfl⟩ | ⟨hu, hb⟩ := h
  · exact ⟨(if_pos hu).trans (localImage_misaligned hv _), (if_pos hu).trans (localImage_misaligned hv _)⟩
  · exact ⟨(if_neg (ne_true_of_eq_false hu)).trans (blockImage_trap hb _),
      (if_neg (ne_true_of_eq_false hu)).trans (blockImage_trap hb _)⟩

section
variable (hu : isCore u = true) (hv : v.toNat % 32 = 0)
include hu hv

theorem rngsetRes_local : rngsetRes u x t g v =
    setFromImage u g (t.noteLocal u ((List.range 32).map (v.toNat + ·))) (t.localBytes (coreOf u) v.toNat 32) :=
  (if_pos hu).trans (localImage_aligned hv _)

theorem rnggetRes_local : rnggetRes u x t gen v =
    .write ((t.noteLocal u ((List.range 32).map (v.toNat + ·))).localPut (coreOf u) (gen.cells v.toNat)) .discard 0 0 2 :=
  (if_pos hu).trans (localImage_aligned hv _)

end

section
variable (hu : isCore u = false) (hb : t.imageBlock x v = .ok b)
include hu hb

theorem rngsetRes_block : rngsetRes u x t g v = setFromImage u g
    ((t.settleBlock u v).noteOor u v b ((List.range 32).map (hOff v + ·)))
    ((t.settleBlock u v).blockBytes (hStn v) b (hOff v) 32) :=
  (if_neg (ne_true_of_eq_false hu)).trans (blockImage_ok hb _)

theorem rnggetRes_block : rnggetRes u x t gen v =
    if hStn v = stnOf u then .write ((t.noteOor u v b ((List.range 32).map (hOff v + ·))).blockPut (stnOf u) b (gen.cells (hOff v)))
      .discard 0 0 2
    else .write ((t.noteOor u v b ((List.range 32).map (hOff v + ·))).send u (.blockWrite v (gen.cells (hOff v)))).1
      .discard 0 0 2 := by
  rw [← gen.cells_offsets]
  exact (if_neg (ne_true_of_eq_false hu)).trans (blockImage_ok hb _)

end
end

end Sys2Proof.Machine

namespace Sys2Proof
open Machine

/-- Settles O46: the rounds are unrolled, and an image is refused, or it is read or written where it stands. -/
theorem randomNumbers : Obligations.RandomNumbers := by
  refine ⟨⟨Philox.mix_eq, fun p => rfl, fun c k hc hk p hp => philox_eq hc hk hp⟩, ?start, ?instructions⟩
  case start =>
    intro st r ctx part cls line n first sd e ds rec g
    rw [Machine.Unit.gen, startUnit_gens]
    rfl
  intro s x g d img u v t nat image sets wrote both places
  have bothTrap {e : Trap} (h : (isCore u = true ∧ v.toNat % 32 ≠ 0 ∧ e = misaligned 0) ∨
      (isCore u = false ∧ t.imageBlock x v = .error e)) : both fun i => exec i s = .next (s.raised e) := by
    obtain ⟨hset, hget⟩ := rngset_rngget_trap (g := g) (gen := x.gen g) h
    exact ⟨fun hf => hf.exec_rngset.trans (by rw [hset, hf.fired_trap]),
      fun hf => hf.exec_rngget.trans (by rw [hget, hf.fired_trap])⟩
  have setsOf {r : State} {bs : List Byte} (hf : s.Fires (.rngset g img) x) (hbs : bs.length = 32)
      (he : rngsetRes u x t g v = setFromImage u g r bs) : sets r bs := by
    have hset := hf.exec_rngset.trans (congrArg (Host.Outcome.next ∘ s.fired x _) he)
    obtain ⟨hbad, hgood⟩ := hf.fired_setFromImage (y := x) (j := .rngset g img) (g := g) r hbs
    exact ⟨fun h => hset.trans (congrArg _ (hbad h)), fun h => hset.trans (congrArg _ (hgood h))⟩
  have wroteOf {r : State} (hf : s.Fires (.rngget g img) x) (he : rnggetRes u x t (x.gen g) v = .write r .discard 0 0 2) :
      wrote r := hf.exec_rngget.trans (by rw [he, State.fired_write])
  have hcells (o : Nat) : image.map (fun p => (o + p.1, p.2)) = (x.gen g).cells o := by
    rw [Gen.cells_eq, List.map_map]
    rfl
  refine ⟨fun hf => hf.rng_result, fun hu => ?core, fun hu => ?block⟩
  case core =>
    exact ⟨⟨fun hf hv => (bothTrap (.inl ⟨hu, hv, rfl⟩)).1 hf, fun hf hv => (bothTrap (.inl ⟨hu, hv, rfl⟩)).2 hf⟩,
      fun hf hv => setsOf hf (by simp [State.localBytes]) (rngsetRes_local hu hv),
      fun hf hv => wroteOf hf (by rw [hcells, rnggetRes_local hu hv])⟩
  case block =>
    refine ⟨?unresolved, ?misaligned, fun b hb ha => ?_⟩
    case unresolved =>
      have htrap {e : Trap} (he : t.needBlock x.ctx v = .error e) := bothTrap (.inr ⟨hu, t.imageBlock_unresolved he⟩)
      exact ⟨fun hf e he => (htrap he).1 hf, fun hf e he => (htrap he).2 hf⟩
    case misaligned =>
      have htrap {b : Block} (hb : t.needBlock x.ctx v = .ok b) (ha : hOff v % 32 ≠ 0) :=
        bothTrap (.inr ⟨hu, t.imageBlock_misaligned hb ha⟩)
      exact ⟨fun hf b hb ha => (htrap hb ha).1 hf, fun hf b hb ha => (htrap hb ha).2 hf⟩
    have himg := t.imageBlock_aligned hb ha
    intro noted settled cells
    have hc : cells = (x.gen g).cells (hOff v) := hcells _
    have hget := rnggetRes_block (gen := x.gen g) hu himg
    rw [← hc] at hget
    refine ⟨fun hf => setsOf hf (by simp [State.blockBytes]) (rngsetRes_block hu himg),
      fun hf hfar => wroteOf hf (hget.trans (if_neg hfar)),
      fun hf hown => ⟨wroteOf hf (hget.trans (if_pos hown)), fun i hi hin => ?_⟩⟩
    refine noted.read_blockPut_mem (stnOf u) b (bs := cells) ?_ ?_ hin
    · rw [hc, Gen.cells_offsets]
      exact List.nodup_range.map fun i j h => Nat.add_left_cancel h
    · rw [hc, Gen.cells_eq]
      exact List.mem_map.2 ⟨i, List.mem_range.2 hi, rfl⟩

end Sys2Proof
end

section
/-! SUPPORT. Rounding as the choice between two neighbours (R104): what each mode picks, that the pick is the number that the mode
names, and the rounding of a significand whose last bit may stand for more bits (R106). -/
namespace Sys2Proof.Machine

/-- The sign of a value. -/
def signOf (neg : Bool) : ℚ := if neg then -1 else 1

/-- The mode rounds away from zero under the sign. -/
def Rnd.outward : Rnd → Bool → Bool
  | .rdn, neg => neg
  | .rup, neg => !neg
  | _, _ => false

/-- Magnitude `V` lies from `A` up to `B`, and `Y` is the one of the two that mode `r` picks under the sign; `ev` says that what is
picked is even. -/
structure Rounding (r : Rnd) (neg : Bool) (A V B Y : ℚ) (ev : Prop) : Prop where
  nonneg : 0 ≤ A
  low : A ≤ V
  high : V < B
  nearest : r = .rne → (Y = A ∧ V - A ≤ B - V ∨ Y = B ∧ B - V ≤ V - A) ∧ (V - A = B - V → ev)
  away : Rnd.outward r neg = true → (Y = A ∧ V = A ∨ Y = B ∧ A < V)
  toward : r ≠ .rne → Rnd.outward r neg = false → Y = A

/-- `y` is, as against `z`, the number that mode `r` names for `v`; `ev` says that `y` is even. -/
def Names (r : Rnd) (v y z : ℚ) (ev : Prop) : Prop :=
  match r with
  | .rne => |y - v| ≤ |z - v| ∧ (|y - v| = |z - v| → z ≠ y → ev)
  | .rtz => |y| ≤ |v| ∧ 0 ≤ y * v ∧ (|z| ≤ |v| → |z| ≤ |y|)
  | .rdn => y ≤ v ∧ (z ≤ v → z ≤ y)
  | .rup => v ≤ y ∧ (v ≤ z → y ≤ z)

theorem Names.congr_even {r : Rnd} {v y z : ℚ} {ev ev' : Prop} (h : Names r v y z ev) (he : ev → ev') : Names r v y z ev' := by
  cases r with
  | rne => exact ⟨h.1, fun hd hne => he (h.2 hd hne)⟩
  | rtz | rdn | rup => exact h

namespace Rounding
variable {r : Rnd} {neg : Bool} {A V B Y Z : ℚ} {ev : Prop}

theorem exact (h0 : 0 ≤ A) (hB : A < B) : Rounding r neg A A B A ev where
  nonneg := h0
  low := le_rfl
  high := hB
  nearest _ := ⟨.inl ⟨rfl, by linarith⟩, fun h => absurd h (by linarith)⟩
  away _ := .inl ⟨rfl, rfl⟩
  toward _ _ := rfl

/-- A rounding on a grid `c` times as coarse. -/
theorem scale (h : Rounding r neg A V B Y ev) {c : ℚ} (hc : 0 < c) : Rounding r neg (A * c) (V * c) (B * c) (Y * c) ev where
  nonneg := mul_nonneg h.nonneg hc.le
  low := mul_le_mul_of_nonneg_right h.low hc.le
  high := mul_lt_mul_of_pos_right h.high hc
  nearest hr := by
    simpa only [← sub_mul, mul_le_mul_iff_left₀ hc, mul_left_inj' hc.ne'] using h.nearest hr
  away ho := by
    simpa only [mul_lt_mul_iff_left₀ hc, mul_left_inj' hc.ne'] using h.away ho
  toward hr ho := by rw [h.toward hr ho]

theorem congr_even {ev' : Prop} (h : Rounding r neg A V B Y ev) (he : ev → ev') : Rounding r neg A V B Y ev' :=
  { h with nearest := fun hr => ⟨(h.nearest hr).1, fun ht => he ((h.nearest hr).2 ht)⟩ }

theorem eq_low_or_high (h : Rounding r neg A V B Y ev) : Y = A ∨ Y = B ∧ A < V := by
  have hlow := h.low
  have hhigh := h.high
  by_cases hr : r = .rne
  · obtain ⟨⟨hY, -⟩ | ⟨hY, hle⟩, -⟩ := h.nearest hr
    · exact .inl hY
    · exact .inr ⟨hY, by linarith⟩
  · cases ho : Rnd.outward r neg with
    | false => exact .inl (h.toward hr ho)
    | true => exact (h.away ho).imp_left And.left

theorem result_nonneg (h : Rounding r neg A V B Y ev) : 0 ≤ Y := by
  have h0 := h.nonneg
  have hlow := h.low
  have hhigh := h.high
  rcases h.eq_low_or_high with hY | ⟨hY, -⟩ <;> linarith

/-- Of two neighbours the nearer one is as near as any number that does not lie between them. -/
theorem nearest_names (h : Rounding .rne neg A V B Y ev) {z : ℚ} (hz : z ≤ A ∨ B ≤ z) :
    |Y - V| ≤ |z - V| ∧ (|Y - V| = |z - V| → z ≠ Y → ev) := by
  have hlow := h.low
  have hhigh := h.high
  obtain ⟨hpick, hev⟩ := h.nearest rfl
  have habs : |z - V| = if z ≤ A then V - z else z - V := by
    split
    next hzA => rw [abs_of_nonpos (by linarith)]; ring
    next hzA => exact abs_of_nonneg (by linarith [hz.resolve_left hzA])
  rw [habs]
  rcases hpick with ⟨rfl, hle⟩ | ⟨rfl, hle⟩
  · rw [abs_of_nonpos (by linarith), neg_sub]
    split
    next hzA => exact ⟨by linarith, fun he hne => absurd (by linarith) hne⟩
    next hzA =>
      have hzB := hz.resolve_left hzA
      exact ⟨by linarith, fun he _ => hev (by linarith)⟩
  · rw [abs_of_nonneg (by linarith)]
    split
    next hzA => exact ⟨by linarith, fun he _ => hev (by linarith)⟩
    next hzA =>
      have hzB := hz.resolve_left hzA
      exact ⟨by linarith, fun he hne => absurd (by linarith) hne⟩

/-- Away from zero: the least number that does not lie between the two and is no less than the value. -/
theorem away_names (h : Rounding r neg A V B Y ev) (ho : Rnd.outward r neg = true) {z : ℚ} (hz : z ≤ A ∨ B ≤ z) :
    V ≤ Y ∧ (V ≤ z → Y ≤ z) := by
  have hlow := h.low
  have hhigh := h.high
  rcases h.away ho with ⟨hY, hV⟩ | ⟨hY, hV⟩
  · exact ⟨by linarith, fun h => by linarith⟩
  · exact ⟨by linarith, fun h => by rcases hz with hz | hz <;> linarith⟩

/-- Toward zero: the greatest number that does not lie between the two and is no greater than the value. -/
theorem toward_names (h : Rounding r neg A V B Y ev) (hr : r ≠ .rne) (ho : Rnd.outward r neg = false) {z : ℚ} (hz : z ≤ A ∨ B ≤ z) :
    Y ≤ V ∧ (z ≤ V → z ≤ Y) := by
  have hlow := h.low
  have hhigh := h.high
  rw [h.toward hr ho]
  exact ⟨hlow, fun h => by rcases hz with hz | hz <;> linarith⟩

end Rounding

theorem signOf_mul_self (neg : Bool) : signOf neg * signOf neg = 1 := by cases neg <;> norm_num [signOf]

theorem abs_signOf_mul (neg : Bool) (x : ℚ) : |signOf neg * x| = |x| := by cases neg <;> simp [signOf]

theorem abs_signOf_mul_sub (neg : Bool) (x y : ℚ) : |signOf neg * x - signOf neg * y| = |x - y| := by
  rw [← mul_sub, abs_signOf_mul]

/-- The number that a mode names, under a sign: `z` is a number whose magnitude `Z` does not lie between the two neighbours. -/
theorem Rounding.names {r : Rnd} {neg b : Bool} {A V B Y Z : ℚ} {ev : Prop} (h : Rounding r neg A V B Y ev) (hZ : 0 ≤ Z)
    (hZA : Z ≤ A ∨ B ≤ Z) : Names r (signOf neg * V) (signOf neg * Y) (signOf b * Z) ev := by
  have hA := h.nonneg
  have hV := hA.trans h.low
  have hY := h.result_nonneg
  obtain ⟨z, hz, hzA⟩ : ∃ z, signOf b * Z = signOf neg * z ∧ (z ≤ A ∨ B ≤ z) := by
    refine ⟨signOf neg * (signOf b * Z), by rw [← mul_assoc, signOf_mul_self, one_mul], ?_⟩
    cases neg <;> cases b <;> simp only [signOf, if_true, if_false, Bool.false_eq_true, one_mul, neg_mul, neg_neg]
    · exact hZA
    · exact .inl (by linarith)
    · exact .inl (by linarith)
    · exact hZA
  have hzZ : |z| = Z := by rw [← abs_signOf_mul neg, ← hz, abs_signOf_mul, abs_of_nonneg hZ]
  have hdown (x y : ℚ) : signOf false * x ≤ signOf false * y ↔ x ≤ y := by simp [signOf]
  have hup (x y : ℚ) : signOf true * x ≤ signOf true * y ↔ y ≤ x := by simp [signOf]
  rw [hz]
  cases r with
  | rne =>
    obtain ⟨hnear, hev⟩ := h.nearest_names hzA
    simp only [Names, abs_signOf_mul_sub]
    exact ⟨hnear, fun he hne => hev he fun heq => hne (by rw [heq])⟩
  | rtz =>
    obtain ⟨hle, hmax⟩ := h.toward_names (by decide) rfl hZA
    simp only [Names, abs_signOf_mul, abs_of_nonneg hY, abs_of_nonneg hV, hzZ]
    refine ⟨hle, ?_, hmax⟩
    rw [mul_mul_mul_comm, signOf_mul_self, one_mul]
    exact mul_nonneg hY hV
  | rdn =>
    cases neg with
    | false => simpa only [Names, hdown] using h.toward_names (by decide) rfl hzA
    | true => simpa only [Names, hup] using h.away_names rfl hzA
  | rup =>
    cases neg with
    | false => simpa only [Names, hdown] using h.away_names rfl hzA
    | true => simpa only [Names, hup] using h.toward_names (by decide) rfl hzA

/-! ### A significand shifted right (R104, R106) -/

/-- `W` is the number `m`, or `m` is odd and stands for a number less than one away from it. -/
def StandsFor (m : Nat) (W : ℚ) (k : Nat) : Prop := W = m ∨ 2 ≤ k ∧ m % 2 = 1 ∧ |W - m| < 1

/-- What `W` leaves above a multiple of 2^`k` compares with 0 and with half as what `m` leaves does. -/
theorem StandsFor.rest {m k : Nat} {W : ℚ} (h : StandsFor m W k) : ∃ ρ : ℚ, W = (m / 2 ^ k : ℕ) * 2 ^ k + ρ ∧ 0 ≤ ρ ∧ ρ < 2 ^ k ∧
    (2 ^ k < 2 * ρ ↔ 2 ^ k < 2 * (m % 2 ^ k)) ∧ (2 * ρ = 2 ^ k ↔ 2 * (m % 2 ^ k) = 2 ^ k) ∧ (ρ = 0 ↔ m % 2 ^ k = 0) := by
  have hm : (m : ℚ) = (m / 2 ^ k : ℕ) * 2 ^ k + (m % 2 ^ k : ℕ) := by
    exact_mod_cast (Nat.div_add_mod' m (2 ^ k)).symm
  have hlt : m % 2 ^ k < 2 ^ k := Nat.mod_lt _ (by positivity)
  rcases h with h | ⟨hk, hodd, hd⟩
  · refine ⟨(m % 2 ^ k : ℕ), by rw [h, ← hm], by positivity, by exact_mod_cast hlt, by exact_mod_cast Iff.rfl,
      by exact_mod_cast Iff.rfl, by exact_mod_cast Iff.rfl⟩
  · obtain ⟨P, hP⟩ : ∃ P, 2 ^ k = 4 * P := ⟨2 ^ (k - 2), by rw [show 4 = 2 ^ 2 by norm_num, ← pow_add]; congr 1; omega⟩
    have hPq : (2 : ℚ) ^ k = 4 * P := by exact_mod_cast hP
    have hrest : m % 2 ^ k % 2 = 1 := by rw [hP, Nat.mod_mod_of_dvd m ⟨2 * P, by ring⟩]; exact hodd
    rw [hPq] at hm ⊢
    rw [hP] at hm hlt hrest ⊢
    generalize m % (4 * P) = rem at *
    obtain ⟨hd1, hd2⟩ := abs_lt.1 hd
    have hone : (1 : ℚ) ≤ rem := by exact_mod_cast (by omega : 1 ≤ rem)
    have htop : (rem : ℚ) + 1 ≤ 4 * P := by exact_mod_cast (by omega : rem + 1 ≤ 4 * P)
    refine ⟨W - (m / (4 * P) : ℕ) * (4 * P), by ring, by linarith, by linarith, ?_⟩
    rcases lt_or_ge rem (2 * P) with hhalf | hhalf
    · have hhalfq : (rem : ℚ) + 1 ≤ 2 * P := by exact_mod_cast hhalf
      exact ⟨iff_of_false (by linarith) (by omega), iff_of_false (by intro; linarith) (by omega),
        iff_of_false (by intro; linarith) (by omega)⟩
    · have hhalfq : (2 * P : ℚ) + 1 ≤ rem := by exact_mod_cast (by omega : 2 * P + 1 ≤ rem)
      exact ⟨iff_of_true (by linarith) (by omega), iff_of_false (by intro; linarith) (by omega),
        iff_of_false (by intro; linarith) (by omega)⟩

section
variable (r : Rnd) (neg : Bool) (m k : Nat)

theorem roundShift_toward (hr : r ≠ .rne) (ho : Rnd.outward r neg = false) : roundShift r neg m k = m / 2 ^ k := by
  cases r with
  | rne => exact absurd rfl hr
  | rtz => rfl
  | rdn =>
    obtain rfl : neg = false := ho
    simp [roundShift, b2n]
  | rup =>
    obtain rfl : neg = true := by simpa [Rnd.outward] using ho
    simp [roundShift, b2n]

theorem roundShift_away (ho : Rnd.outward r neg = true) :
    roundShift r neg m k = if m % 2 ^ k = 0 then m / 2 ^ k else m / 2 ^ k + 1 := by
  have hup : roundShift r neg m k = m / 2 ^ k + b2n (m % 2 ^ k != 0) := by
    cases r with
    | rne | rtz => cases ho
    | rdn =>
      obtain rfl : neg = true := ho
      simp [roundShift]
    | rup =>
      obtain rfl : neg = false := by simpa [Rnd.outward] using ho
      simp [roundShift]
  rw [hup]
  split <;> simp_all [b2n]

theorem roundShift_rne : roundShift .rne neg m k =
    if 2 ^ k < 2 * (m % 2 ^ k) ∨ 2 * (m % 2 ^ k) = 2 ^ k ∧ m / 2 ^ k % 2 = 1 then m / 2 ^ k + 1 else m / 2 ^ k := by
  have hk : 2 * (m % 2 ^ k) = 2 ^ k → k ≠ 0 := by
    rintro h rfl
    simp at h
  have hup : (decide (2 ^ k < 2 * (m % 2 ^ k)) || (decide (2 * (m % 2 ^ k) = 2 ^ k) && m / 2 ^ k % 2 == 1 && k != 0)) =
      decide (2 ^ k < 2 * (m % 2 ^ k) ∨ 2 * (m % 2 ^ k) = 2 ^ k ∧ m / 2 ^ k % 2 = 1) := by
    rw [Bool.eq_iff_iff]
    simp only [Bool.or_eq_true, Bool.and_eq_true, decide_eq_true_eq, beq_iff_eq, bne_iff_ne]
    tauto
  rw [roundShift]
  simp only [hup]
  split
  next h => rw [decide_eq_true h]; rfl
  next h => rw [decide_eq_false h]; rfl

end

/-- The shifted significand is the one of its two neighbours that the mode picks. -/
theorem StandsFor.rounding_roundShift {m k : Nat} {W : ℚ} (h : StandsFor m W k) (r : Rnd) (neg : Bool) :
    Rounding r neg ((m / 2 ^ k : ℕ) * 2 ^ k) W ((m / 2 ^ k + 1 : ℕ) * 2 ^ k) (roundShift r neg m k * 2 ^ k)
      (roundShift r neg m k % 2 = 0) := by
  obtain ⟨ρ, hW, h0, hlt, hgt, heq, hz⟩ := h.rest
  have hB : ((m / 2 ^ k + 1 : ℕ) : ℚ) * 2 ^ k = (m / 2 ^ k : ℕ) * 2 ^ k + 2 ^ k := by push_cast; ring
  refine ⟨by positivity, by linarith, by linarith, ?nearest, ?away, ?toward⟩
  case nearest =>
    rintro rfl
    rw [roundShift_rne]
    refine ⟨?_, fun htie => ?_⟩
    · split
      next hup =>
        refine .inr ⟨rfl, ?_⟩
        have : 2 ^ k ≤ 2 * ρ := hup.elim (fun h => (hgt.2 h).le) fun h => (heq.2 h.1).ge
        linarith
      next hup =>
        refine .inl ⟨rfl, ?_⟩
        have : 2 * ρ ≤ 2 ^ k := not_lt.1 fun h => hup (.inl (hgt.1 h))
        linarith
    · have hhalf := heq.1 (by linarith)
      simp only [hhalf, lt_irrefl, false_or, true_and]
      split <;> omega
  case away =>
    intro ho
    rw [roundShift_away r neg m k ho]
    split
    next hr => exact .inl ⟨rfl, by rw [hW, hz.2 hr, add_zero]⟩
    next hr => exact .inr ⟨rfl, by linarith [h0.lt_of_ne fun h => hr (hz.1 h.symm)]⟩
  case toward =>
    intro hr ho
    rw [roundShift_toward r neg m k hr ho]

end Sys2Proof.Machine
end

section
/-! SUPPORT. The magnitudes of a format (R102, R104): their values in order, the rounding of a number to one of them, and what a
pattern decodes to. -/
namespace Sys2Proof.Machine

section
variable (f : Fmt)

/-- The significand of a magnitude, its hidden bit with it. -/
def Fmt.sig (k : Nat) : Nat := if k < 2 ^ f.fb then k else 2 ^ f.fb + k % 2 ^ f.fb

/-- The exponent of a magnitude's last bit. -/
def Fmt.expo (k : Nat) : Int := f.qmin + ((max (k / 2 ^ f.fb) 1 : Nat) : Int) - 1

/-- The value of a magnitude, the range of exponents unbounded. -/
def Fmt.magVal (k : Nat) : ℚ := f.sig k * 2 ^ f.expo k

/-- `N` units of the grid of exponent `a` above the least one. -/
def Fmt.OnGrid (a N : Nat) : Prop := a = 0 ∨ 2 ^ f.fb ≤ N

variable {f}

theorem Fmt.magVal_grid {a N : Nat} (h : f.OnGrid a N) (hN : N ≤ 2 ^ (f.fb + 1)) :
    f.magVal (a * 2 ^ f.fb + N) = N * 2 ^ (f.qmin + a) := by
  have hP : 0 < 2 ^ f.fb := by positivity
  rw [pow_succ] at hN
  rcases lt_or_ge N (2 ^ f.fb) with hlt | hge
  · obtain rfl : a = 0 := h.resolve_right (by omega)
    have hexp : f.expo N = f.qmin := by simp [Fmt.expo, Nat.div_eq_of_lt hlt]
    simp [Fmt.magVal, Fmt.sig, hlt, hexp]
  obtain ⟨d, rfl⟩ := Nat.exists_eq_add_of_le hge
  have hk : a * 2 ^ f.fb + (2 ^ f.fb + d) = d + (a + 1) * 2 ^ f.fb := by ring
  have hbig : ¬ d + (a + 1) * 2 ^ f.fb < 2 ^ f.fb := by rw [← hk]; omega
  rcases lt_or_eq_of_le (show d ≤ 2 ^ f.fb by omega) with hd | rfl
  · have hexp : f.expo (d + (a + 1) * 2 ^ f.fb) = f.qmin + a := by
      rw [Fmt.expo, Nat.add_mul_div_right _ _ hP, Nat.div_eq_of_lt hd, max_eq_left (by omega)]
      push_cast
      ring
    rw [hk, Fmt.magVal, hexp, Fmt.sig, if_neg hbig, Nat.add_mul_mod_self_right, Nat.mod_eq_of_lt hd]
  · have hexp : f.expo (2 ^ f.fb + (a + 1) * 2 ^ f.fb) = f.qmin + a + 1 := by
      rw [Fmt.expo, Nat.add_mul_div_right _ _ hP, Nat.div_self hP, max_eq_left (by omega)]
      push_cast
      ring
    rw [hk, Fmt.magVal, hexp, Fmt.sig, if_neg hbig, Nat.add_mul_mod_self_right, Nat.mod_self, zpow_add_one₀ two_ne_zero]
    push_cast
    ring

/-- Every magnitude stands on its grid. -/
theorem Fmt.exists_grid (k : Nat) : ∃ a N, k = a * 2 ^ f.fb + N ∧ f.OnGrid a N ∧ N < 2 ^ (f.fb + 1) := by
  have hP : 0 < 2 ^ f.fb := by positivity
  have hmod : k % 2 ^ f.fb < 2 ^ f.fb := Nat.mod_lt _ hP
  have hk := Nat.div_add_mod' k (2 ^ f.fb)
  cases hq : k / 2 ^ f.fb with
  | zero => exact ⟨0, k, by simp, .inl rfl, by rw [hq] at hk; rw [pow_succ]; omega⟩
  | succ a =>
    rw [hq, add_one_mul] at hk
    exact ⟨a, 2 ^ f.fb + k % 2 ^ f.fb, by omega, .inr (by omega), by rw [pow_succ]; omega⟩

theorem Fmt.magVal_lt_succ (k : Nat) : f.magVal k < f.magVal (k + 1) := by
  obtain ⟨a, N, rfl, hg, hN⟩ := f.exists_grid k
  rw [f.magVal_grid hg hN.le, add_assoc, f.magVal_grid (hg.imp_right Nat.le_succ_of_le) hN]
  have hpow : (0 : ℚ) < 2 ^ (f.qmin + a) := by positivity
  push_cast
  linarith

theorem Fmt.magVal_strictMono : StrictMono f.magVal := strictMono_nat_of_lt_succ f.magVal_lt_succ

@[simp] theorem Fmt.magVal_zero : f.magVal 0 = 0 := by simp [Fmt.magVal, Fmt.sig]

theorem Fmt.magVal_nonneg (k : Nat) : 0 ≤ f.magVal k := by rw [Fmt.magVal]; positivity

/-- Two magnitudes next to each other have no third one between them. -/
theorem Fmt.magVal_outside (g k : Nat) : f.magVal k ≤ f.magVal g ∨ f.magVal (g + 1) ≤ f.magVal k := by
  simp only [f.magVal_strictMono.le_iff_le]
  omega

/-! ### The rounded magnitude (R104) -/

/-- Magnitude `R` is what mode `r` makes of the number `V` under the sign. -/
def Fmt.RoundsTo (f : Fmt) (r : Rnd) (neg : Bool) (V : ℚ) (R : Nat) : Prop :=
  ∃ g, Rounding r neg (f.magVal g) V (f.magVal (g + 1)) (f.magVal R) (R % 2 = 0)

theorem Fmt.RoundsTo.names {r : Rnd} {neg : Bool} {V : ℚ} {R : Nat} (h : f.RoundsTo r neg V R) (b : Bool) (k : Nat) :
    Names r (signOf neg * V) (signOf neg * f.magVal R) (signOf b * f.magVal k) (R % 2 = 0) := by
  obtain ⟨g, hg⟩ := h
  exact hg.names (f.magVal_nonneg k) (f.magVal_outside g k)

/-- A rounding on one grid is a rounding to magnitudes. -/
theorem Fmt.roundsTo_of_grid {r : Rnd} {neg : Bool} {V : ℚ} {a N n : Nat} (hfb : 0 < f.fb) (hg : f.OnGrid a N)
    (hN : N < 2 ^ (f.fb + 1)) (hn : n = N ∨ n = N + 1)
    (h : Rounding r neg (N * 2 ^ (f.qmin + a)) V ((N + 1 : ℕ) * 2 ^ (f.qmin + a)) (n * 2 ^ (f.qmin + a)) (n % 2 = 0)) :
    f.RoundsTo r neg V (a * 2 ^ f.fb + n) := by
  have heven : a * 2 ^ f.fb % 2 = 0 := by
    obtain ⟨c, hc⟩ := Nat.exists_eq_add_of_lt hfb
    rw [hc, Nat.zero_add, pow_succ, ← mul_assoc, Nat.mul_mod_left]
  have hgn : f.OnGrid a n := hg.imp_right fun _ => by omega
  refine ⟨a * 2 ^ f.fb + N, ?_⟩
  rw [add_assoc, f.magVal_grid hg hN.le, f.magVal_grid (hg.imp_right Nat.le_succ_of_le) hN, f.magVal_grid hgn (by omega)]
  exact h.congr_even fun hev => by omega

theorem roundShift_cases (r : Rnd) (neg : Bool) (m k : Nat) :
    roundShift r neg m k = m / 2 ^ k ∨ roundShift r neg m k = m / 2 ^ k + 1 := by
  by_cases hr : r = .rne
  · subst hr
    rw [roundShift_rne]
    split <;> simp
  · cases ho : Rnd.outward r neg with
    | false => exact .inl (roundShift_toward r neg m k hr ho)
    | true =>
      rw [roundShift_away r neg m k ho]
      split <;> simp

theorem zpow_split (e q : Int) (h : e ≤ q) : (2 : ℚ) ^ q = 2 ^ (q - e).toNat * 2 ^ e := by
  rw [← zpow_natCast, ← zpow_add₀ two_ne_zero]
  congr 1
  omega

/-- The rounded magnitude of ±`m` · 2^`e`, where `m` stands for `W` (R104, R106). -/
theorem Fmt.roundsTo_roundMag (hfb : 0 < f.fb) {r : Rnd} {neg : Bool} {m : Nat} {W : ℚ}
    (h : W = m ∨ f.fb + 2 ≤ m.log2 ∧ m % 2 = 1 ∧ |W - m| < 1) (e : Int) :
    f.RoundsTo r neg (W * 2 ^ e) (f.roundMag r neg m e) := by
  rcases Nat.eq_zero_or_pos m with rfl | hm
  · obtain rfl : W = 0 := by simpa using h
    refine ⟨0, ?_⟩
    have h01 := f.magVal_lt_succ 0
    rw [f.magVal_zero] at h01
    simpa [Fmt.roundMag] using Rounding.exact le_rfl h01
  obtain ⟨hlow, hhigh⟩ : 2 ^ m.log2 ≤ m ∧ m < 2 ^ (m.log2 + 1) := ⟨Nat.log2_self_le hm.ne', Nat.lt_log2_self⟩
  rw [Fmt.roundMag, if_neg hm.ne']
  set q : Int := max ((m.log2 : Int) + e - f.fb) f.qmin with hq
  obtain ⟨a, ha⟩ : ∃ a : Nat, q = f.qmin + a := ⟨(q - f.qmin).toNat, by omega⟩
  have hqa : (q - f.qmin).toNat = a := by omega
  simp only [hqa]
  split
  next hle =>
    set k := (q - e).toNat with hk
    have hstands : StandsFor m W k := h.imp_right fun h => ⟨by omega, h.2⟩
    have hscale : (2 : ℚ) ^ (f.qmin + a) = 2 ^ k * 2 ^ e := by rw [← ha]; exact zpow_split e q hle
    refine Fmt.roundsTo_of_grid (N := m / 2 ^ k) hfb ?_ ?_ (roundShift_cases r neg m k) ?_
    · rcases Nat.eq_zero_or_pos a with h0 | h0
      · exact .inl h0
      · refine .inr ((Nat.le_div_iff_mul_le (by positivity)).2 (le_trans (le_of_eq ?_) hlow))
        rw [← pow_add]
        congr 1
        omega
    · refine (Nat.div_lt_iff_lt_mul (by positivity)).2 (hhigh.trans_le ?_)
      rw [← pow_add]
      exact Nat.pow_le_pow_right (by omega) (by omega)
    · simpa only [hscale, mul_assoc] using (hstands.rounding_roundShift r neg).scale (show (0 : ℚ) < 2 ^ e by positivity)
  next hgt =>
    obtain rfl : W = m := h.resolve_right fun h => by omega
    set k := (e - q).toNat with hk
    have hscale : (2 : ℚ) ^ e = 2 ^ k * 2 ^ (f.qmin + a) := by rw [← ha]; exact zpow_split q e (by omega)
    have hpow : (0 : ℚ) < 2 ^ (f.qmin + a) := by positivity
    refine Fmt.roundsTo_of_grid (N := m * 2 ^ k) hfb ?_ ?_ (.inl rfl) ?_
    · rcases Nat.eq_zero_or_pos a with h0 | h0
      · exact .inl h0
      · refine .inr (le_trans ?_ (Nat.mul_le_mul_right _ hlow))
        rw [← pow_add]
        exact Nat.pow_le_pow_right (by omega) (by omega)
    · refine (Nat.mul_lt_mul_of_pos_right hhigh (by positivity)).trans_le ?_
      rw [← pow_add]
      exact Nat.pow_le_pow_right (by omega) (by omega)
    · have hV : (m : ℚ) * 2 ^ e = (m * 2 ^ k : ℕ) * 2 ^ (f.qmin + a) := by rw [hscale]; push_cast; ring
      rw [hV]
      exact .exact (by positivity) (by push_cast; linarith)

end

end Sys2Proof.Machine
end

section
/-! SUPPORT. Patterns and the rational numbers that they stand for (R102, R103): the fields of a pattern, the pattern of a signed
magnitude, and the largest finite value. -/
namespace Sys2Proof.Machine

/-- How the magnitudes of a format are laid out: the largest finite one stands just below infinity or, in E4M3, below the NaN. -/
structure Fmt.Layout (f : Fmt) : Prop extends f.Sound where
  frac : 0 < f.fb
  short : f.fb + 2 ≤ 63
  top : if f.e4m3 = true then f.maxFin = 0x7E ∧ f.w = 8 else f.inf = f.maxFin + 1

theorem fmtOfF_layout (t : FTy) : (fmtOfF t).Layout := { fmtOfF_sound t with
  frac := by cases t <;> decide
  short := by cases t <;> decide
  top := by cases t <;> decide }

theorem fmtOf8_sound (t : F8) : (fmtOf8 t).Sound := by cases t <;> constructor <;> decide

theorem fmtOf8_layout (t : F8) : (fmtOf8 t).Layout := { fmtOf8_sound t with
  frac := by cases t <;> decide
  short := by cases t <;> decide
  top := by cases t <;> decide }

section
variable {f : Fmt} {neg : Bool} {mag : Nat}

theorem Fmt.signed_mag (hm : mag < 2 ^ (f.w - 1)) : f.signed neg mag % 2 ^ (f.w - 1) = mag := by
  cases neg <;> simp [Fmt.signed, Nat.mod_eq_of_lt hm]

theorem Fmt.signBit_signed (hm : mag < 2 ^ (f.w - 1)) : f.signBit (f.signed neg mag) = neg := by
  cases neg with
  | false => simpa [Fmt.signBit, Fmt.signed] using Nat.testBit_lt_two_pow hm
  | true =>
    rw [Fmt.signBit, Fmt.signed, Nat.add_comm, if_pos rfl, Nat.testBit_two_pow_add_eq, Nat.testBit_lt_two_pow hm]
    rfl

theorem Fmt.signed_even (hw : 2 ≤ f.w) (hm : mag % 2 = 0) : f.signed neg mag % 2 = 0 := by
  have hp : 2 ^ (f.w - 1) % 2 = 0 := by
    obtain ⟨c, hc⟩ := Nat.exists_eq_add_of_le hw
    rw [show f.w - 1 = c + 1 by omega, pow_succ, Nat.mul_mod_left]
  rw [Fmt.signed]
  split <;> omega

end

namespace Fmt.Layout
variable {f : Fmt} (h : f.Layout)
include h

/-- A pattern whose magnitude is at most the largest finite one. -/
theorem decode_finite {x : Nat} (hx : x % 2 ^ (f.w - 1) ≤ f.maxFin) :
    f.decode x = .fin (f.signBit x) (f.sig (x % 2 ^ (f.w - 1))) (f.expo (x % 2 ^ (f.w - 1))) := by
  have htop := h.top
  have hexpo (k : Nat) : f.expo k = if k < 2 ^ f.fb then f.qmin else f.qmin + ((k / 2 ^ f.fb : Nat) : Int) - 1 := by
    rw [Fmt.expo]
    split
    next hk => rw [Nat.div_eq_of_lt hk]; simp
    next hk => rw [max_eq_left (Nat.div_pos (by omega) (by positivity))]
  rw [Fmt.decode, Fmt.sig, hexpo]
  generalize x % 2 ^ (f.w - 1) = mag at *
  cases he : f.e4m3 <;> simp only [he, if_true, if_false, Bool.false_eq_true] at htop ⊢
  · rw [if_neg (by omega), if_neg (by omega)]
    split <;> rfl
  · rw [if_neg (by omega)]
    split <;> rfl

/-- A pattern whose magnitude is above the largest finite one is no number. -/
theorem decode_above {x : Nat} (hx : f.maxFin < x % 2 ^ (f.w - 1)) : (f.decode x).rat = none := by
  have htop := h.top
  have hlt : x % 2 ^ (f.w - 1) < 2 ^ (f.w - 1) := Nat.mod_lt _ (by positivity)
  rw [Fmt.decode]
  generalize x % 2 ^ (f.w - 1) = mag at *
  cases he : f.e4m3 <;> simp only [he, if_true, if_false, Bool.false_eq_true] at htop ⊢
  · by_cases hm : f.inf < mag
    · rw [if_pos hm]; rfl
    · rw [if_neg hm, if_pos (by omega)]; rfl
  · rw [htop.2] at hlt
    rw [if_pos (by omega)]; rfl

/-- The number of a pattern: its sign and the value of its magnitude. -/
theorem rat_decode (x : Nat) : (f.decode x).rat =
    if x % 2 ^ (f.w - 1) ≤ f.maxFin then some (signOf (f.signBit x) * f.magVal (x % 2 ^ (f.w - 1))) else none := by
  split
  next hx => rw [h.decode_finite hx, FVal.rat, Fmt.magVal, ← mul_assoc]; rfl
  next hx => exact h.decode_above (by omega)

theorem rat_signed {neg : Bool} {mag : Nat} (hm : mag ≤ f.maxFin) :
    (f.decode (f.signed neg mag)).rat = some (signOf neg * f.magVal mag) := by
  have hlt := hm.trans_lt h.fin
  rw [h.rat_decode, Fmt.signed_mag hlt, if_pos hm, Fmt.signBit_signed hlt]

theorem decode_inf (he : f.e4m3 = false) (neg : Bool) : f.decode (f.signed neg f.inf) = .inf neg := by
  simp [Fmt.decode, he, Fmt.signed_mag h.inf, Fmt.signBit_signed h.inf]

theorem rat_signed_inf (he : f.e4m3 = false) (neg : Bool) : (f.decode (f.signed neg f.inf)).rat = none := by
  rw [h.decode_inf he]; rfl

end Fmt.Layout

/-! ### The fields of a lane format's pattern (R102) -/

/-- A format with `eb` exponent bits below its sign, a bias of half their range, and infinity at the top exponent. -/
structure Fmt.Ieee (f : Fmt) (eb : Nat) : Prop where
  layout : f.Layout
  e4m3 : f.e4m3 = false
  width : f.w = f.fb + eb + 1
  exps : 2 ≤ eb
  bias : (f.bias : Int) = 2 ^ (eb - 1) - 1
  inf : f.inf = (2 ^ eb - 1) * 2 ^ f.fb

/-- The exponent bits of a lane format. -/
def expBits : FTy → Nat
  | .fp16 => 5
  | .bf16 => 8
  | .fp32 => 8

theorem fmtOfF_ieee (t : FTy) : (fmtOfF t).Ieee (expBits t) where
  layout := fmtOfF_layout t
  e4m3 := by cases t <;> rfl
  width := by cases t <;> rfl
  exps := by cases t <;> decide
  bias := by cases t <;> decide
  inf := by cases t <;> rfl

namespace Fmt.Ieee
variable {f : Fmt} {eb : Nat} (h : f.Ieee eb) (p : Nat)
include h

theorem mag_eq : p % 2 ^ (f.w - 1) = p / 2 ^ f.fb % 2 ^ eb * 2 ^ f.fb + p % 2 ^ f.fb := by
  rw [h.width, Nat.add_sub_cancel, pow_add, Nat.mod_mul]
  ring

theorem signBit_eq : f.signBit p = p.testBit (f.fb + eb) := by rw [Fmt.signBit, h.width, Nat.add_sub_cancel]

/-- Exponent bits all ones: an infinity or a NaN. -/
theorem decode_top (hex : p / 2 ^ f.fb % 2 ^ eb = 2 ^ eb - 1) :
    f.decode p = if p % 2 ^ f.fb = 0 then .inf (p.testBit (f.fb + eb)) else .nan := by
  rw [Fmt.decode, h.mag_eq, hex, ← h.inf, h.signBit_eq, h.e4m3]
  simp only [if_false, Bool.false_eq_true]
  by_cases hz : p % 2 ^ f.fb = 0
  · rw [if_neg (by omega), if_pos (by omega), if_pos hz]
  · rw [if_pos (by omega), if_neg hz]

/-- A magnitude below infinity is finite. -/
theorem rat_decode_below (hex : p / 2 ^ f.fb % 2 ^ eb < 2 ^ eb - 1) : (f.decode p).rat =
    some (signOf (p.testBit (f.fb + eb)) * f.magVal (p / 2 ^ f.fb % 2 ^ eb * 2 ^ f.fb + p % 2 ^ f.fb)) := by
  have hmod : p % 2 ^ f.fb < 2 ^ f.fb := Nat.mod_lt _ (by positivity)
  have hle : (p / 2 ^ f.fb % 2 ^ eb + 1) * 2 ^ f.fb ≤ (2 ^ eb - 1) * 2 ^ f.fb := Nat.mul_le_mul_right _ hex
  have htop := h.layout.top
  have hinf := h.inf
  rw [h.e4m3, if_neg (by decide)] at htop
  rw [add_one_mul] at hle
  rw [h.layout.rat_decode, h.mag_eq, h.signBit_eq, if_pos (by omega)]

theorem qmin_eq : f.qmin = 2 - 2 ^ (eb - 1) - f.fb := by
  rw [Fmt.qmin, h.bias]
  ring

/-- Exponent bits all zeros: a zero or a subnormal number. -/
theorem rat_decode_zero (hex : p / 2 ^ f.fb % 2 ^ eb = 0) :
    (f.decode p).rat = some (signOf (p.testBit (f.fb + eb)) * (p % 2 ^ f.fb : ℕ) * 2 ^ (2 - 2 ^ (eb - 1) - f.fb : ℤ)) := by
  have hmod : p % 2 ^ f.fb < 2 ^ f.fb := Nat.mod_lt _ (by positivity)
  have heb : 2 ^ 2 ≤ 2 ^ eb := Nat.pow_le_pow_right (by omega) h.exps
  have hgrid := f.magVal_grid (a := 0) (N := p % 2 ^ f.fb) (.inl rfl) (by rw [pow_succ]; omega)
  rw [h.rat_decode_below p (by omega), hex, hgrid, Nat.cast_zero, add_zero, h.qmin_eq, mul_assoc]

/-- Other exponents: a normal number, with its hidden bit. -/
theorem rat_decode_normal (h0 : 0 < p / 2 ^ f.fb % 2 ^ eb) (hex : p / 2 ^ f.fb % 2 ^ eb < 2 ^ eb - 1) :
    (f.decode p).rat = some (signOf (p.testBit (f.fb + eb)) * (2 ^ f.fb + (p % 2 ^ f.fb : ℕ)) *
      2 ^ (((p / 2 ^ f.fb % 2 ^ eb : ℕ) : ℤ) + 1 - 2 ^ (eb - 1) - f.fb)) := by
  have hmod : p % 2 ^ f.fb < 2 ^ f.fb := Nat.mod_lt _ (by positivity)
  rw [h.rat_decode_below p hex]
  obtain ⟨a, ha⟩ := Nat.exists_eq_add_of_lt h0
  rw [Nat.zero_add] at ha
  have hgrid := f.magVal_grid (a := a) (N := 2 ^ f.fb + p % 2 ^ f.fb) (.inr (by omega)) (by rw [pow_succ]; omega)
  rw [ha, add_one_mul, add_assoc, hgrid, h.qmin_eq, ← mul_assoc]
  push_cast
  congr 3
  ring

end Fmt.Ieee
end Sys2Proof.Machine
end

section
/-! SUPPORT. Exact operations (R104 to R106, R361): sums, products and quotients as rational numbers, and their rounded patterns. -/
namespace Sys2Proof.Machine

theorem FVal.rat_fin (neg : Bool) (m : Nat) (e : Int) : (FVal.fin neg m e).rat = some (signOf neg * m * 2 ^ e) := rfl

theorem FVal.eq_fin_of_rat {a : FVal} {x : ℚ} (h : a.rat = some x) : ∃ neg m e, a = .fin neg m e ∧ x = signOf neg * m * 2 ^ e := by
  cases a with
  | nan | inf _ => cases h
  | fin neg m e => exact ⟨neg, m, e, rfl, (Option.some.inj h).symm⟩

theorem signOf_not (neg : Bool) : signOf (!neg) = -signOf neg := by cases neg <;> norm_num [signOf]

theorem signOf_bne (a b : Bool) : signOf (a != b) = signOf a * signOf b := by cases a <;> cases b <;> norm_num [signOf]

theorem signOf_div (a b : Bool) : signOf a / signOf b = signOf (a != b) := by cases a <;> cases b <;> norm_num [signOf]

/-- A finite value on a grid that is no coarser than its own. -/
theorem cast_gridInt (neg : Bool) (m : Nat) {e g : Int} (h : g ≤ e) :
    (gridInt neg m e g : ℚ) * 2 ^ g = signOf neg * m * 2 ^ e := by
  rw [zpow_split g e h]
  cases neg <;> simp only [gridInt, signOf, if_true, if_false, Bool.false_eq_true] <;> push_cast <;> ring

theorem signOf_natAbs (x : Int) : signOf (decide (x < 0)) * (x.natAbs : ℚ) = x := by
  rcases lt_or_ge x 0 with h | h
  · rw [decide_eq_true h, signOf, if_pos rfl, Nat.cast_natAbs, abs_of_neg h]
    push_cast
    ring
  · rw [decide_eq_false (by omega), signOf, if_neg (by decide), Nat.cast_natAbs, abs_of_nonneg h, one_mul]

theorem FVal.rat_add (rnd : Rnd) {a b : FVal} {x y : ℚ} (ha : a.rat = some x) (hb : b.rat = some y) :
    (FVal.add rnd a b).rat = some (x + y) := by
  obtain ⟨na, ma, ea, rfl, rfl⟩ := FVal.eq_fin_of_rat ha
  obtain ⟨nb, mb, eb, rfl, rfl⟩ := FVal.eq_fin_of_rat hb
  rw [← cast_gridInt na ma (min_le_left ea eb), ← cast_gridInt nb mb (min_le_right ea eb), ← add_mul, ← Int.cast_add, FVal.add]
  generalize gridInt na ma ea (min ea eb) + gridInt nb mb eb (min ea eb) = z
  split
  next hz => simp [FVal.rat_fin, hz]
  next => rw [FVal.rat_fin, signOf_natAbs]

theorem FVal.rat_mul {a b : FVal} {x y : ℚ} (ha : a.rat = some x) (hb : b.rat = some y) :
    (FVal.mul a b).rat = some (x * y) := by
  obtain ⟨na, ma, ea, rfl, rfl⟩ := FVal.eq_fin_of_rat ha
  obtain ⟨nb, mb, eb, rfl, rfl⟩ := FVal.eq_fin_of_rat hb
  rw [FVal.mul, FVal.rat_fin, signOf_bne, zpow_add₀ two_ne_zero]
  push_cast
  congr 1
  ring

theorem FVal.rat_neg {a : FVal} {x : ℚ} (ha : a.rat = some x) : a.neg.rat = some (-x) := by
  obtain ⟨na, ma, ea, rfl, rfl⟩ := FVal.eq_fin_of_rat ha
  rw [FVal.neg, FVal.rat_fin, signOf_not]
  congr 1
  ring

/-- A finite value whose significand stands for `W` (R106): exact, or odd, of at least 63 bits, and less than one away. -/
def FVal.Near (a : FVal) (neg : Bool) (W : ℚ) (e : Int) : Prop :=
  ∃ m, a = .fin neg m e ∧ (W = m ∨ 63 ≤ m.log2 ∧ m % 2 = 1 ∧ |W - m| < 1)

theorem FVal.near_self (neg : Bool) (m : Nat) (e : Int) : (FVal.fin neg m e).Near neg m e := ⟨m, rfl, .inl rfl⟩

/-- A natural quotient with its last bit set where there is a remainder stands for twice the exact quotient. -/
theorem stands_quotient {X d : Nat} (hd : d ≠ 0) (hX : X ≠ 0 → 2 ^ 63 * d ≤ X) :
    (2 * (X / d : ℚ)) = (2 * (X / d) + b2n (X % d != 0) : ℕ) ∨ 63 ≤ (2 * (X / d) + b2n (X % d != 0)).log2 ∧
      (2 * (X / d) + b2n (X % d != 0)) % 2 = 1 ∧ |2 * (X / d : ℚ) - (2 * (X / d) + b2n (X % d != 0) : ℕ)| < 1 := by
  have hd0 : (0 : ℚ) < d := by exact_mod_cast Nat.pos_of_ne_zero hd
  have hdiv : (X : ℚ) = (X / d : ℕ) * d + (X % d : ℕ) := by exact_mod_cast (Nat.div_add_mod' X d).symm
  have hW : 2 * (X / d : ℚ) = 2 * (X / d : ℕ) + 2 * ((X % d : ℕ) / d) := by
    nth_rewrite 1 [hdiv]
    field_simp
  rw [hW]
  by_cases hr : X % d = 0
  · left
    simp [hr, b2n]
  · right
    have hm : 2 * (X / d) + b2n (X % d != 0) = 2 * (X / d) + 1 := by simp [hr, b2n]
    have hbig : 2 ^ 63 ≤ X / d := (Nat.le_div_iff_mul_le (Nat.pos_of_ne_zero hd)).2 (hX (by rintro rfl; simp at hr))
    have hpos : (0 : ℚ) < (X % d : ℕ) / d := div_pos (by exact_mod_cast Nat.pos_of_ne_zero hr) hd0
    have hlt : ((X % d : ℕ) : ℚ) / d < 1 := (div_lt_one hd0).2 (by exact_mod_cast Nat.mod_lt _ (Nat.pos_of_ne_zero hd))
    rw [hm]
    refine ⟨(Nat.le_log2 (by omega)).2 (by omega), by omega, ?_⟩
    push_cast
    exact abs_lt.2 ⟨by linarith, by linarith⟩

/-- The quotient of finite values has a significand that stands for the exact one. -/
theorem FVal.near_div (na nb : Bool) (ma : Nat) {mb : Nat} (ea eb : Int) (hb : mb ≠ 0) : ∃ W e,
    (FVal.div (.fin na ma ea) (.fin nb mb eb)).Near (na != nb) W e ∧ W * 2 ^ e = (ma : ℚ) * 2 ^ ea / (mb * 2 ^ eb) := by
  refine ⟨2 * ((ma * 2 ^ (64 + mb.log2) : ℕ) / mb : ℚ), ea - eb - (64 + mb.log2 : ℕ) - 1,
    ⟨_, by rw [FVal.div, if_neg hb], stands_quotient hb fun hX => ?_⟩, ?_⟩
  · have hma : 1 ≤ ma := Nat.pos_of_ne_zero fun h => hX (by rw [h, Nat.zero_mul])
    calc 2 ^ 63 * mb ≤ 2 ^ 63 * 2 ^ (mb.log2 + 1) := Nat.mul_le_mul_left _ Nat.lt_log2_self.le
      _ = 1 * 2 ^ (64 + mb.log2) := by rw [← pow_add]; ring
      _ ≤ ma * 2 ^ (64 + mb.log2) := Nat.mul_le_mul_right _ hma
  · rw [zpow_sub₀ two_ne_zero, zpow_sub₀ two_ne_zero, zpow_sub₀ two_ne_zero, zpow_natCast]
    push_cast
    have hmb : (mb : ℚ) ≠ 0 := by exact_mod_cast hb
    field_simp

theorem FVal.rat_div {a b : FVal} {x y : ℚ} (ha : a.rat = some x) (hb : b.rat = some y) (hy : y ≠ 0) :
    ∃ neg W e, (FVal.div a b).Near neg W e ∧ signOf neg * (W * 2 ^ e) = x / y := by
  obtain ⟨na, ma, ea, rfl, rfl⟩ := FVal.eq_fin_of_rat ha
  obtain ⟨nb, mb, eb, rfl, rfl⟩ := FVal.eq_fin_of_rat hb
  obtain ⟨W, e, hnear, hW⟩ := FVal.near_div na nb ma ea eb (mb := mb) (by rintro rfl; simp at hy)
  exact ⟨na != nb, W, e, hnear, by rw [hW, ← signOf_div, div_mul_div_comm, mul_assoc, mul_assoc]⟩

/-! ### The rounded pattern (R104) -/

theorem Fmt.overflow_eq (f : Fmt) (r : Rnd) (neg : Bool) :
    f.overflow r neg = if r = .rne ∨ Rnd.outward r neg = true then f.inf else f.maxFin := by
  cases r <;> cases neg <;> rfl

/-- A value beyond the largest finite one that is not rounded away from zero. -/
theorem Fmt.RoundsTo.names_maxFin {f : Fmt} {r : Rnd} {neg b : Bool} {V : ℚ} {R k : Nat} (h : f.RoundsTo r neg V R)
    (hR : f.maxFin < R) (hk : k ≤ f.maxFin) (ho : ¬ (r = .rne ∨ Rnd.outward r neg = true)) (ev : Prop) :
    Names r (signOf neg * V) (signOf neg * f.magVal f.maxFin) (signOf b * f.magVal k) ev := by
  rw [not_or, Bool.not_eq_true] at ho
  obtain ⟨hr, ho⟩ := ho
  obtain ⟨g, hg⟩ := h
  have hgR : R = g := f.magVal_strictMono.injective (hg.toward hr ho)
  have hmax := f.magVal_lt_succ f.maxFin
  have hlow : f.magVal (f.maxFin + 1) ≤ V := (f.magVal_strictMono.monotone (by omega)).trans hg.low
  have hle := f.magVal_strictMono.monotone hk
  have htop : Rounding r neg (f.magVal f.maxFin) V (V + 1) (f.magVal f.maxFin) ev := ⟨f.magVal_nonneg _, by linarith, by linarith,
    fun h => absurd h hr, fun h => absurd h (ne_true_of_eq_false ho), fun _ _ => rfl⟩
  exact htop.names (f.magVal_nonneg k) (.inl hle)

/-- Among the numbers that patterns stand for, the rounded pattern's is the one that the mode names. -/
theorem Fmt.Ieee.names_round {f : Fmt} {eb : Nat} (h : f.Ieee eb) {r : Rnd} {neg : Bool} {V : ℚ} {R : Nat}
    (hR : f.RoundsTo r neg V R) {p q : Nat} (hp : p = f.signed neg (if f.maxFin < R then f.overflow r neg else R)) {y z : ℚ}
    (hy : (f.decode p).rat = some y) (hz : (f.decode q).rat = some z) : Names r (signOf neg * V) y z (p % 2 = 0) := by
  rw [h.layout.rat_decode] at hz
  split at hz
  next hk =>
    obtain rfl := Option.some.inj hz
    subst hp
    by_cases hover : f.maxFin < R
    · rw [if_pos hover, Fmt.overflow_eq] at hy ⊢
      split at hy
      next hinf => rw [h.layout.rat_signed_inf h.e4m3] at hy; cases hy
      next hfin =>
        rw [h.layout.rat_signed le_rfl] at hy
        obtain rfl := Option.some.inj hy
        exact hR.names_maxFin hover hk hfin _
    · rw [if_neg hover, h.layout.rat_signed (by omega)] at hy
      obtain rfl := Option.some.inj hy
      rw [if_neg hover]
      refine (hR.names _ _).congr_even fun hev => Fmt.signed_even ?_ hev
      have hw := h.width
      have hexps := h.exps
      omega
  next => cases hz

/-- A finite value, exact or near enough, has a rounded magnitude. -/
theorem FVal.Near.roundsTo {f : Fmt} (hf : f.Layout) {a : FVal} {neg : Bool} {W : ℚ} {e : Int} (h : a.Near neg W e) (r : Rnd) :
    ∃ m, a = .fin neg m e ∧ f.RoundsTo r neg (W * 2 ^ e) (f.roundMag r neg m e) := by
  obtain ⟨m, ha, hW⟩ := h
  exact ⟨m, ha, Fmt.roundsTo_roundMag hf.frac (hW.imp_right fun h => ⟨hf.short.trans h.1, h.2⟩) e⟩

/-- The pattern of a value, exact or near enough, is the number that the mode names. -/
theorem FVal.Near.names_encode {t : FTy} {r : Rnd} {a : FVal} {neg : Bool} {W : ℚ} {e : Int} (h : a.Near neg W e) {q : Nat}
    {y z : ℚ}
    (hy : ((fmtOfF t).decode ((fmtOfF t).encode r a)).rat = some y) (hz : ((fmtOfF t).decode q).rat = some z) :
    Names r (signOf neg * (W * 2 ^ e)) y z ((fmtOfF t).encode r a % 2 = 0) := by
  obtain ⟨m, rfl, hR⟩ := h.roundsTo (fmtOfF_layout t) r
  exact (fmtOfF_ieee t).names_round hR rfl hy hz

end Sys2Proof.Machine

namespace Sys2Proof
open Machine

/-- Settles O3: a rounded magnitude is one of the two between which the exact value lies, and the one that its mode names. -/
theorem floatingResultsAreNearest : Obligations.FloatingResultsAreNearest := by
  unfold Obligations.FloatingResultsAreNearest
  intro named
  have namedOf {t : FTy} {rnd : Rnd} {a : FVal} {neg : Bool} {W v : ℚ} {e : Int} (h : a.Near neg W e)
      (hv : signOf neg * (W * 2 ^ e) = v) : named t rnd v ((fmtOfF t).encode rnd a) := by
    intro y hy q z hz
    have hnames := h.names_encode hy hz
    rw [hv] at hnames
    cases rnd <;> exact hnames
  refine ⟨?fields, fun rnd a b x y ha hb => ⟨FVal.rat_add rnd ha hb, FVal.rat_mul ha hb, FVal.rat_neg ha⟩, ?finite, ?quotient⟩
  case fields =>
    intro t p
    have h := fmtOfF_ieee t
    have htop := h.decode_top p
    have hzero := h.rat_decode_zero p
    have hnormal := h.rat_decode_normal p
    cases t <;> exact ⟨htop, hzero, hnormal⟩
  case finite =>
    intro t rnd a x ha
    obtain ⟨neg, m, e, rfl, rfl⟩ := FVal.eq_fin_of_rat ha
    exact namedOf (FVal.near_self neg m e) (mul_assoc _ _ _).symm
  case quotient =>
    intro t rnd a b x y ha hb hy
    obtain ⟨neg, W, e, hnear, hv⟩ := FVal.rat_div ha hb hy
    exact namedOf hnear hv

end Sys2Proof
end

section
/-! SUPPORT. Conversions (R107 to R110, R116, R350, R400, R409, R445): where CVT, QCVT, PACK and UNPK put their values, and what a
converted value is. -/
namespace Sys2Proof.Machine

/-! ### The instructions (R107, R400, R445) -/

/-- What a firing answers that writes `n` converted values of width `w` (R107, R116). -/
theorem State.fired_convWrite (s t : State) (x : Unit) (i : Instr) (d : Dst) (w n : Nat) (c : Nat → Conv) :
    ∃ vec, (∀ v, v < n → valAt w vec v = (c v).bits % 2 ^ w) ∧
      s.fired x i (convWrite s.cur.unit t d w n c) = match d with
        | .v r => s.doneWith (t.onUnit s.cur.unit fun y =>
            (y.setLanes r (y.lm &&& allLive (n * w / 32)) vec (List.range y.lanes)).countConv (writtenConvs y w n c))
        | d => (t.onUnit s.cur.unit fun y => y.countConv ((List.range (if w = 64 then 1 else 32 / w)).map c)).finish s.cur.unit
            s.cur.upd d vec (scalarOf w vec) 1 :=
  ⟨vecMk w n fun v => (c v).bits, fun _ hv => valAt_vecMk w _ hv, by cases d <;> rfl⟩

theorem State.Fires.pack_result {s : State} {x : Unit} {t : IntTy} {sat : Bool} {vd va vb : VReg}
    (hf : s.Fires (.pack t sat vd va vb) x) : ∃ vec,
      exec (.pack t sat vd va vb) s = .next ((s.taken []).finish s.cur.unit s.cur.upd (.v vd) vec 0 1) ∧
      ∀ v, v < x.count t.width → fitsInt t sat (readWide t (if v < x.count t.width / 2
        then valAt (2 * t.width) (x.vVec va) v else valAt (2 * t.width) (x.vVec vb) (v - x.count t.width / 2)))
        (valAt t.width vec v) :=
  ⟨_, hf.answers (execPack t sat vd va vb) rfl rfl rfl rfl rfl rfl rfl rfl, fun v hv => by
    rw [valAt_vecMk _ _ hv, narrow_mod]
    exact narrow_fits t sat _⟩

/-- The pattern of an integer that fits in `n` + 1 bits, read in two's complement. -/
theorem asInt_wrapInt {n : Nat} {z : Int} (hlow : -2 ^ n ≤ z) (hhigh : z < 2 ^ n) : asInt (n + 1) (wrapInt (n + 1) z) = z := by
  have hcast := wrapInt_cast (n + 1) z
  have hlt := wrapInt_lt (n + 1) z
  have hP : ((2 ^ (n + 1) : Nat) : Int) = 2 * 2 ^ n := by push_cast; ring
  have hhalf : ((2 ^ n : Nat) : Int) = 2 ^ n := by push_cast; rfl
  rw [hP] at hcast
  rw [asInt, Nat.add_sub_cancel, Nat.mod_eq_of_lt hlt]
  generalize wrapInt (n + 1) z = p at *
  rcases lt_or_ge z 0 with h | h
  · rw [← Int.add_emod_right, Int.emod_eq_of_lt (by omega) (by omega)] at hcast
    rw [if_neg (by omega), hcast, pow_succ]
    ring
  · rw [Int.emod_eq_of_lt h (by omega)] at hcast
    rw [if_pos (by omega), hcast]

/-- A value of the type survives the pattern of twice its width. -/
theorem readWide_wrapInt_read (t : IntTy) (p : Nat) : readWide t (wrapInt (2 * t.width) (t.read p)) = t.read p := by
  obtain ⟨hlow, hhigh⟩ := read_bounds t p
  obtain ⟨n, hn⟩ := Nat.exists_eq_add_of_lt (IntTy.width_pos t)
  have hw : 2 * t.width = t.width + n + 1 := by omega
  have hpow : ((2 ^ t.width : Nat) : Int) ≤ 2 ^ (t.width + n) := by
    exact_mod_cast Nat.pow_le_pow_right (by omega) (by omega)
  unfold readWide
  split
  next => rw [hw, asInt_wrapInt (by omega) (by omega)]
  next hs =>
    have hnonneg : 0 ≤ t.read p := by rw [IntTy.read, if_neg hs]; omega
    have hdouble : (2 : Int) ^ (t.width + n) ≤ ((2 ^ (2 * t.width) : Nat) : Int) := by
      exact_mod_cast Nat.pow_le_pow_right (by omega) (by omega)
    rw [Nat.mod_eq_of_lt (wrapInt_lt _ _), wrapInt_cast, Int.emod_eq_of_lt hnonneg (by omega)]

theorem State.Fires.unpk_result {s : State} {x : Unit} {t : IntTy} {hi : Bool} {vd va : VReg}
    (hf : s.Fires (.unpk t hi vd va) x) : ∃ vec,
      exec (.unpk t hi vd va) s = .next ((s.taken []).finish s.cur.unit s.cur.upd (.v vd) vec 0 1) ∧
      ∀ v, v < x.lanes * 32 / (2 * t.width) → readWide t (valAt (2 * t.width) vec v) =
        t.read (valAt t.width (x.vVec va) (v + if hi then x.lanes * 32 / (2 * t.width) else 0)) :=
  ⟨_, hf.answers (execUnpk t hi vd va) rfl rfl rfl rfl rfl rfl rfl rfl, fun v hv => by
    rw [valAt_vecMk _ _ hv, Nat.mod_eq_of_lt (wrapInt_lt _ _), readWide_wrapInt_read]⟩

end Sys2Proof.Machine
end

section
/-! SUPPORT. What a converted value is (R104, R107 to R110, R116): the integers that a value is rounded to, the numbers of so many
significant bits, and the values beyond the largest finite one. -/
namespace Sys2Proof.Machine

/-! ### Rounding to an integer (R104, R109) -/

/-- `z` is the integer that mode `r` makes of `v`. -/
def RoundsInt (r : Rnd) (v : ℚ) (z : Int) : Prop :=
  match r with
  | .rne => |z - v| ≤ 1 / 2 ∧ (|z - v| = 1 / 2 → z % 2 = 0)
  | .rtz => |(z : ℚ)| ≤ |v| ∧ |v| < |(z : ℚ)| + 1 ∧ 0 ≤ z * v
  | .rdn => z ≤ v ∧ v < z + 1
  | .rup => z - 1 < v ∧ v ≤ z

/-- A magnitude rounded between neighbouring integers, under its sign. -/
theorem Rounding.roundsInt {r : Rnd} {neg : Bool} {N n : Nat} {V : ℚ} (h : Rounding r neg N V (N + 1) n (n % 2 = 0)) {z : Int}
    (hz : (z : ℚ) = signOf neg * n) (hparity : n % 2 = 0 → z % 2 = 0) : RoundsInt r (signOf neg * V) z := by
  have hV := h.nonneg.trans h.low
  have hlow := h.low
  have hhigh := h.high
  have hn : (0 : ℚ) ≤ n := by positivity
  have haway (ho : Rnd.outward r neg = true) : V ≤ n ∧ (n : ℚ) - 1 < V := by
    rcases h.away ho with ⟨hY, hVA⟩ | ⟨hY, hVA⟩ <;> rw [hY] <;> exact ⟨by linarith, by linarith⟩
  have htoward (hr : r ≠ .rne) (ho : Rnd.outward r neg = false) : (n : ℚ) ≤ V ∧ V < n + 1 := by
    rw [h.toward hr ho]
    exact ⟨hlow, hhigh⟩
  cases r with
  | rne =>
    obtain ⟨hpick, hev⟩ := h.nearest rfl
    simp only [RoundsInt, hz, abs_signOf_mul_sub]
    rcases hpick with ⟨hY, hle⟩ | ⟨hY, hle⟩
    · rw [hY, abs_of_nonpos (by linarith)]
      exact ⟨by linarith, fun ht => hparity (hev (by linarith))⟩
    · rw [hY, abs_of_nonneg (by linarith)]
      exact ⟨by linarith, fun ht => hparity (hev (by linarith))⟩
  | rtz =>
    obtain ⟨hle, hlt⟩ := htoward (by decide) rfl
    simp only [RoundsInt, hz, abs_signOf_mul, abs_of_nonneg hn, abs_of_nonneg hV]
    refine ⟨hle, hlt, ?_⟩
    rw [mul_mul_mul_comm, signOf_mul_self, one_mul]
    exact mul_nonneg hn hV
  | rdn =>
    cases neg with
    | false =>
      obtain ⟨hle, hlt⟩ := htoward (by decide) rfl
      simp only [RoundsInt, hz, signOf, if_false, Bool.false_eq_true, one_mul]
      exact ⟨hle, hlt⟩
    | true =>
      obtain ⟨hle, hlt⟩ := haway rfl
      simp only [RoundsInt, hz, signOf, if_true]
      exact ⟨by linarith, by linarith⟩
  | rup =>
    cases neg with
    | false =>
      obtain ⟨hle, hlt⟩ := haway rfl
      simp only [RoundsInt, hz, signOf, if_false, Bool.false_eq_true, one_mul]
      exact ⟨hlt, hle⟩
    | true =>
      obtain ⟨hle, hlt⟩ := htoward (by decide) rfl
      simp only [RoundsInt, hz, signOf, if_true]
      exact ⟨by linarith, by linarith⟩

/-- The integer magnitude that a value is rounded to. -/
theorem exists_rounding_int (r : Rnd) (neg : Bool) (m : Nat) (e : Int) : ∃ N n : Nat,
    roundInt r neg m e = (if neg then -(n : Int) else n) ∧ Rounding r neg N ((m : ℚ) * 2 ^ e) (N + 1) n (n % 2 = 0) := by
  rcases le_or_gt 0 e with he | he
  · refine ⟨m * 2 ^ e.toNat, m * 2 ^ e.toNat, by rw [roundInt, if_pos he], ?_⟩
    obtain ⟨k, rfl⟩ := Int.eq_ofNat_of_zero_le he
    have hV : (m : ℚ) * 2 ^ (k : Int) = (m * 2 ^ (k : Int).toNat : ℕ) := by simp
    rw [hV]
    exact .exact (by positivity) (by linarith)
  · refine ⟨m / 2 ^ (-e).toNat, roundShift r neg m (-e).toNat, by rw [roundInt, if_neg (not_le.2 he)], ?_⟩
    have hone : (2 : ℚ) ^ (-e).toNat * 2 ^ e = 1 := by
      have h := zpow_split e 0 he.le
      rwa [zero_sub, zpow_zero, eq_comm] at h
    have h := (StandsFor.rounding_roundShift (.inl rfl : StandsFor m m (-e).toNat) r neg).scale (show (0 : ℚ) < 2 ^ e by positivity)
    simpa only [mul_assoc, hone, mul_one, Nat.cast_add_one] using h

theorem roundsInt_roundInt (r : Rnd) (neg : Bool) (m : Nat) (e : Int) :
    RoundsInt r (signOf neg * m * 2 ^ e) (roundInt r neg m e) := by
  obtain ⟨N, n, hz, h⟩ := exists_rounding_int r neg m e
  rw [mul_assoc, hz]
  refine h.roundsInt ?_ fun hn => ?_
  · cases neg <;> simp [signOf]
  · split <;> omega

/-! ### Numbers of so many significant bits (R102, R104) -/

section
variable {f : Fmt}

/-- A number of the format's significant bits, on the subnormal grid below, the range unbounded. -/
def Fmt.Grid (f : Fmt) (y : ℚ) : Prop := ∃ n q : ℤ, f.qmin ≤ q ∧ |n| < 2 ^ (f.fb + 1) ∧ y = n * (2 : ℚ) ^ q

/-- One with an even significand. -/
def Fmt.EvenGrid (f : Fmt) (y : ℚ) : Prop := ∃ n q : ℤ, f.qmin ≤ q ∧ |n| < 2 ^ f.fb ∧ y = n * (2 : ℚ) ^ (q + 1)

/-- `y` is `v` rounded once by mode `r`. -/
def Fmt.Rounded (f : Fmt) (r : Rnd) (v y : ℚ) : Prop := f.Grid y ∧ ∀ z, f.Grid z → Names r v y z (f.EvenGrid y)

theorem exists_signed (b : Bool) (N : Nat) : ∃ n : Int, |n| = N ∧ (n : ℚ) = signOf b * N := by
  cases b
  · exact ⟨N, by simp, by simp [signOf]⟩
  · exact ⟨-N, by simp, by simp [signOf]⟩

theorem Fmt.grid_magVal (b : Bool) (k : Nat) : f.Grid (signOf b * f.magVal k) := by
  obtain ⟨a, N, rfl, hg, hN⟩ := f.exists_grid k
  obtain ⟨n, habs, hn⟩ := exists_signed b N
  refine ⟨n, f.qmin + a, by omega, by rw [habs]; exact_mod_cast hN, ?_⟩
  rw [f.magVal_grid hg hN.le, hn, mul_assoc]

theorem Fmt.evenGrid_magVal (hfb : 0 < f.fb) (b : Bool) {k : Nat} (hk : k % 2 = 0) : f.EvenGrid (signOf b * f.magVal k) := by
  obtain ⟨a, N, rfl, hg, hN⟩ := f.exists_grid k
  obtain ⟨c, hc⟩ := Nat.exists_eq_add_of_lt hfb
  have hlow : a * 2 ^ f.fb % 2 = 0 := by rw [hc, Nat.zero_add, pow_succ, ← mul_assoc, Nat.mul_mod_left]
  obtain ⟨M, rfl⟩ : ∃ M, N = 2 * M := ⟨N / 2, by omega⟩
  obtain ⟨n, habs, hn⟩ := exists_signed b M
  rw [pow_succ] at hN
  refine ⟨n, f.qmin + a, by omega, by rw [habs]; exact_mod_cast (by omega : M < 2 ^ f.fb), ?_⟩
  rw [f.magVal_grid hg (by rw [pow_succ]; exact hN.le), hn, zpow_add_one₀ two_ne_zero]
  push_cast
  ring

/-- Every number of so many bits is the value of a magnitude, a short significand being shifted left. -/
theorem Fmt.exists_magVal (a N : Nat) (hN : N < 2 ^ (f.fb + 1)) : ∃ k, f.magVal k = N * 2 ^ (f.qmin + a) := by
  induction a generalizing N with
  | zero => exact ⟨_, f.magVal_grid (.inl rfl) hN.le⟩
  | succ a ih =>
    by_cases h : 2 ^ f.fb ≤ N
    · exact ⟨_, f.magVal_grid (.inr h) hN.le⟩
    · obtain ⟨k, hk⟩ := ih (2 * N) (by rw [pow_succ]; omega)
      refine ⟨k, hk.trans ?_⟩
      push_cast
      rw [← add_assoc, zpow_add_one₀ two_ne_zero]
      ring

theorem Fmt.Grid.exists_mag {y : ℚ} (h : f.Grid y) : ∃ b k, y = signOf b * f.magVal k := by
  obtain ⟨n, q, hq, hn, rfl⟩ := h
  obtain ⟨a, rfl⟩ : ∃ a : Nat, q = f.qmin + a := ⟨(q - f.qmin).toNat, by omega⟩
  obtain ⟨k, hk⟩ := f.exists_magVal a n.natAbs (by zify; exact hn)
  exact ⟨decide (n < 0), k, by rw [hk, ← mul_assoc, signOf_natAbs]⟩

theorem Fmt.RoundsTo.rounded (hfb : 0 < f.fb) {r : Rnd} {neg : Bool} {V : ℚ} {R : Nat} (h : f.RoundsTo r neg V R) :
    f.Rounded r (signOf neg * V) (signOf neg * f.magVal R) := by
  refine ⟨f.grid_magVal neg R, fun z hz => ?_⟩
  obtain ⟨b, k, rfl⟩ := hz.exists_mag
  exact (h.names b k).congr_even fun hev => f.evenGrid_magVal hfb neg hev

/-- Beyond the largest finite value: the magnitude is above the largest finite one. -/
theorem Fmt.maxFin_lt_abs (neg : Bool) (R : Nat) : f.magVal f.maxFin < |signOf neg * f.magVal R| ↔ f.maxFin < R := by
  rw [abs_signOf_mul, abs_of_nonneg (f.magVal_nonneg R), f.magVal_strictMono.lt_iff_lt]

end

/-! ### Conversion to FP8 and to the lane formats (R108, R110, R116) -/

section
variable {t : F8} {r : Rnd} {sat neg : Bool} {m : Nat} {e : Int}

/-- A value that is rounded beyond the largest finite one is treated as an infinity. -/
theorem convF8_above (h : (fmtOf8 t).maxFin < (fmtOf8 t).roundMag r neg m e) :
    convF8 t r sat (.fin neg m e) = convF8 t r sat (.inf neg) := if_pos h

theorem convF8_within (h : (fmtOf8 t).roundMag r neg m e ≤ (fmtOf8 t).maxFin) :
    convF8 t r sat (.fin neg m e) = ⟨(fmtOf8 t).signed neg ((fmtOf8 t).roundMag r neg m e), false, false, false⟩ :=
  if_neg (by omega)

theorem convF8_bits_lt (t : F8) (r : Rnd) (sat : Bool) (a : FVal) : (convF8 t r sat a).bits < 2 ^ 8 := by
  have hs := (fmtOf8_layout t).toSound
  have hw : (fmtOf8 t).w = 8 := by cases t <;> rfl
  have hsigned {neg : Bool} {k : Nat} (hk : k < 2 ^ ((fmtOf8 t).w - 1)) : (fmtOf8 t).signed neg k < 2 ^ 8 :=
    (Fmt.signed_lt hs hk).trans_eq (by rw [hw])
  have hnan : (fmtOf8 t).nan < 2 ^ 8 := by cases t <;> decide
  have hpast (neg : Bool) : (convF8 t r sat (.inf neg)).bits < 2 ^ 8 := by
    cases sat
    · cases t
      · exact hnan
      · exact hsigned hs.inf
    · exact hsigned hs.fin
  cases a with
  | nan => exact hnan
  | inf neg => exact hpast neg
  | fin neg m e =>
    by_cases h : (fmtOf8 t).maxFin < (fmtOf8 t).roundMag r neg m e
    · rw [convF8_above h]
      exact hpast neg
    · rw [convF8_within (by omega)]
      exact hsigned ((not_lt.1 h).trans_lt hs.fin)

end

section
variable {t : FTy} {r : Rnd} {neg : Bool} {m : Nat} {e : Int}

theorem convFl_within (h : (fmtOfF t).roundMag r neg m e ≤ (fmtOfF t).maxFin) :
    convFl t r (.fin neg m e) = ⟨(fmtOfF t).signed neg ((fmtOfF t).roundMag r neg m e), false, false, false⟩ :=
  if_neg (by omega)

theorem convFl_infinite (h : (fmtOfF t).maxFin < (fmtOfF t).roundMag r neg m e) (ho : r = .rne ∨ Rnd.outward r neg = true) :
    convFl t r (.fin neg m e) = ⟨(fmtOfF t).signed neg (fmtOfF t).inf, true, false, false⟩ := by
  have hne : ((fmtOfF t).inf == (fmtOfF t).maxFin) = false := by cases t <;> rfl
  refine (if_pos h).trans ?_
  rw [Fmt.overflow_eq, if_pos ho, hne]

theorem convFl_largest (h : (fmtOfF t).maxFin < (fmtOfF t).roundMag r neg m e) (ho : ¬ (r = .rne ∨ Rnd.outward r neg = true)) :
    convFl t r (.fin neg m e) = ⟨(fmtOfF t).signed neg (fmtOfF t).maxFin, true, false, true⟩ := by
  refine (if_pos h).trans ?_
  rw [Fmt.overflow_eq, if_neg ho, beq_self_eq_true]

end

/-- A quotient that is no NaN is converted with SAT, and makes none (R110, R116). -/
theorem quantize_eq {t : F8} {r : Rnd} {x k : Nat} (h : FVal.div (Fmt.fp32.decode x) (Fmt.fp32.decode k) ≠ .nan) :
    quantize t r x k = convF8 t r true (FVal.div (Fmt.fp32.decode x) (Fmt.fp32.decode k)) := by
  rw [quantize]
  generalize FVal.div (Fmt.fp32.decode x) (Fmt.fp32.decode k) = q at *
  cases q with
  | nan => exact absurd rfl h
  | inf neg => rfl
  | fin neg m e =>
    by_cases hm : (fmtOf8 t).maxFin < (fmtOf8 t).roundMag r neg m e
    · rw [convF8_above hm]; rfl
    · rw [convF8_within (by omega)]; rfl

/-- A quotient that is a NaN is the canonical one, made where neither operand is a NaN. -/
theorem quantize_nan {t : F8} {r : Rnd} {x k : Nat} (h : FVal.div (Fmt.fp32.decode x) (Fmt.fp32.decode k) = .nan) :
    quantize t r x k = ⟨(fmtOf8 t).nan, false, !(Fmt.fp32.decode x).isNan && !(Fmt.fp32.decode k).isNan, false⟩ := by
  rw [quantize, h]
  rfl

theorem FVal.div_nan_right (a : FVal) : FVal.div a .nan = .nan := by cases a <;> rfl

/-! ### FP8 patterns (R102) -/

section
variable {p : Nat}

theorem decode_e4m3_nan (h : p % 128 = 127) : (fmtOf8 .e4m3).decode p = .nan := by
  simp [fmtOf8, Fmt.decode, Fmt.e4m3Fmt, h]

theorem decode_e5m2_nan (h : 124 < p % 128) : (fmtOf8 .e5m2).decode p = .nan := by
  simp [fmtOf8, Fmt.decode, Fmt.e5m2, h]

theorem decode_e5m2_inf (h : p % 128 = 124) : (fmtOf8 .e5m2).decode p = .inf (p.testBit 7) := by
  simp [fmtOf8, Fmt.decode, Fmt.e5m2, Fmt.signBit, h]

theorem rat_decode8 (t : F8) (h : p % 128 ≤ (fmtOf8 t).maxFin) : ((fmtOf8 t).decode p).rat = some (signOf (p.testBit 7) *
    (if p % 128 < 2 ^ (fmtOf8 t).fb then ((p % 128 : ℕ) : ℚ)
      else 2 ^ (fmtOf8 t).fb + (p % 128 % 2 ^ (fmtOf8 t).fb : ℕ)) * 2 ^ (fmtOf8 t).expo (p % 128)) := by
  have hw : (fmtOf8 t).w - 1 = 7 := by cases t <;> rfl
  have hrat := (fmtOf8_layout t).rat_decode p
  rw [Fmt.signBit, hw, show 2 ^ 7 = 128 from rfl, if_pos h, Fmt.magVal, Fmt.sig, ← mul_assoc] at hrat
  rw [hrat]
  push_cast
  rfl

theorem testBit_signed8 {t : F8} {neg : Bool} {k : Nat} (hk : k ≤ (fmtOf8 t).maxFin) :
    ((fmtOf8 t).signed neg k).testBit 7 = neg := by
  have h := Fmt.signBit_signed (f := fmtOf8 t) (neg := neg) (hk.trans_lt (fmtOf8_layout t).fin)
  cases t <;> exact h

theorem magVal_maxFin8 (t : F8) : (fmtOf8 t).magVal (fmtOf8 t).maxFin = match t with | .e4m3 => 448 | .e5m2 => 57344 := by
  cases t <;> norm_num [Fmt.magVal, Fmt.sig, Fmt.expo, Fmt.qmin, fmtOf8, Fmt.e4m3Fmt, Fmt.e5m2]

theorem magVal_maxFinF (t : FTy) : (fmtOfF t).magVal (fmtOfF t).maxFin = match t with
    | .fp16 => 65504
    | .bf16 => (2 ^ 8 - 1) * 2 ^ 120
    | .fp32 => (2 ^ 24 - 1) * 2 ^ 104 := by
  cases t <;> norm_num [Fmt.magVal, Fmt.sig, Fmt.expo, Fmt.qmin, fmtOfF, Fmt.fp16, Fmt.bf16, Fmt.fp32]

end

end Sys2Proof.Machine

namespace Sys2Proof
open Machine

/-- Settles O4: a value is rounded between two neighbours of its type, and what lies beyond the type follows its own equation. -/
theorem conversionsFillTheFirstPositions : Obligations.ConversionsFillTheFirstPositions := by
  refine ⟨?instructions, ?values⟩
  case instructions =>
    intro s x dt st rnd sat hi ft t d a scale vd va vb written
    have writtenOf {i : Instr} {w n : Nat} {c : Nat → Conv}
        (he : exec i s = .next (s.fired x i (convWrite s.cur.unit (s.taken i.srcs) d w n c))) : written i w n c := by
      obtain ⟨vec, hvec, hfired⟩ := s.fired_convWrite (s.taken i.srcs) x i d w n c
      exact ⟨vec, hvec, he.trans (congrArg _ hfired)⟩
    exact ⟨fun hf => writtenOf (hf.answers (execCvt dt rnd st sat d a) rfl rfl rfl rfl rfl rfl rfl rfl),
      fun hf => writtenOf (hf.answers (execQcvt ft rnd d a scale) rfl rfl rfl rfl rfl rfl rfl rfl),
      fun hf => hf.pack_result, fun hf => hf.unpk_result⟩
  intro fp8 lane nan8 nanL grid even rounded toInt quiet isInt past8 is8 isLane
  have roundedOf {f : Fmt} {g : ℕ × ℤ × ℚ} (hfb : g.1 = f.fb) (hq : g.2.1 = f.qmin) {r : Rnd} {v y : ℚ} (h : f.Rounded r v y) :
      rounded g r v y := by
    obtain ⟨fb, q, M⟩ := g
    obtain rfl : fb = f.fb := hfb
    obtain rfl : q = f.qmin := hq
    refine ⟨h.1, fun z hz => ?_⟩
    have hnames := h.2 z hz
    cases r with
    | rtz => exact ⟨hnames.1, hnames.2.1, fun hle _ => hnames.2.2 hle⟩
    | rne | rdn | rup => exact hnames
  have hmax8 (t : F8) : (fp8 t).2.2 = (fmtOf8 t).magVal (fmtOf8 t).maxFin := by rw [magVal_maxFin8]; cases t <;> rfl
  have hmaxL (t : FTy) : (lane t).2.2 = (fmtOfF t).magVal (fmtOfF t).maxFin := by rw [magVal_maxFinF]; cases t <;> rfl
  have rounded8 {t : F8} {r : Rnd} {neg : Bool} {V : ℚ} {R : Nat} (h : (fmtOf8 t).RoundsTo r neg V R) :
      rounded (fp8 t) r (signOf neg * V) (signOf neg * (fmtOf8 t).magVal R) :=
    roundedOf (by cases t <;> rfl) (by cases t <;> rfl) (h.rounded (fmtOf8_layout t).frac)
  have roundedL {t : FTy} {r : Rnd} {neg : Bool} {V : ℚ} {R : Nat} (h : (fmtOfF t).RoundsTo r neg V R) :
      rounded (lane t) r (signOf neg * V) (signOf neg * (fmtOfF t).magVal R) :=
    roundedOf (by cases t <;> rfl) (by cases t <;> rfl) (h.rounded (fmtOfF_layout t).frac)
  have past8Of (t : F8) (r : Rnd) (sat neg : Bool) : past8 t sat neg (convF8 t r sat (.inf neg)) := by
    cases sat with
    | true =>
      refine ⟨rfl, ((fmtOf8_layout t).rat_signed le_rfl).trans (congrArg some ?_), rfl, rfl⟩
      rw [hmax8]
      cases neg <;> simp [signOf]
    | false =>
      cases t with
      | e4m3 => exact ⟨rfl, rfl, rfl, rfl⟩
      | e5m2 => exact ⟨rfl, rfl, (fmtOf8_layout .e5m2).decode_inf rfl neg, rfl⟩
  have is8Of {t : F8} {r : Rnd} {sat neg : Bool} {a : FVal} {W v : ℚ} {e : Int} (h : a.Near neg W e)
      (hv : signOf neg * (W * 2 ^ e) = v) : is8 t r sat neg v (convF8 t r sat a) := by
    have hl := fmtOf8_layout t
    obtain ⟨m, rfl, hR⟩ := h.roundsTo hl r
    refine ⟨convF8_bits_lt t r sat _, _, hv ▸ rounded8 hR, fun hy => ?_, fun hy => ?_⟩
    · rw [hmax8, Fmt.maxFin_lt_abs] at hy
      rw [convF8_above hy]
      exact past8Of t r sat neg
    · rw [hmax8, ← not_lt, Fmt.maxFin_lt_abs, not_lt] at hy
      rw [convF8_within hy]
      exact ⟨hl.rat_signed hy, testBit_signed8 hy, rfl, rfl, rfl⟩
  have isLaneOf {t : FTy} {r : Rnd} {neg : Bool} {m : Nat} {e : Int} {v : ℚ} (hv : signOf neg * (m * 2 ^ e) = v) :
      isLane t r neg v (convFl t r (.fin neg m e)) := by
    have hl := fmtOfF_layout t
    obtain ⟨_, hm, hR⟩ := (FVal.near_self neg m e).roundsTo hl r
    obtain ⟨-, rfl, -⟩ := FVal.fin.inj hm
    have hout : (r = .rne ∨ (r = .rdn ∧ neg = true) ∨ (r = .rup ∧ neg = false)) ↔ (r = .rne ∨ Rnd.outward r neg = true) := by
      cases r <;> cases neg <;> decide
    have hnanp : (convFl t r (.fin neg m e)).nanp = false := by
      rw [convFl]
      dsimp only
      split <;> rfl
    refine ⟨_, hv ▸ roundedL hR, hnanp, fun hy => ?_, fun hy => ?_⟩
    · rw [hmaxL, Fmt.maxFin_lt_abs] at hy
      simp only [hout]
      split
      next ho =>
        rw [convFl_infinite hy ho]
        exact ⟨rfl, hl.decode_inf (fmtOfF_ieee t).e4m3 neg, rfl⟩
      next ho =>
        rw [convFl_largest hy ho]
        refine ⟨rfl, (hl.rat_signed le_rfl).trans (congrArg some ?_), rfl⟩
        rw [hmaxL]
        cases neg <;> simp [signOf]
    · rw [hmaxL, ← not_lt, Fmt.maxFin_lt_abs, not_lt] at hy
      rw [convFl_within hy]
      exact ⟨hl.rat_signed hy, Fmt.signBit_signed (hy.trans_lt hl.fin), rfl, rfl, rfl⟩
  have isIntOf (d : IntTy) (sat : Bool) (z : Int) : isInt d sat z (convInt d sat z) :=
    ⟨narrow_fits d sat z, narrow_lt d sat z, by simp [convInt], rfl, rfl⟩
  refine ⟨?patterns, fun d i r sat p => isIntOf d sat _, ?toInteger, ?to8, ?toLane, ?quotient⟩
  case patterns =>
    intro t p mag v
    split
    next hnan =>
      rcases hnan with ⟨rfl, h⟩ | ⟨rfl, h⟩
      · exact decode_e4m3_nan h
      · exact decode_e5m2_nan h
    next hnan =>
      split
      next hinf =>
        obtain ⟨rfl, h⟩ := hinf
        exact decode_e5m2_inf h
      next hinf =>
        have hmag : mag < 128 := Nat.mod_lt _ (by decide)
        cases t with
        | e4m3 =>
          have hle : mag ≤ 127 := Nat.lt_succ_iff.1 hmag
          exact rat_decode8 .e4m3 (Nat.lt_succ_iff.1 (hle.lt_of_ne fun h => hnan (.inl ⟨rfl, h⟩)))
        | e5m2 =>
          have hle : mag ≤ 124 := not_lt.1 fun h => hnan (.inr ⟨rfl, h⟩)
          exact rat_decode8 .e5m2 (Nat.lt_succ_iff.1 (hle.lt_of_ne fun h => hinf ⟨rfl, h⟩))
  case toInteger =>
    intro d st r sat p hst v c
    have hc : c = convFToInt d r sat v := by
      cases st with
      | int i => exact absurd rfl (hst i)
      | f8 _ | fl _ => rfl
    clear_value v c
    subst hc
    refine ⟨?_, ?_, ?_⟩
    · rintro rfl
      exact ⟨rfl, rfl, rfl, rfl⟩
    · rintro neg rfl
      cases sat with
      | false => exact ⟨rfl, rfl, rfl, rfl⟩
      | true =>
        refine ⟨rfl, rfl, read_wrapInt d ?_ ?_, rfl⟩ <;> cases neg <;> simp [IntTy.min_le_max]
    · intro y hy
      obtain ⟨neg, m, e, rfl, rfl⟩ := FVal.eq_fin_of_rat hy
      refine ⟨roundInt r neg m e, ?_, isIntOf d sat _⟩
      have hround := roundsInt_roundInt r neg m e
      cases r <;> exact hround
  case to8 =>
    intro t st r sat p v c
    have hc : c = convF8 t r sat v := by cases st <;> rfl
    clear_value v c
    subst hc
    refine ⟨?_, ?_, ?_⟩
    · rintro rfl
      exact ⟨by cases t <;> rfl, rfl, rfl, rfl⟩
    · rintro neg rfl
      exact past8Of t r sat neg
    · rintro neg m e y rfl hy
      obtain rfl := Option.some.inj hy
      exact is8Of (FVal.near_self neg m e) (mul_assoc _ _ _).symm
  case toLane =>
    intro t st r sat p v c
    have hc : c = convFl t r v := by cases st <;> rfl
    clear_value v c
    subst hc
    refine ⟨?_, ?_, ?_⟩
    · rintro rfl
      exact ⟨by cases t <;> rfl, rfl, rfl, rfl⟩
    · rintro neg rfl
      exact ⟨(fmtOfF_layout t).decode_inf (fmtOfF_ieee t).e4m3 neg, rfl, rfl, rfl⟩
    · rintro neg m e y rfl hy
      obtain rfl := Option.some.inj hy
      exact isLaneOf (mul_assoc _ _ _).symm
  case quotient =>
    intro t r x k a b c made
    have hnan (hq : FVal.div a b = .nan) : made ∧ c.nanp = (!a.isNan && !b.isNan) := by
      have hc : c = _ := quantize_nan hq
      exact ⟨⟨(congrArg Conv.bits hc).trans (by cases t <;> rfl), (congrArg Conv.ovf hc :), (congrArg Conv.satn hc :)⟩,
        (congrArg Conv.nanp hc :)⟩
    have hnum (hq : FVal.div a b ≠ .nan) : c = convF8 t r true (FVal.div a b) := quantize_eq hq
    have hpast {neg : Bool} (hq : FVal.div a b = .inf neg) : past8 t true neg c := by
      rw [hnum (by rw [hq]; exact FVal.noConfusion), hq]
      exact past8Of t r true neg
    have hdivZero {m n : Bool} {f : Nat} {e h : Int} (ha : a = .fin m f e) (hb : b = .fin n 0 h) :
        FVal.div a b = if f = 0 then .nan else .inf (m != n) := by
      rw [ha, hb]
      rfl
    clear_value a b c
    refine ⟨?_, ?_, ?_, ?_, ?_, ?_⟩
    · rintro (rfl | rfl)
      · exact hnan rfl
      · simpa [FVal.isNan] using hnan (FVal.div_nan_right a)
    · rintro m n rfl rfl
      exact hnan rfl
    · rintro m n f e rfl rfl
      exact hpast rfl
    · rintro m f e n rfl rfl
      have hmag : (fmtOf8 t).roundMag r (m != n) 0 0 = 0 := if_pos rfl
      have hzero := convF8_within (sat := true) (hmag.trans_le (Nat.zero_le _))
      rw [hmag] at hzero
      rw [hnum FVal.noConfusion, show FVal.div (.fin m f e) (.inf n) = .fin (m != n) 0 0 from rfl, hzero]
      exact ⟨((fmtOf8_layout t).rat_signed (Nat.zero_le _)).trans (by simp), testBit_signed8 (Nat.zero_le _), rfl, rfl, rfl⟩
    · rintro m f e n g h rfl rfl rfl
      refine ⟨fun hf => ?_, fun hf => ?_⟩
      · exact hnan ((hdivZero rfl rfl).trans (if_pos hf))
      · exact hpast ((hdivZero rfl rfl).trans (if_neg hf))
    · rintro m f e n g h y w rfl rfl hg hy hw
      obtain rfl := Option.some.inj hy
      obtain rfl := Option.some.inj hw
      obtain ⟨W, q, hnear, hW⟩ := FVal.near_div m n f e h hg
      rw [hnum ?_]
      · refine is8Of hnear ?_
        rw [hW, ← signOf_div, div_mul_div_comm, ← mul_assoc, ← mul_assoc]
        rfl
      · obtain ⟨k, hk, -⟩ := hnear
        rw [hk]
        exact FVal.noConfusion

end Sys2Proof
end

section
/-! SUPPORT. A FILL over a peer line and a line that may not be written (R180, R228, R305, R365): a run of lines that the
statement on CLEAN, INVL, FILL, PIN and UNPIN allows with more than one packet. -/
namespace Sys2Proof.Machine

/-- What that statement says of the packet for a peer line holds whatever page bits its events carry. -/
theorem fillEvents_quarters (pat : W64) (va : Nat) (loc : Loc) (page : PageBits) :
    (fillEvents pat va loc page).length = 4 ∧ ∀ i e, (fillEvents pat va loc page)[i]? = some e →
      e.va = va + 32 * i ∧ e.n = 32 ∧ e.loc = { loc with addr := loc.addr + 32 * i } ∧
      e.wr = (List.range 32).map fun j => (j, BitVec.ofNat 8 (pat.toNat >>> (8 * (j % 8)))) := by
  refine ⟨by simp [fillEvents], fun i e he => ?_⟩
  obtain ⟨k, hk, rfl⟩ : ∃ k, (List.range 4)[i]? = some k ∧ _ = e := by
    simpa only [fillEvents, List.getElem?_map, Option.map_eq_some_iff] using he
  obtain rfl : i = k := (List.getElem?_eq_some_iff.1 hk).elim fun _ h => by simpa using h
  exact ⟨rfl, rfl, rfl, rfl⟩

/-- The unit of `fillLab`: S6 is the last line below 2^29, and the pattern is 0. -/
def fillLabUnit : Unit := { uS with s := [(6, 0x1FFFFF80)] }

/-- A state whose table maps the 512 MiB below 2^29 to a peer's memory, R = W = 1, and the 512 MiB above to stack memory,
R = 1 and W = 0. -/
def fillLab : State := { labS with
  dram := [(0, 1), (2, 1), (65536, 15), (65543, 0x80), (65544, 7), (65547, 0x20)]
  units := [(0, fillLabUnit)]
  mainPorts := [(0, { MainPort.reset with window := 2 ^ 37 })] }

/-- FILL of the two lines around 2^29. -/
def fillLabInstr : Instr := .fill 6 (.imm 2)

/-- The translation of the first line: it lies in the peer's memory. -/
def fillLabFirst : State × TransRes :=
  ((fillLab.taken [.imm 2]).publish 0 fillLabUnit).1.translateFor 0 fillLabUnit 0x1FFFFF80 1 wantWrite true

/-- The events of the first line's packet, under page bits. -/
def fillLabEvents (page : PageBits) : List Event := fillEvents 0 0x1FFFFF80 ⟨.peer, 0x1FFFFF80⟩ page

/-- The state in which the first line's packet is sent with an atomic path (AP) that its page does not have. -/
def fillLabSent : State := (fillLabFirst.1.send 0 (.access (fillLabEvents ⟨0, false, false, true⟩) none .none)).1

/-- The translation of the second line behind that packet: its page may not be written. -/
def fillLabSecond : State × TransRes := fillLabSent.translateFor 0 fillLabUnit 0x20000000 1 wantWrite true

/-- The state that the statement gives for the fault at the second line. -/
def fillLabStopped : State :=
  fillLab.portRaised fillLabUnit fillLabInstr fillLabSecond.1 0x1FFFFF80 2 2 ⟨.permission, 0, 0x20000000⟩

/-- The requests that are on the mesh after an answer. -/
def requestsAfter : Host.Outcome State Fault Refusal → List Req
  | .next t => t.mesh.map (·.req)
  | _ => []

theorem fillLab_fires : fillLab.Fires fillLabInstr fillLabUnit := fires_of (by decide)

theorem fillLab_published : ((fillLab.taken [.imm 2]).publish 0 fillLabUnit).2 = true := by decide

theorem fillLabFirst_peer :
    fillLabFirst.2 = .ok ⟨.peer, 0x1FFFFF80⟩ ⟨0, false, false, false⟩ 0x800000000000000F 29 := by decide

theorem fillLabFirst_not_filling : fillLabFirst.1.isFilling 0 ⟨.peer, 0x1FFFFF80⟩ = false := by decide

theorem fillLabSecond_fault : fillLabSecond.2 = .fault ⟨.permission, 0, 0x20000000⟩ := by decide

/-- FILL sends the first line under its page's own bits. -/
theorem requestsAfter_exec_fillLab :
    requestsAfter (exec fillLabInstr fillLab) = [.access (fillLabEvents ⟨0, false, false, false⟩) none .none] := by decide

theorem requestsAfter_fillLabStopped :
    requestsAfter (.next fillLabStopped) = [.access (fillLabEvents ⟨0, false, false, true⟩) none .none] := by decide

theorem fillLabEvents_ap_ne : fillLabEvents ⟨0, false, false, true⟩ ≠ fillLabEvents ⟨0, false, false, false⟩ := by decide

end Sys2Proof.Machine

namespace Sys2Proof
open Machine

/-- Refutes O38: of the events that FILL sends to a peer the statement fixes neither the page bits nor the overlaid bytes,
and yet it says of every such packet that a fault at a later line leaves the machine with that packet on its mesh. In
`fillLab` it so asks for a packet with the atomic path bit, where FILL sends one without. -/
theorem not_lineInstructions : ¬ Obligations.LineInstructions := by
  intro h
  obtain ⟨-, -, ⟨hfill, -⟩, -⟩ := h fillLab fillLabUnit (.s 6) (.imm 2) 6 .discard
  obtain ⟨-, -, hbegins⟩ := hfill fillLab_fires
  obtain ⟨-, hgo, -⟩ := hbegins (by decide) (by decide) (by decide)
  obtain ⟨-, hlines⟩ := hgo rfl fillLab_published
  obtain ⟨hlen, hquarters⟩ := fillEvents_quarters 0 0x1FFFFF80 ⟨.peer, 0x1FFFFF80⟩ ⟨0, false, false, true⟩
  obtain ⟨-, -, hfault, -⟩ := hlines 1 fillLabSent (by decide) ⟨fillLabFirst.1, _, _, _, _, fillLabSent,
    Prod.ext rfl fillLabFirst_peer, ⟨fillLabFirst_not_filling, .inl ⟨rfl, _, rfl, hlen, hquarters⟩⟩, rfl⟩
  have hstopped : exec fillLabInstr fillLab = .next fillLabStopped := hfault _ _ (Prod.ext rfl fillLabSecond_fault)
  have hrequests := requestsAfter_fillLabStopped.symm.trans
    ((congrArg requestsAfter hstopped).symm.trans requestsAfter_exec_fillLab)
  simp only [List.cons.injEq, Req.access.injEq, and_true] at hrequests
  exact fillLabEvents_ap_ne hrequests

end Sys2Proof
end

section
/-! SUPPORT. The instructions of a depot core that read the KV structures, send triples and read the mailbox, and the messages
that land in the mailbox (R279, R280, R284 to R287). -/
namespace Sys2Proof.Machine

/-! ### What VGATH, KVWALK, TRIPLE and MBXRD come to -/

/-- What an instruction comes to whose structure accesses are made in one run, by what the run comes to (R194, R250, R263). -/
def accessRes {α : Type} (u : Nat) (x : Unit) (t : State) (ok : α → State → Res) : Kv α → Res
  | .ok a r => ok a r
  | .fault f => .portFault t 0 f
  | .hold va level access wb => .hold (t.withhold u x va level access wb).1 0 (t.withhold u x va level access wb).2

/-- The lanes that VGATH has read, written to its register (R284). -/
def Unit.gathered (y : Unit) (d : VReg) (vs : List (Nat × Nat)) : Unit := vs.foldl (fun y l => y.setLane d l.1 (lane32 l.2)) y

/-- VGATH of a sound selector and descriptor (R284). -/
def gathRes (u : Nat) (x : Unit) (t : State) (d : VReg) (sn : SReg) (vt : VReg) (v : W64) : Res :=
  if !t.noPackets u then .wait t 0
  else accessRes u x t (fun vs r => match vs with
    | some vs => .done (r.onUnit u fun y => y.gathered d vs)
    | none => .portFault r 0 (kvPoisonTrap v)) (vgathAll u x v.toNat (x.sReg (pairOf sn)).toNat vt t)

/-- KVWALK of a sound descriptor (R285). -/
def walkRes (u : Nat) (x : Unit) (t : State) (d : SReg) (v b : W64) : Res :=
  accessRes u x t (fun l r => match l with
    | .status n => .write r (.s d) 0 (kvWord (n, 0)) 1
    | .addr n => .write r (.s d) 0 (kvWord (kvOk, b2n (r.frameIn x (stackOfCore (coreOf u)) n) * 2 ^ 55 + n % 2 ^ 55)) 1
    | .poison => .portFault r 0 (kvPoisonTrap v)) ((kvEnv u x).lookup v.toNat b.toNat t)

/-- TRIPLE under a landing word, from a phase on (R286, R287). -/
def tripleRes (u : Nat) (x : Unit) (t : State) (wide async : Bool) (va : VReg) (ml l : W64) (phase : Nat) : Res :=
  if phase = 2 && t.tripleWaits (coreOf u) then .wait t 2
  else if !landingOk l.toNat then .trap (illegal 2)
  else match t.deliveryPath x.ctx l.toNat with
    | none => .trap (trapOf .permission)
    | some (r, p) =>
      if phase = 0 && !t.performedAt u .package then .wait t 0
      else tripleRequest async (coreOf u) r p (tripleWords x (coreOf u) ml va wide) t

/-- MBXRD (R279). -/
def mailboxRes (u : Nat) (t : State) (m : Fin 8) (d : SReg) : Res :=
  if (t.core (coreOf u)).full.getLsbD m.val then
    .done ((t.onUnit u fun y => y.setS d (Tab.get (t.core (coreOf u)).m m.val 0)).emptyMailbox (coreOf u) m.val)
  else .wait t 0

/-- An asynchronous TRIPLE noted at its core, with its block where it has one (R287). -/
def State.addAsync (t : State) (c : Nat) (p : Dest) (words : List Lane) (h : Option W64) : State :=
  { t.onCore c (fun k => { k with async := k.async ++ [⟨t.ids, p, words, h⟩] }) with ids := t.ids + 1 }

section
variable {s : State} {d : VReg} {sd sn ss : SReg} {vt va : VReg} {wide async : Bool}

theorem execVgath_eq : execVgath d sn vt s = runUnit (.vgath d sn vt) avD [.s sn, .v vt, .s (pairOf sn)] [.v d] (fun u x t v _ _ =>
    if !vgathSel (x.sReg (pairOf sn)).toNat then .trap (illegal 2)
    else if v.toNat % 128 != 0 then .trap (misaligned v)
    else gathRes u x t d sn vt v) s := by
  refine congrArg (fun body => runUnit (.vgath d sn vt) avD [.s sn, .v vt, .s (pairOf sn)] [.v d] body s) ?_
  funext u x t v _ _
  unfold kvAligned gathRes
  by_cases hv : (v.toNat % 128 != 0) = true
  · simp only [if_pos hv]
  · simp only [if_neg hv]
    congr 2
    cases vgathAll u x v.toNat (x.sReg (pairOf sn)).toNat vt t with
    | ok vs r => cases vs <;> rfl
    | fault f => rfl
    | hold va level access wb => rfl

theorem execKvwalk_eq : execKvwalk sd sn ss s = runUnit (.kvwalk sd sn ss) avD [.s sn, .s ss] [.s sd] (fun u x t v b _ =>
    if v.toNat % 128 != 0 then .trap (misaligned v) else walkRes u x t sd v b) s := by
  refine congrArg (fun body => runUnit (.kvwalk sd sn ss) avD [.s sn, .s ss] [.s sd] body s) ?_
  funext u x t v b _
  unfold kvAligned walkRes
  by_cases hv : (v.toNat % 128 != 0) = true
  · simp only [if_pos hv]
  · simp only [if_neg hv]
    cases (kvEnv u x).lookup v.toNat b.toNat t with
    | ok l r => cases l <;> rfl
    | fault f => rfl
    | hold va level access wb => rfl

theorem execTriple_eq : execTriple wide async va sn s = runUnit (.triple wide async va sn) avD
    ([.s sn, .s (pairOf sn), .v va] ++ (if wide then [.v (va + 1)] else [])) []
    (fun u x t l _ phase => tripleRes u x t wide async va (x.sReg (pairOf sn)) l phase) s := rfl

theorem execMbxrd_eq {m : Fin 8} : execMbxrd m sd s = runUnit (.mbxrd m sd) avD [] [.s sd] (fun u _ t _ _ _ => mailboxRes u t m sd) s := rfl

end

/-! ### Sound operands (R284, R286) -/

theorem vgathSel_iff (n : Nat) : vgathSel n = true ↔ n = n / 2 ^ 32 % 2 ^ 6 * 2 ^ 32 + n % 2 ^ 12 ∧ n % 4 = 0 := by
  simp only [vgathSel, fld_eq, Bool.and_eq_true, beq_iff_eq]
  omega

theorem landingOk_iff (n : Nat) (hn : n < 2 ^ 64) : landingOk n = true ↔ n / 2 ^ 48 = 0 ∧ n % 2 ^ 30 = 0 := by
  simp only [landingOk, fld_eq, Bool.and_eq_true, beq_iff_eq]
  omega

/-- KVWALK's result for an address (R285). -/
theorem kvWord_addr (b : Bool) (n : Nat) :
    kvWord (kvOk, b2n b * 2 ^ 55 + n % 2 ^ 55) = BitVec.ofNat 64 ((if b = true then 2 ^ 55 else 0) + n % 2 ^ 55) := by
  cases b <;> simp [kvWord, kvOk, w64, b2n] <;> congr 1 <;> omega

theorem kvWord_status (n : Nat) : kvWord (n, 0) = BitVec.ofNat 64 (n * 2 ^ 56) := by
  simp [kvWord, w64]

/-! ### The requests of a TRIPLE (R287) -/

theorem State.units_noteWait (s : State) (r : Nat) : (s.noteWait r).units = s.units := by
  obtain h | h := s.noteWait_eq_or r <;> rw [h]
  rw [State.noteGrant, State.onRegion_units]

theorem State.units_queueTriple (s : State) (p : Dest) (w : WaitFor) : (s.queueTriple p w).units = s.units :=
  s.units_noteWait _

/-- With four asynchronous requests outstanding, or another request at the path's entry, a TRIPLE waits. -/
theorem tripleRequest_full {async : Bool} {c r : Nat} {p : Dest} {words : List Lane} {t : State}
    (h : (async = true ∧ 4 ≤ (t.core c).async.length) ∨ Tab.find (t.station p.station).platform p.entry ≠ none) :
    tripleRequest async c r p words t = .wait t 0 := by
  unfold tripleRequest
  obtain ⟨ha, hn⟩ | hp := h
  · rw [if_pos (by simp [ha, hn])]
  · exact (congrArg (ite _ _) (if_pos (Option.isSome_iff_ne_none.2 hp))).trans (ite_self _)

/-! ### How they end -/

section
variable {s t : State} {x : Unit} {i : Instr} {a b : W64} {run : Res → State} {finish : State → State}
  {wait : State → Blocked → State} (he : s.Ends x i a b run finish wait) (ht : (t.unit? s.cur.unit).isSome = true)
include he ht

/-- How a run of structure accesses ends (R194, R250). -/
theorem State.Ends.accessRes {α : Type} {ok : α → State → Res} {r : Kv α}
    (hrun : exec i s = .next (run (accessRes s.cur.unit x t ok r))) :
    (∀ v t', r = .ok v t' → exec i s = .next (run (ok v t'))) ∧
    (∀ f, r = .fault f → exec i s = .next (s.portRaised x i t a b 0 f)) ∧
    (∀ va level access wb, r = .hold va level access wb →
      ∃ t' h, exec i s = .next t' ∧ t'.WithheldAt s.cur.unit i 0 h ∧ h.va = va ∧ h.wb = wb) := by
  refine ⟨?_, ?_, ?_⟩
  · rintro v t' rfl
    exact hrun
  · rintro f rfl
    exact hrun.trans (congrArg _ (he.portFault _ _ _))
  · rintro va level access wb rfl
    exact ⟨_, _, hrun, he.hold _ _ _ (by rwa [State.unit?, t.units_withhold]), rfl, rfl⟩

/-- How VGATH ends (R284). -/
theorem State.Ends.gathRes {d : VReg} {sn : SReg} {vt : VReg} {v : W64}
    (hrun : exec i s = .next (run (gathRes s.cur.unit x t d sn vt v))) :
    (t.noPackets s.cur.unit = false → ∃ t', exec i s = .next t' ∧ t'.CarriesOn s.cur.unit i 0) ∧
    (t.noPackets s.cur.unit = true →
      (∀ vs t', vgathAll s.cur.unit x v.toNat (x.sReg (pairOf sn)).toNat vt t = .ok (some vs) t' →
        exec i s = .next (finish (t'.onUnit s.cur.unit fun y => y.gathered d vs))) ∧
      (∀ t', vgathAll s.cur.unit x v.toNat (x.sReg (pairOf sn)).toNat vt t = .ok none t' →
        exec i s = .next (s.portRaised x i t' a b 0 ⟨.poison, 0, v⟩)) ∧
      (∀ f, vgathAll s.cur.unit x v.toNat (x.sReg (pairOf sn)).toNat vt t = .fault f →
        exec i s = .next (s.portRaised x i t a b 0 f)) ∧
      (∀ va level access wb, vgathAll s.cur.unit x v.toNat (x.sReg (pairOf sn)).toNat vt t = .hold va level access wb →
        ∃ t' h, exec i s = .next t' ∧ t'.WithheldAt s.cur.unit i 0 h ∧ h.va = va ∧ h.wb = wb)) := by
  unfold Machine.gathRes at hrun
  refine ⟨fun hp => ⟨_, hrun, ?_⟩, fun hp => ?_⟩
  · rw [if_pos (by simp [hp])]
    exact he.again t 0 ht
  · rw [if_neg (by simp [hp])] at hrun
    obtain ⟨hok, hfault, hhold⟩ := he.accessRes ht hrun
    exact ⟨fun vs t' h => (hok _ t' h).trans (congrArg _ (he.done _)),
      fun t' h => (hok _ t' h).trans (congrArg _ (he.portFault _ _ _)), hfault, hhold⟩

/-- How the request of a TRIPLE ends (R287). -/
theorem State.Ends.tripleRequest {async : Bool} {c r : Nat} {p : Dest} {words : List Lane}
    (hrun : exec i s = .next (run (tripleRequest async c r p words t))) :
    let full : Prop := (async = true ∧ 4 ≤ (t.core c).async.length) ∨ Tab.find (t.station p.station).platform p.entry ≠ none
    (full → ∃ t', exec i s = .next t' ∧ t'.CarriesOn s.cur.unit i 0) ∧
    (¬ full →
      (∀ t' h, t.tripleNow c r p words = some (t', h) →
        exec i s = .next (finish (if async then t'.addAsync c p words (some h) else t'.putTriple c p h words))) ∧
      (t.tripleNow c r p words = none →
        (async = false → ∃ t', exec i s = .next t' ∧ t'.CarriesOn s.cur.unit i 2) ∧
        (async = true → exec i s = .next (finish ((t.queueTriple p (.asyncTriple t.ids)).addAsync c p words none))))) := by
  intro full
  refine ⟨fun hfull => ⟨_, hrun, ?_⟩, fun hfree => ?_⟩
  · rw [tripleRequest_full hfull]
    exact he.again t 0 ht
  · unfold Machine.tripleRequest at hrun
    rw [if_neg (by simpa using fun ha => not_le.1 fun hn => hfree (.inl ⟨ha, hn⟩)),
      if_neg (by simpa using not_not.1 fun hp => hfree (.inr hp))] at hrun
    refine ⟨fun t' h hnow => ?_, fun hnow => ⟨fun ha => ?_, fun ha => ?_⟩⟩
    · rw [hnow] at hrun
      rw [hrun]
      cases async
      · exact congrArg _ (he.done _)
      · exact congrArg _ (he.done _)
    · rw [hnow] at hrun
      subst ha
      exact ⟨_, hrun, he.again _ 2 (by rwa [State.unit?, State.units_queueTriple])⟩
    · rw [hnow] at hrun
      subst ha
      exact hrun.trans (congrArg _ (he.done _))

/-- How MBXRD ends (R279). -/
theorem State.Ends.mailboxRes {m : Fin 8} {d : SReg} (hrun : exec i s = .next (run (mailboxRes s.cur.unit t m d))) :
    ((t.core (coreOf s.cur.unit)).full.getLsbD m.val = true → exec i s = .next (finish ((t.onUnit s.cur.unit fun y =>
      y.setS d (Tab.get (t.core (coreOf s.cur.unit)).m m.val 0)).emptyMailbox (coreOf s.cur.unit) m.val))) ∧
    ((t.core (coreOf s.cur.unit)).full.getLsbD m.val = false → ∃ t', exec i s = .next t' ∧ t'.CarriesOn s.cur.unit i 0) := by
  unfold Machine.mailboxRes at hrun
  refine ⟨fun hf => ?_, fun hf => ⟨_, hrun, ?_⟩⟩
  · rw [hrun, if_pos hf, he.done]
  · rw [if_neg (ne_true_of_eq_false hf)]
    exact he.again t 0 ht

end

/-! ### A message that lands (R279, R280) -/

theorem State.core_onCore (s : State) (c d : Nat) (f : Core → Core) :
    (s.onCore c f).core d = if d = c then f (s.core c) else s.core d := s.core_setCore c d _

/-- The end of an interval leaves the cores and its unit stands. -/
theorem State.endInterval_keeps {s : State} {u : Nat} {x : Unit} (hx : s.unit? u = some x) (b : Busy) :
    (s.endInterval u b).cores = s.cores ∧ ((s.endInterval u b).unit? u).isSome = true := by
  have hwrite : (s.onUnit u fun y => { y with busy := none }).ResultOf _ u b.dst b.upd True True := .writeResult _ b.vec b.scalar
  obtain ⟨y, hy, -⟩ := hwrite.own { x with busy := none } (by simp [hx])
  refine ⟨?_, by simp [State.endInterval, hy]⟩
  rw [State.endInterval, State.onUnit_cores, congrArg State.cores hwrite.rest, State.onUnit_cores]

/-- A busy interval is ended where it is over by now, and nothing is done else (R280). -/
theorem State.settleBusy_keeps {s : State} {u : Nat} {x : Unit} (hx : s.unit? u = some x) :
    (s.settleBusy u).cores = s.cores ∧ ∃ y, (s.settleBusy u).unit? u = some y ∧
      ((∀ b, x.busy = some b → s.clockOf u < b.until_) → y = x) := by
  unfold State.settleBusy
  rw [hx, Option.bind_some]
  cases hb : x.busy with
  | none => exact ⟨rfl, x, hx, fun _ => rfl⟩
  | some b =>
    dsimp only
    by_cases hlate : s.clockOf u < b.until_
    · rw [if_pos hlate]
      exact ⟨rfl, x, hx, fun _ => rfl⟩
    · rw [if_neg hlate]
      obtain ⟨hcores, hsome⟩ := State.endInterval_keeps hx b
      obtain ⟨y, hy⟩ := Option.isSome_iff_exists.1 hsome
      exact ⟨hcores, y, hy, fun hall => absurd (hall b rfl) hlate⟩

/-- The core after a message has landed. -/
def Core.landed (k : Core) (n : Nat) (v : W64) (land : Bool) : Core :=
  { k with m := Tab.set 0 k.m n v, full := k.full ||| BitVec.ofNat 8 (2 ^ n), landings := k.landings + b2n land }

section
variable {s : State} {c n : Nat} {v : W64} {land : Bool} {x : Unit}

theorem State.landMessage_land :
    s.landMessage c n v true = ((s.onCore c fun k => k.landed n v true).settleBusy (coreBase + c)).onUnit (coreBase + c) fun x =>
      x.setS 15 v := rfl

theorem State.landMessage_plain : s.landMessage c n v false = s.onCore c fun k => k.landed n v false := rfl

theorem State.core_landMessage (hx : s.unit? (coreBase + c) = some x) : (s.landMessage c n v land).core c = (s.core c).landed n v land := by
  have hland (l : Bool) : (s.onCore c fun k => k.landed n v l).core c = (s.core c).landed n v l := by
    rw [State.core_onCore, if_pos rfl]
  cases land with
  | false => exact hland false
  | true =>
    obtain ⟨hcores, -⟩ := State.settleBusy_keeps (s := s.onCore c fun k => k.landed n v true) hx
    rw [← hland true, State.landMessage_land, State.core, State.onUnit_cores, hcores, State.core]

/-- The kernel's registers when a message lands (R280). -/
theorem State.unit?_landMessage (hx : s.unit? (coreBase + c) = some x) :
    ∃ y, (s.landMessage c n v land).unit? (coreBase + c) = some y ∧ (land = true → y.sReg 15 = v) ∧
      (land = false → ∀ k : SReg, y.sReg k = x.sReg k) ∧
      ((∀ b, x.busy = some b → s.clockOf (coreBase + c) < b.until_) → ∀ k : SReg, k ≠ 15 → y.sReg k = x.sReg k) := by
  cases land with
  | false => exact ⟨x, hx, fun h => by simp at h, fun _ _ => rfl, fun _ _ _ => rfl⟩
  | true =>
    obtain ⟨-, y, hy, hsame⟩ := State.settleBusy_keeps (s := s.onCore c fun k => k.landed n v true) hx
    refine ⟨y.setS 15 v, ?_, fun _ => ?_, fun h => by simp at h, fun hbusy k hk => ?_⟩
    · rw [State.landMessage_land, State.unit?_onUnit_self, hy]
      rfl
    · rw [Unit.sReg_setS, if_pos rfl]
    · rw [Unit.sReg_setS, if_neg hk, hsame hbusy]

theorem getLsbD_ofNat_two_pow (hn : n < 8) : (BitVec.ofNat 8 (2 ^ n)).getLsbD n = true := by
  rw [BitVec.getLsbD_ofNat, Nat.testBit_two_pow_self, decide_eq_true hn, Bool.true_and]

theorem Core.full_landed (k : Core) (hn : n < 8) : (k.landed n v land).full.getLsbD n = true := by
  rw [Core.landed, BitVec.getLsbD_or, getLsbD_ofNat_two_pow hn, Bool.or_true]

theorem Core.m_landed (k : Core) (j : Nat) : Tab.get (k.landed n v land).m j 0 = if j = n then v else Tab.get k.m j 0 :=
  Tab.get_set _ _ _ _ _

/-- A register that is read is empty (R279). -/
theorem State.full_emptyMailbox (s : State) (c : Nat) (hn : n < 8) : ((s.emptyMailbox c n).core c).full.getLsbD n = false := by
  rw [State.emptyMailbox, State.core_onCore, if_pos rfl, BitVec.getLsbD_and, BitVec.getLsbD_not,
    getLsbD_ofNat_two_pow hn, Bool.not_true, Bool.and_false, Bool.and_false]

/-- The messages held after a register is read: its own lands in the next cycle (R279). -/
theorem State.heldMsg_emptyMailbox (s : State) (c n k : Nat) : Tab.find ((s.emptyMailbox c n).core c).heldMsg k =
    if k = n then (Tab.find (s.core c).heldMsg n).map fun z => (z.1, z.2.1, s.coreNow c + 1) else Tab.find (s.core c).heldMsg k := by
  rw [State.emptyMailbox, State.core_onCore, if_pos rfl]
  cases hz : Tab.find (s.core c).heldMsg n with
  | none =>
    by_cases hk : k = n
    · simp [hk, hz]
    · simp [hk]
  | some z =>
    by_cases hk : k = n
    · simp [hk]
    · simp [hk, Tab.find_put_of_ne, Ne.symm hk]

end
end Sys2Proof.Machine

namespace Sys2Proof
open Machine

/-- Settles O48: what each of the four instructions comes to, by its operands and its run of accesses, and a message that lands or
is held for a register. -/
theorem depotInstructions : Obligations.DepotInstructions := by
  refine ⟨?_, ?_⟩
  · intro s x d vt va sd sn ss m wide async u c e vn second t0 later traps held gi wi ti mi sound gath walk triple mbxrd
    have gathOf {t : State} {v b : W64} {run : Res → State} {finish : State → State} {wait : State → Blocked → State}
        (he : s.Ends x gi v b run finish wait) (ht : (t.unit? u).isSome = true)
        (hrun : exec gi s = .next (run (if !vgathSel second.toNat then .trap (illegal 2)
          else if v.toNat % 128 != 0 then .trap (misaligned v) else gathRes u x t d sn vt v))) : gath t v b finish := by
      have hsound : vgathSel second.toNat = true ↔ sound := vgathSel_iff _
      refine ⟨fun hs => ?_, fun hs hv => ?_, fun hs hv => ?_, fun hs hv => ?_⟩
      · exact hrun.trans (by rw [if_pos (by simpa using mt hsound.1 hs), he.trap])
      · exact hrun.trans (by rw [if_neg (by simpa using hsound.2 hs), if_pos (bne_iff_ne.2 hv), he.trap])
      all_goals rw [if_neg (by simpa using hsound.2 hs), if_neg (by simpa using hv)] at hrun
      · exact (he.gathRes ht hrun).1
      · exact (he.gathRes ht hrun).2
    have walkOf {t : State} {v b : W64} {upd : Upd} {run : Res → State} {finish : State → State} {wait : State → Blocked → State}
        (he : s.Ends x wi v b run finish wait) (ht : (t.unit? u).isSome = true)
        (hwrite : ∀ t d vec sc cyc, run (.write t d vec sc cyc) = t.finish u upd d vec sc cyc)
        (hrun : exec wi s = .next (run (if v.toNat % 128 != 0 then .trap (misaligned v) else walkRes u x t sd v b))) :
        walk t v b upd := by
      refine ⟨fun hv => ?_, fun hv => ?_⟩
      · exact hrun.trans (by rw [if_pos (bne_iff_ne.2 hv), he.trap])
      · rw [if_neg (by simpa using hv)] at hrun
        obtain ⟨hok, hfault, hhold⟩ := he.accessRes ht hrun
        refine ⟨fun n t' h => ?_, fun n t' h => ?_, fun t' h => ?_, hfault, hhold⟩
        · rw [hok _ t' h, hwrite, kvWord_addr]
        · rw [hok _ t' h, hwrite, kvWord_status]
        · exact (hok _ t' h).trans (congrArg _ (he.portFault _ _ _))
    have tripleOf {t : State} {l b : W64} {phase : Nat} {run : Res → State} {finish : State → State}
        {wait : State → Blocked → State} (he : s.Ends x ti l b run finish wait) (ht : (t.unit? u).isSome = true)
        (hrun : exec ti s = .next (run (tripleRes u x t wide async va second l phase))) : triple t l phase finish := by
      have hland := landingOk_iff l.toNat l.isLt
      unfold tripleRes at hrun
      refine ⟨fun hphase hwaits => ⟨_, hrun, ?_⟩, fun hgoes => ?_⟩
      · rw [if_pos (by simp [hphase, hwaits, c])]
        exact he.again t 2 ht
      rw [if_neg (by simpa using hgoes)] at hrun
      refine ⟨fun hbad => ?_, fun h48 h30 hpath => ?_, fun r p h48 h30 hpath => ?_⟩
      · exact hrun.trans (by rw [if_pos (by simpa using mt hland.1 hbad), he.trap])
      all_goals rw [if_neg (by simpa using hland.2 ⟨h48, h30⟩), hpath] at hrun
      · exact hrun.trans (congrArg _ (he.trap _))
      · refine ⟨fun hphase hq => ⟨_, hrun, ?_⟩, fun hperformed => he.tripleRequest ht ?_⟩
        · dsimp only
          rw [if_pos (by simp [hphase, hq])]
          exact he.again t 0 ht
        · exact hrun.trans (by dsimp only; rw [if_neg (by simpa using hperformed)])
    refine ⟨fun hf => ?_, fun k hc => ?_, fun hf => ?_, fun k hc => ?_, fun hf => ?_, fun k hc => ?_, fun hf => ?_, fun k hc => ?_⟩
    · exact gathOf hf.ends ((s.readBy_taken []).isSome_unit? hf.unit) (hf.answers (exec gi) rfl execVgath_eq rfl rfl rfl rfl rfl rfl)
    · exact gathOf hc.ends (hc.isSome_resumed []) (hc.answers (exec gi) rfl execVgath_eq rfl rfl rfl)
    · exact walkOf hf.ends ((s.readBy_taken []).isSome_unit? hf.unit) (fun _ _ _ _ _ => rfl)
        (hf.answers (exec wi) rfl execKvwalk_eq rfl rfl rfl rfl rfl rfl)
    · exact walkOf hc.ends (hc.isSome_resumed []) (fun _ _ _ _ _ => rfl) (hc.answers (exec wi) rfl execKvwalk_eq rfl rfl rfl)
    · exact tripleOf hf.ends ((s.readBy_taken []).isSome_unit? hf.unit)
        (hf.answers (exec ti) rfl execTriple_eq rfl rfl rfl (by cases wide <;> rfl) rfl (by cases wide <;> rfl))
    · exact tripleOf hc.ends (hc.isSome_resumed []) (hc.answers (exec ti) rfl execTriple_eq rfl (by cases wide <;> rfl) rfl)
    · exact hf.ends.mailboxRes ((s.readBy_taken []).isSome_unit? hf.unit)
        (hf.answers (exec mi) rfl execMbxrd_eq rfl rfl rfl rfl rfl rfl)
    · exact hc.ends.mailboxRes (hc.isSome_resumed []) (hc.answers (exec mi) rfl execMbxrd_eq rfl rfl rfl)
  · intro s c n v land x hn hx t e
    have hcore : t.core c = (s.core c).landed n v land := State.core_landMessage hx
    have hheld (k : Nat) := s.heldMsg_emptyMailbox c n k
    refine ⟨?_, ?_, ?_, State.unit?_landMessage hx, fun k hk => ?_, s.full_emptyMailbox c hn, fun w z hz => ?_, fun k hk => ?_⟩
    · rw [hcore, Core.m_landed, if_pos rfl]
    · rw [hcore, Core.full_landed _ hn]
    · rw [hcore]
      cases land <;> rfl
    · rw [hcore, Core.m_landed, if_neg hk]
    · exact ⟨(z.1, s.coreNow c + 1), by rw [hheld, if_pos rfl, hz]; rfl, rfl, rfl⟩
    · rw [hheld, if_neg hk]

end Sys2Proof
end

section
/-! SUPPORT. Records of partitions, the queue of fault records and free frames (R194 to R196, R201): what a change of a partition's
record leaves, and that the frames taken for a page are different and not in use. -/
namespace Sys2Proof.Machine

/-! ### A partition's record -/

section
variable {s : State} {p : Nat} {x : Partition}

@[simp] theorem State.part_setPart (s : State) (p : Nat) (x : Partition) : (s.setPart p x).part p = x := by
  simp [State.part, State.setPart, Tab.get]

theorem State.part_eq (hx : Tab.find s.partitions p = some x) : s.part p = x := by
  simp [State.part, Tab.get, hx]

theorem State.onPart_eq (hx : Tab.find s.partitions p = some x) (f : Partition → Partition) : s.onPart p f = s.setPart p (f x) := by
  simp [State.onPart, hx, State.part_eq hx]

end

/-! ### The queue of fault records (R194) -/

theorem setRec_eq_mapIdx (q : List FaultRec) (i : Nat) (f : FaultRec → FaultRec) :
    setRec q i f = q.mapIdx fun j r => if j = i then f r else r := by
  induction q using List.reverseRecOn with
  | nil => rfl
  | append_singleton q r ih =>
    have hinit : (List.range q.length).filterMap (fun j => ((q ++ [r])[j]?).map fun r => if j = i then f r else r) = setRec q i f :=
      List.filterMap_congr fun j hj => by rw [List.getElem?_append_left (List.mem_range.1 hj)]
    rw [List.mapIdx_concat, ← ih, ← hinit, setRec, List.length_append, List.length_singleton, List.range_succ, List.filterMap_append]
    simp

theorem getElem?_setRec {q : List FaultRec} {i : Nat} {r : FaultRec} (h : q[i]? = some r) (f : FaultRec → FaultRec) :
    (setRec q i f)[i]? = some (f r) := by
  simp [setRec_eq_mapIdx, h]

section
variable {s : State} {p i : Nat} {x : Partition} (hx : Tab.find s.partitions p = some x) (denied : Bool)
include hx

theorem State.release_eq : s.release p i denied =
    s.setPart p { x with faultq := setRec x.faultq i fun r => { r with release := some denied } } :=
  State.onPart_eq hx _

theorem State.faultq_release {r : FaultRec} (hr : x.faultq[i]? = some r) :
    ((s.release p i denied).part p).faultq[i]? = some { r with release := some denied } := by
  rw [State.release_eq hx, State.part_setPart]
  exact getElem?_setRec hr _

end

/-! ### Frames that no run covers (R196, R201) -/

/-- Frame `f` lies in none of the runs. -/
def clearOf (us : List (Nat × Nat)) (f : Nat) : Prop := ∀ u ∈ us, ¬ (u.1 ≤ f ∧ f < u.1 + u.2)

/-- A frame found past so many runs as do not end before it is clear of all: no run is met twice. -/
theorem clearOf_skipUsed (us : List (Nat × Nat)) (fuel f : Nat) (h : (us.filter fun e => f < e.1 + e.2).length ≤ fuel) :
    clearOf us (skipUsed us fuel f) := by
  induction fuel generalizing f with
  | zero =>
    have hnone : us.filter (fun e => f < e.1 + e.2) = [] := List.length_eq_zero_iff.1 (Nat.le_zero.1 h)
    intro u hu hf
    exact List.filter_eq_nil_iff.1 hnone u hu (decide_eq_true hf.2)
  | succ fuel ih =>
    rw [skipUsed]
    split
    next e he =>
      have hin := List.find?_some he
      have hmem := List.mem_of_find?_eq_some he
      simp only [Bool.and_eq_true, decide_eq_true_eq] at hin
      have hlater : us.filter (fun u => e.1 + e.2 < u.1 + u.2) =
          (us.filter fun u => f < u.1 + u.2).filter fun u => e.1 + e.2 < u.1 + u.2 := by
        rw [List.filter_filter]
        refine List.filter_congr fun u _ => ?_
        rw [← Bool.decide_and, decide_eq_decide]
        omega
      have hfewer : (us.filter fun u => e.1 + e.2 < u.1 + u.2).length < (us.filter fun u => f < u.1 + u.2).length := by
        rw [hlater]
        exact List.length_filter_lt_length_iff_exists.2 ⟨e, List.mem_filter.2 ⟨hmem, by simpa using hin.2⟩, by simp⟩
      exact ih _ (by omega)
    next hnone =>
      intro u hu hf
      simpa [hf.1, hf.2] using List.find?_eq_none.1 hnone u hu

section
variable (s : State) (p : Nat)

theorem State.length_spareFrames (n : Nat) (us : List (Nat × Nat)) : (s.spareFrames p n us).length ≤ n := by
  induction n generalizing us with
  | zero => exact Nat.le_refl 0
  | succ n ih =>
    rw [State.spareFrames]
    split
    next f _ => exact Nat.succ_le_succ (ih _)
    next => exact Nat.zero_le _

theorem State.clearOf_spareFrames (n : Nat) (us : List (Nat × Nat)) {f : Nat} (hf : f ∈ s.spareFrames p n us) : clearOf us f := by
  induction n generalizing us with
  | zero => simp [State.spareFrames] at hf
  | succ n ih =>
    rw [State.spareFrames] at hf
    split at hf
    next g hg =>
      rcases List.mem_cons.1 hf with rfl | hf
      · obtain ⟨d, -, hd⟩ := List.exists_of_findSome?_eq_some hg
        dsimp only at hd
        split at hd
        next =>
          obtain rfl := Option.some.inj hd
          exact clearOf_skipUsed us _ _ (List.length_filter_le _ _)
        next => simp at hd
      · exact fun u hu => ih ((g, 1) :: us) hf u (List.mem_cons_of_mem _ hu)
    next => simp at hf

theorem State.nodup_spareFrames (n : Nat) (us : List (Nat × Nat)) : (s.spareFrames p n us).Nodup := by
  induction n generalizing us with
  | zero => exact List.nodup_nil
  | succ n ih =>
    rw [State.spareFrames]
    split
    next f _ =>
      refine List.nodup_cons.2 ⟨fun hf => ?_, ih _⟩
      exact s.clearOf_spareFrames p n ((f, 1) :: us) hf (f, 1) List.mem_cons_self ⟨Nat.le_refl f, Nat.lt_succ_self f⟩
    next => exact List.nodup_nil

end
end Sys2Proof.Machine
end

section
/-! SUPPORT. The events of the pager (R193 to R196, R198, R303): the state in which each leaves the machine, by the record that it
finds. -/
namespace Sys2Proof.Machine

/-! ### A record that is served, by what its page and the free frames are (R195, R196, R303) -/

/-- A pending record of a context that is there, served. -/
def State.served (s : State) (p i : Nat) (r : FaultRec) : PagerAct → State
  | .map frame nodes => s.serveMap p i r frame nodes
  | .host nodes => if s.framesFree p nodes then s.serveHost p i r nodes else s
  | .deny => s.release p i true

/-- The record leaves the queue. -/
def State.unqueue (s : State) (p i : Nat) (x : Partition) : State :=
  s.setPart p (Partition.idleFrom { x with faultq := x.faultq.eraseIdx i } (s.pagerNow p))

/-- The host's answer to record `r` at place `i`, in the state from which HFRAME has been taken (R303). -/
def State.answered (t : State) (p i : Nat) (r : FaultRec) : Option W64 → State
  | none => t.release p i true
  | some h =>
    if hframeOk h.toNat then
      (t.mapPage p (recCtx r) r.w0.toNat (r.nodes ++ t.spareFrames p 2 (t.framesUsed p)) (hostLeaf h)).elim (t.release p i true)
        fun t => t.release p i false
    else t.release p i true

section
variable {s : State} {p i : Nat} {r : FaultRec} {f : Nat} {nodes : List Nat}

theorem State.serveMap_mapped (h : s.mapped p r = true) : s.serveMap p i r f nodes = s.release p i false := if_pos h

theorem State.serveMap_inUse (h : s.mapped p r = false) (hf : s.framesFree p (f :: nodes) = false) : s.serveMap p i r f nodes = s := by
  rw [State.serveMap, if_neg (ne_true_of_eq_false h), if_pos (by simp [hf])]

/-- The page mapped on a free frame, or its record denied where the tables have no place for it. -/
theorem State.serveMap_free (h : s.mapped p r = false) (hf : s.framesFree p (f :: nodes) = true) :
    s.serveMap p i r f nodes = (((s.zeroFrame p f).mapPage p (recCtx r) r.w0.toNat nodes (freshLeaf f (recDepot r))).elim
      (s.release p i true) fun t => t.release p i false) := by
  rw [State.serveMap, if_neg (ne_true_of_eq_false h), if_neg (by simp [hf])]
  cases (s.zeroFrame p f).mapPage p (recCtx r) r.w0.toNat nodes (freshLeaf f (recDepot r)) <;> rfl

end

section
variable {s : State} {p i : Nat} {x : Partition} {r : FaultRec} (hx : Tab.find s.partitions p = some x)
include hx

/-! ### The pager's place (R193) -/

theorem exec_pagerSwapIn : exec (.pagerSwapIn p) s = .next (s.setPart p
    (if !x.pagerIn && !(x.faultq.isEmpty && x.migq.isEmpty) then { x with pagerIn := true, pagerIdle := s.pagerNow p } else x)) :=
  congrArg _ (State.onPart_eq hx _)

theorem exec_pagerSwapOut : exec (.pagerSwapOut p) s = .next (s.setPart p
    (if x.pagerIn && x.faultq.isEmpty && x.migq.isEmpty && x.migration.isNone && decide (x.pagerIdle + 2 ^ 20 ≤ s.pagerNow p)
     then { x with pagerIn := false } else x)) :=
  congrArg _ (State.onPart_eq hx _)

/-! ### The pager's turn at a record (R195, R196, R303) -/

section
variable (hr : x.faultq[i]? = some r)
include hr

theorem exec_pagerServe (a : PagerAct) : exec (.pagerServe p i a) s = .next
    (if !x.pagerIn || decide (1024 ≤ i) || r.release.isSome || r.host.isSome then s
     else if (s.context? (recCtx r)).isNone then s.unqueue p i x
     else s.served p i r a) := by
  show Host.Outcome.next _ = _
  rw [State.part_eq hx, hr]
  dsimp only
  rw [State.onPart_eq hx]
  cases a <;> rfl

theorem exec_pagerServe_idle (h : r.release ≠ none ∨ r.host ≠ none ∨ x.pagerIn = false ∨ 1024 ≤ i) (a : PagerAct) :
    exec (.pagerServe p i a) s = .next s := by
  rw [exec_pagerServe hx hr, if_pos]
  simp only [Bool.or_eq_true, Bool.not_eq_true', decide_eq_true_eq, Option.isSome_iff_ne_none]
  tauto

variable (hin : x.pagerIn = true) (hi : i < 1024) (hrel : r.release = none) (hhost : r.host = none)
include hin hi hrel hhost

theorem exec_pagerServe_removed (hc : s.context? (recCtx r) = none) (a : PagerAct) :
    exec (.pagerServe p i a) s = .next (s.unqueue p i x) := by
  rw [exec_pagerServe hx hr, if_neg (by simp [hin, hi, hrel, hhost]), if_pos (by simp [hc])]

theorem exec_pagerServe_pending (hc : s.context? (recCtx r) ≠ none) (a : PagerAct) :
    exec (.pagerServe p i a) s = .next (s.served p i r a) := by
  rw [exec_pagerServe hx hr, if_neg (by simp [hin, hi, hrel, hhost]), if_neg (by simpa using hc)]

end

/-- A record posted to the host at once (R303). -/
theorem State.serveHost_now (hwait : x.hreqWait = []) (hroom : x.hreqRoom = true) : s.serveHost p i r [] =
    (s.setPart p { x with faultq := setRec x.faultq i fun r =>
      { r with host := some x.hreqHead.toNat, nodes := [] } }).writeHostReq p 1 r.w0 r.w1 := by
  have hseq : (x.hreqHead + BitVec.ofNat 32 x.hreqWait.length).toNat = x.hreqHead.toNat := by simp [hwait]
  rw [State.serveHost, State.part_eq hx, State.onPart_eq hx, hseq, State.postHost, State.part_setPart, if_pos]
  simp only [hwait, List.isEmpty_nil, Bool.true_and]
  exact hroom

/-! ### A record that is released (R196, R198, R203) -/

section
variable (hr : x.faultq[i]? = some r)
include hr

theorem exec_faultRelease_unserved (h : r.release = none) : exec (.faultRelease p i) s = .next s := by
  show Host.Outcome.next _ = _
  rw [State.part_eq hx, hr]
  dsimp only
  rw [h]

theorem exec_faultRelease {denied : Bool} (h : r.release = some denied) : exec (.faultRelease p i) s = .next
    (if !denied && !s.pageQuiet (recCtx r) r.w0.toNat then s
     else if denied then (s.unqueue p i x).denyHolds r.picks else (s.unqueue p i x).liftHolds r.picks true) := by
  show Host.Outcome.next _ = _
  rw [State.part_eq hx, hr]
  dsimp only
  rw [h]
  dsimp only
  rw [State.onPart_eq hx]
  rfl

end

/-! ### The host's ring (R303) -/

theorem exec_hostRequestPost {w : List W64} {rest : List (List W64)} (hw : x.hreqWait = w :: rest) : exec (.hostRequestPost p) s = .next
    (if x.hreqRoom then (s.setPart p { x with hreqWait := rest }).writeHostReq p (wordAt w 0) (w.getD 1 0) (w.getD 2 0) else s) := by
  show Host.Outcome.next _ = _
  rw [State.part_eq hx, hw]

/-- The answer to the one record of the queue that was posted. -/
theorem exec_hanswer {seq : Nat} {v : BitVec 64} (hq : x.faultq = [r]) (hhost : r.host = some seq) (hrel : r.release = none)
    (hv : fld v.toNat 32 32 = seq) : exec (.hanswer p v) s = .next
    (if x.hreqWait.length ≤ (BitVec.ofNat 32 seq - x.hreqHead).toNat then
       (s.setPart p { x with hframe := none }).answered p 0 r (if v.getLsbD 0 then x.hframe else none)
     else s) := by
  show Host.Outcome.next _ = _
  rw [State.part_eq hx, hv]
  dsimp only
  rw [show (List.range x.faultq.length).find? _ = some 0 by simp [hq, hhost, hrel, List.range_succ]]
  dsimp only
  by_cases hposted : x.hreqWait.length ≤ (BitVec.ofNat 32 seq - x.hreqHead).toNat
  · rw [if_neg (by simpa using hposted), if_pos hposted, hq]
    cases (if v.getLsbD 0 then x.hframe else none) with
    | none => rfl
    | some h =>
      refine congrArg Host.Outcome.next (congrArg (ite _ · _) ?_)
      cases State.mapPage _ p (recCtx r) r.w0.toNat _ (hostLeaf h) <;> rfl
  · rw [if_pos (by simpa using hposted), if_neg hposted]

end
end Sys2Proof.Machine
end

section
/-! SUPPORT. Migration, the poison walker and the eviction engine (R200 to R203, R205, R247, R254, R268, R270): the state in which each
event leaves the machine, by the step that it takes or by what its run of structure accesses comes to. -/
namespace Sys2Proof.Machine

/-! ### Migration (R200 to R203, R205) -/

section
variable {s : State} {p : Nat} {x : Partition} (hx : Tab.find s.partitions p = some x) (hin : x.pagerIn = true)
include hx hin

theorem exec_pageMigration_step {m : Migration} (hm : x.migration = some m) (f : Option Nat) :
    exec (.pageMigration p f) s = .next (s.stepMigration p m) := by
  show Host.Outcome.next _ = _
  rw [State.part_eq hx, if_neg (by simp [hin]), hm]

section
variable {r : W64 × W64} {rest : List (W64 × W64)} (hm : x.migration = none) (hq : x.migq = r :: rest)
include hm hq

theorem exec_pageMigration_none :
    exec (.pageMigration p none) s = .next (if s.noFrameFree p then s.dropMigration p r else s) := by
  show Host.Outcome.next _ = _
  rw [State.part_eq hx, if_neg (by simp [hin]), hm, hq]

theorem exec_pageMigration_some (f : Nat) :
    exec (.pageMigration p (some f)) s = .next (if s.frameFree p f then s.beginMigration p r f else s) := by
  show Host.Outcome.next _ = _
  rw [State.part_eq hx, if_neg (by simp [hin]), hm, hq]

end
end

section
variable {s : State} {p : Nat}

/-- A host leaf is one that a migration may begin on (R200, R201). -/
def movable (old : W64) : Bool := pteValid old && pteLeaf old && pteKind old == .host && !pteMalformed old 2

/-- A record whose page has an entry, begun or ignored (R200, R202). -/
theorem State.beginMigration_at {r : W64 × W64} {f a : Nat} (ha : s.leafAt p (migCtx r) (migPage r) = some a) :
    let old := w64 (s.homeNat p ⟨.device, a⟩ 8)
    s.beginMigration p r f = if movable old then
        ((s.putEntry p a (old ||| 0x100#64)).tlbinv p (migCtx r) (migPage r)).onPart p fun x =>
          { x with migq := x.migq.drop 1, migration := some ⟨migCtx r, migPage r, old, f, 1⟩ }
      else s.ignoreMigration p := by
  intro old
  rw [State.beginMigration, ha]
  rfl

/-- The migration goes on at another step. -/
def State.atStep (s : State) (p : Nat) (m : Migration) (n : Nat) : State :=
  s.onPart p fun x => { x with migration := some { m with step := n } }

section
variable {m : Migration}

theorem State.stepMigration_copy (h : m.step = 1) : s.stepMigration p m = if s.pageQuiet m.ctx m.page then
    (s.homeSync p .device (2 ^ 16 * m.frame) (s.homeBytes p ⟨.host, pteFrame m.old⟩ 65536) 0 false).atStep p m 2 else s := by
  rw [State.stepMigration, h]
  rfl

theorem State.stepMigration_drop (h : m.step = 2) : s.stepMigration p m =
    ((List.range 512).foldl (fun s i => s.invlLine p ⟨.host, pteFrame m.old + 128 * i⟩ []) s).atStep p m 3 := by
  rw [State.stepMigration, h]
  rfl

theorem State.stepMigration_leaf (h : m.step = 3) {a : Nat} (ha : s.leafAt p m.ctx m.page = some a) : s.stepMigration p m =
    ((s.putEntry p a (migratedLeaf m.old m.frame)).tlbinv p m.ctx m.page).atStep p m 4 := by
  rw [State.stepMigration, h]
  dsimp only
  rw [ha]
  rfl

theorem State.stepMigration_counters (h : m.step = 4) : s.stepMigration p m = if s.pageQuiet m.ctx m.page then
    (s.freeCounters p m.ctx (m.page / 2 ^ 16)).atStep p m 5 else s := by
  rw [State.stepMigration, h]
  rfl

theorem State.stepMigration_report {x : Partition} (hx : Tab.find s.partitions p = some x) (h : 5 ≤ m.step) : s.stepMigration p m =
    if x.hreqWait.isEmpty && x.hreqRoom then
      (s.setPart p (Partition.idleFrom { x with migration := none } (s.pagerNow p))).writeHostReq p 2 (w64 (pteFrame m.old)) (w64 m.page)
    else s := by
  rw [State.stepMigration]
  split
  next h1 => omega
  next h2 => omega
  next h3 => omega
  next h4 => omega
  next => rw [State.part_eq hx, State.onPart_eq hx]

end
end

/-! ### The poison walker (R247, R254, R270) -/

/-- A frame whose marking is done: its record is posted (R270). -/
def State.poisonPosted (t : State) (p f : Nat) : State := (t.dropPoison p f).postCoalesced (t.poisonRec p f)

/-- What the walker's run of structure accesses comes to. -/
def State.poisonTried (t : State) (p f c : Nat) : Kv PUnit → State
  | .ok _ r => r.poisonPosted p f
  | .fault _ => t.setPoison p ⟨f, some (t.pagerNow p), none⟩
  | .hold va level access wb =>
    (t.engineHold p c va level access wb).1.setPoison p ⟨f, none, some (t.engineHold p c va level access wb).2⟩

/-- A frame noted as uncorrectable. -/
def State.poisonNoted (s : State) (p f : Nat) : State :=
  State.setPoison { s with poisoned := if s.poisoned.contains f then s.poisoned else f :: s.poisoned } p ⟨f, none, none⟩

section
variable {s t : State} {p f : Nat} {x : Partition}

theorem State.poisonTry_noKv (h : (t.part p).kvcb = 0) : t.poisonTry p f = t.poisonPosted p f := if_pos h

theorem State.poisonTry_noContext (h : (t.part p).kvcb ≠ 0) (hc : t.engineCtx p = none) : t.poisonTry p f = t := by
  rw [State.poisonTry, if_neg h, hc]

theorem State.poisonTry_run {c : Nat} (h : (t.part p).kvcb ≠ 0) (hc : t.engineCtx p = some c) :
    t.poisonTry p f = t.poisonTried p f c ((engineEnv p c).poisonGroup (t.frameIndex p f) t) := by
  rw [State.poisonTry, if_neg h, hc]
  dsimp only
  cases (engineEnv p c).poisonGroup (t.frameIndex p f) t <;> rfl

theorem exec_poisonWalk_foreign (h : s.ownsAddr p (2 ^ 16 * f) = false) : exec (.poisonWalk p f) s = .next s :=
  congrArg _ (if_pos (by rw [h]; rfl))

theorem State.part_setPoison (hx : Tab.find s.partitions p = some x) (e : Poison) :
    (s.setPoison p e).part p = { x with poisons := e :: x.poisons.filter (fun f => f.frame != e.frame) } := by
  rw [State.setPoison, State.onPart_eq hx, State.part_setPart]

theorem State.kvcb_poisonNoted (hx : Tab.find s.partitions p = some x) : ((s.poisonNoted p f).part p).kvcb = x.kvcb := by
  rw [State.poisonNoted, State.part_setPoison (x := x)]
  exact hx

variable (hx : Tab.find s.partitions p = some x) (h : s.ownsAddr p (2 ^ 16 * f) = true)
include hx h

theorem exec_poisonWalk_new (hnew : x.poisons.find? (fun e => e.frame == f) = none) :
    exec (.poisonWalk p f) s = .next ((s.poisonNoted p f).poisonTry p f) := by
  refine congrArg Host.Outcome.next ((if_neg (by rw [h]; decide)).trans ?_)
  rw [State.part_eq hx, hnew]
  rfl

/-- A frame whose marking waits for an access or for its time is left as it is. -/
theorem exec_poisonWalk_waits {e : Poison} (he : x.poisons.find? (fun e => e.frame == f) = some e)
    (hwaits : e.hold ≠ none ∨ (∃ t, e.since = some t ∧ s.pagerNow p < t + 2 ^ 16) ∨ s.mayRepeat (walkerAgent p f) = false) :
    exec (.poisonWalk p f) s = .next s := by
  refine congrArg Host.Outcome.next ((if_neg (by rw [h]; decide)).trans ?_)
  rw [State.part_eq hx, he]
  refine if_pos ?_
  simp only [Bool.or_eq_true, Option.isSome_iff_ne_none, Option.any_eq_true, decide_eq_true_eq, Bool.not_eq_true', or_assoc]
  exact hwaits

end

/-! ### The eviction engine (R254, R268) -/

/-- An engine whose access is withheld: the node and the step that the access is tried again from (R194, R268). -/
def State.evictHeld (t : State) (p node g step : Nat) (r : State × Hold) : State :=
  r.1.setEvicting p (some ⟨node, g, step, t.pagerNow p, some r.2⟩)

/-- What the removal of a claimed node comes to. -/
def State.evictRemoved (t : State) (p c node g : Nat) : Kv PUnit → State
  | .ok _ r => r.setEvicting p none
  | .fault e => (t.setEvicting p (some ⟨node, g, 3, t.pagerNow p, none⟩)).postCoalesced (evictRec p c e)
  | .hold va level access wb => t.evictHeld p node g 4 (t.engineHold p c va level access wb)

/-- What the claim of a node comes to. -/
def State.evictClaimed (t : State) (p c node : Nat) : Kv (Option Nat) → State
  | .ok none r => r.setEvicting p none
  | .ok (some g) r => r.evictRemoved p c node g ((engineEnv p c).remove node g r)
  | .fault e => (t.setEvicting p none).postCoalesced (evictRec p c e)
  | .hold va level access wb => t.evictHeld p node 0 0 (t.engineHold p c va level access wb)

section
variable {s t : State} {p c node g : Nat} {x : Partition}

theorem State.evictRemove_eq : t.evictRemove p c node g = t.evictRemoved p c node g ((engineEnv p c).remove node g t) := by
  rw [State.evictRemove]
  cases (engineEnv p c).remove node g t <;> rfl

theorem State.evictTry_eq : t.evictTry p c node = t.evictClaimed p c node ((engineEnv p c).claim node t) := by
  rw [State.evictTry]
  cases (engineEnv p c).claim node t with
  | ok g r =>
    cases g with
    | none => rfl
    | some g => exact State.evictRemove_eq
  | fault e => rfl
  | hold va level access wb => rfl

/-- Nothing is claimed while GCOUNT is not below LOWMARK (R268). -/
theorem KvEnv.claim_enough {e : KvEnv} {mark : Nat} (h : e.cbq 8 s = .ok mark t) (hm : mark / 2 ^ 32 % 2 ^ 32 ≤ mark % 2 ^ 32) :
    e.claim node s = .ok none t := by
  rw [KvEnv.claim, KvM.bind, h]
  dsimp only
  rw [fld_eq, fld_eq, pow_zero, Nat.div_one, if_pos hm]
  rfl

variable (hx : Tab.find s.partitions p = some x) (hc : s.engineCtx p = some c)
include hx hc

theorem exec_evictionTry : exec (.evictionTry p node) s = .next
    (if x.evicting.isNone && x.kvcb != 0 then s.evictClaimed p c node ((engineEnv p c).claim node s) else s) := by
  show Host.Outcome.next _ = _
  rw [hc]
  dsimp only
  rw [State.part_eq hx, State.evictTry_eq]

theorem exec_evictionRetry {e : Evicting} (he : x.evicting = some e) {r : State} (hr : r = s.repeated (engineAgent p)) :
    exec (.evictionRetry p) s = .next
      (if e.hold.isSome || !s.mayRepeat (engineAgent p) then s
       else if e.step = 0 then r.evictClaimed p c e.node ((engineEnv p c).claim e.node r)
       else if e.step = 4 || decide (e.since + 2 ^ 16 ≤ r.pagerNow p) then
         r.evictRemoved p c e.node e.group ((engineEnv p c).remove e.node e.group r)
       else r) := by
  subst hr
  show Host.Outcome.next _ = _
  rw [hc, State.part_eq hx, he]
  dsimp only
  rw [State.evictTry_eq, State.evictRemove_eq]

end
end Sys2Proof.Machine

namespace Sys2Proof
open Machine

/-- Settles O57: each event by the record that it finds, the step that it takes, or what its run of structure accesses comes to. -/
theorem pagerEvents : Obligations.PagerEvents := by
  refine ⟨?_, ?_, ?_⟩
  · intro s p x hx now
    refine ⟨fun hout hq => ?_, fun h => ?_, fun hin hf hm hmig hidle => ?_, fun h => ?_, fun i r hr => ?_, fun w rest hw => ?_,
      fun r seq v hq hhost hrel hv => ?_, fun n used f hf =>
        ⟨s.clearOf_spareFrames p n used hf, s.nodup_spareFrames p n used, s.length_spareFrames p n used⟩⟩
    · rw [exec_pagerSwapIn hx, if_pos]
      simpa [hout, ← not_and_or] using hq
    · rw [exec_pagerSwapIn hx, if_neg]
      obtain hin | ⟨hf, hm⟩ := h
      · simp [hin]
      · simp [hf, hm]
    · rw [exec_pagerSwapOut hx, if_pos]
      simpa only [hin, hf, hm, hmig, List.isEmpty_nil, Option.isNone_none, Bool.true_and, decide_eq_true_eq] using hidle
    · rw [exec_pagerSwapOut hx, if_neg]
      simp only [Bool.and_eq_true, List.isEmpty_iff, Option.isNone_iff_eq_none, decide_eq_true_eq]
      rintro ⟨⟨⟨⟨-, hf⟩, hm⟩, hmig⟩, hidle⟩
      rcases h with h | h | h | h
      · exact h hf
      · exact h hm
      · exact h hmig
      · exact absurd hidle (not_le.2 h)
    · intro dropped
      refine ⟨fun hin hi hrel hhost hc => ?_, exec_pagerServe_removed hx hr, exec_pagerServe_idle hx hr, fun hrel => ?_, fun hrel => ?_,
        exec_faultRelease_unserved hx hr⟩
      · have hserve := exec_pagerServe_pending hx hr hin hi hrel hhost hc
        refine ⟨fun f nodes hmap => ⟨_, hserve _, ?_⟩, fun f nodes hmap => ?_, ⟨_, hserve _, State.faultq_release hx _ hr⟩,
          fun hwait hroom => ?_⟩
        · rw [State.served, State.serveMap_mapped hmap]
          exact State.faultq_release hx _ hr
        · intro made
          refine ⟨fun hfree => ?_, fun hfree => ⟨fun t ht => ?_, fun ht => ?_⟩⟩
          · rw [hserve, State.served, State.serveMap_inUse hmap hfree]
          · rw [hserve, State.served, State.serveMap_free hmap hfree]
            exact congrArg (fun o => Host.Outcome.next (Option.elim o _ _)) ht
          · rw [hserve, State.served, State.serveMap_free hmap hfree]
            exact congrArg (fun o => Host.Outcome.next (Option.elim o _ _)) ht
        · rw [hserve, State.served, if_pos (by simp [State.framesFree]), State.serveHost_now hx hwait hroom]
      · rw [exec_faultRelease hx hr hrel]
        rfl
      · refine ⟨fun hq => ?_, fun hq => ?_⟩
        · rw [exec_faultRelease hx hr hrel, if_neg (by simp [hq])]
          rfl
        · rw [exec_faultRelease hx hr hrel, if_pos (by simp [hq])]
    · refine ⟨fun hroom => ?_, fun hroom => ?_⟩
      · rw [exec_hostRequestPost hx hw, if_pos hroom]
      · rw [exec_hostRequestPost hx hw, if_neg (ne_true_of_eq_false hroom)]
    · intro waits plain
      have hans := exec_hanswer hx hq hhost hrel hv
      have hplain : Tab.find plain.partitions p = some { x with hframe := none } := Tab.find_put_self _ _ _
      refine ⟨fun hlt => ?_, fun hle => ?_⟩
      · rw [hans, if_neg (not_le.2 hlt)]
      rw [if_pos hle] at hans
      refine ⟨fun hno => ⟨plain.release p 0 true, ?_, ?_⟩, fun h hbit hframe hok => ?_⟩
      · rw [hans]
        refine congrArg Host.Outcome.next ?_
        obtain hbit | hframe | ⟨h, hframe, hbad⟩ := hno
        · rw [if_neg (ne_true_of_eq_false hbit)]
          rfl
        · rw [hframe, ite_self]
          rfl
        · rw [hframe]
          cases v.getLsbD 0
          · rfl
          · exact if_neg (ne_true_of_eq_false hbad)
      · rw [State.release_eq hplain, State.part_setPart]
        exact ⟨by rw [hq]; rfl, rfl⟩
      · rw [if_pos hbit, hframe, State.answered, if_pos hok] at hans
        intro made
        refine ⟨fun t ht => hans.trans ?_, fun ht => hans.trans ?_⟩
        · exact congrArg (fun o => Host.Outcome.next (Option.elim o _ _)) ht
        · exact congrArg (fun o => Host.Outcome.next (Option.elim o _ _)) ht
  · intro s p x hx hin
    refine ⟨fun r rest hm hq => ?_, fun m hm => ?_⟩
    · have hnone := exec_pageMigration_none hx hin hm hq
      have hsome := exec_pageMigration_some hx hin hm hq
      refine ⟨fun h => hnone.trans (congrArg _ (if_pos h)), fun h => hnone.trans (congrArg _ (if_neg (ne_true_of_eq_false h))),
        fun f h => (hsome f).trans (congrArg _ (if_neg (ne_true_of_eq_false h))), fun f a old hf ha hold => ?_⟩
      have hbegin := (hsome f).trans (congrArg _ ((if_pos hf).trans (State.beginMigration_at ha)))
      rw [← hold] at hbegin
      refine ⟨fun hvalid hleaf hkind hwell => hbegin.trans (congrArg _ (if_pos ?_)),
        fun hno => hbegin.trans (congrArg _ (if_neg ?_))⟩
      · simp [movable, hvalid, hleaf, hkind, hwell]
      · obtain hno | hno := hno <;> simp [movable, hno]
    · intro at_
      have hstep := exec_pageMigration_step hx hin hm none
      refine ⟨fun h hq => ?_, fun h hq => ?_, fun h => ?_, fun a h ha => ?_, fun h hq => ?_, fun h hno => ?_, fun h hwait hroom => ?_⟩
      · obtain h | h := h
        · rw [hstep, State.stepMigration_copy h, if_neg (ne_true_of_eq_false hq)]
        · rw [hstep, State.stepMigration_counters h, if_neg (ne_true_of_eq_false hq)]
      · rw [hstep, State.stepMigration_copy h, if_pos hq]
        rfl
      · rw [hstep, State.stepMigration_drop h]
        rfl
      · rw [hstep, State.stepMigration_leaf h ha]
        rfl
      · rw [hstep, State.stepMigration_counters h, if_pos hq]
        rfl
      · rw [hstep, State.stepMigration_report hx h, if_neg]
        obtain hno | hno := hno <;> simp [hno]
      · rw [hstep, State.stepMigration_report hx h, if_pos (by simp [hwait, hroom])]
  · intro s p x hx
    refine ⟨fun f hf => exec_poisonWalk_foreign hf, fun f hf hnew => ?_, fun f e hf he => exec_poisonWalk_waits hx hf he,
      fun c node hc => ?_⟩
    · intro t posted
      have hnoted := exec_poisonWalk_new hx hf hnew
      have hkv : (t.part p).kvcb = x.kvcb := State.kvcb_poisonNoted hx
      refine ⟨fun hzero => hnoted.trans (congrArg _ (State.poisonTry_noKv (hkv.trans hzero))),
        fun hkvcb hc => hnoted.trans (congrArg _ (State.poisonTry_noContext (hkv ▸ hkvcb) hc)), fun c hkvcb hc => ?_⟩
      intro marks
      have hrun : exec (.poisonWalk p f) s = .next (t.poisonTried p f c marks) :=
        hnoted.trans (congrArg _ (State.poisonTry_run (hkv ▸ hkvcb) hc))
      refine ⟨fun t' h => ?_, fun e h => ?_, fun va l a wb h => ?_⟩ <;> rw [hrun, h] <;> rfl
    · intro claims holds
      have htry := exec_evictionTry (node := node) hx hc
      refine ⟨fun hidle hkv => ?_, fun h => ?_, fun e he => ?_⟩
      · replace htry : exec (.evictionTry p node) s = .next (s.evictClaimed p c node claims) := by
          rw [htry, if_pos (by simpa [hidle] using hkv)]
        refine ⟨fun mark t hmark hle => ?_, fun va l a wb h => ?_, fun t h => ?_, fun t g h => ?_, fun e h => ?_⟩
        · rw [htry, show claims = _ from KvEnv.claim_enough hmark hle]
          rfl
        · rw [htry, h]
          rfl
        · rw [htry, h]
          rfl
        · have hremove : exec (.evictionTry p node) s = .next (t.evictRemoved p c node g ((engineEnv p c).remove node g t)) := by
            rw [htry, h]
            rfl
          refine ⟨fun t' h => ?_, fun e h => ?_, fun va l a wb h => ?_⟩ <;> rw [hremove, h] <;> rfl
        · rw [htry, h]
          rfl
      · rw [htry, if_neg]
        obtain h | h := h <;> simp [h]
      · intro r
        have hretry := exec_evictionRetry hx hc he (rfl : r = _)
        refine ⟨fun hhold => ?_, fun hhold hmay hstep => ?_, fun hhold hmay hstep t h => ?_⟩
        · rw [hretry, if_pos (by simp [Option.isSome_iff_ne_none, hhold])]
        all_goals rw [if_neg (by simp [hhold, hmay]), hstep] at hretry
        · refine ⟨fun hdue t h => ?_, fun hearly => ?_⟩
          · rw [hretry, if_neg (by decide), if_pos (by simpa using hdue), h]
            rfl
          · rw [hretry, if_neg (by decide), if_neg (by simpa using hearly)]
        · rw [hretry, if_pos rfl, h]
          rfl

end Sys2Proof
end
